-- ==== Sys2Proof/Word.lean ====
section
/-! DEFINITION. The word types of the OMK-9600 (09_encoding_and_assembly.md, R161): scalars of 64 bits, vectors of
4,096 bits, lane masks and handles of 128 bits, FP32 bit patterns, bytes; and the index types of the package's
cogs, banks and chain ports (00_scope.md, R2, R3, R5). -/

namespace Sys2Proof

/-- A scalar register's content, an address, a CSR (R161). -/
abbrev Word := BitVec 64
/-- A vector register's content: 4,096 bits, lane 0 least significant (R53, R161). -/
abbrev Vec := BitVec 4096
/-- A lane mask: bit n governs lane n (R161). -/
abbrev Mask := BitVec 128
/-- The bits of an fp32 value (R54). -/
abbrev F32 := BitVec 32
/-- One byte of memory. -/
abbrev Byte := BitVec 8

/-- A cog id, 0..319 (R3). -/
abbrev CogIx := Fin 320
/-- A context bank of the package: bank n of cog c is number 2c + n (R5). -/
abbrev BankIx := Fin 640
/-- A chain port, 0..31 (R2). -/
abbrev ChainPort := Fin 32
/-- A link of a chain port, 0..3 (R368). -/
abbrev LinkIx := Fin 4

/-- The cog of a bank. -/
def BankIx.cog (b : BankIx) : CogIx := ⟨b.val / 2, by omega⟩
/-- The bank number, 0 or 1, within its cog. -/
def BankIx.num (b : BankIx) : Nat := b.val % 2
/-- Bank n of a cog. -/
def CogIx.bank (c : CogIx) (n : Bool) : BankIx := ⟨2 * c.val + n.toNat, by cases n <;> simp [Bool.toNat] <;> omega⟩
/-- The cog's other bank. -/
def BankIx.other (b : BankIx) : BankIx := CogIx.bank b.cog (b.num = 0)

/-- The bit b of a natural number as a Bool. -/
def natBit (n b : Nat) : Bool := n.testBit b

end Sys2Proof
end

