-- ==== Sys2Proof/Config.lean ====
section
/-! DEFINITION. What the manual leaves open: free values, uninterpreted so that no proof can lean on a number
(notes/assumptions/1.md), and the external standards the manual names without giving their algorithms. -/

namespace Sys2Proof.Config

/-- A duration the manual calls not architectural, in core cycles (R99, R103, R105, R246, R294), free per draw. -/
opaque freeDelay : Nat → Nat
/-- A choice the manual leaves to the device, free per draw. -/
opaque freeNat : Nat → Nat
/-- A 64-bit value the manual leaves undefined, free per draw. -/
opaque freeWord : Nat → Word
/-- A byte the manual leaves undefined, free per draw and position. -/
opaque freeByte : Nat → Nat → Byte
/-- A yes-or-no choice the manual leaves to the device, free per draw. -/
opaque freeBool : Nat → Bool

/-- The cause that TCAUSE.SUB holds when an access to the host is refused (R390). -/
opaque hostCause : BitVec 8
/-- The flits that a chain port's receive buffer holds for a virtual channel (R371). -/
opaque linkBuffer : Nat → BitVec 16

/-- Ed25519 verification (RFC 8032): public key, message, signature (R387, R397). The manual names the standard only. -/
opaque ed25519Verify : List Byte → List Byte → List Byte → Bool
/-- ML-DSA-65 verification (FIPS 204, empty context): public key, message, signature (R387, R397). -/
opaque mlDsaVerify : List Byte → List Byte → List Byte → Bool
/-- Ed25519 signature under the fused identity key (R398, R400): 64 bytes, of the message given. -/
opaque ed25519Sign : List Byte → List Byte
/-- ML-DSA-65 signature under the fused identity key (R398, R400): 3,309 bytes, of the message given. -/
opaque mlDsaSign : List Byte → List Byte
/-- The two certificates Zostan signed at manufacture (R398), as the ATTEST response carries them. -/
opaque identityCerts : List Byte
/-- Zostan's two firmware public keys as the boot ROM has them, and the digest of them that the fuses hold (R397). -/
opaque firmwareKeys : List Byte × List Byte
opaque keyDigest : List Byte
/-- The silicon revision, DEVID.REV (R391). -/
opaque siliconRev : BitVec 16

end Sys2Proof.Config
end

