-- ==== Sys2Proof/Syntax.lean ====
section
/-! DEFINITION. The syntax of the OMK-9600: operand types, the messages its events carry, and Instr, one constructor
per row of the opcode table. Sections: operands (R159 to R162), events' data (R133 to R403), Instr, syllables (R149). -/

namespace Sys2Proof

/-! ## Operands -/

/-- A scalar operand of class A: s0 to s63, or a carry scalar c0 to c31 (R187). -/
inductive SOp where
  | s (n : Fin 64)
  | c (n : Fin 32)
deriving DecidableEq, Repr

/-- s0 to s63 as named, before rotation (R161). -/
abbrev SReg := Fin 64
/-- p0 to p127 (R161). -/
abbrev PReg := Fin 128
/-- v0 to v63 (R161). -/
abbrev VReg := Fin 64
/-- q0 to q15 (R161). -/
abbrev QReg := Fin 16
/-- k0 to k15 (R161). -/
abbrev KReg := Fin 16
/-- g0 to g15 (R161). -/
abbrev GReg := Fin 16
/-- h0 to h3 (R161). -/
abbrev HReg := Fin 4
/-- t0 to t3 (R161). -/
abbrev TReg := Fin 4
/-- A lane mask operand: none is qe = 0, every lane active (R159, R259). -/
abbrev VMask := Option QReg

/-- A vector operand of VMOV: v0 to v63 or a carry vector cv0 to cv7 (R282). -/
inductive VOp where
  | v (n : Fin 64)
  | cv (n : Fin 8)
deriving DecidableEq, Repr

/-- The element formats of R52, by their type codes 0x0 to 0x9. -/
inductive EType where
  | raw | fp32 | bf16 | fp8e4 | fp8e5 | mxfp4 | int8 | uint8 | int32 | int64
deriving DecidableEq, Repr

/-- The rounding field of R59. -/
inductive RMode where
  | rne | rtz | rdn | rup
deriving DecidableEq, Repr

/-- The conditions of CMP (R198). -/
inductive Cond where
  | eq | ne | lt | ge | le | gt | ltu | geu | leu | gtu | tst | tstz
deriving DecidableEq, Repr

/-- The conditions of VCMP (R268). -/
inductive VCond where
  | eq | ne | lt | le | gt | ge | un | ord
deriving DecidableEq, Repr

/-- The scopes of R116, codes 0x0 to 0x8. -/
inductive Scope where
  | bank | cog | row | die | package | hop | segment | chain | system
deriving DecidableEq, Repr

/-- The access sizes of R160. -/
inductive Size where
  | b8 | b16 | b32 | b64 | b128
deriving DecidableEq, Repr

/-- The ordering form of a load or store (R214): plain, acquire (loads) or release (stores). -/
inductive MOrd where
  | plain | acq | rel
deriving DecidableEq, Repr

/-- The ordering form of an atomic (R228). -/
inductive AOrd where
  | plain | acq | rel | ar
deriving DecidableEq, Repr

/-- The fence kinds of R125. -/
inductive FenceKind where
  | full | acq | rel | ss
deriving DecidableEq, Repr

/-- A port field (R160): i0 to i7 or o0 to o7. -/
inductive Port where
  | i (n : Fin 8)
  | o (n : Fin 8)
deriving DecidableEq, Repr

/-- A tile direction (R160, R162). -/
inductive Dir where
  | row | col | dia | adi
deriving DecidableEq, Repr

/-- The block geometries of R97. -/
inductive Geo where
  | plain | mx | tiles | segments
deriving DecidableEq, Repr

/-- The mode of MOVI (R197). -/
inductive MoviMode where
  | sext | zext | hi
deriving DecidableEq, Repr

/-- The forms of PMOV (R201). -/
inductive PmovForm where
  | pp (d a : PReg)
  | sp (d : SOp) (a : PReg)
  | ps (d : PReg) (a : SOp)
deriving DecidableEq, Repr

/-- The widths of SEXT and ZEXT (R202). -/
inductive ExtW where
  | w8 | w16 | w32
deriving DecidableEq, Repr

/-- The amount of a vector shift (R267): a vector's elements or an immediate. -/
inductive ShAmt where
  | reg (b : VReg)
  | imm (k : Fin 64)
deriving DecidableEq, Repr

/-- The destination of VCMP (R268). -/
inductive VcmpDst where
  | q (n : QReg)
  | v (n : VReg)
deriving DecidableEq, Repr

/-- The selector of VSEL (R270). -/
inductive VselSrc where
  | q (n : QReg)
  | bit (c : VReg)
deriving DecidableEq, Repr

/-- The forms of QMOV (R272). -/
inductive QmovForm where
  | qq (d a : QReg)
  | qv (d : QReg) (a : VReg)
  | vq (d : VReg) (a : QReg)
  | msb (d : QReg) (a : VReg)
  | cnt (d : SReg) (a : QReg)
  | first (d : SReg) (a : QReg)
  | set (d : QReg) (a b : SReg)
  | lo (d : SReg) (a : QReg)
  | hi (d : SReg) (a : QReg)
deriving DecidableEq, Repr

/-- The operation of VSCAN (R278). -/
inductive ScanOp where
  | sum | max | min
deriving DecidableEq, Repr

/-- The address of a vector memory instruction (R284): an iterator's, with .ADV or not, or a scalar. -/
inductive VAddr where
  | it (g : GReg) (adv : Bool)
  | s (n : SReg)
deriving DecidableEq, Repr

/-- The forms of MCHK (R312). -/
inductive MchkForm where
  | lo (t : TReg)
  | hi (t : TReg)
  | buf
deriving DecidableEq, Repr

/-- The multiplier of TSCALE (R309). -/
inductive TscaleSrc where
  | v (n : VReg)
  | k (n : KReg)
deriving DecidableEq, Repr

/-- The forms of KSET (R311). -/
inductive KsetForm where
  | one (k : KReg) (a : SReg)
  | vec (a : VReg)
deriving DecidableEq, Repr

/-- The destination of GS.LOAD (R236). -/
inductive GsLoadDst where
  | s64 (d : SReg)
  | s128 (d : SReg)
  | v (d : VReg)
deriving DecidableEq, Repr

/-- The forms of ITSET (R241). -/
inductive ItsetForm where
  | base (g : GReg) (a : SReg)
  | lin (g : GReg) (a : SReg)
  | dim (g : GReg) (a : SReg) (e : Fin 4)
  | copy (g a : GReg)
deriving DecidableEq, Repr

/-- The forms of ITRD (R243). -/
inductive ItrdForm where
  | addr | lin | idx (e : Fin 4) | base
deriving DecidableEq, Repr

/-- The forms of RING.PEEK (R221). -/
inductive PeekForm where
  | h0 | h1 | len
deriving DecidableEq, Repr

/-- The forms of TLB.INV with their operands (R255). -/
inductive TlbInvForm where
  | all
  | asid (a : SReg)
  | va (a b : SReg)
  | vaany (b : SReg)
deriving DecidableEq, Repr

/-! ## What events carry -/

/-- An ordering class (R87, R94, R119). -/
inductive OrdClass where
  | strong | release | unordered
deriving DecidableEq, Repr

/-- How the bytes of a run are held: as stored, in a groupset page's slots (R135), or packed (R101). -/
inductive View where
  | plain | groupset | packed
deriving DecidableEq, Repr

/-- A run of bytes at one place: a package's physical address (cog * 2^26 + memory * 2^25 + offset), or a host
address, with its page's or window's class and view. -/
structure Seg where
  pkg  : Nat
  host : Bool
  addr : Nat
  len  : Nat
  cls  : OrdClass
  view : View
deriving DecidableEq, Repr

/-- A groupset handle (R134). -/
structure Handle where
  v     : Bool
  snap  : Bool
  asid  : BitVec 12
  name  : BitVec 16
  home  : BitVec 12
  pcnt  : BitVec 12
  epoch : BitVec 40
deriving DecidableEq, Repr

/-- The operations of the atomics (R229). -/
inductive AtomicOp where
  | add | swap | cas | and | or | xor | min (u : Bool) | max (u : Bool) | fadd
deriving DecidableEq, Repr

/-- What a global access does at its memory (R226 to R237). -/
inductive GOp where
  | load (segs : List Seg)
  | store (segs : List Seg) (data : List Byte) (poison : List Bool)
  | atomic (seg : Seg) (op : AtomicOp) (a b : Word)
  | gsStore (seg : Seg) (data : List Byte) (h : Handle) (psn : Bool)
  | gsLoad (segs : List Seg) (h : Handle)
  | gsRevert (seg : Seg) (h : Handle)
  /-- Whether a load of these places would meet poison, or words that a write in progress writes, asked before its bundle
  takes effect (R104, R107, R112). -/
  | probe (segs : List Seg)
  /-- For each line of a place, whether a groupset store under the handle would give it a new version (R139, R140). -/
  | gsProbe (seg : Seg) (h : Handle)
  /-- Bytes that were read before the bundle took effect, and whether a version was lost (Bank.pre). -/
  | given (data : List Byte) (lost : Bool)
deriving DecidableEq, Repr

/-- A global request packet (R374, KIND 0x2): the requester's tag and package, and the operation. -/
structure GReq where
  id  : Nat
  src : Nat
  op  : GOp
  /-- A copy write's window entry has RING, or the write is none of a copy (R89). -/
  ring : Bool := true
  /-- The program or global virtual address of the access, for a memory error record (R115). -/
  addr : Word := 0
deriving DecidableEq, Repr

/-- A global response packet (R374, KIND 0x3): the tag, the bytes read, whether a poisoned line was read, and
whether a groupset version was lost. -/
structure GResp where
  id   : Nat
  data : List Byte
  psn  : Bool
  lost : Bool
  /-- The write was refused: it touches a ring slot without RING (R89). -/
  bad  : Bool := false
deriving DecidableEq, Repr

/-- Who takes part in a groupset (R138): a bank of a package, a package's loop sequencer, or a hub (R338). -/
inductive Party where
  | bank (pkg : Nat) (b : Nat)
  | sequencer (pkg : Nat)
  | hub (pkg : Nat)
deriving DecidableEq, Repr

/-- A message to a groupset's home (R138 to R147). -/
structure GsMsg where
  id    : Nat
  party : Party
  asid  : BitVec 12
  name  : BitVec 16
  count : Nat
  epoch : Nat
deriving DecidableEq, Repr

/-- A home's answer (R138 to R147): the status, the epoch of an open or snap, the state word of GS.STAT. -/
structure GsAns where
  id     : Nat
  status : Nat
  epoch  : Nat
  word   : Word
deriving DecidableEq, Repr

/-- A seal record (R133); the participants that joined, for the check of R138. -/
structure SealRec where
  asid     : BitVec 12
  name     : BitVec 16
  sealed   : Nat
  next     : Nat
  open_    : Option Nat
  pcnt     : Nat
  joined   : List Party
  sealcnt  : Nat
  aborting : Bool
  /-- Packages that have not yet reverted the epoch being aborted, and who asked. -/
  awaiting : List Nat
  asker    : Option GsMsg
  /-- The outcome of each closed epoch within the history: aborted or not. -/
  history  : List (Nat × Bool)
deriving DecidableEq, Repr

/-- Which party a hub's answer to a fault goes to (R103, R110). -/
inductive FaultParty where
  | bank (b : BankIx)
  | copy (id : Nat)
deriving DecidableEq, Repr

/-- A write fault forwarded to OWNER's hub, or held there (R99): who faulted, the ASID and the global offset. -/
structure CollapseReq where
  src   : Nat
  party : FaultParty
  asid  : BitVec 12
  goff  : BitVec 52
deriving DecidableEq, Repr

/-- What reaches a consumer's ring (R34, R374): the count of a commit on this package's own fabric, or one stream
packet from another package. -/
inductive StreamMsg where
  | localCommit (b : BankIx) (port : Fin 8) (count : Nat)
  | packet (w0 w1 : Word) (payload : List Byte)
deriving DecidableEq, Repr

/-- The unit a recovery moves (R341): a package, or one of its cogs. -/
structure FailedUnit where
  pkg : Nat
  cog : Option Nat
deriving DecidableEq, Repr

/-- What the messages between hubs say (R99, R142, R337, R341, R343, R344, R401). -/
inductive HubMsg where
  | writeFault (r : CollapseReq)
  | collapseAnswer (party : FaultParty) (refused : Bool)
  | entryUpdate (asid : BitVec 12) (goff : BitVec 52) (w0 w1 : Word)
  | revert (asid : BitVec 12) (name : BitVec 16) (epoch : Nat)
  | revertDone (src : Nat) (asid : BitVec 12) (name : BitVec 16) (epoch : Nat)
  | mirror (src : Nat) (r : SealRec)
  | mirrorAck (asid : BitVec 12) (name : BitVec 16)
  | entryAck (src : Nat) (asid : BitVec 12) (goff : BitVec 52)
  | resendImage (src : Nat)
  | freewheel (limit : Nat)
  | freewheelReady (src : Nat)
  | freewheelGo
  /-- A port to a neighbour is dead, with the count of ports to it that are not (R341). -/
  | portDead (src peer left : Nat)
  | report (src : Nat) (x : FailedUnit)
  | poll (src : Nat)
  | pollAnswer (src : Nat)
  /-- A package has been declared failed: epochs with a participant on it are aborted (R148). -/
  | failed (pkg : Nat)
  | recover (x : FailedUnit)
  /-- B, and the names of the steps that are not injected yet, whose epochs stay open (R344). -/
  | recoverFrom (x : FailedUnit) (b : Nat) (keep : List (BitVec 12 × BitVec 16))
  | edge (stage : BitVec 32) (port : Fin 16) (cum freed : BitVec 16) (slot : Nat)
  | lostAsid (asid : Nat)
  | recovered (src : Nat)
  | freewheelFail
  | holdInjection (src : Nat) (hold : Bool)
  | resumeAll
  | arena (src : Nat) (goff : BitVec 52) (size : Nat) (attr : Word)
  /-- A hub's answer to ARENAS: 0, or the STATUS it finds (R392). -/
  | arenaAnswer (src : Nat) (status : Nat)
  | enter (asid : Nat)
  | retire (asid : Nat)
  | timeRoot (src : Nat) (root : Bool)
  /-- An epoch has committed at its home (R140; notes/assumptions/28.md). -/
  | epochClosed (asid : BitVec 12) (name : BitVec 16) (epoch : Nat)
  /-- From the package's own management domain: a message of type 0x7E with a command for the management mailbox, and the
  power-cap effecter (R395, R396). -/
  | command (opc : Nat) (buf : List Byte)
  | capEffecter (watts : Nat)
  /-- From the package's own hub: a page is to move to host memory at an address, or back to device memory (R102). -/
  | migrate (asid : BitVec 12) (goff : BitVec 52) (host : Option Nat)
  /-- From the package's own hub, which makes them again while a region they touch is not active (R113): tokens for a part
  of the history arena, from a position on (R353); steps 3 to 5 of a recovery (R344); the bytes of a granule that comes
  from the host (R102). -/
  | history (part pos : Nat) (toks : List Nat)
  | moveUnit (x : FailedUnit)
  | pageIn (asid : BitVec 12) (granule : Nat) (data : List Byte)
  /-- Every hub can have the arena: it is noted, and mapped for the ASIDs admitted already (R392). -/
  | arenaSet (src : Nat) (goff : BitVec 52) (size : Nat) (attr : Word)
  /-- Bits of the SEC-DED codeword that holds an address go wrong, as the world may have them (R111). -/
  | upset (addr bits : Nat)
deriving DecidableEq, Repr

/-- The part of an IEEE 1588 exchange that reaches a time root (R382). Times are in 1/256 cycle. -/
inductive PtpMsg where
  | sync (twoStep : Bool) (t1 : Nat)
  | followUp (t1 : Nat)
  | delayResp (t4 : Nat)
deriving DecidableEq, Repr

/-- The mailboxes that issue hub commands (R392, R395). -/
inductive MBox where
  | host | mgmt
deriving DecidableEq, Repr

/-- What the management domain reads: the PLDM sensors of R395, each with the reading that it has outside the machine, and
the hub's fault buffer (R396). -/
inductive Sensor where
  | power (reading : Nat) | inlet (reading : Nat) | die (n : Fin 4) (reading : Nat)
  | faultBuffer
deriving DecidableEq, Repr

/-- The readings the power and thermal control acts on (R401): mean watts over 10 ms, the four die temperatures in
degrees, and whether all have been below their limits for 10 ms. -/
structure PowerReading where
  watts : Nat
  dies  : List Nat
  calm  : Bool
deriving DecidableEq, Repr

/-- A firmware slot's content (R397). -/
structure Firmware where
  image   : List Byte
  version : Nat
  edsig   : List Byte
  mlsig   : List Byte
deriving DecidableEq, Repr

/-- A PCIe completion (R124, R390): failed or not, and the bytes it carries. -/
structure PcieCompletion where
  id   : Nat
  ok   : Bool
  data : List Byte
deriving DecidableEq, Repr

/-- The port that link training finds at the other end of a link: its package, and its number there (R376, R403). -/
structure FarPort where
  pkg  : Nat
  port : ChainPort
deriving DecidableEq, Repr

/-! ## Instructions and events -/

/-- One constructor per row of the opcode table: the instructions of the six unit classes (R168 to R173), then the
package's own steps. -/
inductive Instr where
  -- class A (R187 to R202)
  | add (d a b : SOp)
  | addImm (d a : SOp) (imm : BitVec 24)
  | sub (d a b : SOp)
  | mul (d a b : SOp)
  | mulImm (d a : SOp) (imm : BitVec 24)
  | mulh (u : Bool) (d a b : SOp)
  | div (u : Bool) (d a b : SOp)
  | rem (u : Bool) (d a b : SOp)
  | and (d a b : SOp)
  | andImm (d a : SOp) (imm : BitVec 24)
  | or (d a b : SOp)
  | orImm (d a : SOp) (imm : BitVec 24)
  | xor (d a b : SOp)
  | xorImm (d a : SOp) (imm : BitVec 24)
  | andn (d a b : SOp)
  | shl (d a b : SOp)
  | shlImm (d a : SOp) (k : BitVec 6)
  | shr (d a b : SOp)
  | shrImm (d a : SOp) (k : BitVec 6)
  | sar (d a b : SOp)
  | sarImm (d a : SOp) (k : BitVec 6)
  | rol (d a b : SOp)
  | ror (d a b : SOp)
  | rorImm (d a : SOp) (k : BitVec 6)
  | addc (d : SOp) (pe : PReg) (a b : SOp) (pc : PReg)
  | subb (d : SOp) (pe : PReg) (a b : SOp) (pc : PReg)
  | min (u : Bool) (d a b : SOp)
  | minImm (u : Bool) (d a : SOp) (imm : BitVec 24)
  | max (u : Bool) (d a b : SOp)
  | maxImm (u : Bool) (d a : SOp) (imm : BitVec 24)
  | abs (d a : SOp)
  | clz (d a : SOp)
  | ctz (d a : SOp)
  | popc (d a : SOp)
  | bswap (d a : SOp)
  | brev (d a : SOp)
  | clmul (h : Bool) (d a b : SOp)
  | bmatch (ne : Bool) (d a b : SOp)
  | bfx (sgn : Bool) (d a b c : SOp)
  | bfxImm (sgn : Bool) (d a : SOp) (pos : BitVec 6) (w : BitVec 7)
  | bfi (d a b c : SOp)
  | bfiImm (d a : SOp) (pos : BitVec 6) (w : BitVec 7)
  | sext (w : ExtW) (d a : SOp)
  | zext (w : ExtW) (d a : SOp)
  | cmp (cond : Cond) (pd pe : PReg) (a b : SOp)
  | cmpImm (cond : Cond) (pd : PReg) (a : SOp) (imm : BitVec 24)
  | sel (d : SOp) (pc : PReg) (a b : SOp)
  | plog (tt : BitVec 4) (d a b : PReg)
  | pmov (form : PmovForm)
  | movi (mode : MoviMode) (d : SOp) (imm : BitVec 32)
  -- class B (R203 to R213)
  | nop (n : BitVec 16)
  | br (disp : BitVec 32)
  | jr (a : SReg)
  | call (d : SReg) (disp : BitVec 32)
  | callr (d a : SReg)
  | ret (a : SReg)
  | loop (a : SReg) (rs rv rp : Bool) (disp : BitVec 32)
  | stageEnd
  | trap (n : BitVec 16)
  | waitTime (a : SReg) (disp : BitVec 32)
  | sleepUntil (a : SReg) (disp : BitVec 32)
  | timeRead (d : SReg)
  -- class V (R257 to R283)
  | vadd (t : EType) (rm : RMode) (sat : Bool) (d a b : VReg) (m : VMask)
  | vsub (t : EType) (rm : RMode) (sat : Bool) (d a b : VReg) (m : VMask)
  | vmul (t : EType) (rm : RMode) (sat : Bool) (d a b : VReg) (m : VMask)
  | vfma (t : EType) (rm : RMode) (d a b c : VReg) (m : VMask)
  | vfms (t : EType) (rm : RMode) (d a b c : VReg) (m : VMask)
  | vfnma (t : EType) (rm : RMode) (d a b c : VReg) (m : VMask)
  | vfnms (t : EType) (rm : RMode) (d a b c : VReg) (m : VMask)
  | vmin (t : EType) (d a b : VReg) (m : VMask)
  | vmax (t : EType) (d a b : VReg) (m : VMask)
  | vabs (t : EType) (sat : Bool) (d a : VReg) (m : VMask)
  | vneg (t : EType) (sat : Bool) (d a : VReg) (m : VMask)
  | vabsd (t : EType) (rm : RMode) (sat : Bool) (d a b : VReg) (m : VMask)
  | vcpysgn (t : EType) (d a b : VReg) (m : VMask)
  | vround (t : EType) (rm : RMode) (d a : VReg) (m : VMask)
  | vmulh (t : EType) (d a b : VReg) (m : VMask)
  | vmad (t : EType) (sat : Bool) (d a b c : VReg) (m : VMask)
  | vand (t : EType) (d a b : VReg) (m : VMask)
  | vor (t : EType) (d a b : VReg) (m : VMask)
  | vxor (t : EType) (d a b : VReg) (m : VMask)
  | vandn (t : EType) (d a b : VReg) (m : VMask)
  | vshl (t : EType) (d a : VReg) (k : ShAmt) (m : VMask)
  | vshr (t : EType) (d a : VReg) (k : ShAmt) (m : VMask)
  | vsar (t : EType) (d a : VReg) (k : ShAmt) (m : VMask)
  | vclz (t : EType) (d a : VReg) (m : VMask)
  | vpopc (t : EType) (d a : VReg) (m : VMask)
  | vdot4 (t : EType) (bu sat : Bool) (d a b c : VReg) (m : VMask)
  | vcmp (t : EType) (cond : VCond) (d : VcmpDst) (a b : VReg) (m : VMask)
  | vclass (t : EType) (d a : VReg) (m : VMask)
  | vsel (t : EType) (d a b : VReg) (c : VselSrc) (m : VMask)
  | qlog (tt : BitVec 4) (d a b : QReg)
  | qmov (form : QmovForm)
  | vcvt (dt st : EType) (rm : RMode) (part : Fin 8) (ocp toocp : Bool) (d a b : VReg) (m : VMask)
  | vrsum (t : EType) (rm : RMode) (d a : VReg) (m : VMask)
  | vrmax (t : EType) (d a : VReg) (m : VMask)
  | vrmin (t : EType) (d a : VReg) (m : VMask)
  | vrargmax (t : EType) (d a : VReg) (m : VMask)
  | vscan (t : EType) (rm : RMode) (op : ScanOp) (excl : Bool) (d a : VReg) (m : VMask)
  | vperm (t : EType) (hi : Bool) (d a b : VReg) (m : VMask)
  | vperm2 (t : EType) (d a b c : VReg) (m : VMask)
  | vbcast (t : EType) (d a : VReg) (b : SReg) (m : VMask)
  | vsplat (t : EType) (d : VReg) (a : SReg) (m : VMask)
  | vslide (t : EType) (up : Bool) (d a : VReg) (b : SReg) (c : VReg) (m : VMask)
  | vins (t : EType) (d : VReg) (a b : SReg) (m : VMask)
  | vext (t : EType) (d : SReg) (a : VReg) (b : SReg)
  | vrev (t : EType) (d a : VReg) (m : VMask)
  | vzip (t : EType) (hi : Bool) (d a c : VReg) (m : VMask)
  | vunzip (t : EType) (odd : Bool) (d a c : VReg) (m : VMask)
  | vcompress (t : EType) (d a : VReg) (q : QReg)
  | vexpand (t : EType) (d a : VReg) (q : QReg)
  | vmov (t : EType) (d a : VOp) (m : VMask)
  | vrcpe (d a : VReg) (m : VMask)
  | vrsqe (d a : VReg) (m : VMask)
  | vexp2 (d a : VReg) (m : VMask)
  | vlog2 (d a : VReg) (m : VMask)
  | vsin (d a : VReg) (m : VMask)
  | vcos (d a : VReg) (m : VMask)
  | vtanh (d a : VReg) (m : VMask)
  -- class M (R290 to R320)
  | mwload (fmt : EType) (cvt buf : Bool) (a b : SReg)
  | mwswap
  | mmul (t : TReg) (row0 : Fin 128) (g : GReg) (n : SReg) (fmt : EType) (buf : Bool) (k : Option KReg) (adv : Bool)
  | mchk (a : SReg) (form : MchkForm)
  | tzero (t : TReg) (row : Option (Fin 128))
  | tld (t : TReg) (row0 : Fin 128) (a n : SReg)
  | tst (t : TReg) (row0 : Fin 128) (a n : SReg)
  | tcst (t : TReg) (row0 : Fin 128) (a n : SReg) (fmt : EType) (rm : RMode) (k : Option KReg)
  | trd (d : VReg) (t : TReg) (dir : Dir) (idx : Fin 128)
  | twr (t : TReg) (dir : Dir) (idx : Fin 128) (a : VReg)
  | tscale (t : TReg) (rm : RMode) (src : TscaleSrc)
  | tmov (t src : TReg) (tr : Bool)
  | tadd (t src : TReg) (rm : RMode)
  | kset (form : KsetForm)
  | rsvInit (t : TReg) (row : Fin 128) (a b c : SReg)
  | rsvFeed (t : TReg) (row : Fin 128) (a : VReg)
  | rsvFeed2 (t : TReg) (row : Fin 128) (a b : VReg)
  | rsvDraw (d : SReg) (t : TReg) (row : Fin 128)
  -- class X: near and global memory, atomics, fence (R214 to R231)
  | ld (t : SOp) (base : SReg) (off : BitVec 18) (size : Size) (sx : Bool) (ord : MOrd) (scope : Scope)
  | st (t : SOp) (base : SReg) (off : BitVec 18) (size : Size) (ord : MOrd) (scope : Scope)
  | ldp (t : SOp) (base : SReg) (off : BitVec 18) (ord : MOrd) (scope : Scope)
  | stp (t : SOp) (base : SReg) (off : BitVec 18) (ord : MOrd) (scope : Scope)
  | ldg (t : SOp) (base : SReg) (off : BitVec 18) (size : Size) (sx : Bool) (ord : MOrd) (scope : Scope)
  | stg (t : SOp) (base : SReg) (off : BitVec 18) (size : Size) (ord : MOrd) (scope : Scope)
  | stgGs (t : SOp) (base : SReg) (off : BitVec 18) (size : Size) (h : HReg)
  | aadd (size : Size) (ord : AOrd) (scope : Scope) (d base a : SReg)
  | aswap (size : Size) (ord : AOrd) (scope : Scope) (d base a : SReg)
  | acas (size : Size) (ord : AOrd) (scope : Scope) (d base a b : SReg)
  | aand (size : Size) (ord : AOrd) (scope : Scope) (d base a : SReg)
  | aor (size : Size) (ord : AOrd) (scope : Scope) (d base a : SReg)
  | axor (size : Size) (ord : AOrd) (scope : Scope) (d base a : SReg)
  | amin (u : Bool) (size : Size) (ord : AOrd) (scope : Scope) (d base a : SReg)
  | amax (u : Bool) (size : Size) (ord : AOrd) (scope : Scope) (d base a : SReg)
  | afadd (ord : AOrd) (scope : Scope) (d base a : SReg)
  | fence (kind : FenceKind) (scope : Scope)
  -- groupsets (R232 to R237)
  | gsOpen (d : SReg) (h : HReg) (name count : SReg)
  | gsSeal (d : SReg) (h : HReg)
  | gsAbort (d : SReg) (h : HReg)
  | gsSnap (d : SReg) (h : HReg) (name : SReg)
  | gsLoad (d : GsLoadDst) (p : PReg) (h : HReg) (base : SReg)
  | gsStat (d : SReg) (h : HReg)
  -- iterators (R238 to R243)
  | itld (g : GReg) (a : SReg)
  | itset (form : ItsetForm)
  | itadv (g : GReg) (a : SReg) (p : PReg)
  | itrd (d : SReg) (g : GReg) (form : ItrdForm)
  -- copies (R244 to R251)
  | cpy (d dst src len : SReg)
  | cpyGs (d dst src len : SReg) (h : HReg)
  | cpyga (d dst src tbl count : SReg) (k : Fin 10)
  | cpysc (d dst src tbl count : SReg) (k : Fin 10)
  | cpybc (d dst src len list : SReg) (n : BitVec 8)
  | prmRd (d : SReg) (trap : Bool)
  -- rings (R217 to R224)
  | ringAddr (d : SReg) (port : Port) (b : SReg) (imm : BitVec 13) (hdr : Bool)
  | ringPut (port : Port) (a : SReg) (imm : BitVec 13) (nul : Bool)
  | ringPeek (d : SReg) (port : Port) (b : SReg) (imm : BitVec 13) (form : PeekForm)
  | ringAvail (d : SReg) (port : Port)
  -- vector memory (R284 to R289)
  | vld (t : EType) (cvt : Option (Geo × RMode)) (d : VReg) (addr : VAddr) (m : VMask)
  | vst (t : EType) (cvt : Option RMode) (addr : VAddr) (b : VReg) (m : VMask)
  | vgather (t : EType) (d : VReg) (a : SReg) (b : VReg) (m : VMask)
  | vscatter (t : EType) (a : SReg) (b c : VReg) (m : VMask)
  -- class Y (R252 to R256)
  | csrRd (d : SReg) (n : BitVec 16)
  | csrWr (n : BitVec 16) (a : SReg)
  | winLd (d : SReg) (entry : Fin 64) (a : SReg) (other : Bool)
  | winRd (d : SReg) (entry : Fin 64) (w : Fin 4) (other : Bool)
  | tlbInv (form : TlbInvForm)
  | tlbProbe (d a b : SReg)
  | tret (rst : Bool)
  -- stages, the core and time (R9 to R42)
  | timeAdvance
  | firingEvaluation (b : BankIx)
  | commit (b : BankIx)
  | coreHandover (c : CogIx)
  | budgetExceeded (b : BankIx)
  -- memory paths (R99 to R115)
  | faultAnswer (party : FaultParty) (refused : Bool)
  | collapse (r : CollapseReq)
  | retentionTransitionDone (c : CogIx)
  | promiseMissed (id : Nat)
  | copyComplete (id : Nat)
  | copyFailure (id : Nat)
  -- the M unit (R290 to R298)
  | mUnitStart (c : CogIx)
  | mwloadDone (c : CogIx) (buf : Bool)
  -- accesses of the host, scrub (R102, R111)
  | hostMemoryRead (id : Nat) (asid : BitVec 12) (goff : BitVec 52) (len : Nat)
  | hostMemoryWrite (posted : Bool) (asid : BitVec 12) (goff : BitVec 52) (data : List Byte)
  | scrub (c : CogIx) (line : Nat)
  -- groupset homes (R133 to R147)
  | gsHomeOpen (m : GsMsg)
  | gsHomeSeal (m : GsMsg)
  | gsHomeAbort (m : GsMsg)
  | gsHomeSnap (m : GsMsg)
  | gsHomeStat (m : GsMsg)
  | gsRevert (asid : BitVec 12) (name : BitVec 16) (epoch : Nat) (home : Nat)
  | gsAnswer (a : GsAns)
  -- traps, freewheel, recovery (R323 to R347)
  | trapTake (b : BankIx)
  | handlerTimeout (b : BankIx)
  | cogFailure (c : CogIx)
  | freewheelQuiet
  | livenessBeat (p : ChainPort) (l : LinkIx)
  | portDead (p : ChainPort)
  | hubSilent (pkg : Nat)
  | recovery (x : FailedUnit)
  -- the front door (R348 to R367)
  | tokenizationComplete (reqid : Word)
  | admission
  | stepInject (group : Nat)
  | donePacket (w0 w1 : Word) (payload : List Byte)
  -- links (R368 to R380)
  | streamPacket (m : StreamMsg)
  | freeSlotReturn (port : Option ChainPort) (w0 w1 : Word)
  | periodicReturn (b : BankIx) (port : Fin 8)
  | hubMessage (src : Nat) (m : HubMsg)
  | linkFailure (p : ChainPort) (l : LinkIx)
  -- time (R381 to R383, R391)
  | timeExchange (p : ChainPort)
  | sync (p : ChainPort)
  | delreq (p : ChainPort)
  | delresp (p : ChainPort) (t1 t4 : Word)
  | holdoverTimeout
  -- boot (R386 to R389, R393)
  | bootChunk (root off : Nat) (data : List Byte)
  | imageActivate
  | imageLoadStart
  -- mailbox commands (R392)
  | fdconf (mb : MBox)
  | vocab (mb : MBox)
  | arenas (mb : MBox)
  | freewheel (mb : MBox)
  | resume (mb : MBox)
  | reactivate (mb : MBox)
  | attest (mb : MBox)
  | powercap (mb : MBox)
  | keyslot (mb : MBox)
  | bootsrc (mb : MBox)
  | rollback (mb : MBox)
  -- what reaches the package from the host, the front-door ports, the links and other packages
  | globalRequest (r : GReq)
  | globalResponse (r : GResp)
  | retreqWrite (c : CogIx) (req : BitVec 9)
  | requestRecord (conn : Nat) (rec : List Byte)
  | cancelRecord (conn : Nat) (rec : List Byte)
  | linkBlock (p : ChainPort) (l : LinkIx) (block : List Byte)
  | linkRejoin (p : ChainPort) (l : LinkIx)
  | ptpMessage (m : PtpMsg)
  | bootMessage (msg : List Byte)
  | readyReport (src : Nat) (imageId : List Byte)
  | failReport (src : Nat) (imageId : List Byte) (reason : BitVec 8)
  | activate (t : Word)
  | abandon (reason : BitVec 8) (pkg : Nat)
  -- host, management, power, resets (R390 to R403)
  | hostRegisterWrite (off size : Nat) (val : Word)
  | pldmSensorRead (s : Sensor)
  | packageIdEffecter (id : BitVec 12)
  | pldmFirmwareUpdate (f : Firmware)
  | powerOverCap (r : PowerReading)
  | thermalShutdown (die : Fin 4)
  | coldReset
  | warmReset
  | functionLevelReset
  | pcieCompletion (c : PcieCompletion)
  | freewheelTimeLimit
  | fqheadWrite (val : Word)
  | hostLinkLoss (up master : Bool)
  | linkTraining (p : ChainPort) (l : LinkIx) (far : FarPort) (reach : List (Nat × Nat))
deriving DecidableEq, Repr

/-! ## Syllables -/

/-- A decoded syllable (R149): END, RST, the guard and its sense, the instruction. -/
structure Syllable where
  last  : Bool
  rst   : Bool
  gp    : PReg
  gs    : Bool
  instr : Instr
deriving DecidableEq, Repr

/-- The unit classes of R150. -/
inductive UnitClass where
  | a | b | v | m | x | y
deriving DecidableEq, Repr

end Sys2Proof
end

