-- ==== Sys2Proof/WellFormed.lean ====
section
/-! DEFINITION. Which terms of Instr are encodable syllables (Instr.unit), the reserved combinations that each
instruction's encoding table excludes (Instr.wf, R154, R160), and the composition of a bundle (bundleWf, R152). -/

namespace Sys2Proof

/-! ## Element formats -/

/-- The type code of an element format (R52). -/
def EType.code : EType → Nat
  | .raw => 0 | .fp32 => 1 | .bf16 => 2 | .fp8e4 => 3 | .fp8e5 => 4
  | .mxfp4 => 5 | .int8 => 6 | .uint8 => 7 | .int32 => 8 | .int64 => 9

/-- The element format of a type code; 0xA to 0xF are illegal (R160). -/
def EType.ofCode? : Nat → Option EType
  | 0 => some .raw | 1 => some .fp32 | 2 => some .bf16 | 3 => some .fp8e4 | 4 => some .fp8e5
  | 5 => some .mxfp4 | 6 => some .int8 | 7 => some .uint8 | 8 => some .int32 | 9 => some .int64
  | _ => none

/-- The element width in bits (R258). -/
def EType.width : EType → Nat
  | .fp32 | .int32 => 32
  | .bf16 => 16
  | .fp8e4 | .fp8e5 | .int8 | .uint8 | .raw => 8
  | .mxfp4 => 4
  | .int64 => 64

/-- The element count of a vector, 4,096 / w (R258). -/
def EType.lanes (t : EType) : Nat := 4096 / t.width

/-- fp32 and bf16. -/
def EType.isFloat : EType → Bool
  | .fp32 | .bf16 => true
  | _ => false

/-- int8, uint8, int32 and int64 (R264). -/
def EType.isInt : EType → Bool
  | .int8 | .uint8 | .int32 | .int64 => true
  | _ => false

/-- int8, int32 and int64 (R264). -/
def EType.isSInt : EType → Bool
  | .int8 | .int32 | .int64 => true
  | _ => false

/-- The types of arithmetic, compares, reductions and scans: fp32, bf16 and the four integers. -/
def EType.isArith (t : EType) : Bool := t.isFloat || t.isInt

/-! ## Unit classes -/

/-- The unit class of a syllable instruction (R150, R168 to R173); the package's own steps have none. -/
def Instr.unit : Instr → Option UnitClass
  | .add .. | .addImm .. | .sub .. | .mul .. | .mulImm .. | .mulh .. | .div .. | .rem .. | .and .. | .andImm ..
  | .or .. | .orImm .. | .xor .. | .xorImm .. | .andn .. | .shl .. | .shlImm .. | .shr .. | .shrImm ..
  | .sar .. | .sarImm .. | .rol .. | .ror .. | .rorImm .. | .addc .. | .subb .. | .min .. | .minImm ..
  | .max .. | .maxImm .. | .abs .. | .clz .. | .ctz .. | .popc .. | .bswap .. | .brev .. | .clmul ..
  | .bmatch .. | .bfx .. | .bfxImm .. | .bfi .. | .bfiImm .. | .sext .. | .zext .. | .cmp .. | .cmpImm ..
  | .sel .. | .plog .. | .pmov .. | .movi .. => some .a
  | .nop .. | .br .. | .jr .. | .call .. | .callr .. | .ret .. | .loop .. | .stageEnd | .trap .. | .waitTime ..
  | .sleepUntil .. | .timeRead .. => some .b
  | .vadd .. | .vsub .. | .vmul .. | .vfma .. | .vfms .. | .vfnma .. | .vfnms .. | .vmin .. | .vmax .. | .vabs ..
  | .vneg .. | .vabsd .. | .vcpysgn .. | .vround .. | .vmulh .. | .vmad .. | .vand .. | .vor .. | .vxor ..
  | .vandn .. | .vshl .. | .vshr .. | .vsar .. | .vclz .. | .vpopc .. | .vdot4 .. | .vcmp .. | .vclass ..
  | .vsel .. | .qlog .. | .qmov .. | .vcvt .. | .vrsum .. | .vrmax .. | .vrmin .. | .vrargmax .. | .vscan ..
  | .vperm .. | .vperm2 .. | .vbcast .. | .vsplat .. | .vslide .. | .vins .. | .vext .. | .vrev .. | .vzip ..
  | .vunzip .. | .vcompress .. | .vexpand .. | .vmov .. | .vrcpe .. | .vrsqe .. | .vexp2 .. | .vlog2 ..
  | .vsin .. | .vcos .. | .vtanh .. => some .v
  | .mwload .. | .mwswap | .mmul .. | .mchk .. | .tzero .. | .tld .. | .tst .. | .tcst .. | .trd .. | .twr ..
  | .tscale .. | .tmov .. | .tadd .. | .kset .. | .rsvInit .. | .rsvFeed .. | .rsvFeed2 .. | .rsvDraw .. => some .m
  | .ld .. | .st .. | .ldp .. | .stp .. | .ldg .. | .stg .. | .stgGs .. | .aadd .. | .aswap .. | .acas .. | .aand ..
  | .aor .. | .axor .. | .amin .. | .amax .. | .afadd .. | .fence .. | .gsOpen .. | .gsSeal .. | .gsAbort ..
  | .gsSnap .. | .gsLoad .. | .gsStat .. | .itld .. | .itset .. | .itadv .. | .itrd .. | .cpy .. | .cpyGs ..
  | .cpyga .. | .cpysc .. | .cpybc .. | .prmRd .. | .ringAddr .. | .ringPut .. | .ringPeek .. | .ringAvail ..
  | .vld .. | .vst .. | .vgather .. | .vscatter .. => some .x
  | .csrRd .. | .csrWr .. | .winLd .. | .winRd .. | .tlbInv .. | .tlbProbe .. | .tret .. => some .y
  | .timeAdvance | .firingEvaluation .. | .commit .. | .coreHandover .. | .budgetExceeded .. | .faultAnswer ..
  | .collapse .. | .hostMemoryRead .. | .hostMemoryWrite .. | .scrub .. | .retreqWrite ..
  | .retentionTransitionDone .. | .promiseMissed .. | .copyComplete .. | .copyFailure .. | .mUnitStart ..
  | .mwloadDone .. | .globalRequest .. | .globalResponse .. | .gsHomeOpen .. | .gsHomeSeal .. | .gsHomeAbort ..
  | .gsHomeSnap .. | .gsHomeStat .. | .gsRevert .. | .gsAnswer .. | .trapTake .. | .handlerTimeout ..
  | .cogFailure .. | .freewheelQuiet | .livenessBeat .. | .portDead .. | .hubSilent .. | .recovery ..
  | .requestRecord .. | .tokenizationComplete .. | .admission | .cancelRecord .. | .stepInject ..
  | .donePacket .. | .streamPacket .. | .freeSlotReturn .. | .periodicReturn .. | .linkBlock ..
  | .hubMessage .. | .linkFailure .. | .linkRejoin .. | .timeExchange .. | .sync .. | .delreq .. | .delresp ..
  | .ptpMessage .. | .holdoverTimeout | .bootChunk .. | .bootMessage .. | .readyReport .. | .failReport ..
  | .activate .. | .abandon .. | .imageActivate | .imageLoadStart | .fdconf .. | .vocab .. | .arenas ..
  | .freewheel .. | .resume .. | .reactivate .. | .attest .. | .powercap .. | .keyslot .. | .bootsrc ..
  | .rollback .. | .hostRegisterWrite .. | .pldmSensorRead _ | .packageIdEffecter .. | .pldmFirmwareUpdate ..
  | .powerOverCap .. | .thermalShutdown .. | .coldReset | .warmReset | .functionLevelReset
  | .pcieCompletion .. | .freewheelTimeLimit | .fqheadWrite .. | .hostLinkLoss .. | .linkTraining .. => none

/-! ## Reserved combinations -/

/-- The even member of a pair (R214). -/
def SOp.even : SOp → Bool
  | .s n => n.val % 2 = 0
  | .c n => n.val % 2 = 0

/-- The fields of a load or store (R214, R226): the ordering form allowed is rel for stores, acq for loads; the scope
is bank when the form is plain; sign extension is for loads below 64 bits; a pair is even. -/
def memWf (isLoad pairOk : Bool) (t : SOp) (size : Size) (sx : Bool) (ord : MOrd) (scope : Scope) : Bool :=
  (match ord with
    | .plain => scope = .bank
    | .acq => isLoad
    | .rel => !isLoad) &&
  (match size with
    | .b128 => pairOk && t.even && !sx
    | .b64 => !sx
    | _ => true)

/-- An atomic's size: .32 or .64 (R228). -/
def atomicSize (s : Size) : Bool := s = .b32 || s = .b64

/-- The rounding field is 0 on an instruction that does not round (R257). -/
def rmOk (rounds : Bool) (rm : RMode) : Bool := rounds || rm = .rne

/-- VADD, VSUB, VMUL and VABSD: rm with a floating type, .SAT with an integer type (R262, R264). -/
def arithWf (t : EType) (rm : RMode) (sat : Bool) : Bool :=
  t.isArith && rmOk t.isFloat rm && (!sat || t.isInt)

/-- A field width of BFX and BFI immediates: 1 to 64 (R196). -/
def bfWidth (w : BitVec 7) : Bool := 1 ≤ w.toNat && w.toNat ≤ 64

/-- The pairs of VCVT that cannot round (R273). -/
def cvtExact (dt st : EType) : Bool :=
  match st, dt with
  | .fp8e4, .bf16 | .fp8e4, .fp32 | .fp8e5, .bf16 | .fp8e5, .fp32 | .bf16, .fp32 => true
  | .int8, .bf16 | .int8, .fp32 | .uint8, .bf16 | .uint8, .fp32 => true
  | _, _ => st.isInt && dt.isInt

/-- The number of parts of a conversion (R274). -/
def cvtParts (dt st : EType) : Nat :=
  Nat.max (st.width / dt.width) (dt.width / st.width)

/-- A legal VCVT (R273 to R275). -/
def vcvtWf (dt st : EType) (rm : RMode) (part : Fin 8) (ocp toocp : Bool) (b : VReg) (m : VMask) : Bool :=
  dt ≠ .raw && st ≠ .raw && part.val < cvtParts dt st && rmOk (!cvtExact dt st) rm &&
  (if st = .mxfp4 then
    if dt = .mxfp4 then (ocp != toocp) && m.isNone
    else (dt = .fp32 || dt = .bf16 || dt = .fp8e4 || dt = .fp8e5) && !toocp
  else if dt = .mxfp4 then
    (st = .fp32 || st = .bf16 || st = .fp8e4 || st = .fp8e5) && !ocp && !toocp && m.isNone
  else dt ≠ st && !ocp && !toocp && b.val = 0)

/-- The CSR numbers of R164 and R328; any other is a value the encoding does not define (R154, R164). -/
def csrAssigned (n : BitVec 16) : Bool :=
  let k := n.toNat
  k = 0 || (2 ≤ k && k ≤ 4) || (0x10 ≤ k && k ≤ 0x15) || k = 0x20 || k = 0x21 || (0x30 ≤ k && k ≤ 0x36)

/-- No reserved field value or combination: what the encoding table of each instruction allows beyond the ranges that
its operand types already fix (R154). An event carries what its own rule says it carries. -/
def Instr.wf : Instr → Bool
  | .bfxImm _ _ _ _ w | .bfiImm _ _ _ w => bfWidth w
  | .cmp _ pd pe _ _ => pd ≠ pe || pd.val = 0
  | .vadd t rm sat .. | .vsub t rm sat .. | .vmul t rm sat .. | .vabsd t rm sat .. => arithWf t rm sat
  | .vfma t .. | .vfms t .. | .vfnma t .. | .vfnms t .. | .vcpysgn t .. | .vround t .. | .vclass t .. => t.isFloat
  | .vmin t .. | .vmax t .. | .vrmax t .. | .vrmin t .. => t.isArith
  | .vabs t sat .. | .vneg t sat .. => (t.isFloat || t.isSInt) && (!sat || t.isInt)
  | .vmulh t .. | .vmad t .. | .vclz t .. | .vpopc t .. => t.isInt
  | .vshl t _ _ k _ | .vshr t _ _ k _ | .vsar t _ _ k _ =>
      t.isInt && (match k with | .reg _ => true | .imm n => n.val < t.width)
  | .vdot4 t .. => t = .int8 || t = .uint8
  | .vcmp t c d .. =>
      t.isArith && (t.isFloat || (c ≠ .un && c ≠ .ord)) &&
      (match d with | .q _ => t.width ≥ 32 | .v _ => true)
  | .vcvt dt src rm part ocp toocp _ _ b m => vcvtWf dt src rm part ocp toocp b m
  | .vrsum t rm .. => t.isArith && rmOk t.isFloat rm
  | .vrargmax t .. => t.isArith && t ≠ .int64
  | .vscan t rm op .. => t.isArith && rmOk (t.isFloat && op = .sum) rm
  | .vperm t hi .. => t ≠ .mxfp4 && (!hi || t.width = 8)
  | .vperm2 t .. => t.width ≥ 16
  | .mwload fmt cvt _ _ b =>
      (if cvt then fmt = .fp8e4 || fmt = .fp8e5 || fmt = .int8
       else fmt = .fp8e4 || fmt = .fp8e5 || fmt = .int8 || fmt = .bf16 || fmt = .mxfp4) &&
      (fmt = .mxfp4 || b.val = 0)
  | .mmul _ _ _ _ fmt _ k _ =>
      (fmt = .fp8e4 || fmt = .fp8e5 || fmt = .int8 || fmt = .uint8 || fmt = .bf16 || fmt = .mxfp4) &&
      (k.isNone || fmt ≠ .mxfp4)
  | .tcst _ _ _ _ fmt _ _ => fmt = .bf16 || fmt = .fp8e4 || fmt = .fp8e5 || fmt = .int8 || fmt = .uint8
  | .ld t _ _ size sx ord scope => memWf true false t size sx ord scope
  | .st t _ _ size ord scope => memWf false false t size false ord scope
  | .ldp t _ _ ord scope => memWf true true t .b128 false ord scope
  | .stp t _ _ ord scope => memWf false true t .b128 false ord scope
  | .ldg t _ _ size sx ord scope => memWf true true t size sx ord scope
  | .stg t _ _ size ord scope => memWf false true t size false ord scope
  | .stgGs t _ _ size _ => size ≠ .b128 || t.even
  | .aadd size .. | .aswap size .. | .acas size .. | .aand size .. | .aor size .. | .axor size ..
  | .amin _ size .. | .amax _ size .. => atomicSize size
  | .gsLoad d _ _ _ => match d with | .s128 n => n.val % 2 = 0 | _ => true
  | .vld t cvt .. =>
      (match cvt with
        | none => true
        | some _ => t = .bf16 || t = .fp8e4 || t = .fp8e5 || t = .mxfp4 || t = .int8 || t = .uint8)
  | .vst t cvt .. =>
      (match cvt with
        | none => true
        | some _ => t = .bf16 || t = .fp8e4 || t = .fp8e5 || t = .int8 || t = .uint8)
  | .vgather t .. | .vscatter t .. => t = .fp32 || t = .int32 || t = .int64
  | .csrRd _ n | .csrWr n _ => csrAssigned n
  | .hostMemoryRead _ _ _ len => 1 ≤ len && len ≤ 4096
  | .hostMemoryWrite _ _ _ data => data.length ≤ 4096
  | .linkBlock _ _ block => block.length = 512
  | _ => true

/-- A well-formed syllable: a syllable instruction with no reserved combination, whose guard is not the negation of
p0 (R153). -/
def Syllable.wf (y : Syllable) : Bool :=
  y.instr.unit.isSome && y.instr.wf && !(y.gp.val = 0 && y.gs)

/-! ## Bundles -/

/-- The class order of R152: A, V, M, X, B. -/
def UnitClass.rank : UnitClass → Nat
  | .a => 0 | .v => 1 | .m => 2 | .x => 3 | .b => 4 | .y => 5

/-- The most syllables of a class that a bundle holds (R150, R152). -/
def UnitClass.limit : UnitClass → Nat
  | .a | .v => 2
  | .m | .x | .b | .y => 1

/-- The conditions of R152 on the classes and RST bits of a bundle's syllables, in order; the reader of the bundle
sees to END. -/
def bundleWf (ys : List (UnitClass × Bool)) : Bool :=
  let cs := ys.map Prod.fst
  1 ≤ cs.length && cs.length ≤ 6 &&
  cs.all (fun c => cs.count c ≤ c.limit) &&
  decide (cs.Pairwise (fun c1 c2 => c1.rank ≤ c2.rank)) &&
  (!cs.contains .y || cs.length = 1) &&
  ys.tail.all (fun e => !e.2)

end Sys2Proof
end

