-- ==== Sys2Proof/Machine/State.lean ====
section
/-! DEFINITION. The state of one package: its context banks and cogs, its memory, the accesses, copies and matrix work
in progress, the hub, the groupset homes, the front door, the chain ports and the time discipline; the reasons a step
can stop; and State.reset, the package right after a cold reset (R402, R403). -/

namespace Sys2Proof.Machine

/-! ## Causes, results and traps -/

/-- Events of the five causes of R66, as one instruction raised them (R68). -/
structure Causes where
  inv : Nat := 0
  ovf : Nat := 0
  sat : Nat := 0
  inx : Nat := 0
  chk : Nat := 0
deriving DecidableEq, Repr

/-- A tile: 128 rows of 128 fp32 elements, element n of a row in bits 32n + 31 to 32n, and a poison bit a row (R162,
R304). -/
structure Tile where
  rows : Vector Vec 128
  psn  : BitVec 128
deriving DecidableEq, Repr

/-- An iterator: a shape and a position (R238). -/
structure Iter where
  base   : Word
  ndim   : Fin 4
  count  : Vector (BitVec 32) 4
  stride : Vector (BitVec 32) 4
  idx    : Vector (BitVec 32) 4
deriving DecidableEq, Repr

/-- A window table entry's four words (R87). -/
structure Win where
  w0 : Word
  w1 : Word
  w2 : Word
  w3 : Word
deriving DecidableEq, Repr

/-- What a result writes when it is due (R156, R188, R261). A vector result replaces the bits under its mask (R259). -/
inductive Res where
  | s (n : Fin 64) (v : Word)
  | p (n : Fin 128) (v : Bool)
  | v (n : Fin 64) (v mask : Vec)
  | q (n : QReg) (v mask : Mask)
  | c (n : Fin 32) (v : Word)
  | cv (n : Fin 8) (v mask : Vec)
  | k (n : KReg) (v : F32)
  | g (n : GReg) (v : Iter)
  | h (n : HReg) (v : BitVec 128)
  | win (other : Bool) (n : Fin 64) (w : Win)
  | csr (n : BitVec 16) (v : Word)
deriving DecidableEq, Repr

/-- A result in flight: written when the core clock reaches due; of two due together the later-issued is kept (R157,
R188). -/
structure Pending where
  due    : Nat
  res    : List Res
  causes : Causes
  /-- The issue order: the next id when its syllable issued, or the id of the request that it answers. -/
  seq    : Nat := 0
  /-- The request whose busy registers this result frees (R225). -/
  req    : Option Nat := none
deriving DecidableEq, Repr

/-- A register that an interlocked result marks busy (R225, R291). -/
inductive BusyReg where
  | s (n : Fin 64)
  | c (n : Fin 32)
  | v (n : Fin 64)
  | p (n : Fin 128)
  | g (n : GReg)
  | h (n : HReg)
deriving DecidableEq, Repr

/-- A cause of R326 with what TCAUSE and TVAL take. -/
structure Trap where
  cause : Nat
  sub   : Nat := 0
  slot  : Nat := 0
  fetch : Bool := false
  val   : Word := 0
  /-- Runs of physical bytes that were read when the trap was found, for R111 and R112. -/
  reads : List (Nat × Nat) := []
  /-- A leaf with PSN = 1 was met: its target, for the record of R115. -/
  psn   : Option Word := none
  /-- SRC of that record: 0 a core load, 5 a weight-tile load. -/
  src   : Nat := 0
deriving DecidableEq, Repr

/-- The boundary events of R325 item 1 that wait in a bank. -/
structure PendEvents where
  /-- Machine checks not yet taken: the MMUL bundle address of each (R331). -/
  mcheck : List Word := []
  /-- Copy errors not yet taken: the failed copy's destination and the iteration that issued it (R110). -/
  copyErr : List (Word × Nat) := []
  /-- Timing traps not yet taken: the revised promise and the copy (R109). -/
  timing : List (Word × Nat) := []
  /-- The budget was passed (R42). -/
  budget : Bool := false
deriving DecidableEq, Repr

/-! ## Stages and ports -/

/-- A port record of a stage descriptor (R184). -/
structure PortRec where
  bound    : Bool
  endpoint : Bool
  rate     : Nat
  peerPort : Nat
  peer     : BitVec 32
  ringBase : Word
  depth    : Nat
  capacity : Nat
  init     : Nat
deriving DecidableEq, Repr

/-- A stage descriptor (R184): ports i0 to i7, then o0 to o7. -/
structure Stage where
  id     : BitVec 32
  pkg    : Nat
  cog    : Nat
  bank   : Nat
  nin    : Nat
  nout   : Nat
  cvmask : BitVec 8
  budget : Nat
  entry  : Word
  gmask  : BitVec 16
  ports  : Vector PortRec 16
deriving DecidableEq, Repr

/-- Where the other end of an edge lies. -/
inductive Peer where
  /-- Not bound. -/
  | none
  /-- A stage's port: package, bank of that package, port number 0 to 7, and the stage's STAGEID. -/
  | stage (pkg : Nat) (bank : Nat) (port : Fin 8) (id : BitVec 32)
  /-- The start edge (false) or the done edge (true) of the loop sequencer of a package (R365). -/
  | seqr (pkg : Nat) (done : Bool)
deriving DecidableEq, Repr

/-- What a port waits for in a recovery (R345): nothing, the counters of the other end, or the moved consumer's word
that it has taken them. -/
inductive Await where
  | none | counters | ack
deriving DecidableEq, Repr

/-- One side of an edge (R21, R22). For an input port cum is produced and freed is consumed; for an output port cum is
sent and freed is consumed_seen. ring is the ring's base address in the bank's program space (a send ring's, for an
output to another package), and slot is CSLOT or PSLOT. -/
structure PortState where
  peer     : Peer
  rate     : Nat
  depth    : Nat
  stride   : Nat
  capacity : Nat
  ring     : Word
  cum      : BitVec 16
  freed    : BitVec 16
  reserved : Nat
  slot     : Nat
  /-- Puts made in the iteration in progress (R220). -/
  puts     : Nat
  /-- Puts recorded at the last restart point (R333). -/
  rstPuts  : Nat
  /-- available or free in the snapshot of the current fabric cycle (R28, R222). -/
  snap     : Nat
  /-- (produced - consumed) mod 2^16 in that snapshot (R41). -/
  snapOcc  : Nat
  /-- Packets that arrive and are still to be discarded after a recovery (R345). -/
  discard  : Nat
  /-- Null packets that the hub still has to put here after a recovery, before the stage first fires (R345). -/
  fill     : Nat
  /-- What the port waits for in a recovery (R345). -/
  await    : Await
  /-- The core cycle by which the next periodic return is due (R379). -/
  retDue   : Nat
deriving DecidableEq, Repr

/-! ## Banks -/

/-- What a bank is doing (R29, R32, R40, R103, R207, R330). -/
inductive BankMode where
  /-- No iteration in progress. -/
  | idle
  /-- Fired; counts as ready from TIME at on (R32). -/
  | fired (at_ : Word)
  /-- Ready inside an iteration, waiting for the core. -/
  | ready
  /-- Holds the core. -/
  | running
  /-- Asleep until TIME = target (R210). -/
  | sleepTime (target : Word)
  /-- Asleep until TIME reaches target or no copy is incomplete (R211). -/
  | sleepCopy (target : Word)
  /-- Asleep after a timing trap with TVEC = 0 (R335). -/
  | sleepTrap (target : Word)
  /-- Draining for a hub-answered fault, then asleep until the hub answers (R103, R324): the cause, and the
  address for a refusal. -/
  | waitHub (cause : Nat) (val : Word) (slot : Nat)
  /-- A RING.PUT waits for a copy into its slot (R220). -/
  | ringWait
  /-- STAGE.END has issued and its waits are not over (R207). -/
  | ending
  /-- STAGE.END waits for a copy and has yielded the core: a ring wait (R40, R207). -/
  | endWait
  /-- That copy has come so far that STAGE.END can go on; the bank waits for the core. -/
  | endReady
  /-- STAGE.END has completed and yielded; its commit takes effect at the end of this fabric cycle (R33). -/
  | ended
  /-- A trap is being taken: draining (R324). -/
  | trapping (t : Trap) (epc : Word)
  /-- Stopped under R330. -/
  | stopped
deriving DecidableEq, Repr

/-- A RING.PUT whose header is not written yet (R128, R220): its number, its port, the edge's scope, the header's 32
bytes and place, the slot's bytes, and the first cycle at which it may be written. -/
structure PutWait where
  id    : Nat
  port  : Fin 16
  scope : Scope
  head  : List Byte
  at_   : Seg
  slot  : Seg
  due   : Nat
deriving DecidableEq, Repr

/-- An access that the bundle in issue makes before it may take effect, because the trap that its answer can give is
taken at the bundle (R103, R104, R112, R144, R323, R390; notes/assumptions/11.md): the access's id, its operation, whether
it has been answered, and the answer: refused by the host, poison, a lost version, the bytes. -/
structure PreAns where
  id   : Nat
  op   : GOp
  done : Bool
  fail : Bool
  psn  : Bool
  lost : Bool
  data : List Byte
deriving DecidableEq, Repr

/-- One context bank (R163): register files, rotating bases, flags, CSRs, windows, program counter, and what its stage
and its issue need besides. -/
structure Bank where
  /-- A stage is active here. -/
  active : Bool
  stage  : Stage
  mode   : BankMode
  pc     : Word
  /-- Physical scalars (R161). -/
  s : Vector Word 64
  p : Vector Bool 128
  v : Vector Vec 64
  q : Vector Mask 16
  t : Vector Tile 4
  k : Vector F32 16
  g : Vector Iter 16
  h : Vector (BitVec 128) 4
  /-- Committed and working carries (R35). -/
  c      : Vector Word 32
  cWork  : Vector Word 32
  cv     : Vector Vec 8
  cvWork : Vector Vec 8
  rotS : BitVec 5
  rotV : BitVec 5
  rotP : BitVec 6
  /-- ARFLAGS and ARCNT.INV to ARCNT.CHK (R67, R68). -/
  arflags : BitVec 5
  arcnt   : Vector Word 5
  asidcur : BitVec 12
  memdbg  : Bool
  rstpt   : Word
  /-- ROT as recorded at the last restart point (R333). -/
  rstRot  : BitVec 5 × BitVec 5 × BitVec 6
  budcnt  : Nat
  tvec    : Word
  tcause  : Word
  tepc    : Word
  tval    : Word
  tscr0   : Word
  tscr1   : Word
  hmode   : Bool
  aband   : Bool
  pend    : PendEvents
  windows : Vector Win 64
  ports   : Vector PortState 16
  /-- Results in flight (R188, R261). -/
  inflight : List Pending
  /-- Registers that wait for an interlocked result, with the request that writes each (R225). -/
  busy : List (BusyReg × Nat)
  /-- The core cycle at which the next bundle may issue. -/
  nextIssue : Nat
  /-- VGATHER and VSCATTER occupy the memory unit until this cycle (R289). -/
  xBusy : Nat
  /-- A page walk that stalls issue: ASID, the access's global offset, end (R323). -/
  walk : Option (BitVec 12 × Nat × Nat)
  /-- The bank's iterations are numbered; a new number at each firing. -/
  iter : Nat
  /-- The stage's firing count: iterations committed; a stage that a recovery has moved starts from q(S) * B (R345). -/
  firings : Nat
  /-- An iteration is in progress (R29). -/
  live : Bool
  /-- The iteration raised its budget trap already (R336). -/
  budgetDone : Bool
  /-- Budget traps in a row with no commit between (R336). -/
  budgetRow : Nat
  /-- When the running handler of an abandoned iteration started (R327). -/
  handlerAt : Option Nat
  /-- The revised promise of the copy whose miss raised the timing trap being handled (R251). -/
  trapPromise : Word
  /-- In freewheel (R337). -/
  freewheel : Bool
  puts : List PutWait
  /-- The slots put in this iteration: output port, put number, place (R128). -/
  putSlots : List (Fin 16 × Nat × Seg)
  /-- A software trap whose bundle holds a RING.PUT in a ring wait, with its return point (R208). -/
  afterTrap : Option (Trap × Word)
  /-- Cycles that a NOP adds to the next bundle after a ring wait (R209). -/
  delay : Nat
  /-- Iteration-private windows may have lost their contents: the last attempt was abandoned, or the bank was restored
  or moved (R39). -/
  rerun : Bool
  /-- The accesses that the bundle in issue has made before it may take effect. -/
  pre : List PreAns
  /-- M instructions of the bank finish by this core cycle, when none is queued (R291). -/
  mDone : Nat
  /-- The cycle in which the bank last yielded (R41). -/
  yieldClk : Nat
  /-- Handle aborts made on the bank's behalf, the ABORTS field of its context image (R338). -/
  aborts : BitVec 32
deriving DecidableEq, Repr

/-! ## Accesses, copies, matrix work -/

/-- Where the bytes that an access reads go (R105, R225, R236, R289). -/
inductive Dst where
  | none
  /-- A scalar or carry scalar, sign- or zero-extended from size bytes. -/
  | scalar (r : BusyReg) (bytes : Nat) (sx : Bool)
  | pair (r0 r1 : BusyReg)
  /-- Byte ranges (position, length) of a vector, in the order of the bytes read. -/
  | vec (n : Fin 64) (place : List (Nat × Nat))
  /-- The payload length of a header word (RING.PEEK, R221). -/
  | peek (r : BusyReg)
  /-- A converting load: element type, geometry, rounding, active lanes, and byte ranges of a 512-byte element area
  followed by two 4-byte scales. -/
  | cvt (n : Fin 64) (t : EType) (geo : Geo) (rm : RMode) (active : Mask) (place : List (Nat × Nat))
  /-- The old value of an atomic. -/
  | old (r : Option BusyReg) (bytes : Nat) (fadd : Bool) (a : F32)
  /-- GS.LOAD: the data registers and the version-lost predicate. -/
  | snap (rs : List BusyReg) (p : Fin 128)
deriving DecidableEq, Repr

/-- On whose behalf an access is made. -/
inductive Owner where
  | bank
  /-- An M instruction, by its ticket in the cog's queue. -/
  | munit (ticket : Nat)
  /-- A copy, by its id, and the unit it reads (false) or writes (true). -/
  | copy (id unit : Nat) (wr : Bool)
  /-- The bundle in issue, before it takes effect (Bank.pre). -/
  | pre
  /-- The hub reverts a line of another package (R142). -/
  | revert
  /-- Another package: the requester and its tag (R374), and whether the write may touch ring slots (R89). -/
  | remote (src id : Nat) (ring : Bool)
deriving DecidableEq, Repr

/-- The kinds of access that ordering tells apart (R119 to R125). -/
inductive AccKind where
  | load | store | atomic
deriving DecidableEq, Repr

/-- An access that has issued and is not yet performed or not yet answered (R117). -/
structure Access where
  id    : Nat
  bank  : BankIx
  owner : Owner
  kind  : AccKind
  cls   : OrdClass
  /-- The access is performed before every later access of its bank (R118, R121). -/
  acq   : Bool
  /-- Accesses that must be performed before this one. -/
  after : List Nat
  /-- Not performed before this core cycle. -/
  due   : Nat
  /-- What is still to be done, place by place in ascending order. -/
  todo  : List GOp
  /-- Bytes read so far, whether poison or a lost version was met, and the events an atomic add raised. -/
  got    : List Byte
  psn    : Bool
  lost   : Bool
  dst   : Dst
  /-- The first of todo has been sent to another package or to the host, and is not answered yet. -/
  sent  : Bool
  /-- The bundle that made it and its program address, for a trap and a record. -/
  epc   : Word
  addr  : Word
  /-- A groupset store's handle name (R141), or none. -/
  gs    : Option Handle
  /-- SEALED of names homed elsewhere, as read for this GS.LOAD: ASID, name, SEALED; and the request that reads another
  one (R144). -/
  seals   : List (BitVec 12 × BitVec 16 × Nat) := []
  sealReq : Option (Nat × BitVec 12 × BitVec 16) := none
deriving DecidableEq, Repr

/-- The forms of a copy (R247 to R249). -/
inductive CopyKind where
  | plain
  | gs (h : Handle)
  | gather (k : Nat)
  | scatter (k : Nat)
  | bcast (n : Nat)
deriving DecidableEq, Repr

/-- An incomplete copy with what it captured at issue (R246). -/
structure Copy where
  id      : Nat
  bank    : BankIx
  iter    : Nat
  kind    : CopyKind
  dst     : Word
  src     : Word
  len     : Nat
  count   : Nat
  tbl     : Word
  asid    : BitVec 12
  windows : Vector Win 64
  promise : Word
  /-- The promise has been missed: the revised one (R109). -/
  missed  : Bool
  /-- Earlier stores of the bank on paths 0x0 to 0x2 that must be performed first (R131). -/
  after   : List Nat
  /-- The index table, or the package list, once the engine has read it. -/
  index   : Option (List Nat)
  /-- Units of at most 64 bytes still to move: ranges (first, count). -/
  todo    : List (Nat × Nat)
  /-- Reads and writes of units sent to another package or to the host and not yet answered. -/
  waiting : List Nat
  /-- When the engine moves the next line. -/
  nextAt  : Nat
  /-- Held while the hub answers (R110). -/
  held    : Bool
  failed  : Bool
  epc     : Word
deriving DecidableEq, Repr

/-- An M instruction in a cog's queue with what it captured (R290, R292). -/
structure MEntry where
  ticket  : Nat
  bank    : BankIx
  instr   : Instr
  epc     : Word
  iter    : Nat
  /-- Scalars, a vector pair and a scale read at issue. -/
  a       : Word
  b       : Word
  c       : Word
  va      : Vec
  vb      : Vec
  kv      : F32
  /-- The physical weight buffer resolved at issue: that of w1 for MCHK.BUF. -/
  buf     : Bool
  /-- The physical register that the result is written to. -/
  dst     : Option BusyReg
  /-- Translated source or destination bytes, in order. -/
  segs    : List Seg
  /-- The program address of the access that each place belongs to. -/
  addrs   : List Word
  /-- What each source place gave, by request: bytes and poison. -/
  fetch   : List (Nat × Option (List Byte × Bool))
  /-- The sources have been read or asked for. -/
  fetching : Bool
  /-- What must be performed before the entry's reads, or before its stores (R120, R121, R143, R293). -/
  after   : List Nat
  /-- Places of host memory read for the instruction before it issued: bytes, and whether a decoded read ran beyond its
  frame. -/
  given   : List (Seg × List Byte × Bool)
deriving DecidableEq, Repr

/-- The states of a weight buffer (R295). -/
inductive BufState where
  | empty | loading | full
deriving DecidableEq, Repr

/-- A physical weight buffer (R295): rows of 128 elements as bit patterns of the format, check column, scales. -/
structure WBuf where
  state : BufState
  /-- Owner bank and format at issue of the last MWLOAD. -/
  tag   : Option (Bool × EType)
  /-- The bank that loaded it and its format, in queue order (R312). -/
  own   : Bool
  psn   : Bool
  fmt   : EType
  /-- Row k holds w[k][0..127], each in 16 bits. -/
  rows  : Vector (BitVec 2048) 128
  check : Vector Word 128
  scale : F32
  /-- E8M0 scales of mxfp4: byte 2n + h. -/
  e8m0  : BitVec 2048
  /-- MMULs stream from this buffer until then. -/
  streamEnd : Nat
deriving DecidableEq, Repr

/-- A TLB entry (R92): ASID, page size in bits (16, 21 or 28), page number, and the leaf's words. -/
structure TlbEntry where
  asid : BitVec 12
  bits : Nat
  page : Nat
  w0   : Word
  w1   : Word
deriving DecidableEq, Repr

/-- The states of a retention region (R114). -/
inductive RetState where
  | active | entering | retained | exiting
deriving DecidableEq, Repr

/-- One cog: what its two banks share (R41, R92, R113, R114, R290, R295, R331). -/
structure Cog where
  tlb     : List TlbEntry
  mq      : List MEntry
  /-- The start of the latest M instruction, and when the array and the load engine are free. -/
  mLast   : Nat
  arrayFree : Nat
  loadFree  : Nat
  /-- MWLOADs in progress: the entry, its buffer, and the earliest end. -/
  mLoads  : List (MEntry × Nat)
  /-- Results of M instructions appear in queue order: none before this cycle. -/
  mOrder  : Nat
  wbuf    : Vector WBuf 2
  /-- w0 and w1 are exchanged (R299). -/
  wswap   : Bool
  holder  : Option Bool
  lastHolder : Option Bool
  passed  : Option Bool
  /-- The first cycle in which the holder may issue (R41). -/
  heldFrom : Nat
  memceNear : Word
  memceStk  : Word
  memue     : Word
  retreq    : BitVec 9
  regions   : Vector RetState 9
  /-- The end of the transition in progress. -/
  retEnd    : Nat
  /-- Times of source 0x1 machine checks within 2^32 cycles (R331). -/
  mchecks   : List Nat
  failed    : Bool
  /-- When the next pass of the background scrub over the cog's stacked SRAM is due (R111). -/
  scrubDue  : Nat
deriving DecidableEq, Repr

/-- A latent error the memory holds (R111 to R113): the first byte of its SEC-DED codeword, 8 bytes of near SRAM or 16 of
stacked SRAM, and how many of the codeword's bits are wrong. -/
structure EccError where
  addr : Nat
  bits : Nat
deriving DecidableEq, Repr

/-! ## Groupset homes -/

/-- A package's write list for one epoch (R139): line addresses of slot A, and whether it is known to be aborting. -/
structure WriteList where
  asid     : BitVec 12
  name     : BitVec 16
  epoch    : Nat
  lines    : List Nat
  aborting : Bool
deriving DecidableEq, Repr

/-- A groupset request that a bank or the sequencer has outstanding (R232 to R237). -/
structure GsReq where
  id    : Nat
  party : Party
  kind  : Nat
  /-- Destination scalar and handle of a bank's instruction. -/
  dst   : Option (BankIx × BusyReg × Option HReg)
  h     : Handle
  /-- The ASID of the request: ASIDCUR at issue, GS.STAT's from its handle (R232, R237). -/
  asid  : BitVec 12
  sent  : Bool
deriving DecidableEq, Repr

/-! ## The chain image -/

/-- A section of a chain image (R182). -/
structure Section where
  type : Nat
  pkg  : Nat
  cog  : Nat
  bank : Nat
  off  : Nat
  len  : Nat
deriving DecidableEq, Repr

/-- A fallback record (R342). -/
inductive Fallback where
  | move (fail : Nat) (stage : BitVec 32) (pkg cog bank : Nat)
  | mirror (home mirror : Nat)
  | run (fail : Nat) (goff target : Word) (len : Nat)
  | recoverable (fail : Nat)
deriving DecidableEq, Repr

/-- A global page map record (R186). -/
structure PageRun where
  goff   : BitVec 52
  attr   : Word
  target : Word
  len    : Nat
deriving DecidableEq, Repr

/-- A parsed chain image (R182 to R186, R342, R387). -/
structure Image where
  id       : List Byte
  period   : Nat
  npkg     : Nat
  sections : List Section
  stages   : List Stage
  packages : List (Nat × Nat)
  groupsets : List (BitVec 16 × Nat)
  runs     : List PageRun
  super    : Option (Nat × Nat)
  fallback : List Fallback
  keyslot  : Nat
  /-- The byte runs of the image that this package holds. -/
  chunks   : List (Nat × List Byte)
deriving DecidableEq, Repr

/-! ## The hub -/

/-- A command that waits for the hub or runs (R392): the mailbox, the code, the argument buffer, and whether a reset of
the host function discards its response (R402). -/
structure Command where
  mb   : MBox
  opc  : Nat
  buf  : List Byte
  drop : Bool := false
deriving DecidableEq, Repr

/-- A key slot (R399). -/
inductive KeySlot where
  | empty
  | keys (ed ml : List Byte)
  | revoked
deriving DecidableEq, Repr

/-- The stages of freewheel (R337, R340). -/
inductive FwState where
  | running
  /-- The chain becomes quiet; the core cycle in which the time limit ends, and whether every step has been answered. -/
  | quieting (limit : Nat) (go : Bool)
  /-- This package's images are saved. -/
  | saved
  /-- The supervisor knows that every package's are. -/
  | complete
  | failed
  /-- The supervisor waits for every package to have restored its banks. -/
  | resuming
deriving DecidableEq, Repr

/-- A context image (R339), by its bank. -/
structure CtxImage where
  bank  : BankIx
  bytes : List Byte
deriving DecidableEq, Repr

/-- A collapse that this package runs as OWNER (R99): the forwarded fault, whether the entries of G have been made
invalid, and the mappers whose reads of G may still be in flight. -/
structure Collapse where
  req    : CollapseReq
  opened : Bool
  awaiting : List Nat
deriving DecidableEq, Repr

/-- What a host read of the hub is for (R102, R390, R392, R393): a piece of the chain image at an offset, the vocabulary,
or a granule that moves to device memory. -/
inductive HostRead where
  | image (off : Nat)
  | vocab
  | page (asid : BitVec 12) (granule : Nat)
deriving DecidableEq, Repr

/-- The image-load state (R393). -/
inductive ImgState where
  | idle | receiving | checking | ready | active | refused | abandoned
deriving DecidableEq, Repr

/-- The hub (R391 to R403): registers of BAR 0, mailboxes, fault queue, firmware and fuses. -/
structure Hub where
  /-- The package id and whether management has set it (R391). -/
  pkg   : BitVec 12
  pkgv  : Bool
  mbbuf : List Byte
  mbcmd : BitVec 8
  mbgo  : Bool
  mbstatus : BitVec 8
  mbresult : BitVec 32
  mbdone   : Bool
  mgbuf : List Byte
  mggo  : Bool
  /-- Commands in the order in which their GO reached the hub, and the one that runs. -/
  queue : List Command
  imgaddr : Word
  imglen  : BitVec 48
  imgState  : ImgState
  imgReason : BitVec 8
  imgFailPkg : BitVec 12
  fqbase : Word
  fqsize : BitVec 17
  fqhead : BitVec 16
  fqtail : BitVec 16
  fqlost : Word
  /-- The hub's own buffer of 256 entries (R394), oldest first. -/
  fqown  : List (List Byte)
  busMaster : Bool
  hostUp    : Bool
  /-- The hub's own reads of host memory not yet completed (R390). -/
  reads     : List (Nat × HostRead)
  powercap  : Nat
  /-- Injection held for power or temperature (R401). -/
  powerHold : Bool
  railsOn   : Bool
  keys      : Vector KeySlot 8
  slotA     : Option Firmware
  slotB     : Option Firmware
  /-- The running slot: false A, true B; none when only the management domain runs (R397). -/
  running   : Option Bool
  rollback  : Nat
  /-- Fuses: the SHA-512 digest of Zostan's two firmware public keys (R397). -/
  keyDigest : List Byte
  fw        : FwState
  /-- Packages that have reported their freewheel quiet or saved (R337). -/
  fwReady   : List Nat
  ctx       : List CtxImage
  /-- Faults held while the hub works: party, ASID and offset of the page-table work that covers each (R103). -/
  held      : List (FaultParty × BitVec 12 × BitVec 52 × Nat)
  /-- Collapses of pages owned here, in order of arrival (R99). -/
  collapses : List Collapse
  /-- Granules whose entries a collapse holds at V = 0: ASID and granule number. -/
  closed    : List (BitVec 12 × Nat)
  /-- Granules on their way between device and host memory: ASID, granule number, the host address that one goes to
  (R102, R103). -/
  moves     : List (BitVec 12 × Nat × Option Nat)
  /-- Arena mappings: GOFF, SIZE, attributes (R392). -/
  arenas    : List (BitVec 52 × Nat × Word)
  /-- Frames in use by the image, by arenas and by page tables: granule addresses. -/
  frames    : List Nat
  /-- Packages declared failed (R341). -/
  failedPkgs : List Nat
  /-- Recoveries in progress here: the unit, B, and whether its stages and pages have moved (R344). -/
  recov     : List (FailedUnit × Nat × Bool)
  /-- Counters of other ends that have come before their stage moved here: stage, port, counters, slot (R345). -/
  edgeMsgs  : List (BitVec 32 × Fin 16 × BitVec 16 × BitVec 16 × Nat)
  /-- The sequencer waits for these packages to end a recovery. -/
  recovWait : List Nat
  /-- Mirrored records held for other homes, with the home's package (R343). -/
  mirrors   : List (Nat × SealRec)
  /-- ARENAS waits for these packages; the greatest STATUS answered so far, and whether the arena is being put in use. -/
  arenaWait : Option (List Nat × Nat × Bool)
  /-- ASIDs admitted, whose arenas this hub keeps mapped (R357). -/
  asids     : List Nat
  /-- Answers that wait for a mirror (R343). -/
  mirrorWait : List (BitVec 12 × BitVec 16 × Party × GsAns)
  /-- Polls sent and not answered: the package and the core cycle (R341). -/
  polls     : List (Nat × Nat)
deriving DecidableEq, Repr

/-! ## The front door -/

/-- The configuration record of R353. -/
structure FdConf where
  model  : BitVec 32
  gsize  : Nat
  ngroup : Nat
  dmax   : Nat
  kvbase : BitVec 16
  kvpcnt : Nat
  maxpos : Nat
  hist   : Word
deriving DecidableEq, Repr

/-- A vocabulary (R354): token strings with their flags, merges, specials, end tokens, classes and byte tokens. -/
structure Vocab where
  tokens : List (List Byte × Bool × Bool)
  merges : List (Nat × Nat × Nat)
  special : List Nat
  eos    : List Nat
  classes : List Byte
  bytes  : List Nat
deriving DecidableEq, Repr

/-- A request that has passed its checks (R349). -/
structure Request where
  conn   : Nat
  reqid  : Word
  spec   : Nat
  resid  : Bool
  temp   : F32
  maxtok : Nat
  seed   : Word
  stops  : List (List Byte)
  prompt : List Byte
deriving DecidableEq, Repr

/-- A live sequence with its detokenizer state (R357 to R366). -/
structure Sequence where
  req    : Request
  asid   : Nat
  group  : Nat
  /-- The sequence's part of the history arena (R357). -/
  part   : Nat
  /-- History tokens: the prompt, then the accepted ones. -/
  hist   : List Nat
  /-- History tokens, the last one apart, that prefill steps still have to carry. -/
  fed    : Nat
  hold   : List Byte
  window : List Byte
  cut    : Bool
  offset : Nat
  count  : Nat
  released : List Byte
  done   : Bool
  cancel : Bool
  /-- The prompt has to be replayed under a new ASID (R364). -/
  replay : Bool
deriving DecidableEq, Repr

/-- How far a step's groupset name has come (R362, R363). -/
inductive NameState where
  | toOpen | opening | opened | sealing | polling | aborting | committed | aborted
deriving DecidableEq, Repr

/-- One groupset name that a step of the sequencer opens (R362, R363), and the request about it. -/
structure StepName where
  entry : Nat
  asid  : Nat
  j     : Nat
  epoch : Nat
  state : NameState
  req   : Nat
deriving DecidableEq, Repr

/-- A step of a group in flight (R322, R358 to R363): its index, whether it is a prefill, for each entry the ASID and D
or the tokens carried, the start packet's payload, the names, whether it has been put, and the done packet. -/
structure Step where
  index  : Nat
  group  : Nat
  prefill : Bool
  asids  : List Nat
  counts : List Nat
  start  : List Byte
  names  : List StepName
  put    : Bool
  done   : Option (List Byte)
deriving DecidableEq, Repr

/-- An edge that the sequencer ends (R365): for a start edge the counters of a producer, for the done edge those of a
consumer, with the done ring's packets. -/
structure SeqEdge where
  bank  : Nat
  pkg   : Nat
  port  : Fin 8
  stage : BitVec 32
  done  : Bool
  depth : Nat
  cum   : BitVec 16
  freed : BitVec 16
  slot  : Nat
  packets : List (Word × Word × List Byte)
  discard : Nat
  /-- When the done edge's next return is due. -/
  retDue : Nat
deriving DecidableEq, Repr

/-- The front-door engines (R348 to R367). -/
structure FrontDoor where
  conf   : Option FdConf
  vocab  : Option Vocab
  /-- Requests in tokenization and tokenized requests in the admission queue. -/
  tokenizing : List Request
  queue  : List (Request × List Nat)
  seqs   : List Sequence
  steps  : List Step
  /-- The next step index (R322), and B of the latest recovery. -/
  nextStep : Nat
  recovB : Nat
  /-- A group's last step was a prefill: alternation (R360). -/
  lastPrefill : List Nat
  edges  : List SeqEdge
  /-- Injection stopped: by freewheel, by power, by a protocol error, by a recovery. -/
  stopFreewheel : Bool
  stopError : Bool
  stopRecovery : Bool
  holders : List Nat
deriving DecidableEq, Repr

/-! ## Chain ports -/

/-- A packet between packages (R372, R373). -/
structure Packet where
  w0 : Word
  w1 : Word
  payload : List Byte
deriving DecidableEq, Repr

/-- What a flit is within its block: the head of a packet, a payload flit, a free-slot return, or idle (R368, R370,
R372). -/
inductive FlitKind where
  | head | body | ret | idle
deriving DecidableEq, Repr

/-- A flit of 32 bytes. -/
structure Flit where
  kind  : FlitKind
  bytes : List Byte
deriving DecidableEq, Repr

/-- A link of a chain port (R368 to R370). -/
structure Link where
  up     : Bool
  /-- SEQ of the next block to send, and of the last block received in order. -/
  txSeq  : BitVec 16
  rxSeq  : BitVec 16
  /-- NAK is to be sent. -/
  nak    : Bool
  /-- Blocks sent and not acknowledged, with those before them that hold the beginning of a packet still going on: SEQ
  and the data flits. -/
  retry  : List (BitVec 16 × List Flit)
  /-- ACK as last received. -/
  acked  : BitVec 16
  retries : Nat
  /-- Flits that wait for a block. -/
  txq    : List Flit
  /-- Flits of a packet that has arrived in part. -/
  rxPart : List (List Byte)
  lastTx : Nat
  lastRx : Nat
deriving DecidableEq, Repr

/-- A chain port (R371, R376 to R378, R405). -/
structure CPort where
  links  : Vector Link 4
  neighbour : Option Nat
  /-- The number that the neighbour gives to the port at the other end, as link training finds it. -/
  peer   : Option ChainPort
  dead   : Bool
  /-- PSEQ of the next packet to send, and of the next one to release. -/
  pseqTx : BitVec 16
  pseqRx : BitVec 16
  /-- Packets that have arrived ahead of it; one that need not wait is kept as a mark only. -/
  reorder : List (BitVec 16 × Packet)
  /-- By virtual channel: credits returned by the peer, flits sent, flits received and released. -/
  credit : Vector (BitVec 16) 4
  used   : Vector (BitVec 16) 4
  freed  : Vector (BitVec 16) 4
  waiting : List Packet
  /-- The link that took the latest return of an edge: the consumer's STAGEID, its port, the link (R370). -/
  retLink : List (Nat × Nat × LinkIx)
  badpkt : BitVec 32
  badret : BitVec 32
  hopdrop : BitVec 32
deriving DecidableEq, Repr

/-! ## Time -/

/-- The states of R381. -/
inductive TimeState where
  | free | locking | disciplined | holdover
deriving DecidableEq, Repr

/-- The time discipline (R381 to R383, R391). Times and offsets are in 1/256 cycle. -/
structure Discipline where
  state   : TimeState
  root    : Bool
  exch    : BitVec 16
  theta   : Int
  /-- The delay that the last exchange over a chain port gave (R383). -/
  delay   : Int
  /-- Exchanges in a row with an offset of at most 4 cycles. -/
  goodRow : Nat
  /-- TIME has been stepped, or a chain image was active: no further step (R381). -/
  stepped : Bool
  lastExch : Nat
  /-- A step of TIME that waits for a fabric-cycle boundary, in cycles. -/
  step : Nat
  /-- SYNCs sent to children and not answered: port and t1. -/
  syncs : List (ChainPort × Nat)
  /-- The timestamps of the exchange in progress with the source. -/
  t1 : Option Nat
  t2 : Option Nat
  t3 : Option Nat
  /-- The packages that are time roots, and when the next exchange with the children is due. -/
  roots : List Nat
  nextSync : Nat
deriving DecidableEq, Repr

/-! ## Boot -/

/-- The image being received (R386 to R389). -/
structure Boot where
  /-- The boot root of the image being received, and that of the active image. -/
  root    : Option Nat
  source  : Option Nat
  fromHost : Bool
  /-- The image's length, where the host has given it. -/
  size    : Option Nat
  chunks  : List (Nat × List Byte)
  /-- The image found ready here, the child packages that reported READY with the image IDs they gave, and whether this
  package has reported. -/
  image   : Option Image
  reports : List (Nat × List Byte)
  reported : Bool
  /-- ACTIVATE's time. -/
  actAt   : Option Word
  /-- Pieces forwarded so far. -/
  sent    : Nat
  /-- Pieces of sections re-sent in a recovery (R344, R389). -/
  extra   : List (Nat × List Byte)
  /-- Pieces that repeat bytes of the active image, since it became active (R386; notes/assumptions/33.md). -/
  again   : List (Nat × List Byte)
  /-- FAIL reports of an image ID that the root cannot compare yet: package, image ID, reason (R389). -/
  fails   : List (Nat × List Byte × BitVec 8)
  /-- The ID of the image refused last, as far as it was computable. -/
  failedId : List Byte
deriving DecidableEq, Repr

/-! ## What leaves the package -/

/-- What the package has given to the outside world, oldest first. -/
inductive Out where
  /-- A link block of a port and link (R368). -/
  | block (p : ChainPort) (l : LinkIx) (bytes : List Byte)
  /-- Requests and responses between packages, whose transaction fields R374 leaves to the engines. -/
  | greq (dst : Nat) (r : GReq)
  | gresp (dst : Nat) (r : GResp)
  | gsmsg (dst : Nat) (kind : Nat) (m : GsMsg)
  | gsans (dst : Nat) (party : Party) (a : GsAns)
  | hub (dst : Nat) (m : HubMsg)
  /-- A READY or FAIL report, ACTIVATE or ABANDON of a boot (R388, R389). -/
  | ready (dst src : Nat) (id : List Byte)
  | fail (dst src : Nat) (id : List Byte) (reason : BitVec 8)
  | activate (dst : Nat) (t : Word)
  | abandon (dst : Nat) (reason : BitVec 8) (pkg : Nat)
  /-- A PCIe read, posted write or AtomicOp of host memory (R390). -/
  | pcieRead (id : Nat) (addr : Nat) (len : Nat)
  | pcieWrite (id : Nat) (addr : Nat) (data : List Byte)
  | pcieAtomic (id : Nat) (addr : Nat) (op : AtomicOp) (bytes : Nat) (a b : Word)
  /-- Completion of a host access, Completer Abort among the statuses (R102, R390). -/
  | completion (id : Nat) (ok : Bool) (data : List Byte)
  | aerAbort
  | msix (vector : Nat)
  /-- A message to the platform controller (R395). -/
  | mgmt (status : BitVec 8) (result : BitVec 32) (data : List Byte)
  | sensor (s : Sensor)
  /-- The entries of the hub's fault buffer, as the management domain reads them (R396). -/
  | faults (entries : List (List Byte))
  /-- A reply record on a connection (R350). -/
  | reply (conn : Nat) (bytes : List Byte)
  /-- A delay request to the grandmaster (R382). -/
  | ptpDelayReq (t3 : Nat)
deriving DecidableEq, Repr

/-! ## Stops -/

/-- Why the machine stops with a fault. -/
inductive Fault where
  /-- TIME_ADVANCE with the main rails removed (R401) or with no firmware that qualifies (R397): the core clock does not
  run, and only the management domain answers. Safe: the machine stops until an event of that domain arrives. -/
  | railsOff
deriving DecidableEq, Repr

/-- Why an instruction has no meaning. -/
inductive Refusal where
  /-- Raised by Dispatch for an instruction whose meaning is not written. Safe: the machine stops. -/
  | notModelled (mnemonic : String)
deriving DecidableEq, Repr

/-- Why a bundle took no effect this cycle, for those who issue it. -/
inductive Stop where
  /-- An interlock: the bundle tries again next cycle (R225). -/
  | stall
  /-- A page walk has to end first (R323). -/
  | walk (asid : BitVec 12) (goff : BitVec 52)
  /-- A trap at the bundle (R323). -/
  | trap (t : Trap)
  /-- A hub-answered fault: the cause, the ASID and global offset (for retention the physical address), and the OWNER
  of a read-duplicate page whose leaf permits writes, and the access's address (R99, R103, R113). -/
  | hub (cause : Nat) (asid : BitVec 12) (goff : BitVec 52) (owner : Option Nat) (val : Word)
  /-- The bundle has to make an access of this kind and operation first, at an address, after others. -/
  | ask (kind : AccKind) (op : GOp) (addr : Word) (after : List Nat)
  /-- The syllable took effect and has set the program counter and mode itself (TRAP, TRET). -/
  | taken
deriving DecidableEq, Repr

/-! ## The package -/

/-- One package. -/
structure State where
  /-- Core cycles since reset, and TIME (R9, R10). -/
  clk  : Nat
  time : Word
  /-- The bank whose syllable executes, its bundle's address, and the syllable's position in its bundle. -/
  cur  : BankIx
  epc  : Word
  nextPc : Word
  slot : Nat
  /-- Requests of the bundle in issue have ids from here on: its own syllables do not wait for them (R156). -/
  ownFrom : Nat
  /-- What the last syllable executed met, for the issue of its bundle. -/
  stop : Option Stop
  banks : Vector Bank 640
  cogs  : Vector Cog 320
  /-- Every byte of near and stacked SRAM, at cog * 2^26 + memory * 2^25 + offset; an unlisted byte reads 0 (R403). -/
  mem   : List Host.Cell
  /-- Poisoned 64-byte lines (R112), by line number, ascending. -/
  poison : List Nat
  ecc   : List EccError
  /-- Pending words of near SRAM are those that accesses and copies in progress write (R107). -/
  accesses : List Access
  copies   : List Copy
  gsreqs   : List GsReq
  /-- The next id of an access, copy or request. -/
  nextId   : Nat
  /-- Draws of free values so far: the model's own counter. -/
  free     : Nat
  /-- Internal events scheduled for a core cycle. -/
  agenda : List (Nat × Instr)
  /-- External events that have reached the package, oldest first. -/
  inbox  : List Instr
  outbox : List Out
  /-- The next bank whose firing is evaluated in this fabric cycle; 640 when all have been. -/
  evalNext : Nat
  ptroot : Word
  image  : Option Image
  homes  : List SealRec
  wlists : List WriteList
  hub    : Hub
  fd     : FrontDoor
  ports  : Vector CPort 32
  /-- Ports that have died or come back, which the pinned routes do not follow yet (R127). -/
  repin  : List ChainPort
  /-- Pairs of packages that a chain port joins, as link training found them (R376). -/
  topo   : List (Nat × Nat)
  /-- Pairs that are joined no longer, which the pinned routes still follow (R127). -/
  oldTopo : List (Nat × Nat)
  td     : Discipline
  boot   : Boot
deriving DecidableEq, Repr

/-! ## Reset -/

/-- An iterator of one dimension with one element: count 1, stride 0, position zero (R185). -/
def Iter.reset : Iter :=
  { base := 0, ndim := 0, count := Vector.replicate 4 1, stride := Vector.replicate 4 0, idx := Vector.replicate 4 0 }

/-- A tile of +0 with no poison. -/
def Tile.reset : Tile := { rows := Vector.replicate 128 0, psn := 0 }

/-- An invalid window entry (R87). -/
def Win.reset : Win := { w0 := 0, w1 := 0, w2 := 0, w3 := 0 }

/-- An unbound port record. -/
def PortRec.reset : PortRec :=
  { bound := false, endpoint := false, rate := 0, peerPort := 0, peer := 0, ringBase := 0, depth := 0,
    capacity := 0, init := 0 }

/-- No stage. -/
def Stage.reset : Stage :=
  { id := 0, pkg := 0, cog := 0, bank := 0, nin := 0, nout := 0, cvmask := 0, budget := 0, entry := 0, gmask := 0,
    ports := Vector.replicate 16 PortRec.reset }

/-- An unbound port. -/
def PortState.reset : PortState :=
  { peer := .none, rate := 0, depth := 0, stride := 0, capacity := 0, ring := 0, cum := 0, freed := 0, reserved := 0,
    slot := 0, puts := 0, rstPuts := 0, snap := 0, snapOcc := 0, discard := 0, fill := 0, await := .none, retDue := 0 }

/-- A bank after reset: no stage, every register zero (notes/assumptions/2.md; R19 gives zero at activation). -/
def Bank.reset : Bank :=
  { active := false, stage := Stage.reset, mode := .idle, pc := 0,
    s := Vector.replicate 64 0, p := Vector.replicate 128 false, v := Vector.replicate 64 0,
    q := Vector.replicate 16 0, t := Vector.replicate 4 Tile.reset, k := Vector.replicate 16 0,
    g := Vector.replicate 16 Iter.reset, h := Vector.replicate 4 0,
    c := Vector.replicate 32 0, cWork := Vector.replicate 32 0, cv := Vector.replicate 8 0,
    cvWork := Vector.replicate 8 0, rotS := 0, rotV := 0, rotP := 0,
    arflags := 0, arcnt := Vector.replicate 5 0, asidcur := 0, memdbg := false, rstpt := 0, rstRot := (0, 0, 0),
    budcnt := 0, tvec := 0, tcause := 0, tepc := 0, tval := 0, tscr0 := 0, tscr1 := 0, hmode := false,
    aband := false, pend := {}, windows := Vector.replicate 64 Win.reset,
    ports := Vector.replicate 16 PortState.reset, inflight := [], busy := [], nextIssue := 0, xBusy := 0,
    walk := none, iter := 0, firings := 0, live := false, budgetDone := false, budgetRow := 0, handlerAt := none,
    trapPromise := 0, freewheel := false, puts := [], putSlots := [], afterTrap := none, delay := 0,
    rerun := false, pre := [], mDone := 0, yieldClk := 0, aborts := 0 }

/-- An EMPTY weight buffer (R295). -/
def WBuf.reset : WBuf :=
  { state := .empty, tag := none, own := false, psn := false, fmt := .raw, rows := Vector.replicate 128 0,
    check := Vector.replicate 128 0, scale := 0, e8m0 := 0, streamEnd := 0 }

/-- A cog after reset: TLB empty, every region active, counters zero (R114, R403). -/
def Cog.reset : Cog :=
  { tlb := [], mq := [], mLast := 0, arrayFree := 0, loadFree := 0, mLoads := [], mOrder := 0,
    wbuf := Vector.replicate 2 WBuf.reset, wswap := false, holder := none, lastHolder := none, passed := none,
    heldFrom := 0,
    memceNear := 0, memceStk := 0, memue := 0, retreq := 0, regions := Vector.replicate 9 .active, retEnd := 0,
    mchecks := [], failed := false, scrubDue := 2 ^ 27 }

/-- A link after reset: not trained. -/
def Link.reset : Link :=
  { up := false, txSeq := 0, rxSeq := 0xFFFF, nak := false, retry := [], acked := 0xFFFF, retries := 0,
    txq := [], rxPart := [],
    lastTx := 0, lastRx := 0 }

/-- A chain port after reset (R405: counts zero). -/
def CPort.reset : CPort :=
  { links := Vector.replicate 4 Link.reset, neighbour := none, peer := none, dead := false, pseqTx := 0, pseqRx := 0,
    reorder := [], credit := Vector.replicate 4 0, used := Vector.replicate 4 0, freed := Vector.replicate 4 0,
    waiting := [], retLink := [], badpkt := 0, badret := 0, hopdrop := 0 }

/-- The hub after a cold reset: the reset values of R391, power cap 2,400 W (R401), fuses as
notes/assumptions/46.md names them. -/
def Hub.reset : Hub :=
  { pkg := 0, pkgv := false, mbbuf := List.replicate 4096 0, mbcmd := 0, mbgo := false, mbstatus := 0, mbresult := 0,
    mbdone := false, mgbuf := List.replicate 4096 0, mggo := false, queue := [], imgaddr := 0,
    imglen := 0, imgState := .idle, imgReason := 0, imgFailPkg := 0, fqbase := 0, fqsize := 0,
    fqhead := 0, fqtail := 0, fqlost := 0, fqown := [], busMaster := false, hostUp := true, reads := [],
    powercap := 2400,
    powerHold := false, railsOn := true, keys := Vector.replicate 8 .empty,
    slotA := some { image := [], version := 0, edsig := [], mlsig := [] }, slotB := none,
    running := some false, rollback := 0, keyDigest := Config.keyDigest, fw := .running, fwReady := [], ctx := [], held := [], collapses := [],
    closed := [], moves := [],
    arenas := [], frames := [], failedPkgs := [], recov := [], edgeMsgs := [], recovWait := [],
    mirrors := [], arenaWait := none, asids := [], mirrorWait := [], polls := [] }

/-- The front door after reset: no configuration, no vocabulary. -/
def FrontDoor.reset : FrontDoor :=
  { conf := none, vocab := none, tokenizing := [], queue := [], seqs := [], steps := [], nextStep := 0, recovB := 0,
    lastPrefill := [], edges := [], stopFreewheel := false, stopError := false, stopRecovery := false, holders := [] }

/-- The time discipline after bring-up (R403 item 5): LOCKING. -/
def Discipline.reset : Discipline :=
  { state := .locking, root := false, exch := 0, theta := 0, delay := 0, goodRow := 0,
    stepped := false, lastExch := 0, step := 0, syncs := [], t1 := none, t2 := none, t3 := none,
    roots := [], nextSync := 0 }

/-- No image is being received. -/
def Boot.reset : Boot :=
  { root := none, source := none, fromHost := false, size := none, chunks := [], image := none,
    reports := [], reported := false,
    actAt := none, sent := 0, extra := [], again := [], fails := [], failedId := [] }

/-- The package right after a cold reset and its bring-up (R402, R403). -/
def State.reset : State :=
  { clk := 0, time := 0, cur := 0, epc := 0, nextPc := 0, slot := 0, ownFrom := 0, stop := none,
    banks := Vector.replicate 640 Bank.reset, cogs := Vector.replicate 320 Cog.reset,
    mem := [], poison := [], ecc := [], accesses := [], copies := [], gsreqs := [], nextId := 0, free := 0,
    agenda := [], inbox := [], outbox := [], evalNext := 640, ptroot := 0, image := none, homes := [], wlists := [],
    hub := Hub.reset, fd := FrontDoor.reset, ports := Vector.replicate 32 CPort.reset, repin := [], topo := [], oldTopo := [],
    td := Discipline.reset,
    boot := Boot.reset }

end Sys2Proof.Machine
end

