-- ==== Sys2Proof/Machine/Num.lean ====
section
/-! DEFINITION. Number formats and rounding (R52 to R65): the exact value of a pattern, one rounding to a format (R60),
the arithmetic of R262, and the conversions of R61 to R65. Exact values are integers times powers of two. -/

namespace Sys2Proof.Machine

/-- The events of two steps together. -/
def Causes.plus (a b : Causes) : Causes :=
  { inv := a.inv + b.inv, ovf := a.ovf + b.ovf, sat := a.sat + b.sat, inx := a.inx + b.inx, chk := a.chk + b.chk }

/-- At most one event per cause (R276). -/
def Causes.once (a : Causes) : Causes :=
  { inv := Nat.min a.inv 1, ovf := Nat.min a.ovf 1, sat := Nat.min a.sat 1, inx := Nat.min a.inx 1,
    chk := Nat.min a.chk 1 }

/-- One invalid event. -/
def invalid : Causes := { inv := 1 }

/-- The exact value of a floating pattern: a NaN (signalling or not), an infinity, or (-1)^neg * m * 2^e, where m = 0
is a signed zero. -/
inductive FVal where
  | nan (sig : Bool)
  | inf (neg : Bool)
  | num (neg : Bool) (m : Nat) (e : Int)
deriving DecidableEq, Repr

/-- Fraction width, exponent width and bias of a floating format (R54, R55). -/
def fracBits : EType → Nat
  | .fp32 => 23 | .bf16 => 7 | .fp8e4 => 3 | .fp8e5 => 2 | .mxfp4 => 1 | _ => 0

/-- The exponent field's width (R54, R55). -/
def expBits : EType → Nat
  | .fp32 | .bf16 => 8 | .fp8e4 => 4 | .fp8e5 => 5 | .mxfp4 => 2 | _ => 0

/-- The exponent bias (R54, R55). -/
def expBias : EType → Int
  | .fp32 | .bf16 => 127 | .fp8e4 => 7 | .fp8e5 => 15 | .mxfp4 => 1 | _ => 0

/-- The format has infinities (R54). -/
def hasInf : EType → Bool
  | .fp32 | .bf16 | .fp8e5 => true
  | _ => false

/-- The canonical NaN (R54). E2M1 has none. -/
def canonNan : EType → Nat
  | .fp32 => 0x7FC00000 | .bf16 => 0x7FC0 | .fp8e4 => 0x7F | .fp8e5 => 0x7E | _ => 0

/-- The largest exponent of a finite value (R54, R55). -/
def maxExp : EType → Int
  | .fp32 | .bf16 => 127 | .fp8e4 => 8 | .fp8e5 => 15 | .mxfp4 => 2 | _ => 0

/-- The pattern of the largest finite magnitude (R54, R55). -/
def maxFinite : EType → Nat
  | .fp32 => 0x7F7FFFFF | .bf16 => 0x7F7F | .fp8e4 => 0x7E | .fp8e5 => 0x7B | .mxfp4 => 7 | _ => 0

/-- The sign bit's weight. -/
def signBit (t : EType) : Nat := 2 ^ (fracBits t + expBits t)

/-- The pattern of an infinity. -/
def infBits (t : EType) : Nat := (2 ^ expBits t - 1) * 2 ^ fracBits t

/-- The value of a pattern (R54, R55, R58). -/
def decodeF (t : EType) (bits : Nat) : FVal :=
  let f := fracBits t
  let fr := bits % 2 ^ f
  let ex := bits / 2 ^ f % 2 ^ expBits t
  let neg := bits / signBit t % 2 = 1
  if hasInf t ∧ ex = 2 ^ expBits t - 1 then
    if fr = 0 then .inf neg else .nan (t ≠ .fp8e5 && fr < 2 ^ (f - 1))
  else if t = .fp8e4 ∧ ex = 15 ∧ fr = 7 then .nan false
  else if ex = 0 then .num neg fr (1 - expBias t - f)
  else .num neg (2 ^ f + fr) ((ex : Int) - expBias t - f)

/-- The number of bits of n. -/
def bitLen (n : Nat) : Nat := if n = 0 then 0 else Nat.log2 n + 1

/-- A sign put on a magnitude's pattern. -/
def withSign (t : EType) (neg : Bool) (mag : Nat) : Nat := mag + (if neg then signBit t else 0)

/-- What a magnitude beyond the largest finite value gives (R60). -/
def overflowTo (t : EType) (rm : RMode) (neg : Bool) : Nat × Causes :=
  if hasInf t then
    let toInf : Bool := match rm with
      | .rne => true | .rtz => false | .rdn => neg | .rup => !neg
    (withSign t neg (if toInf then infBits t else maxFinite t), { ovf := 1, inx := 1 })
  else (withSign t neg (maxFinite t), { sat := 1, inx := 1 })

/-- The quotient of m by 2^k and how the rest compares with half: 0 none, 1 below, 2 half, 3 above; sticky says that
the exact value lies a little above m. -/
def splitAt (m k : Nat) (sticky : Bool) : Nat × Nat :=
  if k = 0 then (m, if sticky then 1 else 0)
  else
    let r := m % 2 ^ k
    let h := 2 ^ (k - 1)
    (m / 2 ^ k, if r < h then (if r = 0 ∧ ¬ sticky then 0 else 1) else if r = h ∧ ¬ sticky then 2 else 3)

/-- The quotient is increased (R59). -/
def roundsUp (rm : RMode) (neg : Bool) (n rest : Nat) : Bool :=
  match rm with
  | .rne => rest = 3 || (rest = 2 && n % 2 = 1)
  | .rtz => false
  | .rdn => neg && rest ≠ 0
  | .rup => !neg && rest ≠ 0

/-- One rounding of (-1)^neg * m * 2^e (a little above it in magnitude when sticky) to a format (R60). -/
def roundTo (t : EType) (rm : RMode) (neg : Bool) (m : Nat) (e : Int) (sticky : Bool := false) : Nat × Causes :=
  if m = 0 ∧ ¬ sticky then (withSign t neg 0, {})
  else
    let f : Int := fracBits t
    let q : Int := max ((bitLen m : Int) - 1 + e - f) (1 - expBias t - f)
    let (n, rest) := if q ≤ e then splitAt (m * 2 ^ (e - q).toNat) 0 sticky else splitAt m (q - e).toNat sticky
    let n := if roundsUp rm neg n rest then n + 1 else n
    let inx : Causes := { inx := if rest = 0 then 0 else 1 }
    let (n, q) := if n = 2 ^ (fracBits t + 1) then (2 ^ fracBits t, q + 1) else (n, q)
    if n < 2 ^ fracBits t then (withSign t neg n, inx)
    else
      let ex := q + f
      if ex > maxExp t ∨ (t = .fp8e4 ∧ ex = 8 ∧ n = 15) then overflowTo t rm neg
      else (withSign t neg ((ex + expBias t).toNat * 2 ^ fracBits t + (n - 2 ^ fracBits t)), inx)

/-- A value delivered in a format: canonical NaN (invalid if it was signalling), an infinity (saturated with SAT where
the format has none, R61), or one rounding. -/
def encodeF (t : EType) (rm : RMode) (v : FVal) : Nat × Causes :=
  match v with
  | .nan sig => (canonNan t, if sig then invalid else {})
  | .inf neg => if hasInf t then (withSign t neg (infBits t), {}) else (withSign t neg (maxFinite t), { sat := 1 })
  | .num neg m e => roundTo t rm neg m e

/-! ## Exact arithmetic -/

/-- The signed mantissa of a finite value at an exponent not above its own. -/
def signedAt (neg : Bool) (m : Nat) (e q : Int) : Int :=
  let x : Int := (m * 2 ^ (e - q).toNat : Nat)
  if neg then -x else x

/-- The opposite value. -/
def FVal.neg : FVal → FVal
  | .nan s => .nan s
  | .inf n => .inf (!n)
  | .num n m e => .num (!n) m e

/-- A NaN operand. -/
def FVal.isNan : FVal → Bool
  | .nan _ => true
  | _ => false

/-- A signalling NaN operand (R58). -/
def FVal.isSig : FVal → Bool
  | .nan s => s
  | _ => false

/-- A zero of either sign. -/
def FVal.isZero : FVal → Bool
  | .num _ 0 _ => true
  | _ => false

/-- The exact sum of two values that are not NaN; none when it is invalid (R262). The sign of a zero sum follows R60. -/
def exactAdd (rm : RMode) (x y : FVal) : Option FVal :=
  match x, y with
  | .inf a, .inf b => if a = b then some (.inf a) else none
  | .inf a, _ => some (.inf a)
  | _, .inf b => some (.inf b)
  | .num n m e, .num n' m' e' =>
    if m = 0 ∧ m' = 0 ∧ n = n' then some (.num n 0 0)
    else
      let q := min e e'
      let s := signedAt n m e q + signedAt n' m' e' q
      if s = 0 then some (.num (rm = .rdn) 0 0) else some (.num (s < 0) s.natAbs q)
  | _, _ => none

/-- The exact product of two values that are not NaN; none for 0 x inf. -/
def exactMul (x y : FVal) : Option FVal :=
  match x, y with
  | .inf a, .inf b => some (.inf (a != b))
  | .inf a, .num n m _ => if m = 0 then none else some (.inf (a != n))
  | .num n m _, .inf b => if m = 0 then none else some (.inf (n != b))
  | .num n m e, .num n' m' e' => some (.num (n != n') (m * m') (e + e'))
  | _, _ => none

/-- The per-element effect of R262 for operands and an exact value: NaN operands first, then an invalid operation, then
one rounding. -/
def arith (t : EType) (rm : RMode) (ops : List FVal) (x : Option FVal) : Nat × Causes :=
  if ops.any FVal.isNan then (canonNan t, if ops.any FVal.isSig then invalid else {})
  else
    match x with
    | none => (canonNan t, invalid)
    | some v => encodeF t rm v

/-- a + b. -/
def fAdd (t : EType) (rm : RMode) (a b : Nat) : Nat × Causes :=
  let x := decodeF t a
  let y := decodeF t b
  arith t rm [x, y] (exactAdd rm x y)

/-- a - b. -/
def fSub (t : EType) (rm : RMode) (a b : Nat) : Nat × Causes :=
  let x := decodeF t a
  let y := decodeF t b
  arith t rm [x, y] (exactAdd rm x y.neg)

/-- a * b. -/
def fMul (t : EType) (rm : RMode) (a b : Nat) : Nat × Causes :=
  let x := decodeF t a
  let y := decodeF t b
  arith t rm [x, y] (exactMul x y)

/-- (-1)^np * (a * b) + (-1)^nc * c, fused (R262). -/
def fFma (t : EType) (rm : RMode) (np nc : Bool) (a b c : Nat) : Nat × Causes :=
  let x := decodeF t a
  let y := decodeF t b
  let z := decodeF t c
  arith t rm [x, y, z] (do
    let p ← exactMul x y
    exactAdd rm (if np then p.neg else p) (if nc then z.neg else z))

/-- |a - b|, never negative. -/
def fAbsDiff (t : EType) (rm : RMode) (a b : Nat) : Nat × Causes :=
  let x := decodeF t a
  let y := decodeF t b
  arith t rm [x, y] (match x, y with
    | .inf p, .inf q => if p = q then none else some (.inf false)
    | _, _ => (exactAdd rm x y.neg).map fun v => match v with
      | .num _ m e => .num false m e
      | .inf _ => .inf false
      | .nan s => .nan s)

/-- The integer nearest m * 2^e in the direction of rm, with whether it differs. -/
def roundInt (rm : RMode) (neg : Bool) (m : Nat) (e : Int) : Nat × Bool :=
  if 0 ≤ e then (m * 2 ^ e.toNat, false)
  else
    let (n, rest) := splitAt m (-e).toNat false
    (if roundsUp rm neg n rest then n + 1 else n, rest ≠ 0)

/-- VROUND (R262). -/
def fRound (t : EType) (rm : RMode) (a : Nat) : Nat × Causes :=
  match decodeF t a with
  | .nan s => (canonNan t, if s then invalid else {})
  | .inf _ => (a, {})
  | .num neg m e =>
    if m = 0 ∨ 0 ≤ e then (a, {})
    else
      let (n, inx) := roundInt rm neg m e
      ((roundTo t .rne neg n 0).1, { inx := if inx then 1 else 0 })

/-! ## Order -/

/-- The rank of a value that is not NaN in an order where -0 lies below +0 (R263): compare the magnitude patterns. -/
def fKey (t : EType) (a : Nat) : Int :=
  let mag : Int := (a % signBit t : Nat)
  if a / signBit t % 2 = 1 then -mag - 1 else mag

/-- Values compare as numbers: -0 equals +0 (R268). -/
def fCmp (t : EType) (a b : Nat) : Ordering :=
  let n (x : Nat) : Int := if x % signBit t = 0 then 0 else fKey t x
  -- every format's patterns rise with magnitude
  compare (if n a < 0 then n a + 1 else n a) (if n b < 0 then n b + 1 else n b)

/-- VMIN and VMAX of floating values (R263): canonical NaN when either is NaN. -/
def fMinMax (t : EType) (isMax : Bool) (a b : Nat) : Nat × Causes :=
  let x := decodeF t a
  let y := decodeF t b
  if x.isNan || y.isNan then (canonNan t, if x.isSig || y.isSig then invalid else {})
  else if isMax then (if fKey t a < fKey t b then b else a, {})
  else (if fKey t b < fKey t a then b else a, {})

/-- A pattern's sign operation, or the canonical NaN (R263). -/
def fSign (t : EType) (a : Nat) (r : Nat) : Nat × Causes :=
  match decodeF t a with
  | .nan s => (canonNan t, if s then invalid else {})
  | _ => (r, {})

/-! ## Integers -/

/-- The integer value of a w-bit field under the type's signedness (R57, R264). -/
def intVal (t : EType) (a : Nat) : Int :=
  let w := t.width
  let x := a % 2 ^ w
  if t = .uint8 ∨ x < 2 ^ (w - 1) then x else (x : Int) - 2 ^ w

/-- The least value of an integer type. -/
def intMin (t : EType) : Int := if t = .uint8 then 0 else -(2 ^ (t.width - 1))

/-- The greatest value of an integer type. -/
def intMax (t : EType) : Int := if t = .uint8 then 255 else 2 ^ (t.width - 1) - 1

/-- x mod 2^w. -/
def wrapTo (w : Nat) (x : Int) : Nat := (x % (2 ^ w : Int)).toNat

/-- An exact integer delivered in a type: wrapped, or clamped with SAT (R264). -/
def intOut (t : EType) (sat : Bool) (x : Int) : Nat × Causes :=
  if sat then
    let y := max (intMin t) (min (intMax t) x)
    (wrapTo t.width y, { sat := if y = x then 0 else 1 })
  else (wrapTo t.width x, {})

/-! ## Conversions (R61 to R65) -/

/-- A floating value to an integer type (R62). -/
def floatToInt (dt : EType) (rm : RMode) (v : FVal) : Nat × Causes :=
  let w := dt.width
  match v with
  | .nan _ => (0, invalid)
  | .inf neg => (wrapTo w (if neg then intMin dt else intMax dt), invalid)
  | .num neg m e =>
    let (n, inx) := roundInt rm neg m e
    let x : Int := if neg then -(n : Int) else n
    if x < intMin dt then (wrapTo w (intMin dt), invalid)
    else if intMax dt < x then (wrapTo w (intMax dt), invalid)
    else (wrapTo w x, { inx := if inx then 1 else 0 })

/-- One element converted between two formats that are not mxfp4 or raw (R61 to R63). DESIGN CHOICE
(notes/assumptions/59.md): int8 to uint8 and uint8 to int8 neither narrow nor widen, and R63 and R273 do not say what a value
outside the target's range gives; the model saturates it and raises saturation, as for narrowing. -/
def convert (dt st : EType) (rm : RMode) (a : Nat) : Nat × Causes :=
  if st.isInt then
    let x := intVal st a
    if dt.isInt then
      let y := max (intMin dt) (min (intMax dt) x)
      (wrapTo dt.width y, { sat := if y = x then 0 else 1 })
    else roundTo dt rm (x < 0) x.natAbs 0
  else
    let v := decodeF st a
    if dt.isInt then floatToInt dt rm v else encodeF dt rm v

/-- An E2M1 element times an E8M0 scale (R55): NaN for scale 0xFF. -/
def mxVal (elem scale : Nat) : FVal :=
  if scale = 0xFF then .nan false
  else
    match decodeF .mxfp4 elem with
    | .num n m e => .num n m (e + scale - 127)
    | v => v

/-- floor(log2 |x|) of a non-zero finite value. -/
def FVal.logb : FVal → Int
  | .num _ m e => (bitLen m : Int) - 1 + e
  | _ => 0

/-- 64 values to one native mxfp4 block (R64): the elements, the scale and the events. -/
def toMx (rm : RMode) (xs : List FVal) : List Nat × Nat × Causes :=
  if xs.any FVal.isNan then (xs.map fun _ => 0, 0xFF, invalid)
  else
    let exps := xs.filterMap fun x => match x with
      | .num _ m _ => if m = 0 then none else some x.logb
      | _ => none
    let X : Int := match exps with
      | [] => -127
      | h :: t => max (-127) (t.foldl max h - 2)
    let r := xs.map fun x => match x with
      | .inf neg => (withSign .mxfp4 neg 7, ({ sat := 1 } : Causes))
      | .num n m e => roundTo .mxfp4 rm n m (e - X)
      | .nan _ => (0, {})
    (r.map Prod.fst, (X + 127).toNat, (r.map Prod.snd).foldl Causes.plus {})

/-- Two OCP blocks of 32 elements with scales s0 and s1 to one native block (R65). -/
def ocpPair (rm : RMode) (lo hi : List Nat) (s0 s1 : Nat) : List Nat × Nat × Causes :=
  if s0 = 0xFF ∨ s1 = 0xFF then ((lo ++ hi).map fun _ => 0, 0xFF, invalid)
  else
    let s := Nat.max s0 s1
    let half (xs : List Nat) (k : Nat) : List (Nat × Causes) := xs.map fun x =>
      if k = s then (x, {})
      else match decodeF .mxfp4 x with
        | .num n m e => roundTo .mxfp4 rm n m (e + k - s)
        | _ => (x, {})
    let r := half lo s0 ++ half hi s1
    (r.map Prod.fst, s, (r.map Prod.snd).foldl Causes.plus {})

/-! ## Lanes (R53) -/

/-- Element i of a vector, as a number. -/
def lane (w : Nat) (v : Vec) (i : Nat) : Nat := (v.extractLsb' (i * w) w).toNat

/-- The vector whose elements, least significant first, are these. -/
def pack (w : Nat) (xs : List Nat) : Vec :=
  BitVec.ofNat 4096 (xs.foldr (fun x acc => x % 2 ^ w + 2 ^ w * acc) 0)

/-- Every element of a vector. -/
def unpack (w : Nat) (v : Vec) : List Nat := (List.range (4096 / w)).map (lane w v)

/-- Element i is active under a mask: bit (i * w) div 32 (R259). -/
def active (m : Option Mask) (w i : Nat) : Bool :=
  match m with
  | none => true
  | some q => q.getLsbD (i * w / 32)

/-- The bits of the active elements (R259). -/
def maskBits (m : Option Mask) : Vec :=
  match m with
  | none => BitVec.allOnes 4096
  | some q => pack 32 ((List.range 128).map fun i => if q.getLsbD i then 2 ^ 32 - 1 else 0)

end Sys2Proof.Machine
end

