-- ==== Sys2Proof/Machine/Func.lean ====
section
/-! DEFINITION. The seeds of R78 and R79, the correctly rounded functions of R81 and R82, the ChaCha block of R314, the
CRCs of R369 and R374, and SHA-512 (R387). The functions of R81 are evaluated to 640 fraction bits and rounded once
(notes/assumptions/8.md). -/

namespace Sys2Proof.Machine

/-! ## Seeds (R78, R79) -/

/-- n / d to the nearest integer, ties to even. -/
def halfEven (n d : Nat) : Nat :=
  let q := n / d
  let r := n % d
  if 2 * r > d ∨ (2 * r = d ∧ q % 2 = 1) then q + 1 else q

/-- The reciprocal table: 4,096 * (V - 1) with V = 1024 / (513 + 2i) (R78). -/
def rcpEntry (i : Nat) : Nat := halfEven (4096 * (511 - 2 * i)) (513 + 2 * i)

/-- The reciprocal square root table (R78): 4,096 * V = 131072 / sqrt n with n = 257 + 2j, doubled for p = 1. -/
def rsqEntry (p j : Nat) : Nat :=
  let n := (257 + 2 * j) * 2 ^ p
  let k := Nat.sqrt (131072 * 131072 / n)
  let up := (2 * k + 1) * (2 * k + 1) * n
  let t := 4 * 131072 * 131072
  (if up < t ∨ (up = t ∧ k % 2 = 1) then k + 1 else k) - 4096

/-- The unbiased exponent and the 23 fraction bits of a finite non-zero fp32 value, subnormals normalised. -/
def normParts (m : Nat) (e : Int) : Int × Nat :=
  let l := bitLen m
  (e + l - 1, m * 2 ^ (24 - l) % 2 ^ 23)

/-- VRCPE of one element (R79). -/
def rcpe (a : Nat) : Nat × Causes :=
  match decodeF .fp32 a with
  | .nan s => (canonNan .fp32, if s then invalid else {})
  | .inf neg => (withSign .fp32 neg 0, {})
  | .num neg m e =>
    if m = 0 then (withSign .fp32 neg (infBits .fp32), {})
    else
      let (ex, fr) := normParts m e
      if -ex - 1 > 127 then (withSign .fp32 neg (infBits .fp32), { ovf := 1 })
      else ((roundTo .fp32 .rne neg (4096 + rcpEntry (fr / 2 ^ 15)) (-ex - 13)).1, {})

/-- VRSQE of one element (R79). -/
def rsqe (a : Nat) : Nat × Causes :=
  match decodeF .fp32 a with
  | .nan s => (canonNan .fp32, if s then invalid else {})
  | .inf neg => if neg then (canonNan .fp32, invalid) else (0, {})
  | .num neg m e =>
    if m = 0 then (withSign .fp32 neg (infBits .fp32), {})
    else if neg then (canonNan .fp32, invalid)
    else
      let (ex, fr) := normParts m e
      let p := (ex % 2).toNat
      ((roundTo .fp32 .rne false (4096 + rsqEntry p (fr / 2 ^ 16)) (-((ex - p) / 2) - 13)).1, {})

/-! ## Fixed point (R81) -/

/-- Fraction bits of the evaluation. -/
def fxBits : Nat := 640

/-- One, in fixed point. -/
def fxOne : Nat := 2 ^ fxBits

/-- The sum of t, t * y / (1 * 2^P), and so on: term k is the previous one times y / k; n terms are left. -/
def expTerms (p y t k : Nat) : Nat → Nat
  | 0 => 0
  | n + 1 => t + expTerms p y (t * y / 2 ^ p / k) (k + 1) n

/-- e^y for y in fixed point of p bits, 0 ≤ y < 1 (R81). -/
def fxExp (p y : Nat) : Nat := expTerms p y (2 ^ p) 1 200

/-- The odd series sum of z^(2k+1) / (2k+1), from term t = z^(2k+1), alternating when alt. -/
def atanTerms (p z2 t k : Nat) (alt : Bool) (pos : Bool) : Nat → Int
  | 0 => 0
  | n + 1 => (if pos then (t / k : Int) else -(t / k : Int)) +
      atanTerms p z2 (t * z2 / 2 ^ p) (k + 2) alt (if alt then !pos else true) n

/-- 2 atanh(z), z in fixed point. -/
def fxAtanh2 (p z : Nat) (n : Nat) : Nat := (2 * atanTerms p (z * z / 2 ^ p) z 1 false true n).toNat

/-- ln 2. -/
def fxLn2 (p : Nat) : Nat := fxAtanh2 p (2 ^ p / 3) 240

/-- pi by Machin's formula. -/
def fxPi (p : Nat) : Nat :=
  let g := p + 16
  let at_ (d n : Nat) : Int := atanTerms g (2 ^ g / (d * d)) (2 ^ g / d) 1 true true n
  ((16 * at_ 5 240 - 4 * at_ 239 80) / 2 ^ 16).toNat

/-- The sum of t, -t * y2 / (k (k+1)), and so on: the series of sine and cosine. -/
def sinTerms (p y2 t k : Nat) (pos : Bool) : Nat → Int
  | 0 => 0
  | n + 1 => (if pos then (t : Int) else -(t : Int)) + sinTerms p y2 (t * y2 / 2 ^ p / (k * (k + 1))) (k + 2) (!pos) n

/-- An inexact fixed-point magnitude to fp32. -/
def fxRound (neg : Bool) (m : Nat) (p : Nat) (e : Int := 0) : Nat × Causes :=
  roundTo .fp32 .rne neg m (e - p) true

/-- x in fixed point of p bits, rounded down, for a magnitude m * 2^e. -/
def toFx (p m : Nat) (e : Int) : Nat :=
  if 0 ≤ (p : Int) + e then m * 2 ^ ((p : Int) + e).toNat else m / 2 ^ (-((p : Int) + e)).toNat

/-- VEXP2 of one element (R81, R82). -/
def exp2F (a : Nat) : Nat × Causes :=
  match decodeF .fp32 a with
  | .nan s => (canonNan .fp32, if s then invalid else {})
  | .inf neg => (if neg then 0 else infBits .fp32, {})
  | .num neg m e =>
    if m = 0 then (0x3F800000, {})
    else if (bitLen m : Int) + e > 9 then
      if neg then (roundTo .fp32 .rne false 1 (-1000)) else overflowTo .fp32 .rne false
    else
      let x := toFx fxBits m e
      let n : Int := if neg then -((x + fxOne - 1) / fxOne : Nat) else (x / fxOne : Nat)
      let f := if neg then (fxOne - x % fxOne) % fxOne else x % fxOne
      if f = 0 then roundTo .fp32 .rne false 1 n
      else fxRound false (fxExp fxBits (f * fxLn2 fxBits / fxOne)) fxBits n

/-- VLOG2 of one element (R81, R82). -/
def log2F (a : Nat) : Nat × Causes :=
  match decodeF .fp32 a with
  | .nan s => (canonNan .fp32, if s then invalid else {})
  | .inf neg => if neg then (canonNan .fp32, invalid) else (infBits .fp32, {})
  | .num neg m e =>
    if m = 0 then (withSign .fp32 true (infBits .fp32), {})
    else if neg then (canonNan .fp32, invalid)
    else
      let (ex, fr) := normParts m e
      if fr = 0 then roundTo .fp32 .rne (ex < 0) ex.natAbs 0
      else
        let z := fr * fxOne / (2 ^ 24 + fr)
        let y := fxAtanh2 fxBits z 240 * fxOne / fxLn2 fxBits
        let r : Int := ex * fxOne + y
        fxRound (r < 0) r.natAbs fxBits

/-- The octant reduction of VSIN and VCOS: k mod 4 and the rest of |x| modulo pi / 2. -/
def reducePi (m : Nat) (e : Int) : Nat × Nat :=
  let p := fxBits + 160
  let x := toFx p m e
  let h := fxPi p / 2
  (x / h % 4, x % h / 2 ^ 160)

/-- Sine of a fixed-point rest below pi / 2. -/
def fxSin (r : Nat) : Nat := (sinTerms fxBits (r * r / fxOne) r 2 true 160).toNat

/-- Cosine of a fixed-point rest below pi / 2. -/
def fxCos (r : Nat) : Nat := (sinTerms fxBits (r * r / fxOne) fxOne 1 true 160).toNat

/-- VSIN of one element (R81, R82). -/
def sinF (a : Nat) : Nat × Causes :=
  match decodeF .fp32 a with
  | .nan s => (canonNan .fp32, if s then invalid else {})
  | .inf _ => (canonNan .fp32, invalid)
  | .num neg m e =>
    if m = 0 then (a, {})
    else
      let (k, r) := reducePi m e
      fxRound (neg != (k ≥ 2 : Bool)) (if k % 2 = 0 then fxSin r else fxCos r) fxBits

/-- VCOS of one element (R81, R82). -/
def cosF (a : Nat) : Nat × Causes :=
  match decodeF .fp32 a with
  | .nan s => (canonNan .fp32, if s then invalid else {})
  | .inf _ => (canonNan .fp32, invalid)
  | .num _ m e =>
    if m = 0 then (0x3F800000, {})
    else
      let (k, r) := reducePi m e
      fxRound (k = 1 || k = 2) (if k % 2 = 0 then fxCos r else fxSin r) fxBits

/-- VTANH of one element (R81, R82): (1 - q) / (1 + q) with q = e^(-2|x|). -/
def tanhF (a : Nat) : Nat × Causes :=
  match decodeF .fp32 a with
  | .nan s => (canonNan .fp32, if s then invalid else {})
  | .inf neg => (withSign .fp32 neg 0x3F800000, {})
  | .num neg m e =>
    if m = 0 then (a, {})
    else if (bitLen m : Int) + e > 8 then fxRound neg (fxOne - 1) fxBits
    else
      -- 2|x| / ln 2 = n + f: q = 2^-n * e^(-f ln 2)
      let y := toFx fxBits m (e + 1)
      let l := fxLn2 fxBits
      let n := y / l
      let g := y % l
      let q := fxOne * fxOne / fxExp fxBits g / 2 ^ n
      fxRound neg ((fxOne - q) * fxOne / (fxOne + q)) fxBits

/-! ## ChaCha with 8 rounds (R314) -/

/-- A 32-bit word rotated left. -/
def rotl32 (x : BitVec 32) (n : Nat) : BitVec 32 := x.rotateLeft n

/-- One element of a list of words. -/
def w32 (l : List (BitVec 32)) (i : Nat) : BitVec 32 := l.getD i 0

/-- The quarter round of RFC 8439 on words a, b, c, d. -/
def quarter (x : List (BitVec 32)) (a b c d : Nat) : List (BitVec 32) :=
  let a1 := w32 x a + w32 x b
  let d1 := rotl32 (w32 x d ^^^ a1) 16
  let c1 := w32 x c + d1
  let b1 := rotl32 (w32 x b ^^^ c1) 12
  let a2 := a1 + b1
  let d2 := rotl32 (d1 ^^^ a2) 8
  let c2 := c1 + d2
  let b2 := rotl32 (b1 ^^^ c2) 7
  (((x.set a a2).set b b2).set c c2).set d d2

/-- A column round followed by a diagonal round. -/
def doubleRound (x : List (BitVec 32)) : List (BitVec 32) :=
  let x := quarter (quarter (quarter (quarter x 0 4 8 12) 1 5 9 13) 2 6 10 14) 3 7 11 15
  quarter (quarter (quarter (quarter x 0 5 10 15) 1 6 11 12) 2 7 8 13) 3 4 9 14

/-- The block function run with 8 rounds (R314): key of eight words, counter, nonce word KIND. -/
def chacha8 (key : List (BitVec 32)) (counter kind : BitVec 32) : List (BitVec 32) :=
  let st := [0x61707865#32, 0x3320646E#32, 0x79622D32#32, 0x6B206574#32] ++ key ++ [counter, kind, 0, 0]
  let x := doubleRound (doubleRound (doubleRound (doubleRound st)))
  List.zipWith (· + ·) x st

/-! ## CRCs (R369, R374) -/

/-- One byte into a most-significant-bit-first CRC of width w. -/
def crcByte (w poly : Nat) (crc : Nat) (b : Byte) : Nat :=
  (List.range 8).foldl (fun c _ =>
    let c2 := c * 2 % 2 ^ w
    if c / 2 ^ (w - 1) % 2 = 1 then c2 ^^^ poly else c2) (crc ^^^ (b.toNat * 2 ^ (w - 8)))

/-- The CRC-16 of a free-slot return: polynomial 0x1021, initial value 0xFFFF (R374). -/
def crc16 (bs : List Byte) : Nat := bs.foldl (crcByte 16 0x1021) 0xFFFF

/-- The CRC-64 of a link block: the ECMA-182 polynomial, initial value and final exclusive OR zero (R369,
notes/assumptions/9.md). -/
def crc64 (bs : List Byte) : Nat := bs.foldl (crcByte 64 0x42F0E1EBA9EA3693) 0

/-! ## SHA-512 (R387, FIPS 180-4) -/

/-- The first n primes' source: trial division of candidates from c, fuel many. -/
def primesFrom (found : List Nat) (c : Nat) : Nat → List Nat
  | 0 => found
  | n + 1 => primesFrom (if found.all (fun p => c % p ≠ 0) then found ++ [c] else found) (c + 1) n

/-- The first 80 primes. -/
def primes80 : List Nat := (primesFrom [] 2 420).take 80

/-- The integer cube root by bisection of n bits below k. -/
def cbrtBits (x r : Nat) : Nat → Nat
  | 0 => r
  | n + 1 => cbrtBits x (if (r + 2 ^ n) * (r + 2 ^ n) * (r + 2 ^ n) ≤ x then r + 2 ^ n else r) n

/-- The 64 fraction bits of the cube root of a prime. -/
def shaK (p : Nat) : Word := BitVec.ofNat 64 (cbrtBits (p * 2 ^ 192) 0 70)

/-- The 64 fraction bits of the square root of a prime. -/
def shaH (p : Nat) : Word := BitVec.ofNat 64 (Nat.sqrt (p * 2 ^ 128))

/-- One element of a list of words. -/
def w64 (l : List Word) (i : Nat) : Word := l.getD i 0

/-- The message schedule: n further words. -/
def shaSchedule (w : List Word) : Nat → List Word
  | 0 => w
  | n + 1 =>
    let t := w.length
    let x := w64 w (t - 15)
    let y := w64 w (t - 2)
    let s0 := x.rotateRight 1 ^^^ x.rotateRight 8 ^^^ (x >>> 7)
    let s1 := y.rotateRight 19 ^^^ y.rotateRight 61 ^^^ (y >>> 6)
    shaSchedule (w ++ [w64 w (t - 16) + s0 + w64 w (t - 7) + s1]) n

/-- One round on the eight working words. -/
def shaRound (h : List Word) (kw : Word) : List Word :=
  let a := w64 h 0
  let e := w64 h 4
  let s1 := e.rotateRight 14 ^^^ e.rotateRight 18 ^^^ e.rotateRight 41
  let ch := (e &&& w64 h 5) ^^^ (~~~ e &&& w64 h 6)
  let t1 := w64 h 7 + s1 + ch + kw
  let s0 := a.rotateRight 28 ^^^ a.rotateRight 34 ^^^ a.rotateRight 39
  let maj := (a &&& w64 h 1) ^^^ (a &&& w64 h 2) ^^^ (w64 h 1 &&& w64 h 2)
  [t1 + (s0 + maj), a, w64 h 1, w64 h 2, w64 h 3 + t1, e, w64 h 5, w64 h 6]

/-- The number of a little-endian byte list. -/
def natOfLE : List Byte → Nat
  | [] => 0
  | b :: r => b.toNat + 256 * natOfLE r

/-- Sixteen big-endian words of a block. -/
def beWords : Nat → List Byte → List Word
  | 0, _ => []
  | n + 1, bs => BitVec.ofNat 64 (natOfLE (bs.take 8).reverse) :: beWords n (bs.drop 8)

/-- The blocks of a padded message, n of them. -/
def shaBlocks (ks : List Word) (h : List Word) (bs : List Byte) : Nat → List Word
  | 0 => h
  | n + 1 =>
    let w := shaSchedule (beWords 16 bs) 64
    let h2 := (List.zipWith (· + ·) ks w).foldl shaRound h
    shaBlocks ks (List.zipWith (· + ·) h h2) (bs.drop 128) n
/-- The SHA-512 digest, 64 bytes. -/
def sha512 (msg : List Byte) : List Byte :=
  let l := msg.length
  let padn := (239 - l % 128) % 128
  let len := (List.range 16).map fun i => BitVec.ofNat 8 (l * 8 / 2 ^ (8 * (15 - i)) % 256)
  let m := msg ++ [0x80#8] ++ List.replicate padn 0 ++ len
  let h := shaBlocks (primes80.map shaK) ((primes80.take 8).map shaH) m (m.length / 128)
  (h.map fun w => (List.range 8).map fun i => BitVec.ofNat 8 (w.toNat / 2 ^ (8 * (7 - i)) % 256)).flatten

end Sys2Proof.Machine
end

