-- ==== Sys2Proof/Machine/Ops.lean ====
section
/-! DEFINITION. The named operations over the package's state: bytes and memory, poison and memory errors, free values,
the banks' registers and results in flight, fault records, abandoning, taking a trap and returning from one. -/

namespace Sys2Proof.Machine

/-! ## Lists, bytes and words -/

/-- The vector whose elements are f of the elements. -/
def vmap {α β : Type} {n : Nat} (f : α → β) (v : Vector α n) : Vector β n :=
  Vector.mk (v.toList.map f).toArray (by simp)

/-- The bytes of a number, least significant first (R149). -/
def bytesOf : Nat → Nat → List Byte
  | 0, _ => []
  | n + 1, w => BitVec.ofNat 8 (w % 256) :: bytesOf n (w / 256)

/-- The number whose bytes these are, least significant first. -/
def natOf : List Byte → Nat
  | [] => 0
  | b :: bs => b.toNat + 256 * natOf bs

/-- Sign-extend the low n bits to 64 (n at most 64). -/
def sext64 (n : Nat) (x : Nat) : Word :=
  let y := x % 2 ^ n
  if n = 0 then 0 else if y < 2 ^ (n - 1) then BitVec.ofNat 64 y else BitVec.ofInt 64 ((y : Int) - 2 ^ n)

/-- Insert by key, after the entries of equal key. -/
def insertBy {α : Type} (key : α → Nat) (x : α) : List α → List α
  | [] => [x]
  | y :: ys => if key x < key y then x :: y :: ys else y :: insertBy key x ys

/-- Sort by key; entries of equal key keep their order. -/
def sortBy {α : Type} (key : α → Nat) (l : List α) : List α := l.foldl (fun acc x => insertBy key x acc) []

/-- Saturating addition to a 64-bit count (R68, R114). -/
def satAdd (w : Word) (n : Nat) : Word := BitVec.ofNat 64 (Nat.min (w.toNat + n) (2 ^ 64 - 1))

/-! ## Memory -/

/-- The canonical form of the memory list: addresses rise strictly, no byte is zero. -/
def Memory.wf : List Host.Cell → Bool
  | [] => true
  | (_, b) :: [] => b ≠ 0
  | (a, b) :: (a', b') :: r => a < a' && b ≠ 0 && Memory.wf ((a', b') :: r)

/-- One byte; an unlisted byte reads 0 (R403 item 4). -/
def memByte (m : List Host.Cell) (a : Nat) : Byte :=
  match m with
  | [] => 0
  | (k, b) :: r => if k = a then b else if a < k then 0 else memByte r a

/-- One byte written: an entry for a non-zero byte, none for zero. -/
def memSet (m : List Host.Cell) (a : Nat) (x : Byte) : List Host.Cell :=
  match m with
  | [] => if x = 0 then [] else [(a, x)]
  | (k, b) :: r =>
    if k = a then (if x = 0 then r else (a, x) :: r)
    else if a < k then (if x = 0 then (k, b) :: r else (a, x) :: (k, b) :: r)
    else (k, b) :: memSet r a x

/-- n bytes from address a. -/
def memBytes (m : List Host.Cell) (a n : Nat) : List Byte :=
  match n with
  | 0 => []
  | n + 1 => memByte m a :: memBytes m (a + 1) n

/-- Bytes written from address a. -/
def memSets (m : List Host.Cell) (a : Nat) : List Byte → List Host.Cell
  | [] => m
  | x :: xs => memSets (memSet m a x) (a + 1) xs

/-- The size of near (false) and stacked (true) SRAM (R83). -/
def sramSize (stk : Bool) : Nat := if stk then 0x1200000 else 0x200000

/-- The physical address of an offset of a cog's memory. -/
def physAddr (cog : Nat) (stk : Bool) (off : Nat) : Nat := cog * 2 ^ 26 + (if stk then 2 ^ 25 else 0) + off

/-- The cog of a physical address. -/
def physCog (a : Nat) : Nat := a / 2 ^ 26
/-- A physical address lies in stacked SRAM. -/
def physStk (a : Nat) : Bool := a / 2 ^ 25 % 2 = 1
/-- The offset within its memory. -/
def physOff (a : Nat) : Nat := a % 2 ^ 25

/-- The device form of page-table word 0 for a physical address of a package, with the byte offset in bits 24:0 (R94,
R115). -/
def deviceForm (pkg a : Nat) : Word :=
  BitVec.ofNat 64 (pkg * 2 ^ 52 + physCog a * 2 ^ 43 + (physStk a).toNat * 2 ^ 42 + physOff a / 65536 * 2 ^ 33 +
    physOff a)

/-- The physical address of a granule named in the device form (R94). -/
def granuleAddr (w0 : Word) : Nat :=
  let w := w0.toNat
  physAddr (w / 2 ^ 43 % 512) (w / 2 ^ 42 % 2 = 1) (w / 2 ^ 33 % 512 * 65536)

/-! ## Poison (R112) -/

/-- The 64-byte lines that bytes a to a + n - 1 touch. -/
def linesOf (a n : Nat) : List Nat :=
  if n = 0 then [] else (List.range ((a + n - 1) / 64 - a / 64 + 1)).map (a / 64 + ·)

/-- Add a line to an ascending list. -/
def lineInsert (l : Nat) : List Nat → List Nat
  | [] => [l]
  | x :: xs => if l = x then x :: xs else if l < x then l :: x :: xs else x :: lineInsert l xs

/-- Some line of the run is poisoned. -/
def poisoned (s : State) (a n : Nat) : Bool := (linesOf a n).any (s.poison.contains ·)

/-- A write of bytes a to a + n - 1: a line written whole loses its poison, a poisoned write poisons every line it
touches, any other line keeps its state (R112). -/
def poisonWrite (p : List Nat) (a n : Nat) (psn : Bool) : List Nat :=
  (linesOf a n).foldl (fun p l =>
    if psn then lineInsert l p
    else if a ≤ l * 64 ∧ l * 64 + 64 ≤ a + n then p.filter (· ≠ l) else p) p

/-- Mark the lines of a run poisoned. -/
def poisonLines (p : List Nat) (a n : Nat) : List Nat := (linesOf a n).foldl (fun p l => lineInsert l p) p

/-- One access writes these bytes at a physical address. DESIGN CHOICE (notes/assumptions/60.md): R112 lets a write of a
whole line remove its poison, and does not say whether it removes an error that no read has met yet; the model keeps the
error (State.ecc) across every write. -/
def State.store (s : State) (a : Nat) (bs : List Byte) (psn : Bool) : State :=
  { s with mem := memSets s.mem a bs, poison := poisonWrite s.poison a bs.length psn }

/-- n bytes at a physical address. -/
def State.load (s : State) (a n : Nat) : List Byte := memBytes s.mem a n

/-! ## Banks and cogs -/

/-- A bank of the package. -/
def State.bank (s : State) (b : BankIx) : Bank := s.banks[b]

/-- Replace a bank. -/
def State.setBank (s : State) (b : BankIx) (x : Bank) : State := { s with banks := s.banks.set b x }

/-- Change a bank. -/
def State.modBank (s : State) (b : BankIx) (f : Bank → Bank) : State := s.setBank b (f (s.bank b))

/-- The bank whose syllable executes. -/
def State.me (s : State) : Bank := s.bank s.cur

/-- Change the bank whose syllable executes. -/
def State.modMe (s : State) (f : Bank → Bank) : State := s.modBank s.cur f

/-- A cog of the package. -/
def State.cog (s : State) (c : CogIx) : Cog := s.cogs[c]

/-- Change a cog. -/
def State.modCog (s : State) (c : CogIx) (f : Cog → Cog) : State :=
  { s with cogs := s.cogs.set c (f s.cogs[c]) }

/-- A number as a cog id, if it is one. -/
def cog? (n : Nat) : Option CogIx := if h : n < 320 then some ⟨n, h⟩ else none

/-- A number as a bank of the package, if it is one. -/
def bank? (n : Nat) : Option BankIx := if h : n < 640 then some ⟨n, h⟩ else none

/-- Every bank of the package. -/
def allBanks : List BankIx := List.finRange 640

/-- Every cog of the package. -/
def allCogs : List CogIx := List.finRange 320

/-- BANKID of a bank (R165). -/
def State.bankId (s : State) (b : BankIx) : Word :=
  BitVec.ofNat 64 (s.hub.pkg.toNat * 1024 + b.cog.val * 2 + b.num)

/-! ## Free values (Config) -/

/-- The next draw's number, and the state past it. -/
def State.draw (s : State) : Nat × State := (s.free, { s with free := s.free + 1 })

/-- A core cycle later than now by a free number of cycles, at least one. -/
def State.later (s : State) : Nat × State := (s.clk + 1 + Config.freeDelay s.free, { s with free := s.free + 1 })

/-- A new id for an access, copy or request. -/
def State.newId (s : State) : Nat × State := (s.nextId, { s with nextId := s.nextId + 1 })

/-- Give something to the outside world. -/
def State.emit (s : State) (o : Out) : State := { s with outbox := s.outbox ++ [o] }

/-- Schedule an internal event for a core cycle. -/
def State.schedule (s : State) (due : Nat) (ev : Instr) : State := { s with agenda := s.agenda ++ [(due, ev)] }

/-! ## Fault records (R394) -/

/-- The 64 bytes of a fault queue entry. -/
def faultEntry (pkg : BitVec 12) (type : Nat) (rec : List Byte) : List Byte :=
  let r := rec.take 32
  [BitVec.ofNat 8 type, 0] ++ bytesOf 2 pkg.toNat ++ List.replicate 4 0 ++ r ++ List.replicate (56 - r.length) 0

/-- The queue in host memory takes an entry now. -/
def Hub.fqOpen (h : Hub) : Bool :=
  natBit h.fqbase.toNat 0 && h.busMaster && 0 < h.fqsize.toNat &&
  (h.fqtail.toNat + 1) % h.fqsize.toNat ≠ h.fqhead.toNat % h.fqsize.toNat

/-- Write one entry at FQTAIL, advance FQTAIL, signal vector 1. -/
def State.fqWrite (s : State) (e : List Byte) : State :=
  let h := s.hub
  let s := s.emit (.pcieWrite s.nextId (h.fqbase.toNat / 4096 * 4096 + 64 * h.fqtail.toNat) e)
  { s with nextId := s.nextId + 1, outbox := s.outbox ++ [.msix 1],
           hub := { h with fqtail := BitVec.ofNat 16 ((h.fqtail.toNat + 1) % h.fqsize.toNat) } }

/-- Move entries from the hub's own buffer to the queue while it takes them, in order of detection. -/
def State.fqDrain (s : State) : List (List Byte) → State
  | [] => { s with hub := { s.hub with fqown := [] } }
  | e :: es => if s.hub.fqOpen then (s.fqWrite e).fqDrain es else { s with hub := { s.hub with fqown := e :: es } }

/-- A fault record enters the queue, or the hub's own buffer of 256 entries whose oldest entry gives way. -/
def State.record (s : State) (type : Nat) (rec : List Byte) : State :=
  let own := s.hub.fqown ++ [faultEntry s.hub.pkg type rec]
  let s := s.fqDrain own
  if s.hub.fqown.length > 256 then
    { s with hub := { s.hub with fqown := s.hub.fqown.tail, fqlost := satAdd s.hub.fqlost 1 } }
  else s

/-- A memory error record (R115). -/
def State.memRecord (s : State) (cause src : Nat) (bank : Option Nat) (loc : Word) (addr : Word) (synd : Nat) : State :=
  s.record 0x01 (bytesOf 8 s.time.toNat ++ bytesOf 8 loc.toNat ++
    bytesOf 8 (cause + 256 * src + 65536 * bank.getD 0xFF + 2 ^ 32 * synd) ++ bytesOf 8 addr.toNat)

/-! ## Memory errors (R111, R112) -/

/-- The bytes of a codeword: 8 of near SRAM, 16 of stacked SRAM. -/
def EccError.size (e : EccError) : Nat := if physStk e.addr then 16 else 8

/-- The codeword holds some of n bytes from a. -/
def EccError.meets (e : EccError) (a n : Nat) : Bool := e.addr < a + n && a < e.addr + e.size

/-- One codeword with errors is read: a single-bit error is corrected and counted; more poison the line, and are counted and
recorded unless the line is poisoned already, since a later read of a poisoned line writes no new record (R111, R112,
R115). -/
def State.eccWord (s : State) (src : Nat) (bank : Option Nat) (addr : Word) (e : EccError) : State :=
  let s := { s with ecc := s.ecc.filter (· ≠ e) }
  match cog? (physCog e.addr) with
  | none => s
  | some c =>
    if 2 ≤ e.bits then
      if s.poison.contains (e.addr / 64) then s else
      let (n, s) := s.draw
      let s := s.modCog c fun x => { x with memue := satAdd x.memue 1 }
      let s := { s with poison := lineInsert (e.addr / 64) s.poison }
      s.memRecord (if physStk e.addr then 2 else 1) src bank (deviceForm s.hub.pkg.toNat e.addr) addr
        (Config.freeNat n % 2 ^ 32)
    else if physStk e.addr then s.modCog c fun x => { x with memceStk := satAdd x.memceStk 1 }
    else s.modCog c fun x => { x with memceNear := satAdd x.memceNear 1 }

/-- The codewords that hold n bytes from a are read. -/
def State.eccRead (s : State) (src : Nat) (bank : Option Nat) (addr : Word) (a n : Nat) : State :=
  (s.ecc.filter (·.meets a n)).foldl (fun s e => s.eccWord src bank addr e) s

/-- The runs of an access are read. -/
def State.eccRuns (s : State) (src : Nat) (bank : Option Nat) (addr : Word) (l : List (Nat × Nat)) : State :=
  l.foldl (fun s r => s.eccRead src bank addr r.1 r.2) s

/-! ## Register numbering (R161) -/

/-- The physical scalar of sn. -/
def Bank.physS (b : Bank) (n : SReg) : Fin 64 :=
  if n.val < 32 then n else ⟨32 + (n.val - 32 + b.rotS.toNat) % 32, by omega⟩

/-- The physical vector of vn. -/
def Bank.physV (b : Bank) (n : VReg) : Fin 64 :=
  if n.val < 32 then n else ⟨32 + (n.val - 32 + b.rotV.toNat) % 32, by omega⟩

/-- The physical predicate of pn. -/
def Bank.physP (b : Bank) (n : PReg) : Fin 128 :=
  if n.val < 64 then n else ⟨64 + (n.val - 64 + b.rotP.toNat) % 64, by omega⟩

/-- The value of sn; s0 reads zero. -/
def Bank.readS (b : Bank) (n : SReg) : Word := if b.physS n = 0 then 0 else b.s[b.physS n]

/-- The value of pn; p0 reads true. -/
def Bank.readP (b : Bank) (n : PReg) : Bool := if b.physP n = 0 then true else b.p[b.physP n]

/-- The value of vn. -/
def Bank.readV (b : Bank) (n : VReg) : Vec := b.v[b.physV n]

/-- The port is bound. -/
def PortState.bound (q : PortState) : Bool := q.peer ≠ .none

/-- Replace a port of a bank. -/
def Bank.setPort (b : Bank) (i : Fin 16) (q : PortState) : Bank := { b with ports := b.ports.set i q }

/-! ## Results (R156, R157, R188, R261) -/

/-- The index of a cause's counter (R68). -/
def satCnt (a : Vector Word 5) (i : Fin 5) (n : Nat) : Vector Word 5 := a.set i (satAdd a[i] n)

/-- Flags and counters take the events of one instruction (R66 to R69). -/
def Bank.addCauses (b : Bank) (c : Causes) : Bank :=
  { b with
    arflags := b.arflags ||| BitVec.ofNat 5 ((if c.inv > 0 then 1 else 0) + (if c.ovf > 0 then 2 else 0) +
      (if c.sat > 0 then 4 else 0) + (if c.inx > 0 then 8 else 0) + (if c.chk > 0 then 16 else 0))
    arcnt := satCnt (satCnt (satCnt (satCnt (satCnt b.arcnt 0 c.inv) 1 c.ovf) 2 c.sat) 3 c.inx) 4 c.chk }

/-- A CSR write field by field (R13, R67, R68, R91, R107, R166, R253, R328); read-only fields do not change. -/
def Bank.writeCsr (b : Bank) (n : BitVec 16) (w : Word) : Bank :=
  match n.toNat with
  | 0x02 => { b with rotS := w.extractLsb' 0 5, rotV := w.extractLsb' 8 5, rotP := w.extractLsb' 16 6 }
  | 0x10 => { b with arflags := b.arflags &&& ~~~ (w.extractLsb' 0 5) }
  | 0x11 => { b with arcnt := b.arcnt.set 0 w }
  | 0x12 => { b with arcnt := b.arcnt.set 1 w }
  | 0x13 => { b with arcnt := b.arcnt.set 2 w }
  | 0x14 => { b with arcnt := b.arcnt.set 3 w }
  | 0x15 => { b with arcnt := b.arcnt.set 4 w }
  | 0x20 => { b with asidcur := w.extractLsb' 0 12 }
  | 0x21 => { b with memdbg := w.getLsbD 0 }
  | 0x30 => { b with tvec := w &&& ~~~ 7#64 }
  | 0x35 => { b with tscr0 := w }
  | 0x36 => { b with tscr1 := w }
  | _ => b

/-- The bits of v under the mask, the bits of old elsewhere. -/
def maskedSet {n : Nat} (old v mask : BitVec n) : BitVec n := (v &&& mask) ||| (old &&& ~~~ mask)

/-- One result is written; writes to s0 and p0 are discarded (R157). A window result that names the other bank is
written there by its own operation. -/
def Bank.writeRes (b : Bank) : Res → Bank
  | .s n v => if n = 0 then b else { b with s := b.s.set n v }
  | .p n v => if n = 0 then b else { b with p := b.p.set n v }
  | .v n v m => { b with v := b.v.set n (maskedSet b.v[n] v m) }
  | .q n v m => { b with q := b.q.set n (maskedSet b.q[n] v m) }
  | .c n v => { b with cWork := b.cWork.set n v }
  | .cv n v m => { b with cvWork := b.cvWork.set n (maskedSet b.cvWork[n] v m) }
  | .k n v => { b with k := b.k.set n v }
  | .g n v => { b with g := b.g.set n v }
  | .h n v => { b with h := b.h.set n v }
  | .win other n w => if other then b else { b with windows := b.windows.set n w }
  | .csr n v => b.writeCsr n v

/-- A result in flight is written, with its flag and counter updates (R69). -/
def Bank.retireOne (b : Bank) (x : Pending) : Bank :=
  let b := (x.res.foldl Bank.writeRes b).addCauses x.causes
  match x.req with
  | none => b
  | some id => { b with busy := b.busy.filter (·.2 ≠ id) }

/-- CSR writes of a cycle come before the updates of the same cycle (R69). -/
def Pending.isCsr (x : Pending) : Bool := x.res.any fun r => match r with | .csr _ _ => true | _ => false

/-- The order in which the results of one cycle are written: CSR writes first. -/
def Pending.order (x : Pending) : Nat := if x.isCsr then 0 else 1

/-- Results of one cycle in the order in which they are written: as issued (R69, R157, R324). -/
def inOrder (l : List Pending) : List Pending := sortBy Pending.order (sortBy Pending.seq l)

/-- The results due by a cycle are written. One that is due earlier is an answer that has come since the last cycle, and is
written with this one's. -/
def Bank.retire (b : Bank) (clk : Nat) : Bank :=
  let due := b.inflight.filter (·.due ≤ clk)
  (inOrder due).foldl Bank.retireOne { b with inflight := b.inflight.filter (¬ ·.due ≤ clk) }

/-- Window results for the other bank of the cog (R254). -/
def Bank.winOther (x : Pending) : List (Fin 64 × Win) :=
  x.res.filterMap fun r => match r with | .win true n w => some (n, w) | _ => none

/-- Windows written from the cog's other bank. -/
def Bank.setWins (b : Bank) (l : List (Fin 64 × Win)) : Bank :=
  l.foldl (fun b e => { b with windows := b.windows.set e.1 e.2 }) b

/-- A bank's results due by now are written, those for the other bank's windows there. -/
def State.retireBank (s : State) (b : BankIx) : State :=
  let x := s.bank b
  if x.inflight.isEmpty then s
  else
    let ws := ((x.inflight.filter (·.due ≤ s.clk)).map Bank.winOther).flatten
    let s := s.setBank b (x.retire s.clk)
    if ws.isEmpty then s else s.modBank b.other fun y => y.setWins ws

/-- The current bank issues a result of exposed latency L. -/
def State.result (s : State) (L : Nat) (res : List Res) (causes : Causes := {}) : State :=
  s.modMe fun b =>
    { b with inflight := b.inflight ++ [{ due := s.clk + L, res := res, causes := causes, seq := s.nextId }] }

/-- The result that writes physical scalar n. -/
def resS (n : Fin 64) (v : Word) : Res := .s n v

/-- The current bank issues an interlocked result that arrives by itself at a core cycle (R225). -/
def State.resultAt (s : State) (due id : Nat) (res : List Res) : State :=
  s.modMe fun b =>
    { b with inflight := b.inflight ++ [{ due := due, res := res, causes := {}, seq := id, req := some id }] }

/-- Mark a register busy until request id answers (R225). Physical scalar 0 is never busy. -/
def Bank.mark (b : Bank) (r : BusyReg) (id : Nat) : Bank :=
  if r = .s 0 ∨ r = .p 0 then b else { b with busy := b.busy ++ [(r, id)] }

/-- A register waits for an interlocked result. -/
def Bank.isBusy (b : Bank) (r : BusyReg) : Bool := b.busy.any (·.1 = r)

/-- The result that writes a busy register with a 64-bit value (its low bits for a predicate). -/
def BusyReg.res (r : BusyReg) (w : Word) : Res :=
  match r with
  | .s n => .s n w
  | .c n => .c n w
  | .v n => .v n (w.setWidth 4096) (BitVec.allOnes 4096)
  | .p n => .p n (w.getLsbD 0)
  | .g n => .g n Iter.reset
  | .h n => .h n (w.setWidth 128)

/-- An interlocked result of request id arrives: it is written with the results of the cycle that retires next, by the
issue order of its request, and its registers are free then (R157, R225). -/
def State.answer (s : State) (b : BankIx) (id : Nat) (res : List Res) (causes : Causes := {}) : State :=
  s.modBank b fun x =>
    { x with inflight := x.inflight ++ [{ due := s.clk, res := res, causes := causes, seq := id, req := some id }] }

/-! ## The core (R40, R41) -/

/-- The bank holds its cog's core. -/
def State.holds (s : State) (b : BankIx) : Bool := (s.cog b.cog).holder = some (decide (b.num = 1))

/-- The current holder gives the core up, and the cycle counts for it (R42); the choice of R41 follows. -/
def State.yield (s : State) (b : BankIx) : State :=
  if s.holds b then
    let held : Bool := (s.cog b.cog).heldFrom ≤ s.clk
    (s.modBank b fun x =>
      { x with yieldClk := s.clk, budcnt := if x.live && held then x.budcnt + 1 else x.budcnt }).modCog b.cog fun c =>
      { c with holder := none, lastHolder := c.holder }
  else s

/-! ## Abandoning (R37) -/

/-- Reservations return, working carries take their committed values, the bases become zero; the next firing is a
re-run (R39). DESIGN CHOICE (notes/assumptions/62.md): a put whose header is still to be written (R128) is dropped, and the
header is not written. -/
def Bank.abandon (b : Bank) : Bank :=
  { b with
    ports := vmap (fun p => { p with reserved := 0, puts := 0, rstPuts := 0 }) b.ports
    cWork := b.c, cvWork := b.cv, rotS := 0, rotV := 0, rotP := 0, live := false, puts := [],
    putSlots := [], afterTrap := none, delay := 0, pre := [], rerun := true }

/-! ## Traps (R323 to R331) -/

/-- INFO of a trap record (R330). -/
def trapInfo (stage : BitVec 32) (action sub cause : Nat) : Nat :=
  stage.toNat * 2 ^ 32 + action * 2 ^ 16 + sub * 256 + cause

/-- A trap record enters the fault queue (R330). -/
def State.trapRecord (s : State) (b : BankIx) (epc val : Word) (action sub cause : Nat) : State :=
  s.record 0x02 (bytesOf 8 s.time.toNat ++ bytesOf 8 epc.toNat ++ bytesOf 8 val.toNat ++
    bytesOf 8 (trapInfo (s.bank b).stage.id action sub cause))

/-- The bank's iteration has ended: its copy errors that found no boundary are recorded, and no boundary event of it
remains (R109, R110, R331). -/
def State.flush (s : State) (b : BankIx) : State :=
  let x := s.bank b
  (x.pend.copyErr.foldl (fun s e => s.trapRecord b x.pc e.1 0x04 0 0x02) s).modBank b fun x => { x with pend := {} }

/-- The bank's iteration is abandoned (R37). -/
def State.abandonBank (s : State) (b : BankIx) : State := (s.flush b).modBank b Bank.abandon

/-- TCAUSE of a trap (R328). -/
def Trap.tcause (t : Trap) : Word :=
  BitVec.ofNat 64 (t.cause + 256 * t.sub + (if t.fetch then 2 ^ 20 else 0) + 2 ^ 21 * t.slot)

/-- The bank stops (R330): abandoned, yielded, one record with ACTION 0x01. -/
def State.stopBank (s : State) (b : BankIx) (epc val : Word) (sub cause : Nat) : State :=
  let s := s.trapRecord b epc val 0x01 sub cause
  let s := (s.abandonBank b).modBank b fun x =>
    { x with mode := .stopped, hmode := false, aband := false, handlerAt := none }
  s.yield b

/-- The causes that abandon the iteration (R326, R327): the budget trap and the rate trap. -/
def causeAbandons (cause : Nat) : Bool := cause = 0x04 || cause = 0x20

/-- A trap is taken in a drained bank: TCAUSE, TEPC and TVAL are written, then the handler starts (R327), or with TVEC
zero the action of R326 runs; the timing trap's sleeps only when SLEEP.UNTIL would (R211, R335). A second trap while a
handler runs is a double trap (R330). -/
def State.enterTrap (s : State) (b : BankIx) (t : Trap) (epc : Word) : State :=
  let x := s.bank b
  if x.hmode then
    let s := s.modBank b fun x => { x with tcause := t.tcause, tepc := epc, tval := t.val }
    s.stopBank b epc t.val t.cause 0x3F
  else
    let s := s.modBank b fun x => { x with tcause := t.tcause, tepc := epc, tval := t.val }
    if t.cause = 0x04 ∧ x.budgetRow + 1 ≥ 8 then s.stopBank b epc t.val t.sub t.cause
    else if x.tvec ≠ 0 then
      (if causeAbandons t.cause then s.abandonBank b else s).modBank b fun x =>
        let x := if t.cause = 0x04 then { x with budgetRow := x.budgetRow + 1 } else x
        let x := if causeAbandons t.cause then { x with aband := true, handlerAt := some s.clk } else x
        { x with hmode := true, pc := x.tvec, mode := if s.holds b then .running else .ready, nextIssue := s.clk + 1 }
    else if t.cause = 0x01 ∨ t.cause = 0x21 then
      let s := s.trapRecord b epc t.val 0x02 t.sub t.cause
      let s := s.modBank b fun x => { x with pc := epc, mode := .ready }
      s.yield b
    else if t.cause = 0x03 then
      let s := s.modBank b fun x =>
        { x with pc := x.rstpt, rotS := x.rstRot.1, rotV := x.rstRot.2.1, rotP := x.rstRot.2.2,
                 ports := vmap (fun p => { p with puts := p.rstPuts }) x.ports }
      if t.val.ule s.time || !s.copies.any (·.bank = b) then
        s.modBank b fun x => { x with mode := if s.holds b then .running else .ready, nextIssue := s.clk + 1 }
      else (s.modBank b fun x => { x with mode := .sleepTrap t.val }).yield b
    else if t.cause = 0x04 then
      let s := s.trapRecord b epc t.val 0x03 t.sub t.cause
      let s := (s.abandonBank b).modBank b fun x => { x with mode := .idle, budgetRow := x.budgetRow + 1 }
      s.yield b
    else s.stopBank b epc t.val t.sub t.cause

/-- The bank's cog has failed and does nothing more (R331). -/
def State.dead (s : State) (b : BankIx) : Bool := (s.cog b.cog).failed

/-- M instructions of the bank, queued or running (R291, R324). -/
def State.mBusy (s : State) (b : BankIx) : Bool :=
  (s.cog b.cog).mq.any (·.bank = b) || (s.cog b.cog).mLoads.any (·.1.bank = b) || s.clk < (s.bank b).mDone

/-- What a drain still has to wait for (R324): results in flight, M instructions, and loads that are not yet performed.
Stores, atomics, copies and groupset messages are not awaited. -/
def State.draining (s : State) (b : BankIx) : Bool :=
  !(s.bank b).inflight.isEmpty || s.mBusy b || s.accesses.any fun x => x.bank = b && x.owner = .bank && x.kind = .load

/-- Issue stops, and the trap is taken once the bank has drained (R324): at once when nothing is left to wait for, else
by TRAP_TAKE. -/
def State.raise (s : State) (b : BankIx) (t : Trap) (epc : Word) : State :=
  if s.draining b then s.modBank b fun x => { x with mode := .trapping t epc }
  else s.enterTrap b t epc

/-- TRET (R329, R333): the handler ends. After an abandon the bank becomes idle; else control returns to TEPC, or with
rst to RSTPT with ROT and the put counts recorded there. The next bundle issues 2 cycles later. -/
def State.trapReturn (s : State) (b : BankIx) (rst : Bool) : State :=
  let x := s.bank b
  if x.aband then
    let s := s.modBank b fun x => { x with hmode := false, aband := false, handlerAt := none, mode := .idle }
    s.yield b
  else
    s.modBank b fun x =>
      let x := { x with hmode := false, aband := false, handlerAt := none, nextIssue := s.clk + 2 }
      if rst then
        { x with pc := x.rstpt, rotS := x.rstRot.1, rotV := x.rstRot.2.1, rotP := x.rstRot.2.2,
                 ports := vmap (fun p => { p with puts := p.rstPuts }) x.ports }
      else { x with pc := x.tepc }

/-! ## Issue of one syllable -/

/-- What a syllable does when it issues: a new state, or why its bundle has no effect. -/
abbrev Core := State → Except Stop State

/-- The current bank tries its bundle again next cycle. -/
def State.again (s : State) : State := s.modMe fun b => { b with nextIssue := s.clk + 1 }

/-! ## Hub-answered faults (R99, R103, R113) -/

/-- The region of a stacked offset (R113). -/
def regionOf (off : Nat) : Fin 9 := ⟨off / 2 ^ 21 % 9, Nat.mod_lt _ (by omega)⟩

/-- The lowest region of a cog whose state is not the one RETREQ asks for, if none is in transition (R113). -/
def Cog.nextRegion (c : Cog) : Option (Fin 9) :=
  if c.regions.toList.any (fun r => r = .entering || r = .exiting) then none
  else (List.finRange 9).find? fun k =>
    (c.retreq.getLsbD k.val && c.regions[k] = .active) || (!c.retreq.getLsbD k.val && c.regions[k] = .retained)

/-- The next region of the cog begins its transition; its end is a free time of at most 240,000 cycles (R113). -/
def State.retStart (s : State) (c : CogIx) : State :=
  match (s.cog c).nextRegion with
  | none => s
  | some k =>
    let (n, s) := s.draw
    let due := s.clk + 1 + Config.freeDelay n % 240000
    let s := s.modCog c fun x =>
      { x with retEnd := due, regions := x.regions.set k (if x.regions[k] = .active then .entering else .exiting) }
    s.schedule due (.retentionTransitionDone c)

/-- RETREQ takes a value and the transitions it asks for begin (R113, R114). -/
def State.setRetreq (s : State) (c : CogIx) (r : BitVec 9) : State :=
  (s.modCog c fun x => { x with retreq := r }).retStart c

/-- The hub holds a fault until page-table work of its own is done: a collapse of the granule under way. -/
def Hub.works (h : Hub) (asid : BitVec 12) (goff : BitVec 52) : Bool :=
  (h.collapses.any fun c => c.req.asid = asid && c.req.goff.toNat / 65536 = goff.toNat / 65536) ||
  h.closed.contains (asid, goff.toNat / 65536)

/-- A page of ASID 0 that the recovery of a unit rebuilds: at a KIND 0x03 target, or because its OWNER was in the unit
(R342, R344). -/
def Image.rebuilds (im : Image) (x : FailedUnit) (asid : BitVec 12) (off : Nat) : Bool :=
  asid = 0 &&
  ((im.fallback.any fun f => match f with
    | .run p g _ len => p = x.pkg && g.toNat ≤ off && off < g.toNat + len
    | _ => false) ||
   im.runs.any fun r => r.attr.getLsbD 14 && r.attr.toNat / 2 ^ 20 % 4096 = x.pkg && r.goff.toNat ≤ off &&
    off < r.goff.toNat + r.len)

/-- A recovery under way here still has to rebuild the page that a fault met (R103). -/
def State.rebuilding (s : State) (asid : BitVec 12) (off : Nat) : Bool :=
  s.hub.recov.any fun e => !e.2.2 && (s.image.map fun im => im.rebuilds e.1 asid off).getD false

/-- A fault reaches the hub. Retention: the hub requests exit, and answers when the region is active. Write protection
of a read-duplicate page that permits writes: the collapse goes to OWNER's hub. Any other fault is answered after the
work that covers it, and refused when none does. -/
def State.toHub (s : State) (party : FaultParty) (cause : Nat) (asid : BitVec 12) (goff : BitVec 52)
    (owner : Option Nat) : State :=
  let s := { s with hub := { s.hub with held := s.hub.held ++ [(party, asid, goff, cause)] } }
  if cause = 0x33 then
    match cog? (physCog goff.toNat) with
    | none => s
    | some c =>
      let k := regionOf (physOff goff.toNat)
      s.setRetreq c ((s.cog c).retreq &&& ~~~ (1#9 <<< k.val))
  else
    match owner with
    | some o =>
      let r : CollapseReq := ⟨s.hub.pkg.toNat, party, asid, goff⟩
      if o = s.hub.pkg.toNat then
        let (due, s) := s.later
        let c : Collapse := { req := r, opened := false, awaiting := [] }
        { s with hub := { s.hub with collapses := s.hub.collapses ++ [c] } }.schedule due (.collapse r)
      else s.emit (.hub o (.writeFault r))
    | none =>
      if s.hub.works asid goff || s.rebuilding asid goff.toNat then s
      else
        let (due, s) := s.later
        s.schedule due (.faultAnswer party true)

/-- The bank drains, then yields and sleeps until the hub answers (R103, R324). -/
def State.hubFault (s : State) (cause : Nat) (asid : BitVec 12) (goff : BitVec 52) (owner : Option Nat)
    (val : Word) : State :=
  let s := s.modMe fun b => { b with mode := .waitHub cause val s.slot, walk := none }
  (if s.draining s.cur then s else s.yield s.cur).toHub (.bank s.cur) cause asid goff owner

/-- The access that a bundle makes first is sent, once (Bank.pre). -/
def State.askFirst (s : State) (kind : AccKind) (op : GOp) (addr : Word) (after : List Nat) : State :=
  if s.me.pre.any (·.op = op) then s
  else
    let (id, s) := s.newId
    let (due, s) := s.later
    let x : Access :=
      { id := id, bank := s.cur, owner := .pre, kind := kind, cls := .unordered, acq := false, after := after, due := due,
        todo := [op], got := [], psn := false, lost := false, dst := .none, sent := false, epc := s.epc, addr := addr,
        gs := none }
    let a : PreAns := { id := id, op := op, done := false, fail := false, psn := false, lost := false, data := [] }
    { s.modMe fun b => { b with pre := b.pre ++ [a] } with accesses := s.accesses ++ [x] }

/-- The effect of a stop on the bundle's bank: an interlock tries again, a walk is started, a trap is taken, a
hub-answered fault puts the bank to sleep, an access that must come first is made. -/
def State.halt (s : State) : Stop → State
  | .stall => s.again
  | .walk asid goff =>
      match s.me.walk with
      | some (a, p, e) =>
          if a = asid ∧ p / 65536 = goff.toNat / 65536 ∧ s.clk < e then s.again
          else
            let (due, s) := s.later
            (s.modMe fun b => { b with walk := some (asid, goff.toNat, due) }).again
      | none =>
          let (due, s) := s.later
          (s.modMe fun b => { b with walk := some (asid, goff.toNat, due) }).again
  | .trap t =>
      let s := s.eccRuns t.src (some s.cur.num) t.val t.reads
      let s := match t.psn with
        | some loc => s.memRecord 4 t.src (some s.cur.num) loc t.val 0
        | none => s
      (s.modMe fun b => { b with pre := [] }).raise s.cur { t with slot := s.slot } s.epc
  | .hub cause asid goff owner val => s.hubFault cause asid goff owner val
  | .ask kind op addr after => (s.askFirst kind op addr after).again
  | .taken => s

/-- One syllable of the current bank: its effect, or what stops its bundle. -/
def issue (f : Core) (s : State) : Host.Outcome State Fault Refusal :=
  match f s with
  | .ok s' => .next { s' with stop := none }
  | .error e => .next { s.halt e with stop := some e }

/-- A trap of the syllable, with TVAL. -/
def trapOf {α : Type} (cause : Nat) (val : Word := 0) (sub : Nat := 0) : Except Stop α :=
  .error (.trap { cause := cause, sub := sub, val := val })

/-- Go on if the condition holds, else stop. -/
def check (c : Bool) (e : Stop) : Except Stop Unit := if c then .ok () else .error e

end Sys2Proof.Machine
end

