-- ==== Sys2Proof/Machine/Operands.lean ====
section
/-! DEFINITION. Reading and writing the operands of a syllable: every register file with its rotation, carry scalars and
vectors through their working copies, the stall on a busy register (R156, R161, R187, R225, R291). -/

namespace Sys2Proof.Machine

/-- A bundle that reads a register waiting for an earlier bundle's request stalls (R156, R225). -/
def State.free? (s : State) (r : BusyReg) : Except Stop Unit :=
  check (!s.me.busy.any fun x => x.1 = r && x.2 < s.ownFrom) .stall

/-- sn. -/
def State.rdS (s : State) (n : SReg) : Except Stop Word := do
  s.free? (.s (s.me.physS n))
  pure (s.me.readS n)

/-- A scalar operand: sn, or the working copy of cn (R187, R35). -/
def State.rdA (s : State) (x : SOp) : Except Stop Word :=
  match x with
  | .s n => s.rdS n
  | .c n => do
    s.free? (.c n)
    pure s.me.cWork[n]

/-- pn. -/
def State.rdP (s : State) (n : PReg) : Except Stop Bool := do
  s.free? (.p (s.me.physP n))
  pure (s.me.readP n)

/-- vn. -/
def State.rdV (s : State) (n : VReg) : Except Stop Vec := do
  s.free? (.v (s.me.physV n))
  pure (s.me.readV n)

/-- qn. -/
def State.rdQ (s : State) (n : QReg) : Mask := s.me.q[n]

/-- The mask of a vector syllable. -/
def State.rdMask (s : State) (m : VMask) : Option Mask := m.map s.rdQ

/-- gn. -/
def State.rdG (s : State) (n : GReg) : Except Stop Iter := do
  s.free? (.g n)
  pure s.me.g[n]

/-- hn. -/
def State.rdH (s : State) (n : HReg) : Except Stop (BitVec 128) := do
  s.free? (.h n)
  pure s.me.h[n]

/-- kn. -/
def State.rdK (s : State) (n : KReg) : F32 := s.me.k[n]

/-- The destination sn, fixed at issue (R156). -/
def State.dS (s : State) (n : SReg) (v : Word) : Res := .s (s.me.physS n) v

/-- A scalar destination: sn, or the working copy of cn. -/
def State.dA (s : State) (x : SOp) (v : Word) : Res :=
  match x with
  | .s n => s.dS n v
  | .c n => .c n v

/-- The destination pn. -/
def State.dP (s : State) (n : PReg) (v : Bool) : Res := .p (s.me.physP n) v

/-- The destination vn, under a mask of bits. -/
def State.dV (s : State) (n : VReg) (v mask : Vec) : Res := .v (s.me.physV n) v mask

/-- The register that an interlocked result of a scalar operand marks. -/
def State.busyA (s : State) (x : SOp) : BusyReg :=
  match x with
  | .s n => .s (s.me.physS n)
  | .c n => .c n

/-- The odd member of a pair: t + 1 of the same file (R214, R215). -/
def sopNext : SOp → SOp
  | .s n => .s (n + 1)
  | .c n => .c (n + 1)

/-- Two scalar sources, one scalar result of latency L. -/
def alu2 (L : Nat) (d a b : SOp) (f : Word → Word → Word) : Core := fun s => do
  let x ← s.rdA a
  let y ← s.rdA b
  pure (s.result L [s.dA d (f x y)])

/-- One scalar source, one scalar result of latency L. -/
def alu1 (L : Nat) (d a : SOp) (f : Word → Word) : Core := fun s => do
  let x ← s.rdA a
  pure (s.result L [s.dA d (f x)])

end Sys2Proof.Machine
end

