-- ==== Sys2Proof/Machine/Array.lean ====
section
/-! DEFINITION. What the matrix array and the tile registers compute: exact group sums and their promotion (R70 to
R73), the check column (R74 to R76), tile lines (R162), tile arithmetic (R307 to R310), and the reservoirs (R313 to
R318, R404). -/

namespace Sys2Proof.Machine

/-! ## Tiles (R162) -/

/-- The (row, column) of lane n of a line. -/
def cellOf (dir : Dir) (k n : Nat) : Nat × Nat :=
  match dir with
  | .row => (k % 128, n % 128)
  | .col => (n % 128, k % 128)
  | .dia => (n % 128, (n + k) % 128)
  | .adi => (n % 128, (k + 128 - n % 128) % 128)

/-- Row r of a tile. -/
def Tile.row (t : Tile) (r : Nat) : Vec := t.rows.toList.getD r 0

/-- The element at (r, n), as fp32 bits. -/
def Tile.elem (t : Tile) (r n : Nat) : Nat := lane 32 (t.row r) n

/-- The tile whose row r is f r of the present row; rows that f leaves alone stay. -/
def Tile.mapRows (t : Tile) (f : Nat → Vec → Vec) : Tile :=
  { t with rows := Vector.mk ((List.range 128).map fun r => f r (t.row r)).toArray (by simp) }

/-- Row r is poisoned. -/
def Tile.bad (t : Tile) (r : Nat) : Bool := t.psn.getLsbD r

/-- The poison bits set by f. -/
def psnOf (f : Nat → Bool) : BitVec 128 :=
  BitVec.ofNat 128 ((List.range 128).foldl (fun acc r => acc + (if f r then 2 ^ r else 0)) 0)

/-- One lane of a row replaced. -/
def setLane (v : Vec) (n x : Nat) : Vec :=
  maskedSet v (BitVec.ofNat 4096 (x % 2 ^ 32 * 2 ^ (32 * n))) (BitVec.ofNat 4096 ((2 ^ 32 - 1) * 2 ^ (32 * n)))

/-- A line as TRD delivers it: lanes of poisoned rows read as the canonical NaN (R304, R308). -/
def Tile.line (t : Tile) (dir : Dir) (k : Nat) : Vec :=
  pack 32 ((List.range 128).map fun n =>
    let (r, c) := cellOf dir k n
    if t.bad r then canonNan .fp32 else t.elem r c)

/-- A line written by TWR (R308); poison bits stay. -/
def Tile.setLine (t : Tile) (dir : Dir) (k : Nat) (v : Vec) : Tile :=
  match dir with
  | .row => t.mapRows fun r x => if r = k % 128 then v else x
  | _ => t.mapRows fun r x => setLane x (cellOf dir k r).2 (lane 32 v r)

/-- Rows lo to lo + n - 1 of a mask of poison bits. -/
def rowBits (lo n : Nat) : BitVec 128 := psnOf fun r => lo ≤ r && r < lo + n

/-! ## Element arithmetic on rows -/

/-- A row from f of its lanes, with the causes raised. -/
def rowMap (f : Nat → Nat × Causes) : Vec × Causes :=
  let r := (List.range 128).map f
  (pack 32 (r.map Prod.fst), (r.map Prod.snd).foldl Causes.plus {})

/-- A tile from f of its elements, row by row, with the causes raised. -/
def Tile.mapElems (t : Tile) (f : Nat → Nat → Nat → Nat × Causes) : Tile × Causes :=
  let rs := (List.range 128).map fun r => rowMap fun n => f r n (t.elem r n)
  (t.mapRows fun r _ => (rs.getD r (0, {})).1, (rs.map Prod.snd).foldl Causes.plus {})

/-- TSCALE (R309). -/
def Tile.scale (t : Tile) (rm : RMode) (m : Nat → Nat) : Tile × Causes :=
  t.mapElems fun r _ x => fMul .fp32 rm x (m r)

/-- TADD (R310): a destination row is poisoned if either is. -/
def Tile.add (t src : Tile) (rm : RMode) : Tile × Causes :=
  let (u, c) := t.mapElems fun r n x => fAdd .fp32 rm x (src.elem r n)
  ({ u with psn := t.psn ||| src.psn }, c)

/-- TMOV (R310, R304): bits move; a poisoned source row poisons, transposed every row. The destination's own poison
stays. -/
def Tile.move (t src : Tile) (tr : Bool) : Tile :=
  let u := if tr then t.mapRows fun r _ => pack 32 ((List.range 128).map fun n => src.elem n r)
    else { t with rows := src.rows }
  { u with psn := t.psn ||| (if tr then (if src.psn = 0 then 0 else BitVec.allOnes 128) else src.psn) }

/-- One element of TCST (R307): the exact product rounded once to the target. -/
def tcstElem (t : EType) (rm : RMode) (x m : Nat) : Nat × Causes :=
  let a := decodeF .fp32 x
  let b := decodeF .fp32 m
  if t.isInt then
    if a.isNan || b.isNan then (0, invalid)
    else
      match exactMul a b with
      | some v => floatToInt t rm v
      | none => (0, invalid)
  else arith t rm [a, b] (exactMul a b)

/-- The bytes of a row that TCST stores. -/
def tcstRow (t : EType) (rm : RMode) (row : Vec) (m : Nat) : List Byte × Causes :=
  let r := (List.range 128).map fun n => tcstElem t rm (lane 32 row n) m
  ((r.map fun e => bytesOf (t.width / 8) e.1).flatten, (r.map Prod.snd).foldl Causes.plus {})

/-! ## Group sums (R70 to R72) -/

/-- The exact value of an element, a scale's among them. -/
def elemVal (t : EType) (x : Nat) : FVal :=
  if t.isInt then .num (intVal t x < 0) (intVal t x).natAbs 0 else decodeF t x

/-- The value of an E8M0 scale. -/
def e8Val (x : Nat) : FVal := if x = 0xFF then .nan false else .num false 1 ((x : Int) - 127)

/-- The largest floor(log2 |p|) among the non-zero finite products. -/
def topExp (ps : List (Option FVal)) : Option Int :=
  ps.foldl (fun acc p => match p with
    | some (.num n m e) =>
      if m = 0 then acc
      else
        let l := (FVal.num n m e).logb
        match acc with
        | some a => some (max a l)
        | none => some l
    | _ => acc) none

/-- A product cut toward zero at 48 fraction bits below exponent E (R72). -/
def cut48 (top : Int) : FVal → FVal
  | .num n m e => if top - 48 ≤ e then .num n m e else .num n (m / 2 ^ (top - 48 - e).toNat) (top - 48)
  | v => v

/-- The exact sum of a group's products: none when one is invalid, or infinities disagree. -/
def groupSum (bf : Bool) (ps : List (Option FVal)) : Option FVal :=
  let ps := if bf then
      match topExp ps with
      | some t => ps.map fun p => p.map (cut48 t)
      | none => ps
    else ps
  ps.foldl (fun acc p => match acc, p with
    | some a, some b => exactAdd .rne a b
    | _, _ => none) (some (.num false 0 0))

/-- One promotion (R71): the sum scaled exactly, added to the accumulator, rounded once. -/
def promote (acc : Nat) (g : Option FVal) (sa sw : FVal) : Nat × Causes :=
  match g.bind fun x => (exactMul x sa).bind fun y => exactMul y sw with
  | none => (canonNan .fp32, invalid)
  | some v =>
    match decodeF .fp32 acc with
    | .nan s => (canonNan .fp32, if s then invalid else {})
    | a =>
      let v := if v.isZero then FVal.num false 0 0 else v
      arith .fp32 .rne [] (exactAdd .rne a v)

/-! ## Weight buffers (R295, R297) -/

/-- w[k][n] of a buffer. -/
def WBuf.elem (w : WBuf) (k n : Nat) : Nat := ((w.rows.toList.getD k 0).extractLsb' (16 * n) 16).toNat

/-- A check entry, if it is not the marker (R74), in units of 2^-16. -/
def checkVal (c : Word) : Option Int := if c = 0x8000000000000000 then none else some c.toInt

/-- A value as an integer in units of 2^-16, if it is one. -/
def fix16 : FVal → Option Int
  | .num n m e => let x : Int := (m * 2 ^ (e + 16).toNat : Nat); some (if n then -x else x)
  | _ => none

/-- The check entry of a row of fp8 or int8 weights: the exact sum of its values, or the marker (R74). -/
def checkOf (t : EType) (row : List Nat) : Word :=
  match row.foldl (fun (acc : Option Int) x => match acc, fix16 (elemVal t x) with
    | some a, some b => some (a + b)
    | _, _ => none) (some 0) with
  | some s => BitVec.ofInt 64 s
  | none => 0x8000000000000000

/-- A compared group mismatches (R75): the sum over every column of its group sums, against the check column. -/
def mismatch (avals : List FVal) (checks : List Word) (gs : List (Option FVal)) : Bool :=
  if avals.any (fun a => match a with | .num _ _ _ => false | _ => true) || checks.any (·.toNat = 2 ^ 63) then false
  else
    let l := groupSum false gs
    let m := groupSum false (List.zipWith (fun a c => exactMul a (match checkVal c with
      | some x => .num (x < 0) x.natAbs (-16)
      | none => .nan false)) avals checks)
    match l, m with
    | some (.num n a e), some (.num n' a' e') =>
      let q := min e e'
      signedAt n a e q ≠ signedAt n' a' e' q
    | _, _ => true

/-- The groups of a mode by their first reduction index and length (R70). -/
def groupsOf (t : EType) : List (Nat × Nat) := if t = .mxfp4 then [(0, 64), (64, 64)] else [(0, 128)]

/-- One activation row accumulated into one tile row (R303): the row, the causes, and the mismatching groups. -/
def mmulRow (w : WBuf) (t : EType) (a : List Nat) (sa : Nat → FVal) (row : Vec) : Vec × Causes × Nat :=
  let bf : Bool := t = .bf16
  ((groupsOf t).zipIdx).foldl (fun (acc : Vec × Causes × Nat) gi =>
    let (lo, len) := gi.1
    let ks := (List.range len).map (lo + ·)
    let av := ks.map fun k => elemVal t (a.getD k 0)
    let gs := (List.range 128).map fun n =>
      groupSum bf (List.zipWith (fun k x => exactMul x (elemVal w.fmt (w.elem k n))) ks av)
    let sw (n : Nat) : FVal := if t = .mxfp4 then e8Val ((w.e8m0.extractLsb' (8 * (2 * n + gi.2)) 8).toNat)
      else decodeF .fp32 w.scale.toNat
    let (v, c) := rowMap fun n => promote (lane 32 acc.1 n) ((gs.getD n none)) (sa gi.2) (sw n)
    let bad : Bool := !bf && mismatch av (ks.map fun k => w.check.toList.getD k 0) gs
    (v, (acc.2.1.plus c).plus { chk := if bad then 1 else 0 }, acc.2.2 + bad.toNat)) (row, {}, 0)

/-- The activation format pairs with a buffer's weight format (R300). -/
def modePairs (act w : EType) : Bool :=
  match act with
  | .fp8e4 | .fp8e5 => w = .fp8e4 || w = .fp8e5
  | .int8 | .uint8 => w = .int8
  | .bf16 => w = .bf16
  | .mxfp4 => w = .mxfp4
  | _ => false

/-! ## Reservoirs (R313 to R318, R404) -/

/-- Column n of a reservoir row, a 32-bit field. -/
def col (row : Vec) (n : Nat) : Nat := lane 32 row n

/-- Columns written. -/
def setCols (row : Vec) (l : List (Nat × Nat)) : Vec := l.foldl (fun r e => setLane r e.1 e.2) row

/-- An fp32 magnitude in units of 2^-149, with one INV where it is NaN, infinite or negative non-zero (R316, R404). -/
def weight (x : Nat) : Nat × Causes :=
  match decodeF .fp32 x with
  | .num neg m e => if neg ∧ m ≠ 0 then (0, invalid) else (m * 2 ^ (e + 149).toNat, {})
  | _ => (0, invalid)

/-- round_rne_fp32 of a number of units of 2^-149; beyond the largest finite value that value, with SAT (R316). -/
def roundMass (x : Nat) : Nat × Causes :=
  let (b, c) := roundTo .fp32 .rne false x (-149)
  if c.ovf = 0 then (b, {}) else (maxFinite .fp32, { sat := 1 })

/-- The key of a row's draws (R314). DESIGN CHOICE (notes/assumptions/62.md): the key word ASID is the whole of column
7, bits 31:12 too, which R313 leaves out of the field and which TWR, TMOV or TLD may have set. -/
def rsvKey (row : Vec) : List (BitVec 32) :=
  [5, 6, 7, 8].map (fun n => BitVec.ofNat 32 (col row n)) ++ [0, 0, 0, 0]

/-- A block's words. -/
def rsvBlock (row : Vec) (counter kind : Nat) : List (BitVec 32) :=
  chacha8 (rsvKey row) (BitVec.ofNat 32 counter) (BitVec.ofNat 32 kind)

/-- One reservoir takes a chunk (R316): candidate column and mass column written. -/
def weigh (row : Vec) (candCol massCol c : Nat) (ws : List Nat) (uwin urep : Nat) : Vec × Causes :=
  let sum := ws.foldl (· + ·) 0
  if sum = 0 then (row, {})
  else
    let (win, _, _) := ws.foldl (fun (acc : Option Nat × Nat × Nat) w =>
      let p := acc.2.1 + w
      (match acc.1 with
        | some i => some i
        | none => if uwin * sum < p * 2 ^ 32 then some acc.2.2 else none, p, acc.2.2 + 1)) (none, 0, 0)
    let (mass, c0) := weight (col row massCol)
    let (wc, c1) := roundMass sum
    let (m', c2) := roundMass (mass + (weight wc).1)
    let row := if urep * (weight m').1 < (weight wc).1 * 2 ^ 32 then
        setLane row candCol ((c * 128 + win.getD 127) % 2 ^ 32) else row
    (setLane row massCol m', (c0.plus c1).plus c2)

/-- A feed (R316, R317): p alone, or p and q. -/
def rsvFeed (row : Vec) (p : Vec) (q : Option Vec) : Vec × Causes :=
  let c := col row 2
  if 2 ^ 24 ≤ c then (row, { sat := 1 })
  else
    let read (v : Vec) := (List.range 128).map fun i => weight (lane 32 v i)
    let ps := read p
    let blk := rsvBlock row c 0
    let u (i : Nat) := (w32 blk i).toNat
    let cs (l : List (Nat × Causes)) := (l.map Prod.snd).foldl Causes.plus {}
    match q with
    | none =>
      let (r, c1) := weigh row 0 1 c (ps.map Prod.fst) (u 0) (u 1)
      (setLane r 2 (c + 1), (cs ps).plus c1)
    | some q =>
      let qs := read q
      let main := List.zipWith (fun (x y : Nat × Causes) => x.1 - y.1) ps qs
      let (r, c1) := weigh row 0 1 c main (u 0) (u 1)
      let (r, c2) := weigh r 3 4 c (ps.map Prod.fst) (u 2) (u 3)
      let d := col row 9
      let at_ (v : Vec) (l : List (Nat × Causes)) : Nat :=
        if (l.getD (d % 128) (0, {})).1 = 0 then 0 else lane 32 v (d % 128)
      let r := if d / 128 = c then setCols r [(10, at_ p ps), (11, at_ q qs)] else r
      (setLane r 2 (c + 1), (((cs ps).plus (cs qs)).plus c1).plus c2)

/-- RSV.INIT (R315). -/
def rsvInit (a b c : Word) : Vec :=
  setCols 0 [(0, 0xFFFFFFFF), (3, 0xFFFFFFFF), (5, a.toNat % 2 ^ 32), (6, a.toNat / 2 ^ 32), (7, b.toNat % 4096),
    (8, c.toNat % 2 ^ 32), (9, c.toNat / 2 ^ 32), (12, b.toNat / 65536 % 2)]

/-- RSV.DRAW (R318, R404): the result word and the events. -/
def rsvDraw (row : Vec) (bad : Bool) : Word × Causes :=
  let none32 := 0xFFFFFFFF
  let word (tok : Nat) (fb acc : Bool) : Word :=
    BitVec.ofNat 64 (tok + (if acc then 2 ^ 32 else 0) + (if fb then 2 ^ 33 else 0) +
      (if tok = none32 then 2 ^ 34 else 0))
  if bad then (BitVec.ofNat 64 (none32 + 2 ^ 34 + 2 ^ 35), {})
  else
    let draft := col row 9
    if col row 12 % 2 = 0 then (word (col row 0) false (draft ≠ none32 && col row 0 = draft), {})
    else if draft = none32 then (word (col row 3) true false, {})
    else
      let (px, c1) := weight (col row 10)
      let (qx, c2) := weight (col row 11)
      if (w32 (rsvBlock row 0 1) 0).toNat * qx < px * 2 ^ 32 then (word draft false true, c1.plus c2)
      else
        let (m, c3) := weight (col row 1)
        (if m ≠ 0 then word (col row 0) false false else word (col row 3) true false, (c1.plus c2).plus c3)

end Sys2Proof.Machine
end

