-- ==== Sys2Proof/Machine/Control.lean ====
section
/-! DEFINITION. Class B: branches, LOOP, the end of an iteration, the software trap, waiting and TIME (R203 to R213).
A branch sets the address of the next bundle and, taken, leaves one idle cycle. -/

namespace Sys2Proof.Machine

/-- The target of a displacement: the bundle's address plus 8 times disp32 (R159). -/
def State.target (s : State) (disp : BitVec 32) : Word := s.epc + 8 * disp.signExtend 64

/-- A taken branch: the next bundle is at the target, two cycles after this one (R203). -/
def State.branch (s : State) (pc : Word) : State :=
  { s.modMe (fun b => { b with nextIssue := s.clk + 2 }) with nextPc := pc }

/-- An indirect branch: a target whose bits 2:0 are not zero is an alignment fault at the bundle (R203). -/
def State.branchTo (s : State) (pc : Word) : Except Stop State :=
  if pc.toNat % 8 ≠ 0 then trapOf 0x15 pc else pure (s.branch pc)

/-- The bases after LOOP's rotation (R205). -/
def Bank.rotate (b : Bank) (rs rv rp : Bool) : Bank :=
  { b with rotS := if rs then b.rotS - 1 else b.rotS
           rotV := if rv then b.rotV - 1 else b.rotV
           rotP := if rp then b.rotP - 1 else b.rotP }

/-- The bank has a copy that is not complete (R211). -/
def State.copying (s : State) (b : BankIx) : Bool := s.copies.any (·.bank = b)

/-- A RING.PUT of the bundle is in a ring wait (R220). -/
def State.inRingWait (s : State) : Bool := s.me.mode = .ringWait

/-- WAIT.TIME and SLEEP.UNTIL: past the target, or with the other wake condition, nothing happens; else the bank yields
and sleeps (R210, R211). -/
def sleepOp (a : SReg) (disp : BitVec 32) (awake : State → Bool) (mode : Word → BankMode) : Core := fun s => do
  let x ← s.rdS a
  let target := x + disp.signExtend 64
  if target.ule s.time || awake s then pure s
  else pure ((s.modMe fun b => { b with mode := mode target }).yield s.cur)

/-- NOP (R209): the next bundle issues n cycles later, after a ring wait of its bundle too. -/
def execNop (n : BitVec 16) (s : State) : Host.Outcome State Fault Refusal :=
  issue (fun s => pure (s.modMe fun b => { b with nextIssue := s.clk + 1 + n.toNat, delay := n.toNat })) s

/-- BR -/
def execBr (disp : BitVec 32) (s : State) : Host.Outcome State Fault Refusal :=
  issue (fun s => pure (s.branch (s.target disp))) s

/-- JR -/
def execJr (a : SReg) (s : State) : Host.Outcome State Fault Refusal :=
  issue (fun s => do
    let x ← s.rdS a
    s.branchTo x) s

/-- CALL -/
def execCall (d : SReg) (disp : BitVec 32) (s : State) : Host.Outcome State Fault Refusal :=
  issue (fun s => pure ((s.result 1 [s.dS d s.nextPc]).branch (s.target disp))) s

/-- CALLR -/
def execCallr (d a : SReg) (s : State) : Host.Outcome State Fault Refusal :=
  issue (fun s => do
    let x ← s.rdS a
    (s.result 1 [s.dS d s.nextPc]).branchTo x) s

/-- RET -/
def execRet (a : SReg) (s : State) : Host.Outcome State Fault Refusal :=
  issue (fun s => do
    let x ← s.rdS a
    s.branchTo x) s

/-- LOOP (R205, R206): the counter is fixed with the bases in force at issue. -/
def execLoop (a : SReg) (rs rv rp : Bool) (disp : BitVec 32) (s : State) : Host.Outcome State Fault Refusal :=
  issue (fun s => do
    let x ← s.rdS a
    let n := x - 1
    let t := s.result 1 [s.dS a n]
    if n = 0 then pure t
    else pure { t.modMe (fun b => b.rotate rs rv rp) with nextPc := s.target disp }) s

/-- The lowest-numbered bound output port with fewer puts than its declared count (R25, R207). -/
def Bank.shortPort (b : Bank) : Option (Fin 16) :=
  (List.finRange 16).find? fun i => 8 ≤ i.val && b.ports[i].bound && b.ports[i].puts < b.ports[i].rate

/-- STAGE.END (R207). With a port short of its count, the puts of its own bundle made, it is the rate trap at the bundle
(R25, R326), once the interlocked results of earlier bundles are written; taking the trap waits for the others (R324). Else
the waits begin, which are the commit's (Clock.lean); with a RING.PUT of its bundle in a ring wait the bank has yielded
already. -/
def execStageEnd (s : State) : Host.Outcome State Fault Refusal :=
  issue (fun s =>
    match s.me.shortPort with
    | some i =>
      if s.me.busy.any (·.2 < s.ownFrom) then .error .stall else trapOf 0x20 (BitVec.ofNat 64 i.val)
    | none => pure (s.modMe fun b => { b with mode := if b.mode = .ringWait then .endWait else .ending })) s

/-- TRAP (R208): the software trap, after every syllable of the bundle, a RING.PUT in a ring wait among them; it returns to
the next sequential bundle. -/
def execTrap (n : BitVec 16) (s : State) : Host.Outcome State Fault Refusal :=
  let t : Trap := { cause := 0x21, slot := s.slot, val := n.setWidth 64 }
  if s.inRingWait then .next { s.modMe fun b => { b with afterTrap := some (t, s.nextPc) } with stop := none }
  else .next { s.raise s.cur t s.nextPc with stop := some .taken }

/-- WAIT.TIME -/
def execWaitTime (a : SReg) (disp : BitVec 32) (s : State) : Host.Outcome State Fault Refusal :=
  issue (sleepOp a disp (fun _ => false) .sleepTime) s

/-- SLEEP.UNTIL -/
def execSleepUntil (a : SReg) (disp : BitVec 32) (s : State) : Host.Outcome State Fault Refusal :=
  issue (sleepOp a disp (fun s => !s.copying s.cur) .sleepCopy) s

/-- TIME.READ -/
def execTimeRead (d : SReg) (s : State) : Host.Outcome State Fault Refusal :=
  issue (fun s => pure (s.result 1 [s.dS d s.time])) s

end Sys2Proof.Machine
end

