-- ==== Sys2Proof/Machine/Translate.lean ====
section
/-! DEFINITION. From a program address to bytes: path decoding and address errors (R83, R84), access kinds (R85),
alignment (R86), the window table (R87 to R89), the page walk and the TLB (R92 to R96), and the order in which the
faults of one access are found (R104). -/

namespace Sys2Proof.Machine

/-! ## Paths (R83 to R86) -/

/-- The access kinds of R85. -/
inductive AKind where
  | load | store
  | atomic (op : AtomicOp)
  | gsStore
  | gsLoad
  | copySrc
  | copyDst
  | copyGs
  | fmt (f : EType) (g : Geo)
  | ringPut | ringPeek
  | fetch
deriving DecidableEq, Repr

/-- The path code, bits 63:60. -/
def pathOf (a : Word) : Nat := a.toNat / 2 ^ 60

/-- The cog field of paths 0x2 and 0x7, bits 59:51. -/
def cogField (a : Word) : Nat := a.toNat / 2 ^ 51 % 512

/-- The address error of an access of n bytes (R84); handler says that a trap handler runs in the bank. -/
def addrError (handler : Bool) (a : Word) (n : Nat) : Bool :=
  let x := a.toNat % 2 ^ 60
  match pathOf a with
  | 0 => sramSize false < x + n || 2 ^ 21 ≤ x
  | 1 => sramSize true < x + n || sramSize true ≤ x
  | 2 =>
    let stk := x / 2 ^ 50 % 2 = 1
    let off := x % 2 ^ 50
    319 < cogField a || sramSize stk < off + n || sramSize stk ≤ off
  | 3 | 4 | 5 | 6 => 2 ^ 52 < x + n || 2 ^ 52 ≤ x
  | 7 => (319 < cogField a && cogField a ≠ 0x1FF) || 2 ^ 16 ≤ x % 2 ^ 51 || !handler || n ≠ 8
  | _ => true

/-- The alignment of an access of n bytes that names none of its own: the smaller of 64 and the largest power of two
not above n (R86). -/
def alignOf (n : Nat) : Nat := Nat.min 64 (2 ^ Nat.log2 n)

/-- A PCIe AtomicOp carries the operation (R85, R228). -/
def pcieOp : AtomicOp → Bool
  | .add | .swap | .cas => true
  | _ => false

/-- The first table of R85, and the ring instructions' own accesses. -/
def kindPath (k : AKind) (path : Nat) : Bool :=
  match k with
  | .load | .gsLoad => path ≤ 7
  | .store => path ≤ 7 && path ≠ 5
  | .atomic op => path ≤ 3 || (path = 4 && pcieOp op)
  | .gsStore | .copyGs => path = 3
  | .copySrc => path ≤ 6
  | .copyDst => path ≤ 6 && path ≠ 5
  | .fmt .. => path ≤ 5
  | .ringPut => path ≤ 2
  | .ringPeek => path = 0
  | .fetch => path = 0

/-- The access writes. -/
def AKind.writes : AKind → Bool
  | .store | .atomic _ | .gsStore | .copyDst | .copyGs | .ringPut => true
  | _ => false

/-- The access reads. -/
def AKind.reads : AKind → Bool
  | .load | .gsLoad | .atomic _ | .copySrc | .fmt .. | .ringPeek => true
  | _ => false

/-! ## Attributes (R87, R94, R97) -/

/-- The ordering class of a 2-bit ORD field; the reserved value is never held by an accepted entry (R90, R96). -/
def ordOf (w : Word) : OrdClass :=
  match w.toNat / 64 % 4 with
  | 0 => .strong
  | 1 => .release
  | _ => .unordered

/-- FMT, bits 11:8. -/
def fmtOf (w : Word) : Nat := w.toNat / 256 % 16
/-- BLK, bits 13:12. -/
def blkOf (w : Word) : Nat := w.toNat / 4096 % 4
/-- CMP of a leaf's word 1. -/
def cmpOf (w : Word) : Nat := w.toNat / 2 ^ 15 % 4

/-- FMT and BLK pair legally (R97). -/
def blkLegal (fmt blk : Nat) : Bool :=
  match blk with
  | 0 => fmt ≠ 5 && fmt ≤ 9
  | 1 => fmt = 5
  | 2 => fmt = 2 || fmt = 3 || fmt = 4 || fmt = 6
  | _ => fmt = 2 || fmt = 3 || fmt = 4 || fmt = 6 || fmt = 7

/-- The code of a geometry (R97). -/
def geoCode : Geo → Nat
  | .plain => 0 | .mx => 1 | .tiles => 2 | .segments => 3

/-- A format-aware read fits its window's or page's FMT and BLK (R98). -/
def fmtFits (k : AKind) (w : Word) : Bool :=
  match k with
  | .fmt f g => fmtOf w = f.code && blkOf w = geoCode g && f ≠ .raw && blkLegal f.code (geoCode g)
  | _ => true

/-! ## Windows (R87 to R89) -/

/-- The entry's first program address. -/
def Win.base (w : Win) : Nat := w.w0.toNat
/-- The entry's length. -/
def Win.size (w : Win) : Nat := w.w1.toNat % 2 ^ 25
/-- V, RD, WR, EX, RING and PRIV are bits 0 to 5 of word 3. -/
def Win.bit (w : Win) (k : Nat) : Bool := w.w3.getLsbD k

/-- The entry matches an access of n bytes at program address a (R88). -/
def Win.hits (w : Win) (a n : Nat) : Bool := w.bit 0 && w.base ≤ a && a + n ≤ w.base + w.size

/-- The lowest-numbered entry that matches (R88). -/
def winFind (ws : Vector Win 64) (a n : Nat) : Option Win := ws.toList.find? fun w => w.hits a n

/-- The physical address of a program address through an entry (R87, R88), for a bank of the cog. -/
def Win.target (w : Win) (cog : Nat) (a : Nat) : Nat :=
  let off := w.w2.toNat % 2 ^ 25 + (a - w.base)
  match w.base / 2 ^ 60 with
  | 0 => physAddr cog false off
  | 1 => physAddr cog true off
  | _ => physAddr (w.w2.toNat / 2 ^ 51 % 512) (w.w2.toNat / 2 ^ 50 % 2 = 1) off

/-- The permissions an access needs of its window (R89). -/
def winPerm (k : AKind) (w : Win) : Bool :=
  (!k.reads || w.bit 1) && (!k.writes || w.bit 2) && (k ≠ .fetch || w.bit 3) &&
  ((k ≠ .ringPut && k ≠ .ringPeek) || w.bit 4)

/-! ## The page walk (R92 to R96) -/

/-- What a walk meets. -/
inductive WalkRes where
  | leaf (e : TlbEntry)
  | notPresent
  | malformed
deriving DecidableEq, Repr

/-- A package of the active image, this one among them. -/
def State.inImage (s : State) (pkg : Nat) : Bool :=
  pkg = s.hub.pkg.toNat ||
  (match s.image with
    | none => false
    | some i => i.packages.any fun p => p.1 = pkg)

/-- A bit of word 1. -/
def abit (w1 : Word) (k : Nat) : Bool := w1.getLsbD k

/-- The granules of a memory: 32 near, 288 stacked (R94). -/
def granules (stk : Bool) : Nat := if stk then 288 else 32

/-- A malformed entry at level 0 (root) to 3, index idx in its table (R95, R96, R135). DESIGN CHOICE
(notes/assumptions/18.md): R96 does not list a device page of 2 MiB whose first granule is no multiple of 32, which R95
forbids, and it is translated as it stands. -/
def entryBad (s : State) (level idx : Nat) (w0 w1 : Word) : Bool :=
  let kind := w1.toNat / 2 % 4
  let leaf : Bool := kind = 1
  let tgt := abit w1 3
  let gs := abit w1 17
  let dup := abit w1 14
  let cont := abit w1 19
  let cmp := cmpOf w1
  let gran := w0.toNat / 2 ^ 33 % 512
  let mem := w0.getLsbD 42
  let cog := w0.toNat / 2 ^ 43 % 512
  let first := if cont then idx % 32 else 0
  2 ≤ kind || (leaf && level < 2) || (!leaf && level = 3) ||
  w1.toNat / 64 % 4 = 3 || 2 ≤ cmp || 10 ≤ fmtOf w1 || !blkLegal (fmtOf w1) (blkOf w1) ||
  w1.toNat / 2 ^ 32 ≠ 0 || abit w1 5 || (if tgt then w0.toNat % 2 ^ 16 ≠ 0 else w0.toNat % 2 ^ 33 ≠ 0) ||
  (cont && level < 3) || (tgt && (dup || gs)) || (gs && cmp ≠ 0) ||
  (leaf && gs && (level = 2 || cont || dup)) ||
  (!leaf && (tgt || w0.toNat / 2 ^ 52 ≠ s.hub.pkg.toNat)) ||
  (!tgt && (319 < cog || granules mem ≤ gran)) ||
  (!tgt && leaf && !s.inImage (w0.toNat / 2 ^ 52)) ||
  (!tgt && leaf && gs && granules mem ≤ gran + 2) ||
  (!tgt && leaf && cont && (gran < first || granules mem ≤ gran - first + 31)) ||
  (!tgt && leaf && level = 2 && (!mem || cog % 16 ≠ 0 || 32 < gran)) ||
  (tgt && leaf && level = 2 && w0.toNat % 2 ^ 28 ≠ 0) ||
  (tgt && leaf && cont && (w0.toNat < first * 65536 || (w0.toNat - first * 65536) % 2 ^ 21 ≠ 0))

/-- An entry's two words at a physical address. -/
def State.entry (s : State) (a : Nat) : Word × Word :=
  (BitVec.ofNat 64 (natOf (s.load a 8)), BitVec.ofNat 64 (natOf (s.load (a + 8) 8)))

/-- The index of a level's table (R93). -/
def walkIndex (asid : BitVec 12) (off level : Nat) : Nat :=
  match level with
  | 0 => asid.toNat
  | 1 => off / 2 ^ 40 % 4096
  | 2 => off / 2 ^ 28 % 4096
  | _ => off / 2 ^ 16 % 4096

/-- The leaf as a translation: its page size and the words of the page's first granule (R95). DESIGN CHOICE
(notes/assumptions/18.md): of 32 entries that disagree, R95 lets the translation come from any; it comes from the entry
that the walk of the accessed offset reads. -/
def leafEntry (asid : BitVec 12) (off level idx : Nat) (w0 w1 : Word) : TlbEntry :=
  if level = 2 then ⟨asid, 28, off / 2 ^ 28, w0, w1⟩
  else if abit w1 19 then
    let k := idx % 32
    let base := if abit w1 3 then w0.toNat - k * 65536 else w0.toNat - k * 2 ^ 33
    ⟨asid, 21, off / 2 ^ 21, BitVec.ofNat 64 base, w1⟩
  else ⟨asid, 16, off / 2 ^ 16, w0, w1⟩

/-- The walk from the table at a physical address, at a level, with the levels left as fuel (R93, R96). -/
def State.walkFrom (s : State) (asid : BitVec 12) (off table level : Nat) : Nat → WalkRes
  | 0 => .malformed
  | n + 1 =>
    let idx := walkIndex asid off level
    let (w0, w1) := s.entry (table + 16 * idx)
    if !abit w1 0 then .notPresent
    else if entryBad s level idx w0 w1 then .malformed
    else if w1.toNat / 2 % 4 = 1 then .leaf (leafEntry asid off level idx w0 w1)
    else s.walkFrom asid off (granuleAddr w0) (level + 1) n

/-- The walk of an ASID and offset from PTROOT (R93, R114). -/
def State.walk (s : State) (asid : BitVec 12) (off : Nat) : WalkRes :=
  if !s.ptroot.getLsbD 0 then .notPresent else s.walkFrom asid off (granuleAddr s.ptroot) 0 4

/-- The physical addresses of the entries that a walk from a table reads. -/
def State.walkedFrom (s : State) (asid : BitVec 12) (off table level : Nat) : Nat → List Nat
  | 0 => []
  | n + 1 =>
    let idx := walkIndex asid off level
    let a := table + 16 * idx
    let (w0, w1) := s.entry a
    a :: (if !abit w1 0 || entryBad s level idx w0 w1 || w1.toNat / 2 % 4 = 1 then []
      else s.walkedFrom asid off (granuleAddr w0) (level + 1) n)

/-- The physical addresses of the entries that the walk of an ASID and offset reads. -/
def State.walked (s : State) (asid : BitVec 12) (off : Nat) : List Nat :=
  if s.ptroot.getLsbD 0 then s.walkedFrom asid off (granuleAddr s.ptroot) 0 4 else []

/-- The codewords of the entries that a walk for an access at an address reads are read (R111, R115). DESIGN CHOICE
(notes/assumptions/17.md): SRC of a walk's record is 0, core load, whoever walks; R115 names no code for a walk. -/
def State.eccWalk (s : State) (bank : Option Nat) (addr : Word) (asid : BitVec 12) (off : Nat) : State :=
  if s.ecc.isEmpty then s else s.eccRuns 0 bank addr ((s.walked asid off).map fun a => (a, 16))

/-- A translation covers an offset. -/
def TlbEntry.covers (e : TlbEntry) (asid : BitVec 12) (off : Nat) : Bool := e.asid = asid && off / 2 ^ e.bits = e.page

/-- The TLB holds a translation of the offset. -/
def State.tlbFind (s : State) (c : CogIx) (asid : BitVec 12) (off : Nat) : Option TlbEntry :=
  (s.cog c).tlb.find? fun e => e.covers asid off

/-- The TLB takes a translation; a full TLB loses a free choice of entry (R92). -/
def State.tlbFill (s : State) (c : CogIx) (e : TlbEntry) : State :=
  let l := (s.cog c).tlb
  if l.length < 512 then s.modCog c fun x => { x with tlb := l ++ [e] }
  else
    let (n, s) := s.draw
    s.modCog c fun x => { x with tlb := l.eraseIdx (Config.freeNat n % 512) ++ [e] }

/-- The target of an offset through a translation: a package's physical address, or a host address (R94, R95). -/
def TlbEntry.target (e : TlbEntry) (off : Nat) : Nat × Bool × Nat :=
  let o := off % 2 ^ e.bits
  if abit e.w1 3 then (0, true, e.w0.toNat / 65536 * 65536 + o)
  else
    let pkg := e.w0.toNat / 2 ^ 52
    let cog := e.w0.toNat / 2 ^ 43 % 512
    let mem := e.w0.getLsbD 42
    let gran := e.w0.toNat / 2 ^ 33 % 512
    if e.bits = 28 then
      let g := o / 65536
      (pkg, false, physAddr (cog + g % 16) mem ((gran + g / 16) * 65536 + o % 65536))
    else (pkg, false, physAddr cog mem (gran * 65536 + o))

/-- The place of an offset as a memory error record names it (R115): the codeword's address in the device form, or of a
page in host memory word 0. -/
def TlbEntry.place (e : TlbEntry) (off : Nat) : Word :=
  match e.target off with
  | (_, true, _) => e.w0
  | (pkg, false, a) => let n := if physStk a then 16 else 8; deviceForm pkg (a / n * n)

/-! ## One access -/

/-- Who translates: the cog, the window table and the ASID in force, and the walk the issuing bank has made. -/
structure XCtx where
  cog  : CogIx
  wins : Vector Win 64
  asid : BitVec 12
  /-- A page walk made for the bank's issue: ASID and page; none makes a TLB miss a stop. -/
  walked : Option (BitVec 12 × Nat)
  /-- The engines of a cog walk without stopping issue. -/
  engine : Bool
  handler : Bool
  /-- The position rule of a format-aware read: the offsets within a granule at which its places may begin (R287, R292,
  R301). -/
  place : Nat → Bool := fun _ => true

/-- The current bank's context. -/
def State.ctx (s : State) : XCtx :=
  let b := s.me
  { cog := s.cur.cog, wins := b.windows, asid := b.asidcur, engine := false, handler := b.hmode,
    walked := b.walk.bind fun w => if w.2.2 ≤ s.clk then some (w.1, w.2.1 / 65536) else none }

/-- A trap with the access's address. -/
def memTrap {α : Type} (cause : Nat) (a : Word) : Except Stop α := trapOf cause a

/-- The region of a physical address is in retention mode, or in transition (R113). -/
def State.retState (s : State) (a : Nat) : RetState :=
  if !physStk a then .active
  else
    match cog? (physCog a) with
    | none => .active
    | some c => (s.cog c).regions[regionOf (physOff a)]

/-- Retention of a byte that an access at an address touches: a region in transition stalls, a retained one faults (R113). -/
def State.checkByte (s : State) (addr : Word) (x : Nat) : Except Stop Unit :=
  match s.retState x with
  | .active => .ok ()
  | .retained => .error (.hub 0x33 0 (BitVec.ofNat 52 x) none addr)
  | _ => .error .stall

/-- Retention of a run of this package's memory. -/
def State.checkRet (s : State) (addr : Word) (a n : Nat) : Except Stop Unit := do
  s.checkByte addr a
  s.checkByte addr (a + n - 1)

/-- The slots and the version records of the groupset lines that a place covers, line by line (R135): slot A, slot B, both
records. -/
def groupsetRuns (g : Seg) : List (Nat × Nat) :=
  let frame := g.addr / 65536 * 65536
  (if g.len = 0 then [] else [(g.addr, g.len), (g.addr + 65536, g.len)]) ++
  (linesOf g.addr g.len).map fun l => (frame + 131072 + 32 * (l - frame / 64), 32)

/-- Retention of everything that an access to a place of this package touches. -/
def State.checkRets (s : State) (addr : Word) (g : Seg) : Except Stop Unit :=
  match g.view with
  | .groupset => (groupsetRuns g).forM fun r => s.checkRet addr r.1 r.2
  | _ => s.checkRet addr g.addr g.len

/-- An access on paths 0x0 to 0x2 (R88, R89, R104 items 4, 6 and 7). -/
def State.xlateLocal (s : State) (c : XCtx) (k : AKind) (a : Word) (n : Nat) : Except Stop Seg :=
  match winFind c.wins a.toNat n with
  | none => memTrap 0x10 a
  | some w =>
    if !winPerm k w then memTrap 0x11 a
    else
      let p := w.target c.cog.val a.toNat
      if !fmtFits k w.w3 || !c.place (p % 65536) then memTrap 0x17 a
      else do
      s.checkRet a p n
      pure { pkg := s.hub.pkg.toNat, host := false, addr := p, len := n, cls := ordOf w.w3, view := .plain }

/-- The translation of a global offset: from the TLB, or by a walk, whose entries may lie in a region that is not active
(R92, R96, R113, R323). DESIGN CHOICE
(notes/assumptions/18.md): between a change of a page table and the invalidation R92 allows the old translation or the
new one; the model uses what the TLB still holds. -/
def State.lookup (s : State) (c : XCtx) (a : Word) (off : Nat) : Except Stop TlbEntry :=
  match s.tlbFind c.cog c.asid off with
  | some e => .ok e
  | none =>
    if c.engine || c.walked = some (c.asid, off / 65536) then do
      (s.walked c.asid off).forM (s.checkByte a)
      match s.walk c.asid off with
      | .leaf e => .ok e
      | .notPresent => .error (.hub 0x30 c.asid (BitVec.ofNat 52 off) none a)
      | .malformed => .error (.hub 0x32 c.asid (BitVec.ofNat 52 off) none a)
    else .error (.walk c.asid (BitVec.ofNat 52 off))

/-- The path fault that the leaf decides (R85, R96, R137; R104 item 5). -/
def leafPath (k : AKind) (path : Nat) (w1 : Word) : Bool :=
  let cmp := cmpOf w1
  let gs := abit w1 17
  (path ≠ 3 || cmp = 0) && (path ≠ 5 || cmp ≠ 0) && (path ≠ 4 || abit w1 3) &&
  (match k with
    | .store | .atomic _ | .copyDst => !gs
    | .gsStore | .copyGs | .gsLoad => gs
    | _ => true)

/-- One part of an access on paths 0x3 to 0x6, within one granule (R104 items 4 to 8). -/
def State.xlatePart (s : State) (c : XCtx) (k : AKind) (a : Word) (off n : Nat) : Except Stop Seg := do
  let e ← s.lookup c a off
  check (leafPath k (pathOf a) e.w1) (.trap { cause := 0x16, val := a })
  check (!k.writes || (abit e.w1 4 && !abit e.w1 14))
    (.hub 0x31 c.asid (BitVec.ofNat 52 off)
      (if abit e.w1 14 && abit e.w1 4 then some (e.w1.toNat / 2 ^ 20 % 4096) else none) a)
  check (fmtFits k e.w1 && c.place (off % 65536)) (.trap { cause := 0x17, val := a })
  let (pkg, host, addr) := e.target off
  check (!abit e.w1 18) (.trap { cause := 0x18, val := a, psn := some (e.place off) })
  check (!host || (s.hub.busMaster && s.hub.hostUp))
    (.trap { cause := 0x1A, sub := Config.hostCause.toNat, val := a })
  let g : Seg := { pkg := pkg, host := host, addr := addr, len := n, cls := ordOf e.w1,
                   view := if abit e.w1 17 then .groupset else if pathOf a = 5 then .packed else .plain }
  if pkg = s.hub.pkg.toNat ∧ ¬ host then s.checkRets a g
  pure g

/-- The parts of a run of n bytes at a global offset, split at 64 KiB granules. -/
def parts (off n : Nat) : Nat → List (Nat × Nat)
  | 0 => []
  | k + 1 =>
    if n = 0 then []
    else
      let m := Nat.min n (65536 - off % 65536)
      (off, m) :: parts (off + m) (n - m) k

/-- Device register addresses lie above every memory address. -/
def devBase : Nat := 2 ^ 40

/-- The register a path 0x7 address names: cog field and offset (R83); the access is strong (R119). -/
def deviceSeg (s : State) (a : Word) : Seg :=
  { pkg := s.hub.pkg.toNat, host := false, addr := devBase + cogField a * 65536 + a.toNat % 65536, len := 8,
    cls := .strong, view := .plain }

/-- A run of n bytes at an address whose path, range and alignment have passed: its parts in ascending order, each
with a further check of its own before the next (R104). -/
def State.xlateWith (s : State) (c : XCtx) (k : AKind) (a : Word) (n : Nat) (more : Word → Seg → Except Stop Unit) :
    Except Stop (List Seg) :=
  if n = 0 then .ok []
  else if pathOf a = 7 then .ok [deviceSeg s a]
  else if pathOf a ≤ 2 then do
    let g ← s.xlateLocal c k a n
    more a g
    pure [g]
  else
    let off := a.toNat % 2 ^ 52
    (parts off n (n / 65536 + 2)).mapM fun p => do
      let b := BitVec.ofNat 64 (a.toNat / 2 ^ 52 * 2 ^ 52 + p.1)
      let g ← s.xlatePart c k b p.1 p.2
      more b g
      pure g

/-- The parts of a run, with no check but those of translation. -/
def State.xlate (s : State) (c : XCtx) (k : AKind) (a : Word) (n : Nat) : Except Stop (List Seg) :=
  s.xlateWith c k a n fun _ _ => .ok ()

/-- Items 1 to 3 of R104 for an access of n bytes with the given alignment. -/
def checkAddr (handler : Bool) (k : AKind) (a : Word) (n align : Nat) : Except Stop Unit := do
  check (!addrError handler a n) (.trap { cause := 0x14, val := a })
  check (a.toNat % align = 0) (.trap { cause := 0x15, val := a })
  check (kindPath k (pathOf a)) (.trap { cause := 0x16, val := a })

/-- Items 1 to 7 of R104, and a poisoned page: the parts of the access. -/
def State.access (s : State) (c : XCtx) (k : AKind) (a : Word) (n align : Nat) : Except Stop (List Seg) := do
  checkAddr c.handler k a n align
  s.xlate c k a n

/-! ## Poison and pending words (R104 items 8 and 9) -/

/-- A part lies in this package's memory. -/
def State.here (s : State) (g : Seg) : Bool := !g.host && g.pkg = s.hub.pkg.toNat

/-- One bits of a number below 2^64. -/
def pop64 (x : Nat) : Nat := (List.range 64).foldl (fun c k => c + (natBit x k).toNat) 0

/-- The place in a packed frame of the first non-zero byte at or after a decoded offset (R101), from a reader of the
frame's bytes. -/
def packedPos (rd : Nat → Nat → List Byte) (frame off : Nat) : Nat :=
  let mask (k : Nat) := natOf (rd (frame + 8 * k) 8)
  let start := (List.range (off / 64)).foldl (fun c k => c + pop64 (mask k)) 0x2000
  if off % 64 = 0 then start else start + pop64 (mask (off / 64) % 2 ^ (off % 64))

/-- The runs (first byte, length) that a load of a part of this package reads: as stored, both records and the newest slot
of each groupset line (R135, R137), or the masks up to the last line's and the packed bytes of a compressed frame (R101). -/
def State.runsRead (s : State) (g : Seg) : List (Nat × Nat) :=
  match g.view with
  | .plain => [(g.addr, g.len)]
  | .groupset =>
    let frame := g.addr / 65536 * 65536
    ((linesOf g.addr g.len).map fun l =>
      let i := l - frame / 64
      let recs := frame + 131072 + 32 * i
      let recB := natOf (s.load (recs + 16) 16)
      let lo := Nat.max g.addr (l * 64)
      [(recs, 32), (lo + (if recB % 4 = 3 then 65536 else 0), Nat.min (g.addr + g.len) (l * 64 + 64) - lo)]).flatten
  | .packed =>
    let frame := g.addr / 65536 * 65536
    let off := g.addr % 65536
    let p := packedPos s.load frame off
    [(frame, ((off + g.len - 1) / 64 + 1) * 8), (frame + p, Nat.min 65536 (packedPos s.load frame (off + g.len)) - p)]

/-- A decoded read runs beyond its frame (R101). -/
def State.unpackBad (s : State) (g : Seg) : Bool :=
  g.view = .packed && 65536 < packedPos s.load (g.addr / 65536 * 65536) (g.addr % 65536 + g.len)

/-- A run touches a poisoned line, or a codeword with an uncorrectable error that the read will find. -/
def State.badRun (s : State) (r : Nat × Nat) : Bool :=
  poisoned s r.1 r.2 || s.ecc.any fun e => 2 ≤ e.bits && e.meets r.1 r.2

/-- A load of poisoned bytes of this package, or of decoded bytes that lie beyond their frame, traps (R101, R112). -/
def State.checkPoison (s : State) (a : Word) (gs : List Seg) : Except Stop Unit :=
  let mem := gs.filter fun g => s.here g && g.addr < devBase
  let rs := (mem.map s.runsRead).flatten
  check (!(rs.any s.badRun || mem.any s.unpackBad)) (.trap { cause := 0x18, val := a, reads := rs })

/-- An M instruction still in the queue reads memory, or writes it. -/
def readsMem : Instr → Bool
  | .mwload .. | .mmul .. | .tld .. => true
  | _ => false
/-- TST and TCST. -/
def writesMem : Instr → Bool
  | .tst .. | .tcst .. => true
  | _ => false

/-- The entry has still to read its sources. -/
def MEntry.unread (e : MEntry) : Bool := readsMem e.instr && !(e.fetching && e.fetch.all fun x => x.2.isSome)

/-- The 64-bit words of near SRAM that a write in progress writes: of a bank, a copy, the M unit or another package, a
queued tile store among them (R107). -/
def pendingWord (s : State) (w : Nat) : Bool :=
  let hit (g : Seg) : Bool := s.here g && g.addr / 8 ≤ w && w ≤ (g.addr + g.len - 1) / 8
  (s.accesses.any fun x => x.todo.any fun op => match op with
    | .store gs _ _ => gs.any hit
    | .atomic g .. | .gsStore g .. => hit g
    | _ => false) ||
  s.cogs.toList.any fun c => c.mq.any fun e => writesMem e.instr && e.segs.any hit

/-- A place in near SRAM of this package covers a pending word. -/
def State.coversPending (s : State) (g : Seg) : Bool :=
  s.here g && g.addr < devBase && !physStk g.addr &&
    (List.range ((g.addr + g.len - 1) / 8 - g.addr / 8 + 1)).any fun i => pendingWord s (g.addr / 8 + i)

end Sys2Proof.Machine
end

