-- ==== Sys2Proof/Machine/Access.lean ====
section
/-! DEFINITION. What an access does at the memory that holds its bytes: plain, groupset and packed views, device
registers, atomics (R101, R112, R114, R124, R137, R139, R144, R229, R405); scopes (R116); and the accesses that a bank
has issued and that are not yet performed, with the order R119 to R124 put on them. -/

namespace Sys2Proof.Machine

/-! ## Device registers (R114, R405) -/

/-- RETSTAT's code of a region. -/
def retCode : RetState → Nat
  | .active => 0 | .entering => 1 | .retained => 2 | .exiting => 3

/-- RETSTAT. -/
def Cog.retstat (c : Cog) : Word :=
  BitVec.ofNat 64 ((List.finRange 9).foldl (fun acc k => acc + retCode c.regions[k] * 4 ^ k.val) 0)

/-- The port of an error register's package offset. -/
def errPort? (off : Nat) : Option ChainPort :=
  if h : 0x800 ≤ off ∧ (off - 0x800) / 16 < 32 then some ⟨(off - 0x800) / 16, h.2⟩ else none

/-- PTROOT's fields (R114). -/
def ptrootMask : Word := 0x000FFFFE00000001

/-- The value of a device register; an offset that names none reads a free value. -/
def State.devRead (s : State) (r : Nat) : Word × State :=
  let off := r % 65536
  let free : Word × State := let (n, s) := s.draw; (Config.freeWord n, s)
  match cog? (r / 65536) with
  | some c =>
    let x := s.cog c
    match off with
    | 0x100 => (x.memceNear, s)
    | 0x108 => (x.memceStk, s)
    | 0x110 => (x.memue, s)
    | 0x120 => (x.retreq.setWidth 64, s)
    | 0x128 => (x.retstat, s)
    | _ => free
  | none =>
    if off = 0 then (s.ptroot &&& ptrootMask, s)
    else
      match errPort? off with
      | some p =>
        let x := s.ports[p]
        if off % 16 = 0 then (x.badpkt ++ x.badret, s)
        else if off % 16 = 8 then (x.hopdrop ++ 0#32, s) else free
      | none => free

/-- A device register is written; an offset that names none takes no write. -/
def State.devWrite (s : State) (r : Nat) (w : Word) : State :=
  let off := r % 65536
  match cog? (r / 65536) with
  | some c =>
    match off with
    | 0x100 => s.modCog c fun x => { x with memceNear := w }
    | 0x108 => s.modCog c fun x => { x with memceStk := w }
    | 0x110 => s.modCog c fun x => { x with memue := w }
    | 0x120 => s.setRetreq c (w.setWidth 9)
    | _ => s
  | none =>
    if off = 0 then { s with ptroot := w &&& ptrootMask }
    else
      match errPort? off with
      | some p =>
        let x := s.ports[p]
        if off % 16 = 0 then
          { s with ports := s.ports.set p { x with badpkt := w.extractLsb' 32 32, badret := w.extractLsb' 0 32 } }
        else if off % 16 = 8 then { s with ports := s.ports.set p { x with hopdrop := w.extractLsb' 32 32 } }
        else s
      | none => s

/-! ## Groupset lines (R135, R136) -/

/-- The frame of a groupset address, and the line's index in it. -/
def gsFrame (a : Nat) : Nat := a / 65536 * 65536
/-- The index of the line. -/
def gsLine (a : Nat) : Nat := a % 65536 / 64

/-- The physical address of a line's slot A (false) or B (true). -/
def slotAddr (frame i : Nat) (b : Bool) : Nat := frame + (if b then 65536 else 0) + 64 * i

/-- The physical address of a slot's record. -/
def slotRecAddr (frame i : Nat) (b : Bool) : Nat := frame + 131072 + 32 * i + (if b then 16 else 0)

/-- A slot's version record, as a number of 128 bits. -/
def State.slotRec (s : State) (frame i : Nat) (b : Bool) : Nat := natOf (s.load (slotRecAddr frame i b) 16)

/-- Write a version record. -/
def State.setSlotRec (s : State) (frame i : Nat) (b : Bool) (r : Nat) : State :=
  { s with mem := memSets s.mem (slotRecAddr frame i b) (bytesOf 16 r) }

/-- VALID. -/
def recValid (r : Nat) : Bool := natBit r 0
/-- NEWEST. -/
def recNewest (r : Nat) : Bool := natBit r 1
/-- EPOCH. -/
def recEpoch (r : Nat) : Nat := r / 2 ^ 88
/-- ASID. -/
def recAsid (r : Nat) : Nat := r / 2 ^ 76 % 4096
/-- NAME. -/
def recName (r : Nat) : Nat := r / 2 ^ 60 % 65536
/-- HOME. -/
def recHome (r : Nat) : Nat := r / 2 ^ 48 % 4096

/-- The record of a new version under a writer handle: NEWEST and VALID set. -/
def recOf (h : Handle) : Nat :=
  h.epoch.toNat * 2 ^ 88 + h.asid.toNat * 2 ^ 76 + h.name.toNat * 2 ^ 60 + h.home.toNat * 2 ^ 48 +
    h.pcnt.toNat * 2 ^ 36 + 3

/-- A record is of the handle's epoch. -/
def recIs (r : Nat) (h : Handle) : Bool :=
  recEpoch r = h.epoch.toNat && recAsid r = h.asid.toNat && recName r = h.name.toNat

/-- The slot that holds a line's newest valid version, if one does. -/
def State.newestSlot (s : State) (frame i : Nat) : Option Bool :=
  let a := s.slotRec frame i false
  let b := s.slotRec frame i true
  if recValid a && recNewest a then some false
  else if recValid b && recNewest b then some true
  else if recValid a then some false
  else if recValid b then some true
  else none

/-- Both version records of the line at an address are read (R111). -/
def State.eccRecs (s : State) (src : Nat) (bank : Option Nat) (addr : Word) (a : Nat) : State :=
  s.eccRead src bank addr (slotRecAddr (gsFrame a) (gsLine a) false) 32

/-- A version record of the line lies in a poisoned line of memory. -/
def State.recsBad (s : State) (a : Nat) : Bool := poisoned s (slotRecAddr (gsFrame a) (gsLine a) false) 32

/-- Bytes put into a line at an offset. -/
def patch (line : List Byte) (off : Nat) (bs : List Byte) : List Byte :=
  line.take off ++ bs ++ line.drop (off + bs.length)

/-- A groupset store into one line (R139): the state, and whether it made a new version. src, bank and addr name the
writer, whose merge reads the line's newest version (R115). -/
def State.gsStoreLine (s : State) (src : Nat) (bank : Option Nat) (addr : Word) (a : Nat) (bs : List Byte) (h : Handle)
    (psn : Bool) : State × Bool :=
  let frame := gsFrame a
  let i := gsLine a
  let off := a % 64
  let whole : Bool := bs.length = 64
  let s := s.eccRecs src bank addr a
  match s.newestSlot frame i with
  | none =>
    let t := slotAddr frame i false
    let s' := s.store t (patch (List.replicate 64 0) off bs) (psn || (!whole && poisoned s t 64))
    (s'.setSlotRec frame i false (recOf h), true)
  | some c =>
    let cur := slotAddr frame i c
    if recIs (s.slotRec frame i c) h then (s.store (cur + off) bs psn, false)
    else
      let s := s.eccRead src bank addr cur 64
      let bad := poisoned s cur 64
      let s' := s.store (slotAddr frame i !c) (patch (s.load cur 64) off bs) (psn || (bad && !whole))
      let s' := s'.setSlotRec frame i (!c) (recOf h)
      let r := s.slotRec frame i c
      (s'.setSlotRec frame i c (r - (if recNewest r then 2 else 0)), true)

/-- A groupset store to the line at an address would give it a new version (R139). -/
def State.newVersion (s : State) (a : Nat) (h : Handle) : Bool :=
  match s.newestSlot (gsFrame a) (gsLine a) with
  | none => true
  | some c => !recIs (s.slotRec (gsFrame a) (gsLine a) c) h

/-- The seal record of a name homed here. -/
def State.home? (s : State) (asid : Nat) (name : Nat) : Option SealRec :=
  s.homes.find? fun r => r.asid.toNat = asid && r.name.toNat = name

/-- The home a request or a seal-record read goes to: the one named, or the mirror of a failed one (R343). -/
def State.liveHome (s : State) (home : Nat) : Nat :=
  if s.hub.failedPkgs.contains home then
    ((s.image.bind fun i => i.fallback.findSome? fun f => match f with
      | .mirror h m => if h = home then some m else none
      | _ => none)).getD home
  else home

/-- SEALED of names homed elsewhere, as read for a load: ASID, name, SEALED. -/
abbrev Seals := List (BitVec 12 × BitVec 16 × Nat)

/-- The name of a version, by ASID and name. -/
def recKey (r : Nat) : BitVec 12 × BitVec 16 := (BitVec.ofNat 12 (recAsid r), BitVec.ofNat 16 (recName r))

/-- committed(v, h) of R144: SEALED of another name is read at v.HOME, here or from what that home has answered; none when
the home still has to be asked. -/
def State.committed (s : State) (sl : Seals) (r : Nat) (h : Handle) : Option Bool :=
  if recEpoch r = 0 then some true
  else if recAsid r = h.asid.toNat ∧ recName r = h.name.toNat then some (recEpoch r ≤ h.epoch.toNat)
  else if s.liveHome (recHome r) = s.hub.pkg.toNat then
    some (recEpoch r ≤ ((s.home? (recAsid r) (recName r)).map (·.sealed)).getD 0)
  else
    (sl.find? fun e => (e.1, e.2.1) = recKey r).map fun e => recEpoch r ≤ e.2.2

/-- What GS.LOAD takes of one line (R144): a slot, or none for a lost version; or the record of the version whose home
has to be asked first. -/
def State.gsPick (s : State) (sl : Seals) (a : Nat) (h : Handle) : Except Nat (Option Bool) :=
  let frame := gsFrame a
  let i := gsLine a
  match s.newestSlot frame i with
  | none => .ok none
  | some c =>
    let r := s.slotRec frame i c
    match s.committed sl r h with
    | none => .error r
    | some true => .ok (some c)
    | some false =>
      let o := s.slotRec frame i !c
      if recValid o then
        match s.committed sl o h with
        | none => .error o
        | some true => .ok (some !c)
        | some false => .ok none
      else .ok none

/-- The bytes that GS.LOAD reads of one line (R144): bytes, poison, version lost. -/
def State.gsLoadLine (s : State) (sl : Seals) (src : Nat) (bank : Option Nat) (addr : Word) (a n : Nat) (h : Handle) :
    (List Byte × Bool × Bool) × State :=
  let s := s.eccRecs src bank addr a
  match s.gsPick sl a h with
  | .ok (some b) =>
    let t := slotAddr (gsFrame a) (gsLine a) b
    let s := s.eccRead src bank addr (t + a % 64) n
    ((s.load (t + a % 64) n, poisoned s t 64 || s.recsBad a, false), s)
  | _ => ((List.replicate n 0, s.recsBad a, true), s)

/-- The revert of one line (R142, R146). -/
def State.gsRevertLine (s : State) (a : Nat) (h : Handle) : State :=
  let frame := gsFrame a
  let i := gsLine a
  let one (s : State) (b : Bool) : State :=
    let r := s.slotRec frame i b
    if recValid r && recIs r h then
      let s := s.setSlotRec frame i b (r - 1)
      let o := s.slotRec frame i !b
      if recValid o then s.setSlotRec frame i (!b) (o + (if recNewest o then 0 else 2))
      else { s with poison := poisonLines (poisonLines s.poison (slotAddr frame i false) 64) (slotAddr frame i true) 64 }
    else s
  one (one (s.eccRecs 4 none 0 a) false) true

/-! ## Packed frames (R101) -/

/-- Decoded line j of the packed frame at an address, from a reader of its bytes; none where the packed bytes would lie
beyond the frame. -/
def unpackLine (rd : Nat → Nat → List Byte) (frame j : Nat) : List (Option Byte) :=
  let start := packedPos rd frame (64 * j)
  let m := natOf (rd (frame + 8 * j) 8)
  (List.range 64).map fun b =>
    if natBit m b then
      let p := start + pop64 (m % 2 ^ b)
      if p < 65536 then (rd (frame + p) 1).head? else none
    else some 0

/-! ## One run of bytes at its memory -/

/-- A run cut at 64-byte lines. -/
def linePieces (a n : Nat) : List (Nat × Nat) :=
  (linesOf a n).map fun l =>
    let lo := Nat.max a (l * 64)
    (lo, Nat.min (a + n) (l * 64 + 64) - lo)

/-- n decoded bytes of a packed frame from an offset; none beyond the frame. -/
def unpackRun (rd : Nat → Nat → List Byte) (frame off n : Nat) : List (Option Byte) :=
  ((linePieces off n).map fun p => ((unpackLine rd frame (p.1 / 64)).drop (p.1 % 64)).take p.2).flatten

/-- The bytes of a run of this package's memory, with poison (R101, R112, R137). -/
def State.readSeg (s : State) (src : Nat) (bank : Option Nat) (addr : Word) (g : Seg) : List Byte × Bool × State :=
  if devBase ≤ g.addr then
    let (w, s) := s.devRead (g.addr - devBase)
    (bytesOf 8 w.toNat, false, s)
  else
    match g.view with
    | .plain =>
      let s := s.eccRead src bank addr g.addr g.len
      (s.load g.addr g.len, poisoned s g.addr g.len, s)
    | .groupset =>
      (linePieces g.addr g.len).foldl (fun (acc : List Byte × Bool × State) p =>
        let s := acc.2.2.eccRecs src bank addr p.1
        let frame := gsFrame p.1
        let i := gsLine p.1
        let t := slotAddr frame i ((s.newestSlot frame i).getD false)
        let s := s.eccRead src bank addr (t + p.1 % 64) p.2
        (acc.1 ++ s.load (t + p.1 % 64) p.2, acc.2.1 || poisoned s t 64 || s.recsBad p.1, s)) ([], false, s)
    | .packed =>
      let rs := s.runsRead g
      let s := s.eccRuns src bank addr rs
      let bs := unpackRun s.load (gsFrame g.addr) (g.addr % 65536) g.len
      (bs.map (·.getD 0), rs.any (fun r => poisoned s r.1 r.2) || bs.any (·.isNone), s)

/-- A run of this package's memory is written. -/
def State.writeSeg (s : State) (g : Seg) (bs : List Byte) (psn : Bool) : State :=
  if devBase ≤ g.addr then s.devWrite (g.addr - devBase) (BitVec.ofNat 64 (natOf bs)) else s.store g.addr bs psn

/-! ## Atomics (R229) -/

/-- The new value of an atomic on w bits, if it writes. -/
def atomicNew (op : AtomicOp) (w old a b : Nat) : Option Nat :=
  let a := a % 2 ^ w
  let lt (u : Bool) (x y : Nat) : Bool := if u then x < y else (sext64 w x).slt (sext64 w y)
  match op with
  | .add => some ((old + a) % 2 ^ w)
  | .swap => some a
  | .cas => if old = a then some (b % 2 ^ w) else none
  | .and => some (old &&& a)
  | .or => some (old ||| a)
  | .xor => some (old ^^^ a)
  | .min u => some (if lt u a old then a else old)
  | .max u => some (if lt u old a then a else old)
  | .fadd => some (fAdd .fp32 .rne old a).1

/-! ## One operation at this package's memory -/

/-- The places an operation touches. -/
def gopSegs : GOp → List Seg
  | .load gs | .store gs _ _ | .gsLoad gs _ | .probe gs => gs
  | .atomic g _ _ _ | .gsStore g _ _ _ | .gsRevert g _ | .gsProbe g _ => [g]
  | .given .. => []

/-- The operation place by place, in ascending order. -/
def gopSplit : GOp → List GOp
  | .load gs => gs.map fun g => .load [g]
  | .store gs data psn => splitStore gs data psn
  | .gsLoad gs h => gs.map fun g => .gsLoad [g] h
  | .probe gs => gs.map fun g => .probe [g]
  | op => [op]
where
  splitStore : List Seg → List Byte → List Bool → List GOp
    | [], _, _ => []
    | g :: gs, data, psn => .store [g] (data.take g.len) (psn.take 1) :: splitStore gs (data.drop g.len) psn.tail

/-- The runs of this package's memory that an access to a place touches: of a groupset line, both slots and both records. -/
def State.runsTouched (s : State) (g : Seg) : List (Nat × Nat) := if g.view = .groupset then groupsetRuns g else s.runsRead g

/-- The first byte found of some runs of this package's memory that lies in a region that is not active (R113). -/
def State.shut (s : State) (rs : List (Nat × Nat)) : Option Nat :=
  rs.findSome? fun r =>
    if s.retState r.1 ≠ .active then some r.1
    else if s.retState (r.1 + r.2 - 1) ≠ .active then some (r.1 + r.2 - 1)
    else none

/-- A byte of this package's memory that an operation touches in a region that is not active (R113). -/
def State.regionShut (s : State) (op : GOp) : Option Nat :=
  s.shut (((gopSegs op).filter fun g => s.here g && g.addr < devBase).map s.runsTouched).flatten

/-- The hub requests exit of the retained region that holds a physical address; a region in transition is only waited for
(R113). -/
def State.askExit (s : State) (a : Nat) : State :=
  match s.retState a, cog? (physCog a) with
  | .retained, some c => s.setRetreq c ((s.cog c).retreq &&& ~~~ (1#9 <<< (regionOf (physOff a)).val))
  | _, _ => s

/-- Work of the hub that touches some runs of memory: while a region of them is not active it waits, which is an event of
its own, and exit is requested (R113; notes/assumptions/17.md). -/
def State.hubWork (s : State) (rs : List (Nat × Nat)) (again : Instr) (go : State → State) : State :=
  match s.shut rs with
  | none => go s
  | some a =>
    let (due, s) := (s.askExit a).later
    s.schedule due again

/-- The entries that a walk reads, as runs of memory. -/
def State.walkRuns (s : State) (asid : BitVec 12) (off : Nat) : List (Nat × Nat) := (s.walked asid off).map fun a => (a, 16)

/-- What an operation gives back: bytes (for a groupset store or its probe one byte a line, 1 for a new version),
poison, a lost version or, for a load, a decoded read beyond its frame (R101), or, for a probe, a pending word (R107).
-/
structure Answer where
  data : List Byte
  psn  : Bool
  lost : Bool
deriving DecidableEq, Repr

/-- One operation is performed in this package's memory. -/
def State.serve (s : State) (src : Nat) (bank : Option Nat) (addr : Word) (op : GOp) (sl : Seals := []) :
    Answer × State :=
  match op with
  | .load gs =>
    gs.foldl (fun (acc : Answer × State) g =>
      let (bs, p, s) := acc.2.readSeg src bank addr g
      ({ acc.1 with data := acc.1.data ++ bs, psn := acc.1.psn || p, lost := acc.1.lost || s.unpackBad g }, s))
      (⟨[], false, false⟩, s)
  | .probe gs =>
    let rs := (gs.map s.runsRead).flatten
    let bad := rs.any s.badRun || gs.any s.unpackBad
    (⟨[], bad, gs.any s.coversPending⟩, if bad then s.eccRuns src bank addr rs else s)
  | .given data lost => (⟨data, false, lost⟩, s)
  | .store gs data psn =>
    ((⟨[], false, false⟩ : Answer),
      (gopSplit (.store gs data psn)).foldl (fun s o => match o with
        | .store [g] d p => s.writeSeg g d (p.head?.getD false)
        | _ => s) s)
  | .atomic g aop a b =>
    let (bs, p, s) := s.readSeg src bank addr g
    let s := match atomicNew aop (8 * g.len) (natOf bs) a.toNat b.toNat with
      | some x => if p then s else s.writeSeg g (bytesOf g.len x) false
      | none => s
    (⟨bs, p, false⟩, s)
  | .gsStore g data h psn =>
    let ps := linePieces g.addr g.len
    let r := ps.foldl (fun (acc : List Byte × List Byte × State) p =>
      let (s, fresh) := acc.2.2.gsStoreLine src bank addr p.1 (acc.2.1.take p.2) h psn
      (acc.1 ++ [BitVec.ofNat 8 fresh.toNat], acc.2.1.drop p.2, s)) ([], data, s)
    (⟨r.1, false, false⟩, r.2.2)
  | .gsLoad gs h =>
    ((gs.map fun g => linePieces g.addr g.len).flatten).foldl (fun (acc : Answer × State) p =>
      let (r, s) := acc.2.gsLoadLine sl src bank addr p.1 p.2 h
      (⟨acc.1.data ++ r.1, acc.1.psn || r.2.1, acc.1.lost || r.2.2⟩, s)) (⟨[], false, false⟩, s)
  | .gsRevert g h => (⟨[], false, false⟩, s.gsRevertLine g.addr h)
  | .gsProbe g h =>
    (⟨(linePieces g.addr g.len).map fun p => BitVec.ofNat 8 (s.newVersion p.1 h).toNat, false, false⟩, s)

/-! ## Write lists (R139, R140) -/

/-- Lines of a package, by package and line number of slot A. -/
def listLine (pkg a : Nat) : Nat := pkg * 2 ^ 40 + a / 64

/-- The write list of a handle's epoch. -/
def State.wlist? (s : State) (h : Handle) : Option WriteList :=
  s.wlists.find? fun w => w.asid = h.asid && w.name = h.name && w.epoch = h.epoch.toNat

/-- The package has learned that the handle's epoch is aborting (R140). -/
def State.gsAborting (s : State) (h : Handle) : Bool := ((s.wlist? h).map (·.aborting)).getD false

/-- The lines of the new versions enter the write list. -/
def State.noteLines (s : State) (g : Seg) (h : Handle) (fresh : List Byte) : State :=
  let ls := ((linePieces g.addr g.len).zip fresh).filterMap fun x =>
    if x.2 = 1 then some (listLine g.pkg x.1.1) else none
  if ls.isEmpty then s
  else
    match s.wlist? h with
    | some _ =>
      { s with wlists := s.wlists.map fun w =>
          if w.asid = h.asid && w.name = h.name && w.epoch = h.epoch.toNat then
            { w with lines := w.lines ++ ls.filter (! w.lines.contains ·) } else w }
    | none => { s with wlists := s.wlists ++ [⟨h.asid, h.name, h.epoch.toNat, ls, false⟩] }

/-- Lines on the package's write lists across the open epochs: a list is closed when the package hears that its epoch has
committed, and emptied by a revert (R140, R142; notes/assumptions/28.md). -/
def State.listed (s : State) : Nat := s.wlists.foldl (fun n w => n + w.lines.length) 0

/-- The lines of some places that are not on the write list of a handle's epoch. -/
def State.unlisted (s : State) (h : Handle) (gs : List Seg) : List Nat :=
  let mine := ((s.wlist? h).map (·.lines)).getD []
  ((gs.map fun g => (linePieces g.addr g.len).map fun p => listLine g.pkg p.1).flatten).filter (!mine.contains ·)

/-- The access is made on another package's behalf. -/
def Access.foreign (x : Access) : Bool :=
  match x.owner with
  | .remote .. => true
  | _ => false

/-- The groupset stores of this package that are on their way: place and handle. -/
def State.flying (s : State) : List (Seg × Handle) :=
  s.accesses.flatMap fun x => if x.foreign then [] else x.todo.filterMap fun op => match op with
    | .gsStore g _ h _ => some (g, h)
    | _ => none

/-- A groupset store to these places cannot take the write lists beyond 1,048,575 lines, whatever versions the lines have
by then: counted with it are the stores on their way (R140). -/
def State.listFits (s : State) (h : Handle) (gs : List Seg) : Bool :=
  let mine := (s.unlisted h gs).length
  mine = 0 || s.listed + (s.flying.map fun x => (s.unlisted x.2 [x.1]).length).sum + mine ≤ 1048575

/-- The first version, of the lines that a GS.LOAD's operation covers, whose home has to be asked (R144). -/
def State.sealNeed (s : State) (sl : Seals) : GOp → Option Nat
  | .gsLoad gs h => ((gs.map fun g => linePieces g.addr g.len).flatten).findSome? fun p =>
      match s.gsPick sl p.1 h with
      | .error r => some r
      | .ok _ => none
  | _ => none

/-! ## Scopes (R116) -/

/-- The row of a cog (R3). -/
def cogRow (c : Nat) : Nat := c / 16
/-- The die of a cog (R3). -/
def cogDie (c : Nat) : Nat := c / 16 / 10 * 2 + c % 16 / 8

/-- The segment of a package in the active image. -/
def State.segment (s : State) (pkg : Nat) : Option Nat :=
  match s.image with
  | none => none
  | some i => (i.packages.find? fun p => p.1 = pkg).map (·.2)

/-- A package bound to this one by a chain port. DESIGN CHOICE (notes/assumptions/55.md): R116 speaks of a binding in the
image, which holds no such record; the neighbours found when the links trained are taken. -/
def State.bound (s : State) (pkg : Nat) : Bool := s.ports.toList.any fun p => p.neighbour = some pkg

/-- The memory of a place lies within a scope of a bank. DESIGN CHOICE (notes/assumptions/55.md): R116 names host memory
on path 0x4 only; host memory reached through path 0x3, 0x5 or 0x6 counts the same, within system scope alone. -/
def State.inScope (s : State) (b : BankIx) (sc : Scope) (g : Seg) : Bool :=
  if g.host then sc = .system
  else
    let own : Bool := g.pkg = s.hub.pkg.toNat
    let c := physCog g.addr
    match sc with
    | .bank | .cog => own && c = b.cog.val
    | .row => own && cogRow c = cogRow b.cog.val
    | .die => own && cogDie c = cogDie b.cog.val
    | .package => own
    | .hop => own || s.bound g.pkg
    | .segment => own || ((s.segment g.pkg).isSome && s.segment g.pkg = s.segment s.hub.pkg.toNat)
    | .chain | .system => true

/-! ## Issuing an access (R117 to R124) -/

/-- Two places share bytes. -/
def segOverlaps (a b : Seg) : Bool :=
  a.pkg = b.pkg && a.host = b.host && a.addr < b.addr + b.len && b.addr < a.addr + a.len

/-- The places an access has still to reach. -/
def Access.segs (x : Access) : List Seg := (x.todo.map gopSegs).flatten

/-- Some byte is common to two lists of places. -/
def sharing (a b : List Seg) : Bool := a.any fun x => b.any (segOverlaps x)

/-- Strong places of one package, or of the host (R120). -/
def bothStrong (a b : List Seg) : Bool :=
  a.any fun x => x.cls = .strong && b.any fun y => y.cls = .strong && x.pkg = y.pkg && x.host = y.host

/-- M instructions of the bank, of earlier bundles, that have not made their accesses within a scope (R293). -/
def State.mPending (s : State) (b : BankIx) (sc : Scope) (loads stores : Bool) : Bool :=
  (s.cog b.cog).mq.any fun e => e.bank = b && e.ticket < s.ownFrom &&
    ((loads && e.unread) || (stores && writesMem e.instr)) && e.segs.any (s.inScope b sc)

/-- An access of the bank, or of its M instructions, of an earlier bundle and not performed, lies within a scope. -/
def State.pendingIn (s : State) (b : BankIx) (sc : Scope) (p : AccKind → Bool) : Bool :=
  s.accesses.any fun x => x.bank = b && x.id < s.ownFrom &&
    (match x.owner with | .bank | .munit _ => true | _ => false) && p x.kind && x.segs.any (s.inScope b sc)

/-- An id names something not yet performed: an access, a snapshot, or an M instruction still in the cog's queue. -/
def State.waiting (s : State) (c : CogIx) (id : Nat) : Bool :=
  s.accesses.any (·.id = id) || s.gsreqs.any (·.id = id) ||
  (s.cog c).mq.any fun e => e.ticket = id && (e.unread || writesMem e.instr)

/-- What an access or a queued M instruction of the cog waits for; an M instruction also for those ahead of it (R290). -/
def State.afterOf (s : State) (c : CogIx) (id : Nat) : List Nat :=
  match s.accesses.find? (·.id = id) with
  | some x => x.after
  | none =>
    match (s.cog c).mq.find? (·.ticket = id) with
    | some e => e.after ++ ((s.cog c).mq.map (·.ticket)).filter (· < id)
    | none => []

/-- Some of ids is y, or waits for y directly or through others. -/
def waitsFor (next : Nat → List Nat) (ids : List Nat) (y : Nat) : Nat → Bool
  | 0 => false
  | n + 1 => ids.contains y || ids.any fun i => waitsFor next (next i) y n

/-- A GS.SNAP of the bank has not read SEALED yet (R143). -/
def GsReq.snapOf (r : GsReq) (b : BankIx) : Bool :=
  r.kind = 3 && (match r.dst with | some (b', _, _) => b' = b | none => false)

/-- A near store of the bank, which is performed at the end of its window whatever the class (R120). -/
def Access.isNear (x : Access) : Bool := pathOf x.addr ≤ 1 && x.kind = .store

/-- What the current bank's access asks for. -/
structure Ask where
  kind : AccKind
  acq  : Option Scope := none
  rel  : Option Scope := none
  addr : Word
  dst  : Dst := .none
  gs   : Option Handle := none
  /-- An element of a VGATHER, whose latency is interlocked on every path (R261). -/
  gather : Bool := false
deriving DecidableEq, Repr

/-- A load or store on paths 0x0 and 0x1. -/
def Ask.near (k : Ask) : Bool := pathOf k.addr ≤ 1 && k.kind ≠ .atomic

/-- R105 and R106 fix the moment of a near access and so take precedence over the order of strong accesses; that of a
gather's near element only while a near store of the bank is within its window (R120; notes/assumptions/12.md). -/
def State.fixed (s : State) (b : BankIx) (k : Ask) : Bool :=
  k.near && (!k.gather || s.accesses.any fun x => x.bank = b && x.owner = .bank && x.isNear && s.clk < x.due)

/-- Some of the places lie within a scope of the bank. -/
def State.relIn (s : State) (b : BankIx) (rel : Option Scope) (gs : List Seg) : Bool :=
  match rel with
  | some sc => gs.any (s.inScope b sc)
  | none => false

/-- The accesses and snapshots of the bank that a new access to these places is performed after: those to the same bytes,
those to strong places of the same package when it is strong, acquires, and for a release every earlier access within its
scope (R117, R120, R121, R143). A load is not performed after its bank's own store to the same bytes, except a near store
whose window has passed (R105, R106). -/
def State.deps (s : State) (b : BankIx) (k : Ask) (gs : List Seg) : List Nat :=
  (s.accesses.filter fun x => x.bank = b && x.owner = .bank &&
    ((sharing gs x.segs && !(k.kind = .load && x.kind = .store && !(x.isNear && x.due ≤ s.clk))) ||
      (!s.fixed b k && bothStrong gs x.segs) || x.acq || s.relIn b k.rel x.segs)).map (·.id) ++
  (s.gsreqs.filter (·.snapOf b)).map (·.id)

/-- An M access, a store or not, to some places comes before the bank's new access: to the same bytes unless it is stored
to and the new one is a load (R117, R293), to strong places of one package (R120), or within a release's scope (R121). -/
def State.mFirst (s : State) (b : BankIx) (k : Ask) (gs : List Seg) (store : Bool) (ms : List Seg) : Bool :=
  let same := sharing gs ms
  (k.kind ≠ .load && same) || (!s.fixed b k && bothStrong gs ms && !(k.kind = .load && store && same)) ||
    s.relIn b k.rel ms

/-- The M instructions of the bank, queued or with accesses on their way, that a new access to these places is performed
after. A load comes before a tile store of its own bundle (R119). -/
def State.mDeps (s : State) (b : BankIx) (k : Ask) (gs : List Seg) : List Nat :=
  ((s.cog b.cog).mq.filter fun e => e.bank = b && (e.unread || writesMem e.instr) &&
    !(k.kind = .load && writesMem e.instr && s.ownFrom ≤ e.ticket) &&
    s.mFirst b k gs (writesMem e.instr) e.segs).map (·.ticket) ++
  (s.accesses.filter fun x => x.bank = b && (match x.owner with | .munit _ => true | _ => false) &&
    s.mFirst b k gs (x.kind = .store) x.segs).map (·.id)

/-- Everything that a new access of the current bank is performed after. -/
def State.after (s : State) (k : Ask) (gs : List Seg) : List Nat := s.deps s.cur k gs ++ s.mDeps s.cur k gs

/-- The bank's earlier stores to the same bytes that a load is performed before (R106). -/
def State.aheadOf (s : State) (b : BankIx) (after : List Nat) (gs : List Seg) : List Nat :=
  let fuel := s.accesses.length + (s.cog b.cog).mq.length
  (s.accesses.filter fun x => x.bank = b && x.owner = .bank && x.kind = .store && !x.sent && sharing gs x.segs &&
    !waitsFor (s.afterOf b.cog) after x.id (fuel + 1)).map (·.id)

/-- M accesses of the bank within a scope, still in the queue or not performed (R293). -/
def State.mOut (s : State) (b : BankIx) (sc : Scope) : Bool :=
  s.mPending b sc true true || s.accesses.any fun x => x.bank = b && x.id < s.ownFrom &&
    (match x.owner with | .munit _ => true | _ => false) && x.segs.any (s.inScope b sc)

/-- The access enters the list of those not yet performed, with its operations; it is performed no earlier than due. -/
def State.enter (s : State) (k : Ask) (gs : List Seg) (ops : List GOp) (after : List Nat) (due : Nat) : Nat × State :=
  let (id, s) := s.newId
  let x : Access :=
    { id := id, bank := s.cur, owner := .bank, kind := k.kind, cls := ((gs.map (·.cls)).head?).getD .strong,
      acq := s.relIn s.cur k.acq gs, after := after, due := due, todo := ops, got := [], psn := false, lost := false,
      dst := k.dst, sent := false, epc := s.epc, addr := k.addr, gs := k.gs }
  (id, { s with accesses := s.accesses ++ [x] })

/-- Stores that a load must be performed before wait for it (R106), and tile stores of its own bundle to its bytes, when
both are strong to its package, and to any place when the load is an acquire (R119, R121). -/
def State.holdBack (s : State) (ids : List Nat) (gs : List Seg) (acq : Bool) (id : Nat) : State :=
  let s : State :=
    { s with accesses := s.accesses.map fun x => if ids.contains x.id then { x with after := x.after ++ [id] } else x }
  let hold (e : MEntry) : MEntry :=
    if e.bank = s.cur && writesMem e.instr && s.ownFrom ≤ e.ticket &&
        (acq || sharing gs e.segs || bothStrong gs e.segs) then
      { e with after := e.after ++ [id] }
    else e
  s.modCog s.cur.cog fun c => { c with mq := c.mq.map hold }

/-- An access enters with its operations, after others; its destinations are busy until it has been performed. -/
def State.sendOps (s : State) (k : Ask) (gs : List Seg) (ops : List GOp) (after : List Nat) (due : Nat)
    (busy : List BusyReg) : State :=
  let ahead := if k.kind = .load then s.aheadOf s.cur after gs else []
  let (id, s) := s.enter k gs ops after due
  let s := if k.kind = .load then s.holdBack ahead gs (s.relIn s.cur k.acq gs) id else s
  s.modMe fun b => busy.foldl (fun b r => b.mark r id) b

/-! ## What a bundle asks first (R103, R104, R144, R390; notes/assumptions/11.md) -/

/-- The answer to an access that the bundle in issue has made first; none makes it. -/
def State.asked (s : State) (kind : AccKind) (op : GOp) (addr : Word) (after : List Nat) : Except Stop PreAns :=
  match s.me.pre.find? fun a => a.op = op && a.done with
  | some a => .ok a
  | none => .error (.ask kind op addr after)

/-- The global access error of a host access that failed (R390). -/
def hostTrap {α : Type} (addr : Word) : Except Stop α := trapOf 0x1A addr Config.hostCause.toNat

/-- The place in host memory that is read for a part: the part, or the whole frame of a compressed page (R102). -/
def hostRun (g : Seg) : Seg :=
  if g.view = .packed then { g with addr := g.addr / 65536 * 65536, len := 65536, view := .plain } else g

/-- The bytes of a part from what was read of the host; none where a decoded read runs beyond its frame (R101). -/
def hostBytes (g : Seg) (data : List Byte) : List (Option Byte) :=
  if g.view = .packed then unpackRun (fun a n => (data.drop a).take n) 0 (g.addr % 65536) g.len else data.map some

/-- Item 8 of R104 for one part of a load: poison known here, or asked for in another package; host memory is read, and
refuses the read or gives bytes that decode within their frame (R101, R112, R390). -/
def State.poisonPart (s : State) (x : Word × Seg) : Except Stop Unit :=
  let (a, g) := x
  if g.host then do
    let r ← s.asked .load (.load [g]) a (s.after { kind := .load, addr := a } [g])
    if r.fail then hostTrap a else check (!r.lost) (.trap { cause := 0x18, val := a })
  else if s.here g then s.checkPoison a [g]
  else do
    let r ← s.asked .load (.probe [g]) a []
    check (!r.psn) (.trap { cause := 0x18, val := a })

/-- Item 9 of R104: a load that covers a pending word traps when the bank's MEMDBG.PEND is set (R107). -/
def State.pendPart (s : State) (x : Word × Seg) : Except Stop Unit :=
  let (a, g) := x
  if !s.me.memdbg || g.host then .ok ()
  else if s.here g then check (!s.coversPending g) (.trap { cause := 0x19, val := a })
  else do
    let r ← s.asked .load (.probe [g]) a []
    check (!r.lost) (.trap { cause := 0x19, val := a })

/-- Items 8 and 9 of R104 for the parts of one page of a load, each with its address. -/
def State.checkParts (s : State) (l : List (Word × Seg)) : Except Stop Unit := do
  l.forM s.poisonPart
  l.forM s.pendPart

/-- Items 8 and 9 for one part. -/
def State.checkRead (s : State) (a : Word) (g : Seg) : Except Stop Unit := s.checkParts [(a, g)]

/-- The parts of a load whose path, range and alignment have passed, each checked in full before the next (R104). -/
def State.xlateLoad (s : State) (k : AKind) (a : Word) (n : Nat) : Except Stop (List Seg) :=
  s.xlateWith s.ctx k a n s.checkRead

/-- Items 8 and 9 for one part of a GS.LOAD, which asks for the versions themselves (R144). -/
def State.checkSnap (s : State) (h : Handle) (a : Word) (g : Seg) : Except Stop Unit := do
  let r ← s.asked .load (.gsLoad [g] h) a (s.after { kind := .load, addr := a } [g])
  check (!r.psn) (.trap { cause := 0x18, val := a })
  s.pendPart (a, g)

/-- One part of a load whose checks have passed: host memory's bytes are known, any other part is read when the access is
performed. -/
def State.loadPart (s : State) (addr : Word) (after : List Nat) (g : Seg) : Except Stop GOp :=
  if g.host then do
    let a ← s.asked .load (.load [g]) addr after
    pure (.given a.data false)
  else pure (.load [g])

/-- The operations of an access once all that its bundle has to ask first is answered. An atomic of host memory is then
done. -/
def State.preOps (s : State) (k : Ask) (op : GOp) (after : List Nat) : Except Stop (List GOp) :=
  match op with
  | .load gs => gs.mapM (s.loadPart k.addr after)
  | .gsLoad gs h => gs.mapM fun g => do
    let a ← s.asked .load (.gsLoad [g] h) k.addr after
    pure (.given a.data a.lost)
  | .atomic g .. =>
    if g.host then do
      let a ← s.asked .atomic op k.addr after
      if a.fail then hostTrap k.addr else pure [.given a.data false]
    else if s.here g then pure [op]
    else do
      let a ← s.asked .load (.probe [g]) k.addr []
      if a.psn then trapOf 0x18 k.addr else pure [op]
  | op => .ok (gopSplit op)

/-- An access whose end is not architectural: performed a free time later, after those it is ordered after; its
destinations are busy until then. -/
def State.sendAccess (s : State) (k : Ask) (op : GOp) (busy : List BusyReg) : Except Stop State := do
  let gs := gopSegs op
  let after := s.after k gs
  let ops ← s.preOps k op after
  let (due, s) := s.later
  pure (s.sendOps k gs ops after due busy)

/-- The latency of a near load (R105). -/
def nearLatency (a : Word) : Nat := if pathOf a = 0 then 4 else 10
/-- The window after which a near store is performed (R105). -/
def storeWindow (a : Word) : Nat := if pathOf a = 0 then 2 else 4

/-- A load of checked places: on paths 0x0 and 0x1 its bytes are read now and appear with the exposed latency, unless it
has to be performed after an access on its way: then it is held, and its destinations are busy (R121, R143, R235);
elsewhere the load is interlocked. -/
def State.loadAt (s : State) (k : Ask) (gs : List Seg) (busy : List BusyReg) (res : List Byte → List Res)
    (causes : List Byte → Causes := fun _ => {}) : Except Stop State :=
  if pathOf k.addr ≤ 1 then
    let after := s.after k gs
    if after.isEmpty then
      let (r, s) := s.serve 0 (some s.cur.num) k.addr (.load gs)
      pure (s.result (nearLatency k.addr) (res r.data) (causes r.data))
    else pure (s.sendOps k gs [.load gs] after s.clk busy)
  else s.sendAccess k (.load gs) busy

/-- The bytes of a load of checked places on paths 0x0 to 0x2 whose contents decide whether the bundle traps (R240, R254):
read now, or, when it has to be performed after an access or a snapshot on its way, by an access that waits in its unit
and is answered before the bundle takes effect (R121, R143, R235; notes/assumptions/12.md). -/
def State.readFirst (s : State) (addr : Word) (gs : List Seg) : Except Stop (List Byte × State) :=
  let after := s.after { kind := .load, addr := addr } gs
  match s.me.pre.find? fun a => a.op = .load gs && a.done with
  | some a => if a.psn then trapOf 0x18 addr else pure (a.data, s)
  | none =>
    if after.isEmpty then
      let (r, s) := s.serve 0 (some s.cur.num) addr (.load gs)
      pure (r.data, s)
    else .error (.ask .load (.load gs) addr after)

/-- A store to checked places: on paths 0x0 and 0x1 it is performed at the end of its window, or once those it is ordered
after have been performed; elsewhere a free time later. -/
def State.storeAt (s : State) (k : Ask) (gs : List Seg) (bs : List Byte) : Except Stop State :=
  if pathOf k.addr ≤ 1 then
    pure (s.sendOps k gs [.store gs bs []] (s.after k gs) (s.clk + storeWindow k.addr) [])
  else s.sendAccess k (.store gs bs []) []

end Sys2Proof.Machine
end

