-- ==== Sys2Proof/Machine/Memory.lean ====
section
/-! DEFINITION. Loads, stores and atomics of class X: LD, ST, LDP, STP (R214 to R216), LDG, STG (R226) and the atomics
(R228 to R230). -/

namespace Sys2Proof.Machine

/-- The bytes of a size (R160). -/
def sizeBytes : Size → Nat
  | .b8 => 1 | .b16 => 2 | .b32 => 4 | .b64 => 8 | .b128 => 16

/-- s[base] + sign_extend(off18). -/
def State.memAddr (s : State) (base : SReg) (off : BitVec 18) : Except Stop Word := do
  let b ← s.rdS base
  pure (b + off.signExtend 64)

/-- The paths of LD, ST, LDP and STP (R215), and of LDG and STG (R226). -/
def pathFits (glob : Bool) (a : Word) : Bool :=
  if glob then 3 ≤ pathOf a && pathOf a ≤ 6 else pathOf a ≤ 2 || pathOf a = 7

/-- A value from loaded bytes, sign- or zero-extended (R215). -/
def extend (sx : Bool) (bs : List Byte) : Word :=
  if sx then sext64 (8 * bs.length) (natOf bs) else BitVec.ofNat 64 (natOf bs)

/-- The word k of loaded bytes. -/
def wordAt (bs : List Byte) (k : Nat) : Word := BitVec.ofNat 64 (natOf ((bs.drop (8 * k)).take 8))

/-- The scope at which a form acquires. -/
def acqOf (ord : MOrd) (scope : Scope) : Option Scope := if ord = .acq then some scope else none
/-- The scope at which a form releases. -/
def relOf (ord : MOrd) (scope : Scope) : Option Scope := if ord = .rel then some scope else none

/-- Loads of one scalar or an even pair (R215, R226). -/
def loadOp (glob : Bool) (t : SOp) (base : SReg) (off : BitVec 18) (size : Size) (sx : Bool) (ord : MOrd)
    (scope : Scope) : Core := fun s => do
  let a ← s.memAddr base off
  let n := (sizeBytes size)
  checkAddr s.me.hmode .load a n n
  check (pathFits glob a) (.trap { cause := 0x16, val := a })
  let gs ← s.xlateLoad .load a n
  if size = .b128 then
    let r0 := s.busyA t
    let r1 := s.busyA (sopNext t)
    s.loadAt { kind := .load, acq := acqOf ord scope, addr := a, dst := .pair r0 r1 } gs [r0, r1] fun bs =>
      [s.dA t (wordAt bs 0), s.dA (sopNext t) (wordAt bs 1)]
  else
    let r := s.busyA t
    s.loadAt { kind := .load, acq := acqOf ord scope, addr := a, dst := .scalar r n sx } gs [r] fun bs =>
      [s.dA t (extend sx bs)]

/-- The bytes a store takes from t, or from the pair t and t + 1. -/
def State.storeData (s : State) (t : SOp) (size : Size) : Except Stop (List Byte) := do
  let x ← s.rdA t
  if size = .b128 then
    let y ← s.rdA (sopNext t)
    pure (bytesOf 8 x.toNat ++ bytesOf 8 y.toNat)
  else pure (bytesOf (sizeBytes size) x.toNat)

/-- Stores of one scalar or an even pair (R215, R226). -/
def storeOp (glob : Bool) (t : SOp) (base : SReg) (off : BitVec 18) (size : Size) (ord : MOrd) (scope : Scope) :
    Core := fun s => do
  let a ← s.memAddr base off
  let bs ← s.storeData t size
  checkAddr s.me.hmode .store a (sizeBytes size) (sizeBytes size)
  check (pathFits glob a) (.trap { cause := 0x16, val := a })
  let gs ← s.xlate s.ctx .store a (sizeBytes size)
  s.storeAt { kind := .store, rel := relOf ord scope, addr := a } gs bs

/-- The atomics (R228 to R230): interlocked on every path. -/
def atomicOp (op : AtomicOp) (size : Size) (ord : AOrd) (scope : Scope) (d base a : SReg) (b : Option SReg) : Core :=
  fun s => do
    let addr ← s.rdS base
    let x ← s.rdS a
    let y ← match b with
      | some r => s.rdS r
      | none => pure 0
    let n := (sizeBytes size)
    let gs ← s.access s.ctx (.atomic op) addr n n
    s.checkPoison addr gs
    let r : BusyReg := .s (s.me.physS d)
    let acq := if ord = .acq ∨ ord = .ar then some scope else none
    let rel := if ord = .rel ∨ ord = .ar then some scope else none
    match gs with
    | g :: _ =>
      s.sendAccess { kind := .atomic, acq := acq, rel := rel, addr := addr,
                     dst := .old (some r) n (op = .fadd) (x.setWidth 32) } (.atomic g op x y) [r]
    | [] => pure s

/-! ## Near loads and stores -/

/-- LD -/
def execLd (t : SOp) (base : SReg) (off : BitVec 18) (size : Size) (sx : Bool) (ord : MOrd) (scope : Scope)
    (s : State) : Host.Outcome State Fault Refusal := issue (loadOp false t base off size sx ord scope) s
/-- ST -/
def execSt (t : SOp) (base : SReg) (off : BitVec 18) (size : Size) (ord : MOrd) (scope : Scope) (s : State) :
    Host.Outcome State Fault Refusal := issue (storeOp false t base off size ord scope) s
/-- LDP -/
def execLdp (t : SOp) (base : SReg) (off : BitVec 18) (ord : MOrd) (scope : Scope) (s : State) :
    Host.Outcome State Fault Refusal := issue (loadOp false t base off .b128 false ord scope) s
/-- STP -/
def execStp (t : SOp) (base : SReg) (off : BitVec 18) (ord : MOrd) (scope : Scope) (s : State) :
    Host.Outcome State Fault Refusal := issue (storeOp false t base off .b128 ord scope) s

/-! ## Global loads and stores -/

/-- LDG -/
def execLdg (t : SOp) (base : SReg) (off : BitVec 18) (size : Size) (sx : Bool) (ord : MOrd) (scope : Scope)
    (s : State) : Host.Outcome State Fault Refusal := issue (loadOp true t base off size sx ord scope) s
/-- STG -/
def execStg (t : SOp) (base : SReg) (off : BitVec 18) (size : Size) (ord : MOrd) (scope : Scope) (s : State) :
    Host.Outcome State Fault Refusal := issue (storeOp true t base off size ord scope) s

/-! ## Atomics -/

/-- AADD -/
def execAadd (size : Size) (ord : AOrd) (scope : Scope) (d base a : SReg) (s : State) :
    Host.Outcome State Fault Refusal := issue (atomicOp .add size ord scope d base a none) s
/-- ASWAP -/
def execAswap (size : Size) (ord : AOrd) (scope : Scope) (d base a : SReg) (s : State) :
    Host.Outcome State Fault Refusal := issue (atomicOp .swap size ord scope d base a none) s
/-- ACAS -/
def execAcas (size : Size) (ord : AOrd) (scope : Scope) (d base a b : SReg) (s : State) :
    Host.Outcome State Fault Refusal := issue (atomicOp .cas size ord scope d base a (some b)) s
/-- AAND -/
def execAand (size : Size) (ord : AOrd) (scope : Scope) (d base a : SReg) (s : State) :
    Host.Outcome State Fault Refusal := issue (atomicOp .and size ord scope d base a none) s
/-- AOR -/
def execAor (size : Size) (ord : AOrd) (scope : Scope) (d base a : SReg) (s : State) :
    Host.Outcome State Fault Refusal := issue (atomicOp .or size ord scope d base a none) s
/-- AXOR -/
def execAxor (size : Size) (ord : AOrd) (scope : Scope) (d base a : SReg) (s : State) :
    Host.Outcome State Fault Refusal := issue (atomicOp .xor size ord scope d base a none) s
/-- AMIN -/
def execAmin (u : Bool) (size : Size) (ord : AOrd) (scope : Scope) (d base a : SReg) (s : State) :
    Host.Outcome State Fault Refusal := issue (atomicOp (.min u) size ord scope d base a none) s
/-- AMAX -/
def execAmax (u : Bool) (size : Size) (ord : AOrd) (scope : Scope) (d base a : SReg) (s : State) :
    Host.Outcome State Fault Refusal := issue (atomicOp (.max u) size ord scope d base a none) s
/-- AFADD -/
def execAfadd (ord : AOrd) (scope : Scope) (d base a : SReg) (s : State) :
    Host.Outcome State Fault Refusal := issue (atomicOp .fadd .b32 ord scope d base a none) s

end Sys2Proof.Machine
end

