-- ==== Sys2Proof/Machine/Groupset.lean ====
section
/-! DEFINITION. Groupsets: handles (R134), the home's seal records and its answers (R133, R138, R141 to R143, R147,
R343), and the groupset instructions STG.GS and GS.OPEN to GS.STAT (R227, R232 to R237). -/

namespace Sys2Proof.Machine

/-! ## Handles (R134) -/

/-- A handle register's fields. -/
def handleOf (w : BitVec 128) : Handle :=
  { v := w.getLsbD 127, snap := w.getLsbD 126, asid := w.extractLsb' 104 12, name := w.extractLsb' 88 16,
    home := w.extractLsb' 76 12, pcnt := w.extractLsb' 64 12, epoch := w.extractLsb' 0 40 }

/-- The register image of a handle. -/
def handleBits (h : Handle) : BitVec 128 :=
  BitVec.ofNat 128 (h.v.toNat * 2 ^ 127 + h.snap.toNat * 2 ^ 126 + h.asid.toNat * 2 ^ 104 + h.name.toNat * 2 ^ 88 +
    h.home.toNat * 2 ^ 76 + h.pcnt.toNat * 2 ^ 64 + h.epoch.toNat)

/-- The groupset fault with the handle's number (R326). -/
def gsFault {α : Type} (h : HReg) : Except Stop α := trapOf 0x1B (BitVec.ofNat 64 h.val)

/-- A handle that may write: V set, SNAP clear. -/
def Bank.writer (h : Handle) : Bool := h.v && !h.snap

/-! ## Homes (R133, R343) -/

/-- The home of a name in the groupset table, or the mirror that took its place (R343). -/
def State.homeOf (s : State) (name : BitVec 16) : Option Nat :=
  match s.image with
  | none => none
  | some i =>
    match i.groupsets.find? fun g => g.1 = name with
    | none => none
    | some g =>
      if s.hub.failedPkgs.contains g.2 then
        some ((i.fallback.findSome? fun f => match f with
          | .mirror h m => if h = g.2 then some m else none
          | _ => none).getD g.2)
      else some g.2

/-- A name nobody has opened: SEALED 0, NEXT 1. -/
def SealRec.fresh (asid : BitVec 12) (name : BitVec 16) : SealRec :=
  { asid := asid, name := name, sealed := 0, next := 1, open_ := none, pcnt := 0, joined := [], sealcnt := 0,
    aborting := false, awaiting := [], asker := none, history := [] }

/-- The record of a name. -/
def State.sealRec (s : State) (asid : BitVec 12) (name : BitVec 16) : SealRec :=
  (s.home? asid.toNat name.toNat).getD (SealRec.fresh asid name)

/-- Put a record back. -/
def State.setSealRec (s : State) (r : SealRec) : State :=
  { s with homes := s.homes.filter (fun x => !(x.asid = r.asid && x.name = r.name)) ++ [r] }

/-- The outcome history keeps the 1,024 epochs below the open one, or below NEXT (R133). -/
def trimHistory (r : SealRec) : SealRec :=
  let top := r.open_.getD r.next
  { r with history := r.history.filter fun e => top ≤ e.1 + 1024 && e.1 < top }

/-- The open epoch closes with an outcome. -/
def closeEpoch (r : SealRec) (e : Nat) (aborted : Bool) : SealRec :=
  trimHistory { r with open_ := none, aborting := false, pcnt := 0, joined := [], sealcnt := 0, asker := none,
                       awaiting := [], history := r.history ++ [(e, aborted)] }

/-- GS.OPEN at the home (R138): the record, the status, the epoch. -/
def homeOpen (r : SealRec) (who : Party) (count : Nat) : SealRec × Nat × Nat :=
  if r.aborting then (r, 5, 0)
  else
    let go (r : SealRec) (e : Nat) : SealRec × Nat × Nat :=
      if count ≠ r.pcnt then (r, 1, 0)
      else if r.joined.contains who then (r, 3, 0)
      else if r.joined.length = r.pcnt then (r, 2, 0)
      else ({ r with joined := r.joined ++ [who] }, 0, e)
    match r.open_ with
    | some e => go r e
    | none =>
      if r.next = 2 ^ 40 - 1 then (r, 4, 0)
      else go (trimHistory { r with open_ := some r.next, next := r.next + 1, pcnt := count, joined := [],
                                    sealcnt := 0 }) r.next

/-- GS.SEAL at the home (R141). -/
def homeSeal (r : SealRec) (e : Nat) : SealRec × Nat :=
  if r.open_ ≠ some e ∨ r.aborting then (r, 2)
  else if r.sealcnt + 1 = r.pcnt then (closeEpoch { r with sealed := e } e false, 1)
  else ({ r with sealcnt := r.sealcnt + 1 }, 0)

/-- GS.ABORT at the home (R142): none when the epoch now begins to abort. -/
def homeAbort (r : SealRec) (e : Nat) : Option Nat :=
  if e ≤ r.sealed ∧ !r.history.contains (e, true) then some 1
  else if r.open_ ≠ some e ∨ r.aborting then some 2
  else none

/-- GS.STAT at the home (R147), the list field apart. -/
def homeStat (r : SealRec) (e : Nat) : Word :=
  let code : Nat :=
    if r.next ≤ e then 0
    else if r.open_ = some e then (if r.aborting then 3 else 1)
    else match r.history.find? (fun (h : Nat × Bool) => decide (h.1 = e)) with
      | some h => if h.2 then 3 else 2
      | none => if r.sealed < e then 3 else 2
  let old : Bool := e < r.next && r.open_ ≠ some e && !r.history.any (fun (h : Nat × Bool) => decide (h.1 = e))
  let isOpen : Bool := r.open_ = some e
  BitVec.ofNat 64 (code * 2 ^ 62 +
    (if isOpen then r.pcnt * 2 ^ 50 + r.joined.length * 2 ^ 38 + r.sealcnt * 2 ^ 26 else 0) + old.toNat)

/-- The packages of the chain image that are alive, this one when no image is active. -/
def State.livePkgs (s : State) : List Nat :=
  let all : List Nat := match s.image with
    | none => [s.hub.pkg.toNat]
    | some i => i.packages.map (·.1)
  all.filter fun p => !s.hub.failedPkgs.contains p

/-- The package of a party. -/
def partyPkg : Party → Nat
  | .bank p _ | .sequencer p | .hub p => p

/-- The home's answer leaves: to a party of this package a free time later, else to its package. -/
def State.sendAns (s : State) (who : Party) (a : GsAns) : State :=
  if partyPkg who = s.hub.pkg.toNat then
    let (due, s) := s.later
    s.schedule due (.gsAnswer a)
  else s.emit (.gsans (partyPkg who) who a)

/-- The mirror of this package's records, if the image names one that is alive (R343). -/
def State.mirrorPkg (s : State) : Option Nat :=
  s.image.bind fun i => i.fallback.findSome? fun f => match f with
    | .mirror h m => if h = s.hub.pkg.toNat ∧ ¬ s.hub.failedPkgs.contains m then some m else none
    | _ => none

/-- A changed record is answered only after the mirror has acknowledged it (R343). -/
def State.answerMirrored (s : State) (r : SealRec) (who : Party) (a : GsAns) : State :=
  match s.mirrorPkg with
  | none => s.sendAns who a
  | some m =>
    { s with hub := { s.hub with mirrorWait := s.hub.mirrorWait ++ [(r.asid, r.name, who, a)] } }.emit
      (.hub m (.mirror s.hub.pkg.toNat r))

/-- Write lists of a name's epochs below one are closed (R139, R140). That an epoch has been aborted stays known
(R142). -/
def State.closeLists (s : State) (asid : BitVec 12) (name : BitVec 16) (below : Nat) : State :=
  { s with wlists := s.wlists.filter fun w => w.aborting || !(w.asid = asid && w.name = name && w.epoch < below) }

/-- An epoch has committed: its write list closes here, and every other package of the image hears of it (R140;
notes/assumptions/28.md). -/
def State.epochClosed (s : State) (asid : BitVec 12) (name : BitVec 16) (e : Nat) : State :=
  (s.livePkgs.filter (· ≠ s.hub.pkg.toNat)).foldl (fun s p => s.emit (.hub p (.epochClosed asid name e)))
    (s.closeLists asid name (e + 1))

/-- GS_HOME_OPEN -/
def execGsHomeOpen (m : GsMsg) (s : State) : Host.Outcome State Fault Refusal :=
  let (r, st, e) := homeOpen (s.sealRec m.asid m.name) m.party m.count
  .next ((s.setSealRec r).answerMirrored r m.party ⟨m.id, st, e, 0⟩)

/-- GS_HOME_SEAL -/
def execGsHomeSeal (m : GsMsg) (s : State) : Host.Outcome State Fault Refusal :=
  let (r, st) := homeSeal (s.sealRec m.asid m.name) m.epoch
  let s := (s.setSealRec r).answerMirrored r m.party ⟨m.id, st, m.epoch, 0⟩
  .next (if st = 1 then s.epochClosed m.asid m.name m.epoch else s)

/-- An epoch begins to abort: every package of the chain image is told (R142). -/
def State.startAbort (s : State) (r : SealRec) (e : Nat) (asker : Option GsMsg) : State :=
  let ps := s.livePkgs
  let s := s.setSealRec { r with aborting := true, awaiting := ps, asker := asker }
  ps.foldl (fun s p =>
    if p = s.hub.pkg.toNat then
      let (due, s) := s.later
      s.schedule due (.gsRevert r.asid r.name e s.hub.pkg.toNat)
    else s.emit (.hub p (.revert r.asid r.name e))) s

/-- GS_HOME_ABORT -/
def execGsHomeAbort (m : GsMsg) (s : State) : Host.Outcome State Fault Refusal :=
  let r := s.sealRec m.asid m.name
  match homeAbort r m.epoch with
  | some st => .next ((s.setSealRec r).answerMirrored r m.party ⟨m.id, st, m.epoch, 0⟩)
  | none => .next (s.startAbort r m.epoch (some m))

/-- GS_HOME_SNAP -/
def execGsHomeSnap (m : GsMsg) (s : State) : Host.Outcome State Fault Refusal :=
  .next (s.sendAns m.party ⟨m.id, 0, (s.sealRec m.asid m.name).sealed, 0⟩)

/-- GS_HOME_STAT -/
def execGsHomeStat (m : GsMsg) (s : State) : Host.Outcome State Fault Refusal :=
  .next (s.sendAns m.party ⟨m.id, 0, m.epoch, homeStat (s.sealRec m.asid m.name) m.epoch⟩)

/-- A package has reverted its lines of an epoch; after the last one the epoch closes, the mirror learns of it, and the
asker, if there is one, is answered (R142, R343). -/
def State.revertDone (s : State) (src : Nat) (asid : BitVec 12) (name : BitVec 16) (e : Nat) : State :=
  let r := s.sealRec asid name
  if r.aborting && r.open_ = some e then
    let r := { r with awaiting := r.awaiting.filter (· ≠ src) }
    if r.awaiting.isEmpty then
      let c := closeEpoch r e true
      let s := s.setSealRec c
      match r.asker with
      | some m => s.answerMirrored c m.party ⟨m.id, 0, e, 0⟩
      | none =>
        let (id, s) := s.newId
        s.answerMirrored c (.hub s.hub.pkg.toNat) ⟨id, 0, e, 0⟩
    else s.setSealRec r
  else s

/-- A groupset store of the epoch is in flight from this package, or a line of another package is being reverted. -/
def State.gsFlight (s : State) (asid : BitVec 12) (name : BitVec 16) (e : Nat) : Bool :=
  s.accesses.any fun x => x.todo.any fun op => match op with
    | .gsStore _ _ h _ | .gsRevert _ h => h.asid = asid && h.name = name && h.epoch.toNat = e
    | _ => false

/-- The line that an entry of a write list names. -/
def lineSeg (l : Nat) : Seg :=
  { pkg := l / 2 ^ 40, host := false, addr := l % 2 ^ 40 * 64, len := 64, cls := .strong, view := .groupset }

/-- A revert of a line of another package, on the hub's behalf. -/
def State.revertFar (s : State) (g : Seg) (h : Handle) : State :=
  let (id, s) := s.newId
  let x : Access :=
    { id := id, bank := 0, owner := .revert, kind := .store, cls := .strong, acq := false, after := [], due := s.clk,
      todo := [.gsRevert g h], got := [], psn := false, lost := false, dst := .none, sent := false, epc := 0,
      addr := 0, gs := none }
  { s with accesses := s.accesses ++ [x] }

/-- GS_REVERT: this package learns that the epoch aborts, waits for the groupset stores of the epoch in flight, reverts
the lines of its list, and reports to the home (R142). -/
def execGsRevert (asid : BitVec 12) (name : BitVec 16) (e home : Nat) (s : State) :
    Host.Outcome State Fault Refusal :=
  let h : Handle := { v := true, snap := false, asid := asid, name := name, home := BitVec.ofNat 12 home, pcnt := 0,
                      epoch := BitVec.ofNat 40 e }
  let ls := ((s.wlist? h).map (·.lines)).getD []
  let w : WriteList := ⟨asid, name, e, ls, true⟩
  let mark (s : State) (w : WriteList) : State :=
    { s with wlists := s.wlists.filter (fun x => !(x.asid = asid && x.name = name && x.epoch = e)) ++ [w] }
  let s := mark s w
  let again (s : State) : State :=
    let (due, s) := s.later
    s.schedule due (.gsRevert asid name e home)
  if s.gsFlight asid name e then .next (again s)
  else
    let near := ls.filter fun l => (lineSeg l).pkg = s.hub.pkg.toNat
    let far := ls.filter fun l => (lineSeg l).pkg ≠ s.hub.pkg.toNat
    .next (s.hubWork (near.map fun l => groupsetRuns (lineSeg l)).flatten (.gsRevert asid name e home) fun s =>
      let s := near.foldl (fun s l => s.gsRevertLine (lineSeg l).addr h) (mark s { w with lines := [] })
      let s := far.foldl (fun s l => s.revertFar (lineSeg l) h) s
      if far.isEmpty then
        if home = s.hub.pkg.toNat then s.revertDone home asid name e
        else s.emit (.hub home (.revertDone s.hub.pkg.toNat asid name e))
      else again s)

/-! ## Requests of a bank (R232 to R237) -/

/-- The message of a request. -/
def GsReq.msg (r : GsReq) : GsMsg :=
  { id := r.id, party := r.party, asid := r.asid, name := r.h.name, count := r.h.pcnt.toNat,
    epoch := r.h.epoch.toNat }

/-- The event of a request at its home. -/
def gsEvent (kind : Nat) (m : GsMsg) : Instr :=
  match kind with
  | 0 => .gsHomeOpen m
  | 1 => .gsHomeSeal m
  | 2 => .gsHomeAbort m
  | 3 => .gsHomeSnap m
  | _ => .gsHomeStat m

/-- A request leaves for its home, or for the mirror that took its place (R343). -/
def State.askHome (s : State) (r : GsReq) : State :=
  let home := s.liveHome r.h.home.toNat
  if home = s.hub.pkg.toNat then
    let (due, s) := s.later
    s.schedule due (gsEvent r.kind r.msg)
  else s.emit (.gsmsg home r.kind r.msg)

/-- A request goes to its home; a seal or an abort spends its handle (R141, R142). -/
def State.sendReq (s : State) (r : GsReq) : State :=
  let s := { s with gsreqs := s.gsreqs.map fun (x : GsReq) => if x.id = r.id then { x with sent := true } else x }
  let s := match r.dst with
    | some (b, _, some h) =>
      if r.kind = 1 ∨ r.kind = 2 then
        s.answer b (r.id + 1) [.h h (handleBits { r.h with v := false })]
      else s
    | _ => s
  s.askHome r

/-- What R141 makes a seal wait for: the bank's earlier stores and atomics on the chain, its earlier copies, and its
earlier M stores. -/
def State.sealReady (s : State) (r : GsReq) : Bool :=
  match r.dst with
  | none => true
  | some (b, _, _) =>
    !(s.accesses.any fun x => x.bank = b && x.id < r.id && x.kind ≠ .load && x.segs.any (fun g => !g.host) &&
      (match x.owner with | .bank | .munit _ | .copy .. => true | _ => false)) &&
    !(s.copies.any fun c => c.bank = b && c.id < r.id) &&
    !((s.cog b.cog).mq.any fun e => e.bank = b && e.ticket < r.id && writesMem e.instr)

/-- The current bank's request: its destinations are busy until it is answered, a spent handle's until it is sent. -/
def State.request (s : State) (kind : Nat) (d : SReg) (hr : Option HReg) (h : Handle) : State :=
  let (id, s) := s.newId
  let (_, s) := s.newId
  let r : BusyReg := .s (s.me.physS d)
  let req : GsReq :=
    { id := id, party := .bank s.hub.pkg.toNat s.cur.val, kind := kind, dst := some (s.cur, r, hr), h := h,
      asid := if kind = 4 then h.asid else s.me.asidcur, sent := false }
  let s := s.modMe fun b =>
    let b := b.mark r id
    match hr with
    | some n => b.mark (.h n) (if kind = 1 ∨ kind = 2 then id + 1 else id)
    | none => b
  let s := { s with gsreqs := s.gsreqs ++ [req] }
  if kind = 1 then s else s.sendReq req

/-- An interlocked result that needs no message: it appears a free time later. -/
def State.resultSoon (s : State) (d : SReg) (w : Word) (more : List Res) (busy : List BusyReg) : State :=
  let (id, s) := s.newId
  let (due, s) := s.later
  let r : BusyReg := .s (s.me.physS d)
  (s.modMe fun b => (r :: busy).foldl (fun b x => b.mark x id) b).resultAt due id (s.dS d w :: more)

/-- The room that STG.GS needs in the write lists (R140): near their limit it waits for the groupset stores on their way,
and the lines' memories are asked which lines would get a new version; those that do not fit are a groupset fault. -/
def State.listRoom (s : State) (hr : HReg) (h : Handle) (a : Word) (gs : List Seg) : Except Stop Unit :=
  if s.listFits h gs then .ok ()
  else if !s.flying.isEmpty then .error .stall
  else do
    let l ← gs.mapM fun g =>
      if s.here g then pure (s.serve 0 none a (.gsProbe g h)).1.data
      else (s.asked .load (.gsProbe g h) a []).map PreAns.data
    let fresh := l.flatten.count 1
    if fresh = 0 ∨ s.listed + fresh ≤ 1048575 then .ok () else gsFault hr

/-- STG.GS (R227, R140): the handle first, then the address; a store of an epoch known to abort is discarded; a line that
the write lists have no room for is a groupset fault. -/
def execStgGs (t : SOp) (base : SReg) (off : BitVec 18) (size : Size) (hr : HReg) (s : State) :
    Host.Outcome State Fault Refusal :=
  issue (fun s => do
    let a ← s.memAddr base off
    let bs ← s.storeData t size
    let w ← s.rdH hr
    let h := handleOf w
    let n := sizeBytes size
    if !Bank.writer h || h.asid ≠ s.me.asidcur then gsFault hr
    else if s.gsAborting h then pure s
    else do
      let gs ← s.access s.ctx .gsStore a n n
      s.listRoom hr h a gs
      match gs with
      | g :: _ => s.sendAccess { kind := .store, addr := a, gs := some h } (.gsStore g bs h false) []
      | [] => pure s) s

/-- GS.OPEN (R233) -/
def execGsOpen (d : SReg) (hr : HReg) (name count : SReg) (s : State) : Host.Outcome State Fault Refusal :=
  issue (fun s => do
    let nm ← s.rdS name
    let cnt ← s.rdS count
    let w ← s.rdH hr
    let h := handleOf w
    let nm := nm.setWidth 16
    let asid := s.me.asidcur
    if cnt.toNat = 0 ∨ 4095 < cnt.toNat then gsFault hr
    else if h.v then
      if !h.snap && h.asid = asid && h.name = nm then pure (s.resultSoon d 0 [] [])
      else gsFault hr
    else
      match s.homeOf nm with
      | none => pure (s.resultSoon d 6 [.h hr 0] [.h hr])
      | some home =>
        pure (s.request 0 d (some hr)
          { v := false, snap := false, asid := asid, name := nm, home := BitVec.ofNat 12 home,
            pcnt := BitVec.ofNat 12 cnt.toNat, epoch := 0 })) s

/-- GS.SEAL and GS.ABORT (R234). -/
def spendHandle (kind : Nat) (d : SReg) (hr : HReg) : Core := fun s => do
  let w ← s.rdH hr
  let h := handleOf w
  if !Bank.writer h then gsFault hr else pure (s.request kind d (some hr) h)

/-- GS.SEAL -/
def execGsSeal (d : SReg) (hr : HReg) (s : State) : Host.Outcome State Fault Refusal := issue (spendHandle 1 d hr) s
/-- GS.ABORT -/
def execGsAbort (d : SReg) (hr : HReg) (s : State) : Host.Outcome State Fault Refusal := issue (spendHandle 2 d hr) s

/-- GS.SNAP (R235) -/
def execGsSnap (d : SReg) (hr : HReg) (name : SReg) (s : State) : Host.Outcome State Fault Refusal :=
  issue (fun s => do
    let nm ← s.rdS name
    let w ← s.rdH hr
    let nm := nm.setWidth 16
    if Bank.writer (handleOf w) then gsFault hr
    else
      match s.homeOf nm with
      | none => pure (s.resultSoon d 6 [.h hr 0] [.h hr])
      | some home =>
        pure (s.request 3 d (some hr)
          { v := true, snap := true, asid := s.me.asidcur, name := nm, home := BitVec.ofNat 12 home, pcnt := 0,
            epoch := 0 })) s

/-- GS.LOAD (R236): the handle first, then the address; the versions are chosen when each line is reached, which is before
the bundle takes effect (notes/assumptions/11.md). -/
def execGsLoad (d : GsLoadDst) (p : PReg) (hr : HReg) (base : SReg) (s : State) :
    Host.Outcome State Fault Refusal :=
  issue (fun s => do
    let a ← s.rdS base
    let w ← s.rdH hr
    let h := handleOf w
    if !h.v || !h.snap then gsFault hr
    else
      let n := match d with
        | .s64 _ => 8
        | .s128 _ => 16
        | .v _ => 512
      checkAddr s.me.hmode .gsLoad a n (alignOf n)
      check (pathOf a = 3) (.trap { cause := 0x16, val := a })
      let gs ← s.xlateWith s.ctx .gsLoad a n (s.checkSnap h)
      let rs : List BusyReg := match d with
        | .s64 r => [.s (s.me.physS r)]
        | .s128 r => [.s (s.me.physS r), .s (s.me.physS (r + 1))]
        | .v r => [.v (s.me.physV r)]
      let pp := s.me.physP p
      s.sendAccess { kind := .load, addr := a, dst := .snap rs pp } (.gsLoad gs h) (rs ++ [.p pp])) s

/-- GS.STAT (R237) -/
def execGsStat (d : SReg) (hr : HReg) (s : State) : Host.Outcome State Fault Refusal :=
  issue (fun s => do
    let w ← s.rdH hr
    let h := handleOf w
    if h.epoch = 0 then pure (s.resultSoon d 0 [] [])
    else pure (s.request 4 d none h)) s

/-- LINES of GS.STAT: this package's write list for the epoch (R147). -/
def State.statLines (s : State) (h : Handle) : Word :=
  BitVec.ofNat 64 (Nat.min (((s.wlist? h).map (·.lines.length)).getD 0) (2 ^ 20 - 1) * 64)

/-- The status that answers a request; of a seal whose home failed before it answered (kind 5), by the state of its epoch:
committed or aborted, none while it is open (R141, R343; notes/assumptions/28.md). -/
def GsReq.status (r : GsReq) (a : GsAns) : Option Nat :=
  if r.kind ≠ 5 then some a.status
  else
    match a.word.toNat / 2 ^ 62 with
    | 2 => some 1
    | 3 => some 2
    | _ => none

/-- A bank's request ends with a status, and the handle of an open or a snap (R233, R235). -/
def State.bankEnd (s : State) (r : GsReq) (b : BankIx) (d : BusyReg) (hr : Option HReg) (a : GsAns) (st : Nat) : State :=
  let s := { s with gsreqs := s.gsreqs.filter (·.id ≠ r.id) }
  let seals : Bool := r.kind = 1 || r.kind = 5
  let s := if (seals ∧ st = 1) ∨ (r.kind = 0 ∧ st = 0) then
      s.closeLists r.asid r.h.name (if seals then r.h.epoch.toNat + 1 else a.epoch)
    else s
  let w : Word := if r.kind = 4 then a.word ||| s.statLines r.h else BitVec.ofNat 64 st
  let hs : List Res := match hr with
    | none => []
    | some n =>
      if r.kind = 0 then
        [.h n (if st = 0 then handleBits { r.h with v := true, epoch := BitVec.ofNat 40 a.epoch } else 0)]
      else if r.kind = 3 then [.h n (handleBits { r.h with epoch := BitVec.ofNat 40 a.epoch })]
      else []
  s.answer b r.id (d.res w :: hs)

/-- A bank's request is answered; a seal asked again whose epoch is still open asks once more. -/
def State.bankAnswer (s : State) (r : GsReq) (b : BankIx) (d : BusyReg) (hr : Option HReg) (a : GsAns) : State :=
  match r.status a with
  | some st => s.bankEnd r b d hr a st
  | none => s.askHome r

/-- A request that a home has failed to answer goes to the mirror that took its place, when there is one: as it was, but a
seal, which the home may have counted, as a question for the state of its epoch (R343; DESIGN CHOICE,
notes/assumptions/28.md). A name that the sequencer was opening is left to its recovery. -/
def State.askAgain (s : State) (r : GsReq) : State :=
  let put (s : State) (k : Nat) : State :=
    ({ s with gsreqs := s.gsreqs.map fun x => if x.id = r.id then { x with kind := k } else x } : State).askHome
      { r with kind := k }
  match r.party, r.kind with
  | .sequencer _, 0 => s
  | .sequencer _, 1 =>
    put { s with fd := { s.fd with steps := s.fd.steps.map fun t =>
      { t with names := t.names.map fun n => if n.req = r.id then { n with state := .polling } else n } } } 4
  | .bank .., 1 => put s 5
  | _, k => put s k

end Sys2Proof.Machine
end

