-- ==== Sys2Proof/Machine/Copy.lean ====
section
/-! DEFINITION. Copies: the checks at issue (R245), what is captured (R246), the forms (R247 to R249), how the engine
moves units of at most 64 bytes, holds and fails (R109, R110, R112, R131, R250), PRM.RD (R251), and FENCE, which waits
for copies as for accesses (R125, R231). -/

namespace Sys2Proof.Machine

/-! ## Shapes of a copy -/

/-- The row size of the indexed forms, 32 × 2^k; zero for the others. -/
def CopyKind.row : CopyKind → Nat
  | .gather k | .scatter k => 32 * 2 ^ k
  | _ => 0

/-- Units in a row, or in the whole copy. -/
def unitsOf (n : Nat) : Nat := (n + 63) / 64

/-- The number of units of a copy. -/
def Copy.units (c : Copy) : Nat :=
  match c.kind with
  | .gather _ | .scatter _ => c.count * unitsOf c.kind.row
  | _ => unitsOf c.len

/-- The range that unit u belongs to and its bytes there: the range's number, the offset in it, the length. -/
def Copy.unit (c : Copy) (u : Nat) : Nat × Nat × Nat :=
  match c.kind with
  | .gather _ | .scatter _ =>
    let r := c.kind.row
    let k := unitsOf r
    (u / k, 64 * (u % k), Nat.min 64 r)
  | _ => (0, 64 * u, Nat.min 64 (c.len - 64 * u))

/-- The index of row i. -/
def Copy.indexAt (c : Copy) (i : Nat) : Nat := (c.index.getD []).getD i 0

/-- The source range that unit u reads: its base and length. -/
def Copy.srcRange (c : Copy) (i : Nat) : Word × Nat :=
  let r := c.kind.row
  match c.kind with
  | .gather _ => (c.src + BitVec.ofNat 64 (c.indexAt i * r), r)
  | .scatter _ => (c.src, c.count * r)
  | _ => (c.src, c.len)

/-- The destination range that unit u writes. -/
def Copy.dstRange (c : Copy) (i : Nat) : Word × Nat :=
  let r := c.kind.row
  match c.kind with
  | .gather _ => (c.dst, c.count * r)
  | .scatter _ => (c.dst + BitVec.ofNat 64 (c.indexAt i * r), r)
  | _ => (c.dst, c.len)

/-- The offset of unit u in its source range. -/
def Copy.srcOff (c : Copy) (u : Nat) : Nat :=
  let (i, o, _) := c.unit u
  match c.kind with
  | .scatter _ => i * c.kind.row + o
  | _ => o

/-- The offset of unit u in its destination range. -/
def Copy.dstOff (c : Copy) (u : Nat) : Nat :=
  let (i, o, _) := c.unit u
  match c.kind with
  | .gather _ => i * c.kind.row + o
  | _ => o

/-- The k-th unit still to move, and the rest. -/
def pickUnit (k : Nat) : List (Nat × Nat) → Option (Nat × List (Nat × Nat))
  | [] => none
  | (a, n) :: r =>
    if k < n then
      some (a + k, (if k = 0 then [] else [(a, k)]) ++ (if k + 1 = n then [] else [(a + k + 1, n - k - 1)]) ++ r)
    else
      match pickUnit (k - n) r with
      | none => none
      | some (u, r') => some (u, (a, n) :: r')

/-- The number of units in a list of ranges. -/
def unitCount (l : List (Nat × Nat)) : Nat := l.foldl (fun n x => n + x.2) 0

/-! ## Rings in memory (R89) -/

/-- The bytes of a port's ring in this package, through its bank's window table: an input ring, or a send ring. -/
def State.ringSeg (s : State) (b : BankIx) (p : Fin 16) : Option Seg :=
  let x := s.bank b
  let q := x.ports[p]
  let mine : Bool := p.val < 8 || (match q.peer with
    | .stage pkg _ _ _ => pkg ≠ s.hub.pkg.toNat
    | .seqr _ _ => true
    | .none => false)
  if q.peer = .none || !mine then none
  else
    (winFind x.windows q.ring.toNat (q.depth * q.stride)).map fun w =>
      { pkg := s.hub.pkg.toNat, host := false, addr := w.target b.cog.val q.ring.toNat, len := q.depth * q.stride,
        cls := ordOf w.w3, view := .plain }

/-- A run of this package's memory touches a slot of an input ring or a send ring of one of its banks (R89). -/
def State.inRing (s : State) (g : Seg) : Bool :=
  allBanks.any fun b => (s.bank b).active && (List.finRange 16).any fun p =>
    match s.ringSeg b p with
    | some r => segOverlaps r g
    | none => false

/-! ## Translation by the engine (R245) -/

/-- The context a copy captured. -/
def Copy.ctx (c : Copy) : XCtx :=
  { cog := c.bank.cog, wins := c.windows, asid := c.asid, walked := none, engine := true, handler := false }

/-- A part, at an offset, of a range that is one access: on paths 0x0 to 0x2 the whole range matches one window entry.
here says that the bytes lie in this package, whose rings and retained regions then count (R89, R113, R249). -/
def State.copyXlate (s : State) (c : XCtx) (k : AKind) (a : Word) (len off n : Nat) (here : Bool := true) :
    Except Stop (List Seg) := do
  check (!addrError false a len) (.trap { cause := 0x14, val := a })
  if pathOf a ≤ 2 then
    match winFind c.wins a.toNat len with
    | none => memTrap 0x10 a
    | some w =>
      let g : Seg := { pkg := s.hub.pkg.toNat, host := false, addr := w.target c.cog.val a.toNat + off, len := n,
                       cls := ordOf w.w3, view := .plain }
      check (winPerm k w && (!here || !k.writes || w.bit 4 || !s.inRing { g with addr := g.addr - off, len := len }))
        (.trap { cause := 0x11, val := a })
      if here then s.checkRet a g.addr n
      pure [g]
  else s.xlate c k (a + BitVec.ofNat 64 off) n

/-- The destination kind of a copy. -/
def Copy.dstKind (c : Copy) : AKind :=
  match c.kind with
  | .gs _ => .copyGs
  | _ => .copyDst

/-- The destination lies in this package: a broadcast's when this package is listed. -/
def State.dstHere (s : State) (c : Copy) : Bool :=
  match c.kind with
  | .bcast _ => (c.index.getD []).contains s.hub.pkg.toNat
  | _ => true

/-- The window entry of the destination range has RING, or the destination is on no window's path (R89). -/
def Copy.mayRing (c : Copy) (i : Nat) : Bool :=
  let (a, len) := c.dstRange i
  2 < pathOf a || (match winFind c.windows a.toNat len with
    | some w => w.bit 4
    | none => false)

/-- Where unit u goes: for a broadcast, one place in every listed package (R249). -/
def State.copyDst (s : State) (c : Copy) (u : Nat) : Except Stop (List Seg) := do
  let (i, _, n) := c.unit u
  let (a, len) := c.dstRange i
  let gs ← s.copyXlate c.ctx c.dstKind a len (c.dstOff u) n (s.dstHere c)
  match c.kind with
  | .bcast _ => pure ((c.index.getD []).map fun p => gs.map fun g => { g with pkg := p }).flatten
  | _ => pure gs

/-- Where unit u comes from. -/
def State.copySrc (s : State) (c : Copy) (u : Nat) : Except Stop (List Seg) :=
  let (i, _, n) := c.unit u
  let (a, len) := c.srcRange i
  s.copyXlate c.ctx .copySrc a len (c.srcOff u) n

/-- All destination bytes of a copy, when they can be known (R128). -/
def State.copyDsts (s : State) (c : Copy) : Option (List Seg) :=
  if c.held then none
  else
    match c.kind with
    | .scatter _ =>
      match c.index with
      | none => none
      | some _ =>
        match (List.range c.count).mapM fun i =>
            let (a, n) := c.dstRange i
            s.copyXlate c.ctx .copyDst a n 0 n with
        | .ok l => some l.flatten
        | .error _ => none
    | .bcast _ =>
      match c.index with
      | none => none
      | some ps =>
        match s.copyXlate c.ctx .copyDst c.dst c.len 0 c.len (s.dstHere c) with
        | .ok gs => some (ps.map fun p => gs.map fun g => { g with pkg := p }).flatten
        | .error _ => none
    | _ =>
      let (a, n) := c.dstRange 0
      match s.copyXlate c.ctx c.dstKind a n 0 n with
      | .ok l => some l
      | .error _ => none

/-- The address and bytes of the index table, or of the package list. -/
def Copy.table (c : Copy) : Option (Word × Nat) :=
  match c.kind with
  | .gather _ | .scatter _ => some (c.tbl, 4 * c.count)
  | .bcast n => some (c.tbl, 2 * n)
  | _ => none

/-- The bytes of an index table or package list that the engine has still to read (R248), when they can be known. -/
def State.copyTbl (s : State) (c : Copy) : Option (List Seg) :=
  match c.table, c.index with
  | some (a, n), none =>
    match s.copyXlate c.ctx .copySrc a n 0 n with
    | .ok l => some l
    | .error _ => none
  | _, _ => some []

/-- All source bytes of a copy but its table, when they can be known. -/
def State.copyRows (s : State) (c : Copy) : Option (List Seg) :=
  match c.kind with
  | .gather _ =>
    match c.index with
    | none => none
    | some _ =>
      match (List.range c.count).mapM fun i =>
          let (a, n) := c.srcRange i
          s.copyXlate c.ctx .copySrc a n 0 n with
      | .ok l => some l.flatten
      | .error _ => none
  | _ =>
    let (a, n) := c.srcRange 0
    match s.copyXlate c.ctx .copySrc a n 0 n with
    | .ok l => some l
    | .error _ => none

/-- All source bytes of a copy, a table not yet read among them, when they can be known (R125, R130). -/
def State.copySrcs (s : State) (c : Copy) : Option (List Seg) := do
  let t ← s.copyTbl c
  let l ← s.copyRows c
  pure (t ++ l)

/-- A copy has source bytes still to read. -/
def State.copyReading (s : State) (c : Copy) : Bool :=
  !c.failed && (c.index.isNone || !c.todo.isEmpty ||
    c.waiting.any fun i => s.accesses.any fun x => x.id = i && x.kind = .load)

/-! ## The engine -/

/-- Change a copy. -/
def State.modCopy (s : State) (id : Nat) (f : Copy → Copy) : State :=
  { s with copies := s.copies.map fun c => if c.id = id then f c else c }

/-- An access of the engine for unit u: it waits for nothing but its time. -/
def State.copyAccess (s : State) (c : Copy) (u : Nat) (wr : Bool) (g : Seg) (ops : List GOp) (addr : Word) (due : Nat) :
    State :=
  let (id, s) := s.newId
  let x : Access :=
    { id := id, bank := c.bank, owner := .copy c.id u wr, kind := if wr then .store else .load, cls := g.cls, acq := false,
      after := [], due := due, todo := ops, got := [], psn := false, lost := false, dst := .none, sent := false,
      epc := c.epc, addr := addr, gs := match c.kind with | .gs h => some h | _ => none }
  { s.modCopy c.id (fun c => { c with waiting := c.waiting ++ [id] }) with accesses := s.accesses ++ [x] }

/-- A byte at an offset of a place lies within some of the places. -/
def inSegs (gs : List Seg) (g : Seg) (i : Nat) : Bool := gs.any (segOverlaps { g with addr := g.addr + i, len := 1 })

/-- The bytes written at a place: where a copy's source and destination overlap, free values (R247). -/
def State.copyBytes (s : State) (c : Copy) (g : Seg) (data : List Byte) : List Byte × State :=
  match c.kind with
  | .plain | .gs _ | .bcast _ =>
    let src := (s.copyRows c).getD []
    if src.any (segOverlaps g) then
      let (n, s) := s.draw
      (data.zipIdx.map fun e => if inSegs src g e.2 then Config.freeByte n e.2 else e.1, s)
    else (data, s)
  | _ => (data, s)

/-- The bytes of unit u are written to its places, each a free time later: their words are pending until then (R107). Near
the limit of the write lists a groupset store first asks whether its line gets a new version (R140). -/
def State.copyPut (s : State) (c : Copy) (u : Nat) (data : List Byte) (psn : Bool) (gs : List Seg) : State :=
  let base := (c.dstRange (c.unit u).1).1 + BitVec.ofNat 64 (c.dstOff u)
  gs.foldl (fun s g =>
    let (bs, s) := s.copyBytes c g data
    let ops : List GOp := match c.kind with
      | .gs h => (if s.listFits h [g] then [] else [.gsProbe g h]) ++ [.gsStore g bs h psn]
      | _ => [.store [g] bs [psn]]
    let (due, s) := s.later
    s.copyAccess c u true g ops base due) s

/-- What a copy does about a fault (R110): it is held for the hub, it waits, or it fails. -/
def State.copyStop (s : State) (c : Copy) (e : Stop) : State :=
  match e with
  | .hub cause asid goff owner _ =>
    (s.modCopy c.id fun c => { c with held := true }).toHub (.copy c.id) cause asid goff owner
  | .trap t =>
    let s := match t.psn with
      | some loc => s.memRecord 4 1 (some c.bank.num) loc t.val 0
      | none => s
    s.modCopy c.id fun c => { c with failed := true }
  | _ => s

/-- A CPY.GS whose epoch is known to abort: it stops and raises nothing (R140, R247). -/
def State.copyAborted (s : State) (c : Copy) : Bool :=
  match c.kind with
  | .gs h => s.gsAborting h
  | _ => false

/-- A copy that has been refused: it fails, but a CPY.GS of an aborting epoch stops and raises nothing (R110, R140, R247). -/
def State.copyRefused (s : State) (c : Copy) : Copy :=
  if s.copyAborted c then { c with held := false, todo := [] } else { c with held := false, failed := true }

/-- A CPY.GS near the limit of the write lists waits for the groupset stores on their way (R140). -/
def State.copyFull (s : State) (c : Copy) (gs : List Seg) : Bool :=
  match c.kind with
  | .gs h => !s.listFits h gs && !s.flying.isEmpty
  | _ => false

/-- The bytes of unit u have been read: they go to its destination, or the unit waits to be moved again. A decoded read
beyond its frame fails the copy (R101, R110). -/
def State.copyRead (s : State) (c : Copy) (u : Nat) (data : List Byte) (psn lost : Bool) : State :=
  if s.copyAborted c then s.modCopy c.id fun c => { c with todo := [] }
  else if lost then s.modCopy c.id fun c => { c with failed := true }
  else
    let again := s.modCopy c.id fun c => { c with todo := (u, 1) :: c.todo }
    match s.copyDst c u with
    | .ok gs => if s.copyFull c gs then again else s.copyPut c u data psn gs
    | .error e => again.copyStop c e

/-- The codewords of the entries that the engine's walk for an address reads (R111). -/
def State.copyWalk (s : State) (c : Copy) (a : Word) : State :=
  let off := a.toNat % 2 ^ 52
  if pathOf a ≤ 2 || (s.tlbFind c.bank.cog c.asid off).isSome then s else s.eccWalk (some c.bank.num) a c.asid off

/-- The engine moves unit u, whose removal leaves rest. -/
def State.copyMove (s : State) (c : Copy) (u : Nat) (rest : List (Nat × Nat)) : State :=
  if s.copyAborted c then s.modCopy c.id fun c => { c with todo := [] }
  else
    let src := (c.srcRange (c.unit u).1).1 + BitVec.ofNat 64 (c.srcOff u)
    let dst := (c.dstRange (c.unit u).1).1 + BitVec.ofNat 64 (c.dstOff u)
    let s := (s.copyWalk c src).copyWalk c dst
    match (do let a ← s.copySrc c u; let b ← s.copyDst c u; pure (a, b) : Except Stop (List Seg × List Seg)) with
    | .error e => s.copyStop c e
    | .ok (gs, _) =>
      let s := s.modCopy c.id fun c => { c with todo := rest }
      if gs.all s.here then
        let (a, s) := s.serve 1 (some c.bank.num) src (.load gs)
        s.copyRead c u a.data a.psn a.lost
      else
        match gs with
        | g :: _ => s.copyAccess c u false g (gopSplit (.load gs)) src s.clk
        | [] => s

/-- 32-bit or 16-bit numbers from bytes. -/
def numbers (w : Nat) (bs : List Byte) : List Nat :=
  (List.range (bs.length / w)).map fun i => natOf ((bs.drop (w * i)).take w)

/-- The engine reads the index table or the package list (R248, R249). DESIGN CHOICE (notes/assumptions/62.md): one in a
poisoned line fails the copy, since R112 and R250 speak of a destination line that corresponds to a poisoned one and
these have none. -/
def State.copyTable (s : State) (c : Copy) (w n : Nat) : State :=
  let s := s.copyWalk c c.tbl
  match s.copyXlate c.ctx .copySrc c.tbl (w * n) 0 (w * n) with
  | .error e => s.copyStop c e
  | .ok gs =>
    let (a, s) := s.serve 1 (some c.bank.num) c.tbl (.load gs)
    let l := numbers w a.data
    let bad : Bool := a.psn || (match c.kind with
      | .bcast _ => l.any fun p => 4096 ≤ p || !s.inImage p
      | _ => false)
    if bad then s.modCopy c.id fun c => { c with failed := true }
    else s.modCopy c.id fun c => { c with index := some l }

/-- One action of the engine for a copy: first its table, then one unit, chosen freely (R132). -/
def State.copyStep (s : State) (c : Copy) : State :=
  match c.index with
  | none =>
    match c.kind with
    | .gather _ | .scatter _ => s.copyTable c 4 c.count
    | .bcast n => s.copyTable c 2 n
    | _ => s.modCopy c.id fun c => { c with index := some [] }
  | some _ =>
    let (n, s) := s.draw
    match pickUnit (Config.freeNat n % Nat.max 1 (unitCount c.todo)) c.todo with
    | none => s
    | some (u, rest) => s.copyMove c u rest

/-- A copy may act: its earlier local stores are visible, it is not held, failed or done, its time has come, and its cog has
not failed (R331). -/
def State.copyActs (s : State) (c : Copy) : Bool :=
  !s.dead c.bank && !c.held && !c.failed && c.nextAt ≤ s.clk && (c.index.isNone || !c.todo.isEmpty) &&
  !c.after.any fun i => s.accesses.any (·.id = i)

/-- Every copy that may act does so once; the next time is free (R246). -/
def State.copiesAct (s : State) : State :=
  s.copies.foldl (fun s c =>
    match s.copies.find? (·.id = c.id) with
    | none => s
    | some c =>
      if s.copyActs c then
        let (next, s) := s.later
        (s.modCopy c.id fun c => { c with nextAt := next }).copyStep { c with nextAt := next }
      else s) s

/-- A copy has written everything (R250). -/
def Copy.done (c : Copy) : Bool := !c.failed && c.index.isSome && c.todo.isEmpty && c.waiting.isEmpty

/-- A copy is still incomplete and has not failed: its missed promise can raise the timing trap (R109, R110). -/
def State.copyOpen (s : State) (id : Nat) : Bool := s.copies.any fun c => c.id = id && !c.done && !c.failed

/-- COPY_COMPLETE -/
def execCopyComplete (id : Nat) (s : State) : Host.Outcome State Fault Refusal :=
  .next { s with copies := s.copies.filter fun c => !(c.id = id && c.done) }

/-- COPY_FAILURE: the copy error waits for a boundary of the issuing iteration, or is recorded when that has ended
(R110, R330). -/
def execCopyFailure (id : Nat) (s : State) : Host.Outcome State Fault Refusal :=
  match s.copies.find? (·.id = id) with
  | none => .next s
  | some c =>
    let s := { s with copies := s.copies.filter (·.id ≠ id) }
    let x := s.bank c.bank
    if x.live && x.iter = c.iter then
      .next (s.modBank c.bank fun x => { x with pend := { x.pend with copyErr := x.pend.copyErr ++ [(c.dst, c.iter)] } })
    else .next (s.trapRecord c.bank c.epc c.dst 0x04 0 0x02)

/-- PROMISE_MISSED: the copy is marked, gets a revised promise, and its iteration, if it is live, a timing trap (R109). -/
def execPromiseMissed (id : Nat) (s : State) : Host.Outcome State Fault Refusal :=
  match s.copies.find? (·.id = id) with
  | none => .next s
  | some c =>
    if c.done || c.failed || s.time.ult c.promise then .next s
    else
      let (n, s) := s.draw
      let p := s.time + 8 + BitVec.ofNat 64 (Config.freeDelay n)
      let s := s.modCopy id fun c => { c with missed := true, promise := p }
      let x := s.bank c.bank
      if x.live && x.iter = c.iter then
        .next (s.modBank c.bank fun x => { x with pend := { x.pend with timing := x.pend.timing ++ [(p, id)] } })
      else .next s

/-! ## Issue -/

/-- The address error of a base whose range is not known at issue: it has no size of its own. -/
def baseError (handler : Bool) (a : Word) : Bool := addrError handler a (if pathOf a = 7 then 8 else 1)

/-- Checks of R245 in their order, handler saying that a trap handler runs in the bank: (address, length or none for a
base, kind, alignment) of each range, the destination's extra path rule, the groupset fault, and the operand trap. -/
def copyChecks (handler : Bool) (rs : List (Word × Option Nat × Bool × Nat)) (gsBad : Option HReg) (operand : Option Word) :
    Except Stop Unit := do
  rs.forM fun r => check (!(match r.2.1 with
    | some n => addrError handler r.1 n
    | none => baseError handler r.1)) (.trap { cause := 0x14, val := r.1 })
  rs.forM fun r => check (r.1.toNat % r.2.2.2 = 0) (.trap { cause := 0x15, val := r.1 })
  rs.forM fun r => check r.2.2.1 (.trap { cause := 0x16, val := r.1 })
  match gsBad with
  | some h => gsFault h
  | none => pure ()
  match operand with
  | some w => trapOf 0x1D w
  | none => pure ()

/-- The operand trap of a length (R245). -/
def lenTrap (l : Word) : Option Word := if l.toNat % 32 ≠ 0 ∨ 16777216 < l.toNat then some l else none

/-- The alignment of source and destination. -/
def copyAlign (n : Nat) : Nat := if n = 32 then 32 else 64

/-- Accept a copy (R246): the promise, at least acceptance + 8; the captured state; the units. -/
def State.accept (s : State) (d : SReg) (kind : CopyKind) (dst src : Word) (len count : Nat) (tbl : Word) :
    Except Stop State := do
  check ((s.copies.filter (·.bank = s.cur)).length < 16) .stall
  let (n, s) := s.draw
  let wait := Config.freeNat n % 3
  let (n, s) := s.draw
  let promise := s.time + BitVec.ofNat 64 (wait + 8 + Config.freeDelay n)
  let (id, s) := s.newId
  let r : BusyReg := .s (s.me.physS d)
  let after := (s.accesses.filter fun x => x.bank = s.cur && x.owner = .bank && x.kind ≠ .load &&
    pathOf x.addr ≤ 2).map (·.id)
  let c : Copy :=
    { id := id, bank := s.cur, iter := s.me.iter, kind := kind, dst := dst, src := src, len := len, count := count,
      tbl := tbl, asid := s.me.asidcur, windows := s.me.windows, promise := promise, missed := false, after := after,
      index := none, todo := [], waiting := [], nextAt := s.clk + 1 + wait, held := false, failed := false,
      epc := s.epc }
  let c := { c with todo := if c.units = 0 then [] else [(0, c.units)] }
  let (rid, s) := s.newId
  let s := (s.modMe fun b => b.mark r rid).resultAt (s.clk + Nat.max 1 wait) rid [s.dS d promise]
  pure (if c.units = 0 then s else { s with copies := s.copies ++ [c] })

/-- CPY and CPY.GS (R247). -/
def copyOp (d dst src len : SReg) (h : Option HReg) : Core := fun s => do
  let a ← s.rdS dst
  let b ← s.rdS src
  let l ← s.rdS len
  let hw ← match h with
    | some n => s.rdH n
    | none => pure 0
  let hd := handleOf hw
  let al := copyAlign l.toNat
  let dk := if h.isSome then AKind.copyGs else AKind.copyDst
  let bad := match h with
    | some n => if !Bank.writer hd || hd.asid ≠ s.me.asidcur then some n else none
    | none => none
  copyChecks s.me.hmode
    [(b, some l.toNat, kindPath .copySrc (pathOf b), al), (a, some l.toNat, kindPath dk (pathOf a), al)] bad (lenTrap l)
  s.accept d (if h.isSome then .gs hd else .plain) a b l.toNat 0 0

/-- CPYGA and CPYSC (R248). -/
def indexedOp (scatter : Bool) (d dst src tbl count : SReg) (k : Nat) : Core := fun s => do
  let a ← s.rdS dst
  let b ← s.rdS src
  let t ← s.rdS tbl
  let n ← s.rdS count
  let r := 32 * 2 ^ k
  let al := copyAlign r
  let whole := some (n.toNat * r)
  let ds := (a, (if scatter then none else whole), kindPath .copyDst (pathOf a), al)
  let ss := (b, (if scatter then whole else none), kindPath .copySrc (pathOf b), al)
  let ts := (t, some (4 * n.toNat), decide (pathOf t ≤ 2), 64)
  copyChecks s.me.hmode (if scatter then [ss, ds, ts] else [ds, ss, ts]) none
    (if 65536 < n.toNat ∨ 16777216 < n.toNat * r then some n else none)
  s.accept d (if scatter then .scatter k else .gather k) a b 0 n.toNat t

/-- CPY -/
def execCpy (d dst src len : SReg) (s : State) : Host.Outcome State Fault Refusal :=
  issue (copyOp d dst src len none) s
/-- CPY_GS -/
def execCpyGs (d dst src len : SReg) (h : HReg) (s : State) : Host.Outcome State Fault Refusal :=
  issue (copyOp d dst src len (some h)) s
/-- CPYGA -/
def execCpyga (d dst src tbl count : SReg) (k : Fin 10) (s : State) : Host.Outcome State Fault Refusal :=
  issue (indexedOp false d dst src tbl count k.val) s
/-- CPYSC -/
def execCpysc (d dst src tbl count : SReg) (k : Fin 10) (s : State) : Host.Outcome State Fault Refusal :=
  issue (indexedOp true d dst src tbl count k.val) s
/-- CPYBC (R249): n + 1 packages. -/
def execCpybc (d dst src len list : SReg) (n : BitVec 8) (s : State) : Host.Outcome State Fault Refusal :=
  issue (fun s => do
    let a ← s.rdS dst
    let b ← s.rdS src
    let l ← s.rdS len
    let t ← s.rdS list
    let al := copyAlign l.toNat
    let k := n.toNat + 1
    copyChecks s.me.hmode
      [(b, some l.toNat, kindPath .copySrc (pathOf b), al), (a, some l.toNat, decide (pathOf a = 2), al),
       (t, some (2 * k), decide (pathOf t ≤ 2), 64)] none (lenTrap l)
    s.accept d (.bcast k) a b l.toNat 0 t) s

/-- The latest promise among the bank's incomplete copies; TIME with none (R251). -/
def State.latestPromise (s : State) (b : BankIx) : Word :=
  match s.copies.filter (·.bank = b) with
  | [] => s.time
  | c :: cs => cs.foldl (fun p x => if p.ult x.promise then x.promise else p) c.promise

/-- PRM.RD -/
def execPrmRd (d : SReg) (trap : Bool) (s : State) : Host.Outcome State Fault Refusal :=
  issue (fun s =>
    let b := s.me
    let p := if trap && b.hmode && b.tcause.toNat % 256 = 3 then b.trapPromise else s.latestPromise s.cur
    pure (s.result 1 [s.dS d p])) s

/-! ## Fences (R125) -/

/-- A copy of the bank still has to write, or to read, memory within a scope; one whose places are not known yet may.
Copy writes lie outside bank scope (R116). -/
def State.copyIn (s : State) (b : BankIx) (sc : Scope) (reads : Bool) : Bool :=
  let may (gs : Option (List Seg)) : Bool := match gs with
    | some gs => gs.any (s.inScope b sc)
    | none => true
  s.copies.any fun c => c.bank = b && c.id < s.ownFrom &&
    ((sc ≠ .bank && may (s.copyDsts c)) || (reads && s.copyReading c && may (s.copySrcs c)))

/-- A near store of the bank, of an earlier bundle, has not been performed: a fence at bank scope closes its window
(R105, R125). -/
def State.nearOpen (s : State) (sc : Scope) : Bool :=
  sc = .bank && s.accesses.any fun x => x.bank = s.cur && x.owner = .bank && x.id < s.ownFrom && x.isNear

/-- The condition of a fence: the earlier accesses it names have been performed, and at bank scope the store-to-load
window is closed. -/
def State.fenceOpen (s : State) (kind : FenceKind) (sc : Scope) : Bool :=
  let b := s.cur
  !s.nearOpen sc &&
  match kind with
  | .full => !s.pendingIn b sc (fun _ => true) && !s.mPending b sc true true && !s.copyIn b sc true
  | .acq => !s.pendingIn b sc (· ≠ .store) && !s.mPending b sc true false
  | .rel => !s.pendingIn b sc (fun _ => true) && !s.mPending b sc true true && !s.copyIn b sc false
  | .ss => !s.pendingIn b sc (· ≠ .load) && !s.mPending b sc false true && !s.copyIn b sc false

/-- FENCE: issue stalls until the condition holds (R125, R231). -/
def execFence (kind : FenceKind) (scope : Scope) (s : State) : Host.Outcome State Fault Refusal :=
  issue (fun s => do
    check (s.fenceOpen kind scope) .stall
    pure s) s

end Sys2Proof.Machine
end

