-- ==== Sys2Proof/Machine/Ring.lean ====
section
/-! DEFINITION. The ring instructions (R217 to R224), the header of a stream packet (R373, R374), and the completion of
a put (R128). -/

namespace Sys2Proof.Machine

/-- A port field as an index: i0 to i7, then o0 to o7. -/
def portIx : Port → Fin 16
  | .i n => ⟨n.val, by omega⟩
  | .o n => ⟨8 + n.val, by omega⟩

/-- The port field's value. -/
def portVal (p : Port) : Word := BitVec.ofNat 64 (portIx p).val

/-- The address of slot j (R217, R218). -/
def PortState.slotAddr (q : PortState) (j : Nat) : Word :=
  q.ring + BitVec.ofNat 64 ((q.slot + j) % q.depth * q.stride)

/-- The figure of R21 from a port's counters: available of an input, free of an output. -/
def PortState.figure (input : Bool) (q : PortState) : Nat :=
  if input then (q.cum - q.freed).toNat - q.reserved else q.depth - (q.cum - q.freed).toNat - q.reserved

/-- The smallest scope that holds a bank of this package and the peer of an edge (R128, R365). -/
def State.edgeScope (s : State) (b : BankIx) (p : Peer) : Scope :=
  let far (pkg : Nat) : Scope :=
    if s.bound pkg then .hop
    else if (s.segment pkg).isSome && s.segment pkg = s.segment s.hub.pkg.toNat then .segment
    else .chain
  match p with
  | .none => .bank
  | .stage pkg bank _ _ =>
    let c := b.cog.val
    let d := bank / 2
    if pkg ≠ s.hub.pkg.toNat then far pkg
    else if bank = b.val then .bank
    else if c = d then .cog
    else if cogRow c = cogRow d then .row
    else if cogDie c = cogDie d then .die
    else .package
  | .seqr pkg _ => if pkg = s.hub.pkg.toNat then .package else far pkg

/-- The consumer's stage id as header word 1 carries it; an endpoint's code for the sequencer (R365, R374). -/
def Peer.stageId : Peer → Nat
  | .none => 0
  | .stage _ _ _ id => id.toNat
  | .seqr pkg done => (if done then 0x20000 else 0x10000) + pkg

/-- Header words 0 and 1 of a stream packet, or with kind 1 the words of a return without its CRC (R373, R374). -/
def headerWords (kind dpkg dcog spkg scog len32 port : Nat) (id num : Nat) : Word × Word :=
  (BitVec.ofNat 64 (dpkg * 2 ^ 52 + dcog * 2 ^ 43 + spkg * 2 ^ 31 + scog * 2 ^ 22 + len32 * 2 ^ 14 + kind * 2 ^ 10 +
    port), BitVec.ofNat 64 (id * 2 ^ 32 + num))

/-- Package, cog field and input port of the other end. -/
def Peer.place : Peer → Nat × Nat × Nat
  | .none => (0, 0, 0)
  | .stage pkg bank port _ => (pkg, bank / 2, port.val)
  | .seqr pkg _ => (pkg, 0x1FF, 0)

/-- The header of packet number n on an output port of a bank. -/
def State.putHeader (s : State) (b : BankIx) (q : PortState) (len : Nat) (n : BitVec 16) : Word × Word :=
  let (pkg, cog, port) := q.peer.place
  headerWords 0 pkg cog s.hub.pkg.toNat b.cog.val (len / 32) port q.peer.stageId n.toNat

/-- A bound port, or the ring operand trap (R223). -/
def State.portOf (s : State) (p : Port) : Except Stop PortState :=
  let q := s.me.ports[portIx p]
  if q.bound then .ok q else trapOf 0x1E (portVal p)

/-- A slot index below the declared count, or the rate trap (R25). -/
def slotIndex (p : Port) (q : PortState) (j : Nat) : Except Stop Unit :=
  check (j < q.rate) (.trap { cause := 0x20, val := portVal p })

/-- RING_ADDR (R219). DESIGN CHOICE (notes/assumptions/62.md): the sum s[b] + imm13 is exact, so that one beyond 64 bits is a
rate trap and does not wrap. -/
def execRingAddr (d : SReg) (port : Port) (b : SReg) (imm : BitVec 13) (hdr : Bool) (s : State) :
    Host.Outcome State Fault Refusal :=
  issue (fun s => do
    let x ← s.rdS b
    let q ← s.portOf port
    let j := x.toNat + imm.toNat
    slotIndex port q j
    pure (s.result 1 [s.dS d (q.slotAddr j + (if hdr then 0 else 32))])) s

/-- RING_AVAIL (R222) -/
def execRingAvail (d : SReg) (port : Port) (s : State) : Host.Outcome State Fault Refusal :=
  issue (fun s => do
    let q ← s.portOf port
    pure (s.result 1 [s.dS d (BitVec.ofNat 64 q.snap)])) s

/-- The payload length in the first header word (R373). -/
def headerLen (bs : List Byte) : Word := BitVec.ofNat 64 (natOf bs / 2 ^ 14 % 256 * 32)

/-- RING_PEEK (R221): a path 0x0 load of a header word. -/
def execRingPeek (d : SReg) (port : Port) (b : SReg) (imm : BitVec 13) (form : PeekForm) (s : State) :
    Host.Outcome State Fault Refusal :=
  issue (fun s => do
    let x ← s.rdS b
    match port with
    | .o _ => trapOf 0x1E (portVal port)
    | .i _ =>
      let q ← s.portOf port
      let j := x.toNat + imm.toNat
      slotIndex port q j
      let a := q.slotAddr j + (if form = .h1 then 8 else 0)
      checkAddr s.me.hmode .ringPeek a 8 8
      let gs ← s.xlateLoad .ringPeek a 8
      let r : BusyReg := .s (s.me.physS d)
      s.loadAt { kind := .load, addr := a, dst := if form = .len then .peek r else .scalar r 8 false } gs [r] fun bs =>
        [s.dS d (if form = .len then headerLen bs else extend false bs)]) s

/-- A copy whose destination lies in the slot of a put of bank b, or is not known yet (R128). -/
def State.putBlocked (s : State) (b : BankIx) (w : PutWait) : Bool :=
  s.copies.any fun c => match s.copyDsts c with
    | some gs => gs.any (segOverlaps w.slot)
    | none => c.bank = b

/-- The header of a put may be written: no copy into its slot is incomplete, and every earlier store and atomic of the
bank within the edge's scope has been performed (R128). DESIGN CHOICE (notes/assumptions/14.md): R128's first bullet counts
copy writes within the scope, and its last sentence says that copies into other slots or other memory are not waited for;
the model follows the last sentence. -/
def State.putReady (s : State) (b : BankIx) (w : PutWait) : Bool :=
  w.due ≤ s.clk && !s.putBlocked b w &&
  !(s.accesses.any fun x => x.bank = b && x.id < w.id && x.kind ≠ .load &&
    (match x.owner with | .bank | .munit _ => true | _ => false) && x.segs.any (s.inScope b w.scope)) &&
  !((s.cog b.cog).mq.any fun e => e.bank = b && e.ticket < w.id && writesMem e.instr &&
    e.segs.any (s.inScope b w.scope))

/-- RING_PUT (R220): the operand checks, the rate, the length, the slot's permissions; the put counts at once, and its
header is written when R128 allows. A put that waits for a copy makes the bank yield (R40): a ring wait. DESIGN CHOICE
(notes/assumptions/62.md): a + imm13 is exact, and the payload bytes at or beyond len, whose contents R220 leaves
undefined, are those that the slot already holds. -/
def execRingPut (port : Port) (a : SReg) (imm : BitVec 13) (nul : Bool) (s : State) :
    Host.Outcome State Fault Refusal :=
  issue (fun s => do
    let x ← s.rdS a
    match port with
    | .i _ => trapOf 0x1E (portVal port)
    | .o _ =>
      let q ← s.portOf port
      let j := q.puts
      slotIndex port q j
      let len := if nul then 0 else x.toNat + imm.toNat
      check (len % 32 = 0 && len ≤ q.capacity) (.trap { cause := 0x1E, val := portVal port })
      let addr := q.slotAddr j
      let gs ← s.access s.ctx .ringPut addr 32 32
      match gs with
      | [] => pure s
      | g :: _ =>
        let (w0, w1) := s.putHeader s.cur q len (q.cum + BitVec.ofNat 16 j)
        let (id, s) := s.newId
        let w : PutWait :=
          { id := id, port := portIx port, scope := s.edgeScope s.cur q.peer,
            head := bytesOf 8 w0.toNat ++ bytesOf 8 w1.toNat ++ List.replicate 16 0, at_ := g,
            slot := { g with len := q.stride }, due := s.clk + 2 }
        let s := s.modMe fun b =>
          { b with puts := b.puts ++ [w], putSlots := b.putSlots ++ [(portIx port, j, w.slot)]
                   ports := b.ports.set (portIx port) { q with puts := j + 1 } }
        pure (if s.putBlocked s.cur w then (s.modMe fun b => { b with mode := .ringWait }).yield s.cur else s)) s

/-- A ring wait is over: the bank becomes ready, or the software trap of the put's bundle is taken (R208). -/
def State.ringDone (s : State) (b : BankIx) : State :=
  match (s.bank b).afterTrap with
  | some (t, epc) => (s.modBank b fun x => { x with afterTrap := none }).raise b t epc
  | none => s.modBank b fun x => { x with mode := .ready }

/-- The headers of a bank's puts that may be written are written; a ring wait with no blocked put is over. -/
def State.putsAct (s : State) (b : BankIx) : State :=
  let x := s.bank b
  if x.puts.isEmpty && x.mode ≠ .ringWait then s
  else
    let s := x.puts.foldl (fun s w =>
      if s.putReady b w then
        (s.writeSeg w.at_ w.head false).modBank b fun x => { x with puts := x.puts.filter (·.id ≠ w.id) }
      else s) s
    if (s.bank b).mode = .ringWait && !((s.bank b).puts.any (s.putBlocked b)) then
      s.ringDone b
    else s

/-- A slot that the iteration has put, or is still counted as put after a restart (R128, R333). -/
def Bank.slotsPut (b : Bank) : List Seg := (b.putSlots.filter fun e => e.2.1 < b.ports[e.1].puts).map (·.2.2)

/-- A copy into a slot that the iteration has put is incomplete, whatever its issue time (R128). -/
def State.slotCopied (s : State) (b : BankIx) : Bool :=
  let gs := (s.bank b).slotsPut
  !gs.isEmpty && s.copies.any fun c => match s.copyDsts c with
    | some l => sharing gs l
    | none => c.bank = b

end Sys2Proof.Machine
end

