-- ==== Sys2Proof/Machine/Links.lean ====
section
/-! DEFINITION. Packets between packages: routes (R376), virtual channels and link blocks with their acknowledgement and
retry (R368 to R372), release in order (R377), the failure and return of links (R378), stream packets (R34, R374, R375)
and free-slot returns (R379, R380). -/

namespace Sys2Proof.Machine

/-! ## Connectivity (R376, R383) -/

/-- The packages bound to one. -/
def nbrs (topo : List (Nat × Nat)) (x : Nat) : List Nat :=
  topo.filterMap fun e => if e.1 = x then some e.2 else if e.2 = x then some e.1 else none

/-- Packages by distance, layer by layer. -/
def layers (topo : List (Nat × Nat)) (d : Nat) (front : List Nat) (seen : List (Nat × Nat)) : Nat → List (Nat × Nat)
  | 0 => seen
  | n + 1 =>
    let new := ((front.map (nbrs topo)).flatten.eraseDups).filter fun x => !seen.any fun e => e.1 = x
    if new.isEmpty then seen else layers topo (d + 1) new (seen ++ new.map fun x => (x, d + 1)) n

/-- Every reachable package with its distance from a root. -/
def distances (topo : List (Nat × Nat)) (root : Nat) : List (Nat × Nat) := layers topo 0 [root] [(root, 0)] 4096

/-- The distance of a package in such a table. -/
def distIn (l : List (Nat × Nat)) (x : Nat) : Option Nat := (l.find? fun e => e.1 = x).map (·.2)

/-- The tree parent of a package: its neighbour of least depth, ties to the lower id; the root has none (R383, R386). -/
def treeParent (topo : List (Nat × Nat)) (root x : Nat) : Option Nat :=
  let ds := distances topo root
  if x = root then none
  else
    ((nbrs topo x).foldl (fun (best : Option (Nat × Nat)) y =>
      match distIn ds y with
      | none => best
      | some d => match best with
        | none => some (d, y)
        | some (e, z) => if d < e || (d = e && y < z) then some (d, y) else best) none).map (·.2)

/-- A package lies in the subtree of another. -/
def inSubtree (topo : List (Nat × Nat)) (root top : Nat) (x : Nat) : Nat → Bool
  | 0 => x = top
  | n + 1 => x = top || (match treeParent topo root x with
    | none => false
    | some y => inSubtree topo root top y n)

/-- The children of a package in the tree. -/
def treeChildren (topo : List (Nat × Nat)) (root x : Nat) : List Nat :=
  (nbrs topo x).eraseDups.filter fun y => treeParent topo root y = some x

/-! ## Routes (R376) -/

/-- Some link of the port is up. -/
def CPort.live (p : CPort) : Bool := !p.dead && p.links.toList.any (·.up)

/-- The ports, among those in use, on minimal paths of at most three hops to a package over a connectivity, ascending. -/
def State.routesOver (s : State) (topo : List (Nat × Nat)) (dst : Nat) (use : ChainPort → Bool) : List ChainPort :=
  let ds := distances topo dst
  match distIn ds s.hub.pkg.toNat with
  | none => []
  | some d =>
    if d = 0 ∨ 3 < d then []
    else (List.finRange 32).filter fun p =>
      use p && (match s.ports[p].neighbour with
        | none => false
        | some n => distIn ds n = some (d - 1))

/-- The route table's ports to a package. -/
def State.routePorts (s : State) (dst : Nat) : List ChainPort := s.routesOver s.topo dst fun p => s.ports[p].live

/-- The ports of the pinned routes: a port that has died or come back, and a hop that is known to be lost, count as before
until they are pinned again (R127). -/
def State.pinnedPorts (s : State) (dst : Nat) : List ChainPort :=
  s.routesOver (s.topo ++ s.oldTopo) dst fun p => s.ports[p].live != s.repin.contains p

/-- The pinned routes are about to change (R127). -/
def State.repinning (s : State) : Bool := !s.repin.isEmpty || !s.oldTopo.isEmpty

/-- Hops between packages are lost; the pinned routes keep them until they are pinned again (R127). -/
def State.dropEdges (s : State) (p : Nat × Nat → Bool) : State :=
  { s with topo := s.topo.filter fun e => !p e, oldTopo := s.oldTopo ++ s.topo.filter p }

/-- A field of a header word. -/
def wfld (w : Word) (lo n : Nat) : Nat := w.toNat / 2 ^ lo % 2 ^ n

/-- KIND, LEN32, VC and the ADPT bit of a packet (R373). -/
def Packet.kind (k : Packet) : Nat := wfld k.w0 10 4
/-- LEN32. -/
def Packet.len32 (k : Packet) : Nat := wfld k.w0 14 8
/-- VC. -/
def Packet.vc (k : Packet) : Fin 4 := ⟨wfld k.w0 4 2, Nat.mod_lt _ (by omega)⟩
/-- ADPT. -/
def Packet.adpt (k : Packet) : Bool := k.w0.getLsbD 8
/-- DPKG. -/
def Packet.dst (k : Packet) : Nat := wfld k.w0 52 12

/-- Change a chain port. -/
def State.modPort (s : State) (p : ChainPort) (f : CPort → CPort) : State :=
  { s with ports := s.ports.set p (f s.ports[p]) }

/-- Change a link. -/
def State.modLink (s : State) (p : ChainPort) (l : LinkIx) (f : Link → Link) : State :=
  s.modPort p fun q => { q with links := q.links.set l (f q.links[l]) }

/-- Credit left on a virtual channel, in flits (R371). -/
def CPort.room (q : CPort) (v : Fin 4) : Nat := (q.credit[v] - q.used[v]).toNat

/-- The links of a port that are up. -/
def CPort.upLinks (q : CPort) : List LinkIx := (List.finRange 4).filter fun l => q.links[l].up

/-- The adaptive weight of a port: the credit of the channel, scaled by the links that are left (R376, R378). -/
def CPort.weight (q : CPort) (v : Fin 4) : Nat := q.room v * q.upLinks.length

/-- The port a packet takes: the pinned choice of its source cog, or the listed port with the most credit. -/
def State.portFor (s : State) (k : Packet) : Option ChainPort :=
  if k.adpt then
    (s.routePorts k.dst).foldl (fun best p => match best with
      | none => some p
      | some b => if (s.ports[b]).weight k.vc < (s.ports[p]).weight k.vc then some p else best) none
  else
    let l := s.pinnedPorts k.dst
    if l.isEmpty then none else l[wfld k.w0 22 9 % l.length]?

/-- Two returns are of one edge, from one package. -/
def sameReturn (a b : Packet) : Bool :=
  a.kind = 1 && b.kind = 1 && wfld a.w1 32 32 = wfld b.w1 32 32 && wfld a.w0 0 4 = wfld b.w0 0 4 &&
  wfld a.w0 31 12 = wfld b.w0 31 12

/-- A packet joins those that wait; a return takes the place of one of its edge that waits already, so that the edge sends
one with the latest value (R379). -/
def queuePacket (k : Packet) (l : List Packet) : List Packet :=
  if l.any (sameReturn k) then l.map fun x => if sameReturn k x then k else x else l ++ [k]

/-- The lowest-numbered live port to a neighbour. -/
def State.portTo (s : State) (pkg : Nat) : Option ChainPort :=
  (List.finRange 32).find? fun p => (s.ports[p]).live && (s.ports[p]).neighbour = some pkg

/-- The port to a neighbour that the neighbour numbers lowest: a child takes time over it (R383). -/
def State.childPort (s : State) (pkg : Nat) : Option ChainPort :=
  (List.finRange 32).findSome? fun n => (List.finRange 32).find? fun p =>
    (s.ports[p]).live && (s.ports[p]).neighbour = some pkg && (s.ports[p]).peer = some n

/-- A packet waits at the port it takes. -/
def State.sendPacket (s : State) (k : Packet) : State :=
  match s.portFor k with
  | none => s
  | some p => s.modPort p fun q => { q with waiting := queuePacket k q.waiting }

/-! ## Pinning routes again (R127) -/

/-- Something that a port has sent is not acknowledged yet. -/
def CPort.inFlight (q : CPort) : Bool :=
  q.links.toList.any fun x => !x.txq.isEmpty || x.retry.any fun e =>
    0 < (e.1 - x.acked).toNat && (e.1 - x.acked).toNat < 32768 && !e.2.isEmpty

/-- A packet that waits takes its port anew. A time exchange keeps to the one link it uses: the child's lowest-numbered port
to its parent, whichever end sends (R383). -/
def State.waitAgain (s : State) (k : Packet) : State :=
  if k.kind = 6 then
    match if wfld k.w1 62 2 = 1 then s.portTo k.dst else s.childPort k.dst with
    | none => s
    | some p => s.modPort p fun q => { q with waiting := q.waiting ++ [k] }
  else s.sendPacket k

/-- Once every live port's packets have been acknowledged, the pinned routes follow the ports that are live and the hops that
are left, and the packets that wait take their new ports. -/
def State.repinAct (s : State) : State :=
  if !s.repinning || s.ports.toList.any (fun q => q.live && q.inFlight) then s
  else
    let ks := (s.ports.toList.map (·.waiting)).flatten
    ks.foldl State.waitAgain { s with repin := [], oldTopo := [], ports := vmap (fun q => { q with waiting := [] }) s.ports }

/-- A port changes; if it dies or comes back by that, the pinned routes follow when they may. -/
def State.portChange (s : State) (p : ChainPort) (f : CPort → CPort) : State :=
  let was := s.ports[p].live
  let s := s.modPort p f
  if s.ports[p].live = was then s
  else
    { s with repin := if s.repin.contains p then s.repin.filter (· ≠ p) else s.repin ++ [p] }.repinAct

/-! ## Flits (R368, R372) -/

/-- Bytes cut into runs of n, the last one padded with zeros. -/
def chunked (n : Nat) (bs : List Byte) : Nat → List (List Byte)
  | 0 => []
  | k + 1 => (bs.take n ++ List.replicate (n - (bs.take n).length) 0) :: chunked n (bs.drop n) k

/-- The flits of a packet on a link. -/
def Packet.flits (k : Packet) (pseq : BitVec 16) (l : LinkIx) : List Flit :=
  { kind := if k.kind = 1 then .ret else .head,
    bytes := bytesOf 8 k.w0.toNat ++ bytesOf 8 k.w1.toNat ++ bytesOf 2 pseq.toNat ++ [BitVec.ofNat 8 l.val] ++
      List.replicate 13 0 } ::
  (chunked 32 k.payload k.len32).map fun b => { kind := .body, bytes := b }

/-- An idle flit. -/
def idleFlit : Flit := { kind := .idle, bytes := List.replicate 32 0 }

/-- A packet has taken a link: PSEQ advances, but not for a return, whose stamp is that of the packet after it, since a
return that a retry drops must leave no gap (R370, R372, R377; notes/assumptions/61.md); the link of an edge's latest
return is kept. -/
def CPort.took (q : CPort) (k : Packet) (l : LinkIx) : CPort :=
  let q := { q with used := q.used.set k.vc (q.used[k.vc] + BitVec.ofNat 16 (1 + k.len32)) }
  if k.kind = 1 then
    let e : Nat × Nat × LinkIx := (wfld k.w1 32 32, wfld k.w0 0 4, l)
    { q with retLink := q.retLink.filter (fun x => !(x.1 = e.1 && x.2.1 = e.2.1)) ++ [e] }
  else { q with pseqTx := q.pseqTx + 1 }

/-- The packets of a port that their channels' credit allows go to links, a free choice each; the others wait, pinned ones
also while the pinned routes are about to change (R127). -/
def State.portSend (s : State) (p : ChainPort) : State :=
  (s.ports[p].waiting.foldl (fun (acc : State × List (Fin 4)) k =>
    let s := acc.1
    let q := s.ports[p]
    let ups := q.upLinks
    if acc.2.contains k.vc || q.room k.vc < 1 + k.len32 || (!k.adpt && s.repinning) then
      (s.modPort p fun q => { q with waiting := q.waiting ++ [k] }, acc.2 ++ [k.vc])
    else
      let (n, s) := s.draw
      match ups[Config.freeNat n % Nat.max 1 ups.length]? with
      | none => (s.modPort p fun q => { q with waiting := q.waiting ++ [k] }, acc.2)
      | some l =>
        let s := s.modLink p l fun x => { x with txq := x.txq ++ k.flits q.pseqTx l }
        (s.modPort p fun q => q.took k l, acc.2)) (s.modPort p fun q => { q with waiting := [] }, [])).1

/-! ## Blocks (R368 to R370) -/

/-- The 512 bytes of a block. -/
def blockBytes (q : CPort) (x : Link) (seq : BitVec 16) (flits : List Flit) : List Byte :=
  let data := (flits ++ List.replicate (15 - flits.length) idleFlit)
  let beat : Bool := data.all fun f => f.kind = .idle
  let credit := ((List.finRange 4).map fun v => bytesOf 2 (q.freed[v] + Config.linkBuffer v.val).toNat).flatten
  let ctl := bytesOf 2 seq.toNat ++ bytesOf 2 x.rxSeq.toNat ++
    [BitVec.ofNat 8 (x.nak.toNat + 2 * beat.toNat)] ++ List.replicate 3 0 ++ credit ++ List.replicate 8 0
  let body := (data.map (·.bytes)).flatten
  body ++ ctl ++ bytesOf 8 (crc64 (ctl ++ body))

/-- A time-transfer packet leaves: t1 of a SYNC and t3 of a DELREQ are stamped at transmission (R383). -/
def State.stampTime (s : State) (p : ChainPort) (f : Flit) : State :=
  let word (k : Nat) : Nat := natOf ((f.bytes.drop k).take 8)
  if f.kind ≠ .head || word 0 / 2 ^ 10 % 16 ≠ 6 || word 0 / 2 ^ 31 % 4096 ≠ s.hub.pkg.toNat then s
  else
    match word 8 / 2 ^ 62 with
    | 0 => { s with td := { s.td with syncs := s.td.syncs.filter (fun e => e.1 ≠ p) ++ [(p, s.time.toNat)] } }
    | 1 => { s with td := { s.td with t3 := some (s.time.toNat * 256) } }
    | _ => s

/-- A link sends its next block: at most 15 waiting flits. -/
def State.sendBlock (s : State) (p : ChainPort) (l : LinkIx) : State :=
  let q := s.ports[p]
  let x := q.links[l]
  let fs := x.txq.take 15
  let s := fs.foldl (fun s f => s.stampTime p f) s
  let s := s.emit (.block p l (blockBytes q x x.txSeq fs))
  s.modLink p l fun x =>
    { x with txq := x.txq.drop 15, retry := x.retry ++ [(x.txSeq, fs)], txSeq := x.txSeq + 1, nak := false,
             lastTx := s.clk }

/-- In a fabric cycle every port sends what it may: a link with flits, or with a NAK to give, sends a block. -/
def State.linksAct (s : State) : State :=
  (List.finRange 32).foldl (fun s p =>
    let q := s.ports[p]
    if q.neighbour.isNone || q.upLinks.isEmpty then s
    else
      let s := if q.waiting.isEmpty then s else s.portSend p
      (s.ports[p]).upLinks.foldl (fun s l =>
        let x := (s.ports[p]).links[l]
        if x.txq.isEmpty && !x.nak then s else s.sendBlock p l) s) s.repinAct

/-- a comes after b, counted modulo 2^16. -/
def seqAfter (a b : BitVec 16) : Bool := 0 < (a - b).toNat && (a - b).toNat < 32768

/-- Blocks at or before ACK leave the retry buffer, up to the last one whose successor begins with a whole packet. -/
def pruneRetry (ack : BitVec 16) : List (BitVec 16 × List Flit) → List (BitVec 16 × List Flit)
  | [] => []
  | e :: r =>
    let k := ((List.range (e :: r).length).filter fun i =>
      match (e :: r)[i]? with
      | none => false
      | some b => !seqAfter b.1 ack && (match (e :: r)[i + 1]? with
        | none => true
        | some n => (n.2.head?.map (·.kind)) ≠ some .body)).getLast?
    match k with
    | none => e :: r
    | some i => (e :: r).drop (i + 1)

/-- The flits of a rebuilt block: an idle flit in the place of every return (R370). -/
def withoutReturns (fs : List Flit) : List Flit := fs.map fun f => if f.kind = .ret then idleFlit else f

/-- The returns among flits, by the header words of each. -/
def returnsOf (fs : List Flit) : List (Word × Word) :=
  (fs.filter fun f => f.kind = .ret).map fun f =>
    (BitVec.ofNat 64 (natOf (f.bytes.take 8)), BitVec.ofNat 64 (natOf ((f.bytes.drop 8).take 8)))

/-! ## Returns (R379, R380) -/

/-- The header words of a return, with its CRC-16 (R374). -/
def returnWords (dpkg dcog spkg scog port id : Nat) (consumed : BitVec 16) : Word × Word :=
  let (w0, w1) := headerWords 1 dpkg dcog spkg scog 0 port id consumed.toNat
  let c := crc16 (bytesOf 8 w0.toNat ++ bytesOf 8 w1.toNat)
  (w0, w1 ||| BitVec.ofNat 64 (c * 65536))

/-- A return leaves for the producer's package: on the package's own fabric a free time later, else by a port. -/
def State.routeReturn (s : State) (pkg : Nat) (w : Word × Word) : State :=
  if pkg = s.hub.pkg.toNat then
    let (due, s) := s.later
    s.schedule due (.freeSlotReturn none w.1 w.2)
  else s.sendPacket { w0 := w.1, w1 := w.2, payload := [] }

/-- The consumer of an input port of this package sends its consumed count. -/
def State.sendReturn (s : State) (b : BankIx) (port : Fin 8) : State :=
  let x := s.bank b
  let q := x.ports[(⟨port.val, by omega⟩ : Fin 16)]
  match q.peer with
  | .none => s
  | .stage pkg bank _ _ =>
    s.routeReturn pkg (returnWords pkg (bank / 2) s.hub.pkg.toNat b.cog.val port.val x.stage.id.toNat q.freed)
  | .seqr pkg _ =>
    s.routeReturn pkg (returnWords pkg 0x1FF s.hub.pkg.toNat b.cog.val port.val x.stage.id.toNat q.freed)

/-- The sequencer sends the consumed count of its done edge. -/
def State.sendDoneReturn (s : State) (e : SeqEdge) : State :=
  s.routeReturn e.pkg (returnWords e.pkg (e.bank / 2) s.hub.pkg.toNat 0x1FF 0 (0x20000 + s.hub.pkg.toNat) e.freed)

/-- The start of the next fabric cycle. -/
def State.nextFabric (s : State) : Nat := s.clk + 2 - s.time.toNat % 2

/-- The edge's next return is due in the next fabric cycle: at most one leaves per fabric cycle, with the value it then
has (R379). -/
def State.wantReturn (s : State) (b : BankIx) (port : Fin 8) : State :=
  let i : Fin 16 := ⟨port.val, by omega⟩
  s.modBank b fun x => x.setPort i { x.ports[i] with retDue := Nat.min x.ports[i].retDue s.nextFabric }

/-- Change a sequencer edge. -/
def State.modEdge (s : State) (p : SeqEdge → Bool) (f : SeqEdge → SeqEdge) : State :=
  { s with fd := { s.fd with edges := s.fd.edges.map fun e => if p e then f e else e } }

/-- The done edge's next return is due in the next fabric cycle. -/
def State.wantDoneReturn (s : State) : State :=
  s.modEdge (·.done) fun e => { e with retDue := Nat.min e.retDue s.nextFabric }

/-- PERIODIC_RETURN: in the fabric cycle after a commit, an activation or a restore, and at the latest every 512 fabric
cycles, while the port is bound (R379). -/
def execPeriodicReturn (b : BankIx) (port : Fin 8) (s : State) : Host.Outcome State Fault Refusal :=
  let i : Fin 16 := ⟨port.val, by omega⟩
  let q := (s.bank b).ports[i]
  if (s.bank b).active && q.bound then
    .next ((s.sendReturn b port).modBank b fun x =>
      x.setPort i { x.ports[i] with retDue := s.clk + 1024 })
  else .next s

/-- A return's CRC is right. -/
def returnOk (w0 w1 : Word) : Bool :=
  crc16 (bytesOf 8 w0.toNat ++ bytesOf 8 (w1.toNat - wfld w1 16 16 * 65536)) = wfld w1 16 16

/-- The value c is one that the producer may accept (R380). -/
def acceptable (seen sent c : BitVec 16) : Bool := (c - seen).toNat ≤ (sent - seen).toNat

/-- An output port of this package that produces for a consumer stage's port. -/
def State.producerOf (s : State) (id port : Nat) : Option (BankIx × Fin 16) :=
  allBanks.findSome? fun b =>
    let x := s.bank b
    if !x.active then none
    else
      ((List.finRange 16).find? fun i => 8 ≤ i.val &&
        (match x.ports[i].peer with
          | .none => false
          | .stage _ _ pt sid => sid.toNat = id && pt.val = port
          | .seqr pkg done => done && 0x20000 + pkg = id)).map fun i => (b, i)

/-- A return has been discarded: counted at the port it came by, up to all ones (R380, R405). -/
def State.badReturn (s : State) (port : Option ChainPort) : State :=
  match port with
  | none => s
  | some p => s.modPort p fun q => { q with badret := if q.badret = BitVec.allOnes 32 then q.badret else q.badret + 1 }

/-- FREE_SLOT_RETURN (R380) -/
def execFreeSlotReturn (port : Option ChainPort) (w0 w1 : Word) (s : State) : Host.Outcome State Fault Refusal :=
  let c : BitVec 16 := w1.extractLsb' 0 16
  let id := wfld w1 32 32
  if !returnOk w0 w1 then .next (s.badReturn port)
  else
    match s.producerOf id (wfld w0 0 4) with
    | some (b, i) =>
      let q := (s.bank b).ports[i]
      if acceptable q.freed q.cum c then
        .next (s.modBank b fun x => x.setPort i { x.ports[i] with freed := c })
      else .next (s.badReturn port)
    | none =>
      match s.fd.edges.find? fun e => !e.done && e.stage.toNat = id && e.port.val = wfld w0 0 4 with
      | none => .next (s.badReturn port)
      | some e =>
        if acceptable e.freed e.cum c then
          .next (s.modEdge (fun x => !x.done && x.stage = e.stage && x.port = e.port) fun x => { x with freed := c })
        else .next (s.badReturn port)

/-! ## Retry and the failure of links (R370, R378) -/

/-- For every edge whose return was dropped from a link, its current count is sent in a new return, unless a later one has
been sent: by another link, or waits at this one (R370). -/
def State.renewReturns (s : State) (p : ChainPort) (l : LinkIx) (dropped : List (Word × Word)) : State :=
  let q := s.ports[p]
  let later := returnsOf q.links[l].txq
  dropped.foldl (fun s w =>
    let id := wfld w.2 32 32
    let port := wfld w.1 0 4
    let other : Bool := q.retLink.any (fun e => e.1 = id && e.2.1 = port && e.2.2 ≠ l) ||
      later.any fun v => wfld v.2 32 32 = id && wfld v.1 0 4 = port
    if other then s
    else
      match allBanks.find? fun b => (s.bank b).active && (s.bank b).stage.id.toNat = id with
      | some b => s.wantReturn b ⟨port % 8, Nat.mod_lt _ (by omega)⟩
      | none => if 0x20000 + s.hub.pkg.toNat = id then s.wantDoneReturn else s) s

/-- The credit of returns that a retry dropped is free again: they never reach the other port (R370, R371). -/
def CPort.giveBack (q : CPort) (dropped : List (Word × Word)) : CPort :=
  dropped.foldl (fun q w =>
    let v := Packet.vc ⟨w.1, w.2, []⟩
    { q with used := q.used.set v (q.used[v] - 1) }) q

/-- Every block after ACK is sent again, in SEQ order, rebuilt without returns. -/
def State.resend (s : State) (p : ChainPort) (l : LinkIx) : State :=
  let x := (s.ports[p]).links[l]
  let after := x.retry.filter fun e => seqAfter e.1 x.acked
  let dropped := (after.map fun e => returnsOf e.2).flatten
  let s := s.modLink p l fun x =>
    { x with retry := x.retry.map fun e => if seqAfter e.1 x.acked then (e.1, withoutReturns e.2) else e,
             retries := x.retries + 1, lastTx := if after.isEmpty then x.lastTx else s.clk }
  let s := s.modPort p fun q => q.giveBack dropped
  let q := s.ports[p]
  let s := after.foldl (fun s e => s.emit (.block p l (blockBytes q q.links[l] e.1 (withoutReturns e.2)))) s
  let s := s.renewReturns p l dropped
  if 64 ≤ x.retries then s.schedule s.clk (.linkFailure p l) else s

/-- A head flit stamped with the link that now sends it (R372). -/
def Flit.onLink (f : Flit) (l : LinkIx) : Flit :=
  if f.kind = .head || f.kind = .ret then { f with bytes := f.bytes.take 18 ++ [BitVec.ofNat 8 l.val] ++ f.bytes.drop 19 }
  else f

/-- Returns that waited at a failed link now leave by another (R370). -/
def CPort.moveReturns (q : CPort) (l k : LinkIx) (moved : List (Word × Word)) : CPort :=
  { q with retLink := q.retLink.map fun e =>
      if e.2.2 = l && moved.any (fun w => wfld w.2 32 32 = e.1 && wfld w.1 0 4 = e.2.1) then (e.1, e.2.1, k) else e }

/-- A flit that waits at a link is a return of an edge whose later return has taken another link. -/
def CPort.stale (q : CPort) (l : LinkIx) (f : Flit) : Bool :=
  (returnsOf [f]).any fun w => !q.retLink.any fun e => e.1 = wfld w.2 32 32 && e.2.1 = wfld w.1 0 4 && e.2.2 = l

/-- LINK_FAILURE: the record, the blocks in the retry buffer on a surviving link, the rest of the queue behind them but for
returns that later ones have overtaken; a port with no link left is dead (R370, R378, R394). -/
def execLinkFailure (p : ChainPort) (l : LinkIx) (s : State) : Host.Outcome State Fault Refusal :=
  let x := (s.ports[p]).links[l]
  if !x.up then .next s
  else
    let s := s.record 0x05 (bytesOf 8 s.time.toNat ++ [BitVec.ofNat 8 p.val, BitVec.ofNat 8 l.val])
    let fs := (x.retry.map (·.2)).flatten
    let s := s.portChange p fun q => { q with links := q.links.set l { Link.reset with lastTx := s.clk, lastRx := x.lastRx } }
    match (s.ports[p]).upLinks with
    | [] => .next (s.schedule s.clk (.portDead p))
    | k :: _ =>
      let dropped := returnsOf ((x.retry.filter fun e => seqAfter e.1 x.acked).map (·.2)).flatten
      let stale := (s.ports[p]).stale l
      let queue := x.txq.filter fun f => !stale f
      let moved := ((withoutReturns fs).filter (·.kind ≠ .idle) ++ queue).map (Flit.onLink · k)
      let s := s.modPort p fun q =>
        (q.giveBack (dropped ++ returnsOf (x.txq.filter stale))).moveReturns l k (returnsOf queue)
      .next ((s.modLink p k fun y => { y with txq := y.txq ++ moved }).renewReturns p l dropped)

/-- LINK_REJOIN: a link that has trained again takes part from the next block (R378). -/
def execLinkRejoin (p : ChainPort) (l : LinkIx) (s : State) : Host.Outcome State Fault Refusal :=
  if (s.ports[p]).links[l].up then .next s
  else .next (s.portChange p fun q =>
    { q with links := q.links.set l { Link.reset with up := true, lastTx := s.clk, lastRx := s.clk } })

/-- LINK_TRAINING: the link is up, the neighbour known, and the connectivity that training found is added (R376,
R403); the neighbour hears which packages are time roots. -/
def execLinkTraining (p : ChainPort) (l : LinkIx) (far : FarPort) (reach : List (Nat × Nat)) (s : State) :
    Host.Outcome State Fault Refusal :=
  let new := (s.hub.pkg.toNat, far.pkg) :: reach
  let s : State := { s with topo := (s.topo ++ new).eraseDups }
  let s := s.portChange p fun q =>
    let q := if q.upLinks.isEmpty then
        { CPort.reset with waiting := q.waiting, badpkt := q.badpkt, badret := q.badret, hopdrop := q.hopdrop }
      else q
    { q with neighbour := some far.pkg, peer := some far.port, dead := false,
             links := q.links.set l { Link.reset with up := true, lastTx := s.clk, lastRx := s.clk } }
  .next (s.td.roots.foldl (fun (s : State) r => s.emit (.hub far.pkg (.timeRoot r true))) s)

/-- LIVENESS_BEAT: a link that has carried no flit for 4,096 fabric cycles sends a block of idle flits (R341, R368). -/
def execLivenessBeat (p : ChainPort) (l : LinkIx) (s : State) : Host.Outcome State Fault Refusal :=
  let x := (s.ports[p]).links[l]
  if x.up && x.txq.isEmpty then .next (s.sendBlock p l) else .next s

/-! ## Arrival (R369, R372, R374, R376, R377) -/

/-- A reserved field of a packet is not zero, or its KIND or length is reserved. -/
def Packet.bad (k : Packet) : Bool :=
  8 ≤ k.kind || 128 < k.len32 || (2 ≤ k.kind && wfld k.w0 0 4 ≠ 0) || (k.kind ≤ 1 && 8 ≤ wfld k.w0 0 4) ||
  (k.kind = 0 && wfld k.w1 16 16 ≠ 0) || (k.kind = 1 && k.len32 ≠ 0) ||
  (k.kind = 6 && (wfld k.w1 0 62 ≠ 0 || wfld k.w1 62 2 = 3))

/-- A packet has been discarded on receipt: BADPKT counts it, up to all ones (R374, R405). -/
def CPort.countBad (q : CPort) : CPort :=
  { q with badpkt := if q.badpkt = BitVec.allOnes 32 then q.badpkt else q.badpkt + 1 }

/-- A packet for this package becomes the event it stands for. Requests, responses, groupset and hub messages carry
transaction fields that only their engines know; they reach the package as events of their own. -/
def State.deliverPacket (s : State) (p : ChainPort) (k : Packet) : State :=
  let ev : Option Instr :=
    match k.kind with
    | 0 => some (if wfld k.w0 43 9 = 0x1FF then .donePacket k.w0 k.w1 k.payload
                 else .streamPacket (.packet k.w0 k.w1 k.payload))
    | 1 => some (.freeSlotReturn (some p) k.w0 k.w1)
    | 6 => some (match wfld k.w1 62 2 with
      | 0 => .sync p
      | 1 => .delreq p
      | _ => .delresp p (BitVec.ofNat 64 (natOf (k.payload.take 8))) (BitVec.ofNat 64 (natOf ((k.payload.drop 8).take 8))))
    | 7 => some (.bootChunk (wfld k.w0 31 12) k.w1.toNat k.payload)
    | _ => none
  match ev with
  | none => s
  | some e => { s with inbox := s.inbox ++ [e] }

/-- A packet on its next hop; the CRC-16 of a return is changed with the header that it covers, so that a wrong one stays
wrong (R374, R376). -/
def Packet.hopped (k : Packet) : Packet :=
  let w0 := k.w0 + 64
  if k.kind ≠ 1 then { k with w0 := w0 }
  else
    let body := bytesOf 8 (k.w1.toNat - wfld k.w1 16 16 * 65536)
    let d := crc16 (bytesOf 8 k.w0.toNat ++ body) ^^^ crc16 (bytesOf 8 w0.toNat ++ body)
    { k with w0 := w0, w1 := k.w1 ^^^ BitVec.ofNat 64 (d * 65536) }

/-- The flits of a packet that has left the receiving port are credit again (R371). -/
def CPort.free (q : CPort) (k : Packet) : CPort :=
  { q with freed := q.freed.set k.vc (q.freed[k.vc] + BitVec.ofNat 16 (1 + k.len32)) }

/-- A packet leaves the reorder buffer: discarded, delivered, or forwarded (R374, R376). -/
def State.releasePacket (s : State) (p : ChainPort) (k : Packet) : State :=
  let s := s.modPort p fun q => q.free k
  if k.bad then s.modPort p CPort.countBad
  else if k.dst = s.hub.pkg.toNat then s.deliverPacket p k
  else
    let hop := wfld k.w0 6 2
    let toward := (s.portFor k).bind fun o => (s.ports[o]).neighbour
    if hop = 3 || (hop = 2 && toward ≠ some k.dst) then
      s.modPort p fun q => { q with hopdrop := if q.hopdrop = BitVec.allOnes 32 then q.hopdrop else q.hopdrop + 1 }
    else s.sendPacket k.hopped

/-- Packets whose turn has come leave the reorder buffer in PSEQ order, each followed by the returns stamped with the next
number. -/
def State.releaseInOrder (s : State) (p : ChainPort) : Nat → State
  | 0 => s
  | n + 1 =>
    let q := s.ports[p]
    let now := q.pseqRx
    match q.reorder.find? fun e => e.1 = now && e.2.kind ≠ 1 with
    | none => s
    | some (_, k) =>
      let ret (e : BitVec 16 × Packet) : Bool := e.1 = now + 1 && e.2.kind = 1
      let rets := q.reorder.filter ret
      let s := s.modPort p fun q =>
        { q with reorder := q.reorder.filter (fun e => e.1 ≠ now && !ret e), pseqRx := now + 1 }
      let s := if k.adpt then s else s.releasePacket p k
      (rets.foldl (fun s e => s.releasePacket p e.2) s).releaseInOrder p n

/-- The mark that a packet already released leaves in the reorder buffer. -/
def releasedMark : Packet := { w0 := 256, w1 := 0, payload := [] }

/-- A whole packet has arrived. -/
def State.packetIn (s : State) (p : ChainPort) (flits : List (List Byte)) : State :=
  match flits with
  | [] => s
  | h :: body =>
    let word (k : Nat) : Word := BitVec.ofNat 64 (natOf ((h.drop k).take 8))
    let pseq : BitVec 16 := BitVec.ofNat 16 (natOf ((h.drop 16).take 2))
    let k : Packet := { w0 := word 0, w1 := word 8, payload := body.flatten }
    let q := s.ports[p]
    let tagBad : Bool := ((h.drop 18).take 1).any (4 ≤ ·.toNat) || (h.drop 19).any (· ≠ 0)
    let keep (s : State) (k : Packet) : State := s.modPort p fun q => { q with reorder := q.reorder ++ [(pseq, k)] }
    if k.kind = 1 then
      if tagBad then s.modPort p fun q => (q.free k).countBad
      else if seqAfter pseq q.pseqRx then keep s k else s.releasePacket p k
    else if seqAfter q.pseqRx pseq || q.reorder.any fun e => e.1 = pseq && e.2.kind ≠ 1 then s
    else
      let s :=
        if tagBad then keep (s.modPort p fun q => (q.free k).countBad) releasedMark
        else if k.adpt then keep (s.releasePacket p k) releasedMark
        else keep s k
      s.releaseInOrder p ((s.ports[p]).reorder.length)

/-- One data flit of a good block. -/
def State.flitIn (s : State) (p : ChainPort) (l : LinkIx) (f : List Byte) : State :=
  let part := (s.ports[p]).links[l].rxPart
  if part.isEmpty && f.all (· = 0) then s
  else
    let part := part ++ [f]
    let need := natOf ((part.headD []).take 8) / 2 ^ 14 % 256
    if part.length = 1 + need then (s.modLink p l fun x => { x with rxPart := [] }).packetIn p part
    else s.modLink p l fun x => { x with rxPart := part }

/-- LINK_BLOCK: a bad CRC, or a block out of sequence, is discarded and answered with NAK; a good one acknowledges,
returns credit, and delivers its flits (R369 to R371). -/
def execLinkBlock (p : ChainPort) (l : LinkIx) (block : List Byte) (s : State) : Host.Outcome State Fault Refusal :=
  let x := (s.ports[p]).links[l]
  if !x.up then .next s
  else
    let s := s.modLink p l fun x => { x with lastRx := s.clk }
    let body := block.take 480
    let ctl := (block.drop 480).take 24
    if block.length ≠ 512 || crc64 (ctl ++ body) ≠ natOf (block.drop 504) then
      .next (s.modLink p l fun x => { x with nak := true })
    else
      let seq : BitVec 16 := BitVec.ofNat 16 (natOf (ctl.take 2))
      let ack : BitVec 16 := BitVec.ofNat 16 (natOf ((ctl.drop 2).take 2))
      let nak : Bool := ((ctl.drop 4).headD 0).getLsbD 0
      let credit (v : Fin 4) : BitVec 16 := BitVec.ofNat 16 (natOf ((ctl.drop (8 + 2 * v.val)).take 2))
      let s := s.modPort p fun q =>
        { q with credit := Vector.mk ((List.finRange 4).map fun v =>
            if seqAfter (credit v) q.credit[v] then credit v else q.credit[v]).toArray (by simp) }
      let s := if seqAfter ack x.acked then
          s.modLink p l fun x => { x with acked := ack, retries := 0, retry := pruneRetry ack x.retry }
        else s
      let s := if nak then s.resend p l else s
      if seq = x.rxSeq + 1 then
        let s := s.modLink p l fun x => { x with rxSeq := seq }
        .next ((chunked 32 body 15).foldl (fun s f => s.flitIn p l f) s)
      else if seqAfter seq x.rxSeq then .next (s.modLink p l fun x => { x with nak := true })
      else .next s

/-! ## Stream packets (R34, R374, R375, R345) -/

/-- The bank and input port that a stream packet names. -/
def State.streamPlace (s : State) (w0 w1 : Word) : Option (BankIx × Fin 16) :=
  let port : Fin 16 := ⟨wfld w0 0 3, by
    have : wfld w0 0 3 < 8 := Nat.mod_lt _ (by decide)
    omega⟩
  (allBanks.find? fun b => (s.bank b).active && (s.bank b).stage.id.toNat = wfld w1 32 32 &&
    ((s.bank b).ports[port]).bound).map fun b => (b, port)

/-- The ring slot of the packet produced next (R22). -/
def PortState.nextSlot (q : PortState) : Nat := (q.slot + (q.cum - q.freed).toNat) % Nat.max 1 q.depth

/-- n packets reach an input port: of those a recovery discards, both counts advance, and a return is sent (R345). -/
def State.arrived (s : State) (b : BankIx) (i : Fin 16) (n : Nat) : State :=
  let q := (s.bank b).ports[i]
  let k := Nat.min q.discard n
  let s := s.modBank b fun x =>
    x.setPort i { q with cum := q.cum + BitVec.ofNat 16 n, freed := q.freed + BitVec.ofNat 16 k,
                         discard := q.discard - k, slot := (q.slot + k) % Nat.max 1 q.depth }
  if k = 0 then s else s.wantReturn b ⟨i.val % 8, Nat.mod_lt _ (by omega)⟩

/-- STREAM_PACKET: a commit's count, or a packet written into the ring unless a recovery discards it. DESIGN CHOICE
(notes/assumptions/57.md): R33 leaves open whether the packets of one commit to another package enter produced together;
each is counted as it arrives. The slot's header is word 0 as it was sent, with HOP zero, and word 1 (R220, R374). -/
def execStreamPacket (m : StreamMsg) (s : State) : Host.Outcome State Fault Refusal :=
  match m with
  | .localCommit b port count => .next (s.arrived b ⟨port.val, by omega⟩ count)
  | .packet w0 w1 payload =>
    match s.streamPlace w0 w1 with
    | none => .next s
    | some (b, i) =>
      let q := (s.bank b).ports[i]
      if 0 < q.discard then .next (s.arrived b i 1)
      else
        match s.ringSeg b i with
        | none => .next s
        | some g =>
          let a := g.addr + q.nextSlot * q.stride
          let bs := bytesOf 8 (w0 &&& ~~~ 192).toNat ++ bytesOf 8 w1.toNat ++ List.replicate 16 0 ++ payload
          let s := s.store a bs (w0.getLsbD 9)
          .next (s.arrived b i 1)

end Sys2Proof.Machine
end

