-- ==== Sys2Proof/Machine/Iterator.lean ====
section
/-! DEFINITION. Iterators (R185, R238 to R243). -/

namespace Sys2Proof.Machine

/-- N: the product of the counts. -/
def Iter.total (g : Iter) : Nat := g.count.toList.foldl (fun n c => n * c.toNat) 1

/-- L: the linear position. -/
def Iter.linear (g : Iter) : Nat :=
  ((List.finRange 4).foldl (fun (acc : Nat × Nat) d =>
    (acc.1 + g.idx[d].toNat * acc.2, acc.2 * g.count[d].toNat)) (0, 1)).1

/-- The current address. -/
def Iter.address (g : Iter) : Word :=
  (List.finRange 4).foldl (fun acc d =>
    acc + BitVec.ofNat 64 g.idx[d].toNat * (g.stride[d].signExtend 64)) g.base

/-- decompose(x): the position whose linear position is x, for x below N. -/
def Iter.decompose (g : Iter) (x : Nat) : Vector (BitVec 32) 4 :=
  ((List.finRange 4).foldl (fun (acc : Vector (BitVec 32) 4 × Nat) (d : Fin 4) =>
    (acc.1.set d (BitVec.ofNat 32 (acc.2 % g.count[d].toNat)), acc.2 / g.count[d].toNat))
    (Vector.replicate 4 0, x)).1

/-- The iterator n positions on, and whether it wrapped (R242). -/
def Iter.advance (g : Iter) (n : Nat) : Iter × Bool :=
  let x := g.linear + n
  ({ g with idx := g.decompose (x % g.total) }, g.total ≤ x)

/-- The iterator of a shape record, at position zero; none for a record that R240 refuses. -/
def iterOf (rec : List Byte) : Option Iter :=
  let w (k : Nat) := natOf ((rec.drop k).take 8)
  let nd := w 8 % 4
  let used (d : Nat) : Bool := d ≤ nd
  if w 8 / 4 ≠ 0 ∨ (List.range 4).any (fun d => used d && w (16 + 8 * d) % 2 ^ 32 = 0) then none
  else
    let count (d : Nat) : BitVec 32 := if used d then BitVec.ofNat 32 (w (16 + 8 * d)) else 1
    let stride (d : Nat) : BitVec 32 := if used d then BitVec.ofNat 32 (w (16 + 8 * d) / 2 ^ 32) else 0
    some { base := BitVec.ofNat 64 (w 0), ndim := Fin.ofNat 4 nd,
           count := #v[count 0, count 1, count 2, count 3],
           stride := #v[stride 0, stride 1, stride 2, stride 3],
           idx := Vector.replicate 4 0 }

/-- The shape record of an iterator (R185, R339). -/
def Iter.record (g : Iter) : List Byte :=
  bytesOf 8 g.base.toNat ++ bytesOf 8 g.ndim.val ++
    ((List.finRange 4).map fun d => bytesOf 8 (g.stride[d].toNat * 2 ^ 32 + g.count[d].toNat)).flatten

/-- ITSET.DIM (R241). -/
def Iter.setDim (g : Iter) (e : Fin 4) (a : Word) : Iter :=
  { g with count := g.count.set e (a.extractLsb' 0 32), stride := g.stride.set e (a.extractLsb' 32 32),
           ndim := if g.ndim.val < e.val then e else g.ndim, idx := Vector.replicate 4 0 }

/-- ITLD (R240): the record is read at issue, or asked for behind an access or a snapshot that it is performed after; the
iterator is busy until it is written (R225, R239). -/
def execItld (g : GReg) (a : SReg) (s : State) : Host.Outcome State Fault Refusal :=
  issue (fun s => do
    let addr ← s.rdS a
    checkAddr s.me.hmode .load addr 64 64
    check (pathOf addr ≤ 2) (.trap { cause := 0x16, val := addr })
    let gs ← s.xlateLoad .load addr 64
    let (bs, t) ← s.readFirst addr gs
    match iterOf bs with
    | none => trapOf 0x1C addr
    | some it =>
      let (id, t) := t.newId
      let (due, t) := t.later
      pure ((t.modMe fun b => b.mark (.g g) id).resultAt due id [.g g it])) s

/-- ITSET (R241) -/
def execItset (form : ItsetForm) (s : State) : Host.Outcome State Fault Refusal :=
  issue (fun s => match form with
    | .base g a => do
      let x ← s.rdS a
      let it ← s.rdG g
      pure (s.result 1 [.g g { it with base := x }])
    | .lin g a => do
      let x ← s.rdS a
      let it ← s.rdG g
      pure (s.result 1 [.g g { it with idx := it.decompose (x.toNat % it.total) }])
    | .dim g a e => do
      let x ← s.rdS a
      let it ← s.rdG g
      if x.extractLsb' 0 32 = 0 then trapOf 0x1C 0
      else pure (s.result 1 [.g g (it.setDim e x)])
    | .copy g a => do
      let it ← s.rdG a
      pure (s.result 1 [.g g it])) s

/-- ITADV (R242) -/
def execItadv (g : GReg) (a : SReg) (p : PReg) (s : State) : Host.Outcome State Fault Refusal :=
  issue (fun s => do
    let x ← s.rdS a
    let it ← s.rdG g
    let (it', wrapped) := it.advance x.toNat
    pure (s.result 1 [.g g it', s.dP p wrapped])) s

/-- The value ITRD reads (R243). -/
def Iter.read (g : Iter) : ItrdForm → Word
  | .addr => g.address
  | .lin => BitVec.ofNat 64 g.linear
  | .idx e => g.idx[e].setWidth 64
  | .base => g.base

/-- ITRD -/
def execItrd (d : SReg) (g : GReg) (form : ItrdForm) (s : State) : Host.Outcome State Fault Refusal :=
  issue (fun s => do
    let it ← s.rdG g
    pure (s.result 1 [s.dS d (it.read form)])) s

end Sys2Proof.Machine
end

