-- ==== Sys2Proof/Machine/Flags.lean ====
section
/-! DEFINITION. The conditions of CMP and VCMP (R198, R268), the truth tables of PLOG and QLOG (R200, R271), and the
classes of VCLASS (R269). -/

namespace Sys2Proof.Machine

/-- A condition of CMP on two scalars (R198). -/
def condHolds (k : Cond) (a b : Word) : Bool :=
  match k with
  | .eq => a = b
  | .ne => a ≠ b
  | .lt => a.slt b
  | .ge => !a.slt b
  | .le => !b.slt a
  | .gt => b.slt a
  | .ltu => a.ult b
  | .geu => !a.ult b
  | .leu => !b.ult a
  | .gtu => b.ult a
  | .tst => a &&& b ≠ 0
  | .tstz => a &&& b = 0

/-- A 4-bit truth table at two bits: T[2 * a + b] (R200). -/
def truth (t : BitVec 4) (a b : Bool) : Bool := t.getLsbD (2 * a.toNat + b.toNat)

/-- A condition of VCMP on an order, for operands that are not NaN (R268). -/
def vcondOrd (k : VCond) (o : Ordering) : Bool :=
  match k with
  | .eq => o = .eq
  | .ne => o ≠ .eq
  | .lt => o = .lt
  | .le => o ≠ .gt
  | .gt => o = .gt
  | .ge => o ≠ .lt
  | .un => false
  | .ord => true

/-- A condition of VCMP on two elements, with INV (R268). -/
def vcondHolds (t : EType) (k : VCond) (a b : Nat) : Bool × Causes :=
  if t.isInt then (vcondOrd k (compare (intVal t a) (intVal t b)), {})
  else
    let x := decodeF t a
    let y := decodeF t b
    if x.isNan || y.isNan then
      let quietOk : Bool := match k with
        | .lt | .le | .gt | .ge => false
        | _ => true
      (k = .ne || k = .un, if x.isSig || y.isSig || !quietOk then invalid else {})
    else (vcondOrd k (fCmp t a b), {})

/-- The class word of a floating element (R269). -/
def classOf (t : EType) (a : Nat) : Nat :=
  match decodeF t a with
  | .nan s => if s then 2 ^ 8 else 2 ^ 9
  | .inf neg => if neg then 1 else 2 ^ 7
  | .num neg m _ =>
    let sub := m < 2 ^ fracBits t
    if m = 0 then (if neg then 2 ^ 3 else 2 ^ 4)
    else if neg then (if sub then 2 ^ 2 else 2 ^ 1)
    else (if sub then 2 ^ 5 else 2 ^ 6)

end Sys2Proof.Machine
end

