-- ==== Sys2Proof/Machine/Vector.lean ====
section
/-! DEFINITION. Class V, element by element (R257 to R272): floating and integer arithmetic, logic, shifts, counts,
dot products, compares, classes, selects and lane masks. Results appear with the latencies of R261. -/

namespace Sys2Proof.Machine

/-! ## Element by element (R259, R260) -/

/-- The bits of the active elements of w bits. -/
def elemMask (w : Nat) (m : Option Mask) : Vec :=
  match m with
  | none => BitVec.allOnes 4096
  | some _ => pack w ((List.range (4096 / w)).map fun i => if active m w i then 2 ^ w - 1 else 0)

/-- The elements that f gives, the active ones only, and the causes they raise. -/
def vecMap (w : Nat) (m : Option Mask) (f : Nat → Nat × Causes) : Vec × Causes :=
  let r := (List.range (4096 / w)).map fun i => if active m w i then f i else (0, {})
  (pack w (r.map Prod.fst), (r.map Prod.snd).foldl Causes.plus {})

/-- A vector result under the mask, of exposed latency L. -/
def State.vres (s : State) (L w : Nat) (d : VReg) (m : Option Mask) (r : Vec × Causes) : State :=
  s.result L [s.dV d r.1 (elemMask w m)] r.2

/-- One vector source. -/
def vec1 (L : Nat) (t : EType) (d a : VReg) (m : VMask) (f : Nat → Nat × Causes) : Core := fun s => do
  let x ← s.rdV a
  let q := s.rdMask m
  pure (s.vres L t.width d q (vecMap t.width q fun i => f (lane t.width x i)))

/-- Two vector sources. -/
def vec2 (L : Nat) (t : EType) (d a b : VReg) (m : VMask) (f : Nat → Nat → Nat × Causes) : Core := fun s => do
  let x ← s.rdV a
  let y ← s.rdV b
  let q := s.rdMask m
  pure (s.vres L t.width d q (vecMap t.width q fun i => f (lane t.width x i) (lane t.width y i)))

/-- Three vector sources. -/
def vec3 (L : Nat) (t : EType) (d a b c : VReg) (m : VMask) (f : Nat → Nat → Nat → Nat × Causes) : Core := fun s => do
  let x ← s.rdV a
  let y ← s.rdV b
  let z ← s.rdV c
  let q := s.rdMask m
  pure (s.vres L t.width d q
    (vecMap t.width q fun i => f (lane t.width x i) (lane t.width y i) (lane t.width z i)))

/-- Every bit of the active elements from the bits of two sources (R266). -/
def vecBits (t : EType) (d a b : VReg) (m : VMask) (f : Vec → Vec → Vec) : Core := fun s => do
  let x ← s.rdV a
  let y ← s.rdV b
  pure (s.vres 2 t.width d (s.rdMask m) (f x y, {}))

/-! ## Arithmetic (R262 to R265) -/

/-- VADD, VSUB, VMUL: floating under rm, or integer, wrapped or saturated. -/
def arithOp (t : EType) (rm : RMode) (sat : Bool) (f : EType → RMode → Nat → Nat → Nat × Causes)
    (g : Int → Int → Int) (a b : Nat) : Nat × Causes :=
  if t.isFloat then f t rm a b else intOut t sat (g (intVal t a) (intVal t b))

/-- VADD -/
def execVadd (t : EType) (rm : RMode) (sat : Bool) (d a b : VReg) (m : VMask) (s : State) :
    Host.Outcome State Fault Refusal := issue (vec2 4 t d a b m (arithOp t rm sat fAdd (· + ·))) s
/-- VSUB -/
def execVsub (t : EType) (rm : RMode) (sat : Bool) (d a b : VReg) (m : VMask) (s : State) :
    Host.Outcome State Fault Refusal := issue (vec2 4 t d a b m (arithOp t rm sat fSub (· - ·))) s
/-- VMUL -/
def execVmul (t : EType) (rm : RMode) (sat : Bool) (d a b : VReg) (m : VMask) (s : State) :
    Host.Outcome State Fault Refusal := issue (vec2 4 t d a b m (arithOp t rm sat fMul (· * ·))) s
/-- VFMA: a * b + c -/
def execVfma (t : EType) (rm : RMode) (d a b c : VReg) (m : VMask) (s : State) :
    Host.Outcome State Fault Refusal := issue (vec3 4 t d a b c m (fFma t rm false false)) s
/-- VFMS: a * b - c -/
def execVfms (t : EType) (rm : RMode) (d a b c : VReg) (m : VMask) (s : State) :
    Host.Outcome State Fault Refusal := issue (vec3 4 t d a b c m (fFma t rm false true)) s
/-- VFNMA: -(a * b) + c -/
def execVfnma (t : EType) (rm : RMode) (d a b c : VReg) (m : VMask) (s : State) :
    Host.Outcome State Fault Refusal := issue (vec3 4 t d a b c m (fFma t rm true false)) s
/-- VFNMS: -(a * b) - c -/
def execVfnms (t : EType) (rm : RMode) (d a b c : VReg) (m : VMask) (s : State) :
    Host.Outcome State Fault Refusal := issue (vec3 4 t d a b c m (fFma t rm true true)) s

/-- The smaller or larger of two elements (R263, R264). -/
def minMax (t : EType) (isMax : Bool) (a b : Nat) : Nat × Causes :=
  if t.isFloat then fMinMax t isMax a b
  else
    let x := intVal t a
    let y := intVal t b
    (if (if isMax then x < y else y < x) then b else a, {})

/-- VMIN -/
def execVmin (t : EType) (d a b : VReg) (m : VMask) (s : State) : Host.Outcome State Fault Refusal :=
  issue (vec2 2 t d a b m (minMax t false)) s
/-- VMAX -/
def execVmax (t : EType) (d a b : VReg) (m : VMask) (s : State) : Host.Outcome State Fault Refusal :=
  issue (vec2 2 t d a b m (minMax t true)) s
/-- VABS -/
def execVabs (t : EType) (sat : Bool) (d a : VReg) (m : VMask) (s : State) : Host.Outcome State Fault Refusal :=
  issue (vec1 2 t d a m fun x =>
    if t.isFloat then fSign t x (x % signBit t) else intOut t sat (intVal t x).natAbs) s
/-- VNEG -/
def execVneg (t : EType) (sat : Bool) (d a : VReg) (m : VMask) (s : State) : Host.Outcome State Fault Refusal :=
  issue (vec1 2 t d a m fun x =>
    if t.isFloat then fSign t x (x ^^^ signBit t) else intOut t sat (-(intVal t x))) s
/-- VABSD -/
def execVabsd (t : EType) (rm : RMode) (sat : Bool) (d a b : VReg) (m : VMask) (s : State) :
    Host.Outcome State Fault Refusal :=
  issue (vec2 4 t d a b m (arithOp t rm sat fAbsDiff fun x y => (x - y).natAbs)) s
/-- VCPYSGN: b lends its sign bit, whatever it holds. -/
def execVcpysgn (t : EType) (d a b : VReg) (m : VMask) (s : State) : Host.Outcome State Fault Refusal :=
  issue (vec2 2 t d a b m fun x y => fSign t x (withSign t (y / signBit t % 2 = 1) (x % signBit t))) s
/-- VROUND -/
def execVround (t : EType) (rm : RMode) (d a : VReg) (m : VMask) (s : State) : Host.Outcome State Fault Refusal :=
  issue (vec1 4 t d a m (fRound t rm)) s
/-- VMULH: bits 2w - 1 to w of the exact product. -/
def execVmulh (t : EType) (d a b : VReg) (m : VMask) (s : State) : Host.Outcome State Fault Refusal :=
  issue (vec2 4 t d a b m fun x y => (wrapTo (2 * t.width) (intVal t x * intVal t y) / 2 ^ t.width, {})) s
/-- VMAD -/
def execVmad (t : EType) (sat : Bool) (d a b c : VReg) (m : VMask) (s : State) : Host.Outcome State Fault Refusal :=
  issue (vec3 4 t d a b c m fun x y z => intOut t sat (intVal t x * intVal t y + intVal t z)) s

/-- VDOT4 (R265): four products and the int32 lane of c. -/
def execVdot4 (t : EType) (bu sat : Bool) (d a b c : VReg) (m : VMask) (s : State) :
    Host.Outcome State Fault Refusal :=
  issue (fun s => do
    let x ← s.rdV a
    let y ← s.rdV b
    let z ← s.rdV c
    let q := s.rdMask m
    let bt := if bu then EType.uint8 else .int8
    pure (s.vres 4 32 d q (vecMap 32 q fun n =>
      intOut .int32 sat ((List.range 4).foldl (fun acc j =>
        acc + intVal t (lane 8 x (4 * n + j)) * intVal bt (lane 8 y (4 * n + j))) (intVal .int32 (lane 32 z n)))))) s

/-! ## Logic, shifts and counts (R266, R267) -/

/-- VAND -/
def execVand (t : EType) (d a b : VReg) (m : VMask) (s : State) : Host.Outcome State Fault Refusal :=
  issue (vecBits t d a b m fun x y => x &&& y) s
/-- VOR -/
def execVor (t : EType) (d a b : VReg) (m : VMask) (s : State) : Host.Outcome State Fault Refusal :=
  issue (vecBits t d a b m fun x y => x ||| y) s
/-- VXOR -/
def execVxor (t : EType) (d a b : VReg) (m : VMask) (s : State) : Host.Outcome State Fault Refusal :=
  issue (vecBits t d a b m fun x y => x ^^^ y) s
/-- VANDN -/
def execVandn (t : EType) (d a b : VReg) (m : VMask) (s : State) : Host.Outcome State Fault Refusal :=
  issue (vecBits t d a b m fun x y => x &&& ~~~ y) s

/-- A shift by a vector's elements, read unsigned, or by an immediate. -/
def shiftOp (t : EType) (d a : VReg) (k : ShAmt) (m : VMask) (f : Nat → Nat → Nat) : Core :=
  match k with
  | .reg b => vec2 2 t d a b m fun x n => (f x n, {})
  | .imm n => vec1 2 t d a m fun x => (f x n.val, {})

/-- VSHL -/
def execVshl (t : EType) (d a : VReg) (k : ShAmt) (m : VMask) (s : State) : Host.Outcome State Fault Refusal :=
  issue (shiftOp t d a k m fun x n => if t.width ≤ n then 0 else x * 2 ^ n % 2 ^ t.width) s
/-- VSHR -/
def execVshr (t : EType) (d a : VReg) (k : ShAmt) (m : VMask) (s : State) : Host.Outcome State Fault Refusal :=
  issue (shiftOp t d a k m fun x n => if t.width ≤ n then 0 else x / 2 ^ n) s

/-- A w-bit field shifted right by at most w, its top bit shifted in (R267). -/
def sarField (w x n : Nat) : Nat :=
  let n := Nat.min n w
  let top := x / 2 ^ (w - 1) % 2
  x / 2 ^ n + top * (2 ^ n - 1) * 2 ^ (w - n)

/-- VSAR -/
def execVsar (t : EType) (d a : VReg) (k : ShAmt) (m : VMask) (s : State) : Host.Outcome State Fault Refusal :=
  issue (shiftOp t d a k m (sarField t.width)) s
/-- VCLZ -/
def execVclz (t : EType) (d a : VReg) (m : VMask) (s : State) : Host.Outcome State Fault Refusal :=
  issue (vec1 2 t d a m fun x => (t.width - bitLen x, {})) s
/-- VPOPC -/
def execVpopc (t : EType) (d a : VReg) (m : VMask) (s : State) : Host.Outcome State Fault Refusal :=
  issue (vec1 2 t d a m fun x => ((List.range t.width).foldl (fun c k => c + (natBit x k).toNat) 0, {})) s

/-! ## Compares, classes, selects (R268 to R270) -/

/-- The lane mask whose bits are these of elements of w bits, 32 or 64. -/
def laneMask (w : Nat) (f : Nat → Bool) : Mask :=
  BitVec.ofNat 128 ((List.range 128).foldl (fun acc n => acc + (if f (n * 32 / w) then 2 ^ n else 0)) 0)

/-- VCMP: a mask register's active lanes, or elements of all ones or zero. -/
def execVcmp (t : EType) (cond : VCond) (d : VcmpDst) (a b : VReg) (m : VMask) (s : State) :
    Host.Outcome State Fault Refusal :=
  issue (fun s => do
    let x ← s.rdV a
    let y ← s.rdV b
    let q := s.rdMask m
    let w := t.width
    let f (i : Nat) := vcondHolds t cond (lane w x i) (lane w y i)
    let (v, cs) := vecMap w q fun i => (if (f i).1 then 2 ^ w - 1 else 0, (f i).2)
    match d with
    | .q n => pure (s.result 2 [.q n (laneMask w fun i => lane w v i ≠ 0) (laneMask w (active q w))] cs)
    | .v n => pure (s.vres 2 w n q (v, cs))) s

/-- VCLASS -/
def execVclass (t : EType) (d a : VReg) (m : VMask) (s : State) : Host.Outcome State Fault Refusal :=
  issue (vec1 2 t d a m fun x => (classOf t x, {})) s

/-- VSEL: element by element under a lane mask, or bit by bit under a vector. -/
def execVsel (t : EType) (d a b : VReg) (c : VselSrc) (m : VMask) (s : State) : Host.Outcome State Fault Refusal :=
  issue (fun s => do
    let x ← s.rdV a
    let y ← s.rdV b
    let sel ← match c with
      | .q n => pure (elemMask t.width (some (s.rdQ n)))
      | .bit n => s.rdV n
    pure (s.vres 2 t.width d (s.rdMask m) (maskedSet y x sel, {}))) s

/-! ## Lane masks (R271, R272) -/

/-- A mask result of latency 2. -/
def State.qres (s : State) (d : QReg) (v : Mask) : State := s.result 2 [.q d v (BitVec.allOnes 128)]

/-- QLOG -/
def execQlog (tt : BitVec 4) (d a b : QReg) (s : State) : Host.Outcome State Fault Refusal :=
  issue (fun s => pure (s.qres d (laneMask 32 fun n => truth tt ((s.rdQ a).getLsbD n) ((s.rdQ b).getLsbD n)))) s

/-- The number of set bits of a mask. -/
def maskCount (q : Mask) : Nat := (List.range 128).foldl (fun c n => c + (q.getLsbD n).toNat) 0

/-- QMOV -/
def execQmov (form : QmovForm) (s : State) : Host.Outcome State Fault Refusal :=
  issue (fun s => match form with
    | .qq d a => pure (s.qres d (s.rdQ a))
    | .qv d a => do
      let x ← s.rdV a
      pure (s.qres d (x.extractLsb' 0 128))
    | .vq d a => pure (s.result 2 [s.dV d ((s.rdQ a).setWidth 4096) (BitVec.allOnes 4096)])
    | .msb d a => do
      let x ← s.rdV a
      pure (s.qres d (laneMask 32 fun n => x.getLsbD (32 * n + 31)))
    | .cnt d a => pure (s.result 2 [s.dS d (BitVec.ofNat 64 (maskCount (s.rdQ a)))])
    | .first d a =>
      pure (s.result 2 [s.dS d (BitVec.ofNat 64 (((List.range 128).find? fun n => (s.rdQ a).getLsbD n).getD 128))])
    | .set d a b => do
      let x ← s.rdS a
      let y ← s.rdS b
      pure (s.qres d (y ++ x))
    | .lo d a => pure (s.result 2 [s.dS d ((s.rdQ a).extractLsb' 0 64)])
    | .hi d a => pure (s.result 2 [s.dS d ((s.rdQ a).extractLsb' 64 64)])) s

end Sys2Proof.Machine
end

