-- ==== Sys2Proof/Machine/VectorMem.lean ====
section
/-! DEFINITION. The vector memory instructions (R284 to R289): the bytes of active elements as runs, the access they
make, converting loads and stores with their scales (R97, R98, R287, R288), gathers and scatters. -/

namespace Sys2Proof.Machine

/-! ## Active bytes -/

/-- The runs (first, length) of the numbers below n that satisfy on, ascending. -/
def runsOf (n : Nat) (on : Nat → Bool) : List (Nat × Nat) :=
  ((List.range n).foldl (fun (acc : List (Nat × Nat)) i =>
    if on i then
      match acc with
      | (p, l) :: r => if p + l = i then (p, l + 1) :: r else (i, 1) :: (p, l) :: r
      | [] => [(i, 1)]
    else acc) []).reverse

/-- Byte i of the 512 belongs to an active element of w bits. -/
def byteOn (m : Option Mask) (w i : Nat) : Bool := active m w (8 * i / w)

/-- Byte i of 128 packed elements of w bits belongs to an active lane. -/
def laneByteOn (m : Option Mask) (w i : Nat) : Bool :=
  active m 32 (8 * i / w) || (w < 8 && active m 32 (8 * i / w + 1))

/-- Bytes put at the places of a byte area, as a number, and the bits they cover. -/
def placed : List (Nat × Nat) → List Byte → Nat × Nat
  | [], _ => (0, 0)
  | (p, n) :: r, bs =>
    let (v, m) := placed r (bs.drop n)
    (v + natOf (bs.take n) * 2 ^ (8 * p), m + (2 ^ (8 * n) - 1) * 2 ^ (8 * p))

/-- The result of a plain vector load: the bytes at their places. -/
def placedRes (n : Fin 64) (place : List (Nat × Nat)) (bs : List Byte) : Res :=
  let (v, m) := placed place bs
  .v n (BitVec.ofNat 4096 v) (BitVec.ofNat 4096 m)

/-- The translation context of the run at an offset, with the position rule that the base must meet (R287). -/
def State.baseCtx (s : State) (place : Nat → Bool) (lo : Nat) : XCtx :=
  { s.ctx with place := fun o => place ((o + 65536 - lo) % 65536) }

/-- The pieces of runs at a global offset, cut at 64 KiB granules: first byte and length. -/
def runPieces (off : Nat) (runs : List (Nat × Nat)) : List (Nat × Nat) :=
  (runs.map fun r => (parts (off + r.1) r.2 (r.2 / 65536 + 2)).map fun p => (p.1 - off, p.2)).flatten

/-- Two offsets lie in one page, as the access translates the first: 64 KiB, 2 MiB or 256 MiB (R95). -/
def State.samePage (s : State) (a : Word) (o o' : Nat) : Bool :=
  match s.lookup s.ctx a o with
  | .ok e => e.covers s.ctx.asid o'
  | .error _ => o / 65536 = o' / 65536

/-- The pieces of an access on paths 0x3 to 0x6, the first page's first: each page's are translated and checked in full
before the next page's (R104). -/
def State.runPages (s : State) (k : AKind) (a : Word) (more : List (Word × Seg) → Except Stop Unit) (place : Nat → Bool) :
    Nat → List (Nat × Nat) → Except Stop (List (Seg × (Nat × Nat)))
  | 0, _ => .ok []
  | _, [] => .ok []
  | f + 1, p :: ps => do
    let off := a.toNat % 2 ^ 52
    let same (q : Nat × Nat) : Bool := s.samePage a (off + p.1) (off + q.1)
    let l ← (p :: ps.takeWhile same).mapM fun q => do
      let g ← s.xlatePart (s.baseCtx place q.1) k (a + BitVec.ofNat 64 q.1) (off + q.1) q.2
      pure (g, q)
    more (l.map fun x => (a + BitVec.ofNat 64 x.2.1, x.1))
    let r ← s.runPages k a more place f (ps.dropWhile same)
    pure (l ++ r)

/-- The parts of the active runs, each with its place (R123, R285): one access, which on paths 0x0 to 0x2 is one window match
of the span of the runs, and elsewhere is translated page by page, each page checked in full before the next (R104). -/
def State.runSegs (s : State) (k : AKind) (a : Word) (runs : List (Nat × Nat))
    (more : List (Word × Seg) → Except Stop Unit) (place : Nat → Bool := fun _ => true) :
    Except Stop (List (Seg × (Nat × Nat))) :=
  match runs.head?, runs.getLast? with
  | some (lo, _), some (l, n) =>
    if pathOf a ≤ 2 then do
      let g ← s.xlateLocal (s.baseCtx place lo) k (a + BitVec.ofNat 64 lo) (l + n - lo)
      let l := runs.map fun r => (({ g with addr := g.addr + r.1 - lo, len := r.2 } : Seg), r)
      more (l.map fun x => (a + BitVec.ofNat 64 x.2.1, x.1))
      pure l
    else
      let ps := runPieces (a.toNat % 2 ^ 52) runs
      s.runPages k a more place ps.length ps
  | _, _ => .ok []

/-- The checks of a vector access with some active byte: address error, alignment, path (R104, R285). -/
def State.runCheck (s : State) (k : AKind) (a : Word) (runs : List (Nat × Nat)) : Except Stop Unit :=
  match runs.head?, runs.getLast? with
  | some (lo, _), some (l, n) => do
    let b := a + BitVec.ofNat 64 lo
    check (pathOf a ≠ 7 && pathOf b = pathOf a && !addrError s.me.hmode b (l + n - lo))
      (.trap { cause := 0x14, val := a })
    check (a.toNat % 64 = 0) (.trap { cause := 0x15, val := a })
    check (kindPath k (pathOf a)) (.trap { cause := 0x16, val := a })
  | _, _ => .ok ()

/-- The address, and the state past an iterator's advance (R284). -/
def State.vaddr (s : State) (x : VAddr) : Except Stop (Word × State) :=
  match x with
  | .s n => do
    let a ← s.rdS n
    pure (a, s)
  | .it g adv => do
    let it ← s.rdG g
    pure (it.address, if adv then s.result 1 [.g g (it.advance 1).1] else s)

/-! ## Converting loads (R287) -/

/-- The offset of an address within its granule: the target's on paths 0x0 to 0x2. -/
def granOff (a : Word) (gs : List (Seg × (Nat × Nat))) : Nat :=
  if pathOf a ≤ 2 then
    match gs with
    | (g, (lo, _)) :: _ => (g.addr + 65536 - lo) % 65536
    | [] => 0
  else a.toNat % 65536

/-- The position rule of a geometry for element width w; the offset and length of the scale that half h of the
elements uses, if it has one; none when the rule is not met. -/
def scaleAt (geo : Geo) (w off : Nat) : Option (Bool → Option (Nat × Nat)) :=
  match geo with
  | .plain => some fun _ => none
  | .mx => if off % 32 = 0 ∧ off / 32 ≤ 1982 then some fun h => some (0xF800 + off / 32 + h.toNat, 1) else none
  | .tiles =>
    if w = 16 then (if off % 256 = 0 ∧ off < 0x8000 then some fun _ => some (0x8000, 4) else none)
    else if off % 128 = 0 ∧ off < 0xC000 then some fun _ => some (0xCC00 + 4 * (off / 0x4000), 4) else none
  | .segments =>
    let z := 16 * w
    if off % z = 0 ∧ off / z ≤ (if w = 16 then 247 else 495) then some fun _ => some (0xF800 + 4 * (off / z), 4)
    else none

/-- Some lane of half h (or any lane, for a geometry of one scale) is active. -/
def halfOn (geo : Geo) (m : Option Mask) (h : Bool) : Bool :=
  (List.range 128).any fun k => active m 32 k && (geo ≠ .mx || decide (k ≥ 64) = h)

/-- The scales a converting load reads, with their addresses and their places after the 512-byte element area. DESIGN CHOICE
(notes/assumptions/62.md): on paths 0x0 to 0x2 a scale is matched in the window table as an access of its own, at the
program address as far from the element address as its granule offset is from theirs. -/
def State.scaleSegs (s : State) (k : AKind) (geo : Geo) (m : Option Mask) (a : Word) (off : Nat)
    (sc : Bool → Option (Nat × Nat)) : Except Stop (List (Word × Seg × (Nat × Nat))) := do
  let hs := if geo = .mx then [false, true] else [false]
  let l ← hs.mapM fun h =>
    match sc h with
    | none => .ok []
    | some (o, n) =>
      if halfOn geo m h then do
        let b := a - BitVec.ofNat 64 off + BitVec.ofNat 64 o
        check (pathOf b = pathOf a && !addrError s.me.hmode b n) (.trap { cause := 0x14, val := b })
        let gs ← s.xlate s.ctx k b n
        pure (gs.map fun g => (b, g, (512 + 4 * h.toNat, n)))
      else .ok []
  pure l.flatten

/-- One converted element: the exact product with its multiplier, rounded once to fp32. -/
def cvtElem (t : EType) (geo : Geo) (rm : RMode) (e scale : Nat) : Nat × Causes :=
  match geo with
  | .mx => encodeF .fp32 rm (mxVal e scale)
  | _ =>
    let x : FVal := if t.isInt then .num (intVal t e < 0) (intVal t e).natAbs 0 else decodeF t e
    let y : FVal := if geo = .plain then .num false 1 0 else decodeF .fp32 scale
    arith .fp32 rm [x, y] (exactMul x y)

/-- The fp32 lanes of a converting load from the bytes it has read. -/
def cvtLanes (t : EType) (geo : Geo) (rm : RMode) (act : Mask) (place : List (Nat × Nat)) (bs : List Byte) :
    Vec × Causes :=
  let area := (placed place bs).1
  let w := t.width
  vecMap 32 (some act) fun k =>
    let scale := if geo = .mx then area / 2 ^ (8 * (512 + 4 * (k / 64))) % 256 else area / 2 ^ 4096 % 2 ^ 32
    cvtElem t geo rm (area / 2 ^ (w * k) % 2 ^ w) scale

/-- A plain VLD (R286). -/
def loadRuns (t : EType) (d : VReg) (m : VMask) (a : Word) : Core := fun s => do
  let runs := runsOf 512 (byteOn (s.rdMask m) t.width)
  if runs.isEmpty then pure s
  else
    s.runCheck .load a runs
    let gp ← s.runSegs .load a runs s.checkParts
    let gs := gp.map Prod.fst
    let place := gp.map Prod.snd
    let n := s.me.physV d
    s.loadAt { kind := .load, addr := a, dst := .vec n place } gs [.v n] fun bs => [placedRes n place bs]

/-- What a converting load checks of the elements' poison before its scales are known: with a scale both lie in one granule,
and are checked together (R104, R285). -/
def State.elemChecks (s : State) (geo : Geo) (l : List (Word × Seg)) : Except Stop Unit :=
  if geo = .plain then s.checkParts l else .ok ()

/-- A converting VLD (R287). -/
def loadCvt (t : EType) (geo : Geo) (rm : RMode) (d : VReg) (m : VMask) (a : Word) : Core := fun s => do
  let q := s.rdMask m
  let act := q.getD (BitVec.allOnes 128)
  let runs := runsOf (16 * t.width) (laneByteOn q t.width)
  if runs.isEmpty then pure s
  else
    let k := AKind.fmt t geo
    s.runCheck k a runs
    let gp ← s.runSegs k a runs (s.elemChecks geo) fun o => (scaleAt geo t.width o).isSome
    let off := granOff a gp
    match scaleAt geo t.width off with
    | none => memTrap 0x17 a
    | some sc =>
      let sp ← s.scaleSegs k geo q a off sc
      s.checkParts ((gp.map fun x => (a + BitVec.ofNat 64 x.2.1, x.1)) ++ sp.map fun x => (x.1, x.2.1))
      let gp := gp ++ sp.map Prod.snd
      let gs := gp.map Prod.fst
      let place := gp.map Prod.snd
      let n := s.me.physV d
      s.loadAt { kind := .load, addr := a, dst := .cvt n t geo rm act place } gs [.v n]
        (fun bs => [.v n (cvtLanes t geo rm act place bs).1 (elemMask 32 (some act))])
        (fun bs => (cvtLanes t geo rm act place bs).2)

/-- VLD -/
def execVld (t : EType) (cvt : Option (Geo × RMode)) (d : VReg) (addr : VAddr) (m : VMask) (s : State) :
    Host.Outcome State Fault Refusal :=
  issue (fun s => do
    let (a, s) ← s.vaddr addr
    match cvt with
    | none => loadRuns t d m a s
    | some (geo, rm) => loadCvt t geo rm d m a s) s

/-! ## Stores (R286, R288) -/

/-- The bytes of runs of a vector's bytes. -/
def runBytes (v : Nat) (runs : List (Nat × Nat)) : List Byte :=
  (runs.map fun r => bytesOf r.2 (v / 2 ^ (8 * r.1) % 2 ^ (8 * r.2))).flatten

/-- A VST of the bytes of a number under runs. -/
def State.storeRuns (s : State) (a : Word) (runs : List (Nat × Nat)) (v : Nat) : Except Stop State := do
  s.runCheck .store a runs
  let gp ← s.runSegs .store a runs fun _ => .ok ()
  s.storeAt { kind := .store, addr := a } (gp.map Prod.fst) (runBytes v runs)

/-- VST -/
def execVst (t : EType) (cvt : Option RMode) (addr : VAddr) (b : VReg) (m : VMask) (s : State) :
    Host.Outcome State Fault Refusal :=
  issue (fun s => do
    let (a, s) ← s.vaddr addr
    let x ← s.rdV b
    let q := s.rdMask m
    match cvt with
    | none =>
      let runs := runsOf 512 (byteOn q t.width)
      if runs.isEmpty then pure s else s.storeRuns a runs x.toNat
    | some rm =>
      let runs := runsOf (16 * t.width) (laneByteOn q t.width)
      if runs.isEmpty then pure s
      else
        let r := (List.range 128).map fun k =>
          if active q 32 k then convert t .fp32 rm (lane 32 x k) else (0, {})
        let s ← s.storeRuns a runs (pack t.width (r.map Prod.fst)).toNat
        pure (s.result 1 [] ((r.map Prod.snd).foldl Causes.plus {}))) s

/-! ## Gathers and scatters (R289) -/

/-- The active elements of w bits with their addresses. -/
def elemAddrs (m : Option Mask) (w : Nat) (base : Word) (off : Vec) : List (Nat × Word) :=
  (List.range (4096 / w)).filterMap fun i =>
    if active m w i then some (i, base + sext64 32 (lane 32 off (i * w / 32))) else none

/-- One element is checked and translated. -/
def State.elemSeg (s : State) (k : AKind) (top : Nat) (a : Word) (n : Nat) : Except Stop (List Seg) := do
  checkAddr s.me.hmode k a n n
  check (pathOf a ≤ top) (.trap { cause := 0x16, val := a })
  s.xlateWith s.ctx k a n fun b g => if k = .load then s.checkRead b g else .ok ()

/-- The memory unit is occupied for one cycle per 16 active elements. -/
def State.occupy (s : State) (n : Nat) : State := s.modMe fun b => { b with xBusy := s.clk + (n + 15) / 16 }

/-- The operations of a gather's elements, ascending, what they are performed after, and the places still to be read, those
of the lower elements already among them: a near element is read now unless it has to be performed after an access on its
way or after a lower element that is still to be read (R105, R106, R120, R123), any other one later. -/
def State.gatherOps (s : State) (lower : List Seg) :
    List (Word × List Seg) → Except Stop ((List GOp × List Nat × List Seg) × State)
  | [] => .ok (([], [], lower), s)
  | (a, gs) :: r => do
    let k : Ask := { kind := .load, addr := a, gather := true }
    let after := s.after k gs
    if k.near && after.isEmpty && !sharing gs lower && (s.fixed s.cur k || !bothStrong gs lower) then
      let (x, t) := s.serve 0 (some s.cur.num) a (.load gs)
      let ((ops, ids, todo), t) ← t.gatherOps lower r
      pure ((.given x.data false :: ops, ids, todo), t)
    else
      let ops0 ← if k.near then pure [.load gs] else s.preOps k (.load gs) after
      let ((ops, ids, todo), t) ← s.gatherOps (lower ++ gs) r
      pure ((ops0 ++ ops, after ++ ids, todo), t)

/-- VGATHER -/
def execVgather (t : EType) (d : VReg) (a : SReg) (b : VReg) (m : VMask) (s : State) :
    Host.Outcome State Fault Refusal :=
  issue (fun s => do
    let base ← s.rdS a
    let off ← s.rdV b
    let n := t.width / 8
    let es := elemAddrs (s.rdMask m) t.width base off
    let gs ← es.mapM fun e => s.elemSeg .load 5 e.2 n
    if es.isEmpty then pure s
    else
      let r := s.me.physV d
      let ((ops, after, todo), s) ← s.gatherOps [] ((es.map (·.2)).zip gs)
      let (due, s) := s.later
      pure ((s.sendOps { kind := .load, addr := base, dst := .vec r (es.map fun e => (e.1 * n, n)) } todo ops after due
        [.v r]).occupy es.length)) s

/-- An element of a scatter: its index, address, place and bytes. -/
structure ScatterElem where
  ix   : Nat
  addr : Word
  seg  : Seg
  data : List Byte
deriving DecidableEq, Repr

/-- The stores of a scatter, one access an element, issued in ascending order: of two that write the same bytes the
higher-numbered one is performed last. -/
def State.scatterTo (s : State) (l : List ScatterElem) : Except Stop State :=
  l.foldlM (fun s x => s.storeAt { kind := .store, addr := x.addr } [x.seg] x.data) s

/-- VSCATTER: checked whole before any element is performed. -/
def execVscatter (t : EType) (a : SReg) (b c : VReg) (m : VMask) (s : State) : Host.Outcome State Fault Refusal :=
  issue (fun s => do
    let base ← s.rdS a
    let off ← s.rdV b
    let x ← s.rdV c
    let n := t.width / 8
    let es := elemAddrs (s.rdMask m) t.width base off
    let l ← es.mapM fun e => do
      let gs ← s.elemSeg .store 4 e.2 n
      pure (gs.map fun g => (⟨e.1, e.2, g, bytesOf n (lane t.width x e.1)⟩ : ScatterElem))
    let s ← s.scatterTo l.flatten
    pure (if es.isEmpty then s else s.occupy es.length)) s

end Sys2Proof.Machine
end

