-- ==== Sys2Proof/Machine/Matrix.lean ====
section
/-! DEFINITION. Class M at issue (R290 to R312, R315, R317, R318): what an instruction captures, the checks of its
memory rows, its place in the cog's queue of 8, and the reading of its sources (R293). -/

namespace Sys2Proof.Machine

/-! ## The queue -/

/-- An entry with nothing captured. -/
def MEntry.blank (s : State) (i : Instr) : MEntry :=
  { ticket := 0, bank := s.cur, instr := i, epc := s.epc, iter := s.me.iter, a := 0, b := 0, c := 0, va := 0, vb := 0,
    kv := 0, buf := false, dst := none, segs := [], addrs := [], fetch := [], fetching := false, after := [], given := [] }

/-- The current bank's cog. -/
def State.mycog (s : State) : Cog := s.cog s.cur.cog

/-- A full queue stalls issue (R290). -/
def State.queueRoom (s : State) : Except Stop Unit := check (s.mycog.mq.length < 8) .stall

/-- What an M instruction of the bank that reads (or, store, writes) these places is performed after: acquires and snapshots;
accesses to strong places of the same package when it is strong; before its reads, the bank's earlier stores and atomics
on paths 0x0 to 0x2 and its queued tile stores; before its stores, accesses to the same bytes (R117, R120, R121, R143,
R293). -/
def State.mAfter (s : State) (b : BankIx) (store : Bool) (gs : List Seg) : List Nat :=
  (s.accesses.filter fun x => x.bank = b && (match x.owner with | .bank | .munit _ => true | _ => false) &&
    (x.acq || bothStrong gs x.segs ||
      if store then sharing gs x.segs else x.kind ≠ .load && pathOf x.addr ≤ 2)).map (·.id) ++
  ((s.cog b.cog).mq.filter fun e => e.bank = b && (e.unread || writesMem e.instr) &&
    (bothStrong gs e.segs || if store then sharing gs e.segs else writesMem e.instr)).map (·.ticket) ++
  (s.gsreqs.filter (·.snapOf b)).map (·.id)

/-- MWLOAD. -/
def MEntry.isTileLoad (e : MEntry) : Bool := match e.instr with | .mwload .. => true | _ => false

/-- Change an entry of a cog's queue. -/
def State.modEntry (s : State) (c : CogIx) (ticket : Nat) (f : MEntry → MEntry) : State :=
  s.modCog c fun x => { x with mq := x.mq.map fun e => if e.ticket = ticket then f e else e }

/-- One source place: read of the host before issue, read here now, or asked for. A decoded read beyond its frame counts
as poison (R101). -/
def State.fetchSeg (s : State) (e : MEntry) (g : Seg) (addr : Word) : (Nat × Option (List Byte × Bool)) × State :=
  match e.given.find? (·.1 = g) with
  | some d => ((0, some d.2), s)
  | none =>
    if s.here g && (s.regionShut (.load [g])).isNone then
      let (a, s) := s.serve (if e.isTileLoad then 5 else 0) (some e.bank.num) addr (.load [g])
      ((0, some (a.data, a.psn || a.lost)), s)
    else
      let (id, s) := s.newId
      let x : Access :=
        { id := id, bank := e.bank, owner := .munit e.ticket, kind := .load, cls := g.cls, acq := false, after := [],
          due := s.clk, todo := [.load [g]], got := [], psn := false, lost := false, dst := .none, sent := false,
          epc := e.epc, addr := addr, gs := none }
      ((id, none), { s with accesses := s.accesses ++ [x] })

/-- An entry whose earlier stores have been performed reads its sources. -/
def State.fetchEntry (s : State) (e : MEntry) : State :=
  if e.fetching || !readsMem e.instr || e.after.any (s.waiting e.bank.cog) then s
  else
    let (l, s) := (e.segs.zip e.addrs).foldl (fun (acc : List (Nat × Option (List Byte × Bool)) × State) g =>
      let (r, s) := acc.2.fetchSeg e g.1 g.2
      (acc.1 ++ [r], s)) ([], s)
    s.modEntry e.bank.cog e.ticket fun e => { e with fetch := l, fetching := true }

/-- The entries of a cog that may read their sources do so. -/
def State.fetchCog (s : State) (c : CogIx) : State := (s.cog c).mq.foldl State.fetchEntry s

/-- The entry joins the queue; the register it writes is busy until then (R290, R291). -/
def State.enqueue (s : State) (e : MEntry) : State :=
  let after := if e.segs.isEmpty then [] else s.mAfter s.cur (writesMem e.instr) e.segs
  let (t, s) := s.newId
  let e := { e with ticket := t, after := after }
  let s := s.modCog s.cur.cog fun c =>
    { c with mq := c.mq ++ [e], mLast := if c.mq.isEmpty then Nat.max c.mLast s.clk else c.mLast }
  let s := match e.dst with
    | some r => s.modMe fun b => b.mark r t
    | none => s
  s.fetchEntry e

/-- A source place in host memory is read before the bundle takes effect: what the host refuses traps at the bundle
(R390). -/
def State.hostPart (s : State) (a : Word) (g : Seg) : Except Stop Unit :=
  if g.host then do
    let r ← s.asked .load (.load [g]) a (s.mAfter s.cur false [g])
    if r.fail then hostTrap a else pure ()
  else .ok ()

/-- What has been read of the sources in host memory. -/
def State.hostReads (s : State) (e : MEntry) : Except Stop (List (Seg × List Byte × Bool)) :=
  ((e.segs.zip e.addrs).filter (·.1.host)).mapM fun g => do
    let a ← s.asked .load (.load [g.1]) g.2 (s.mAfter s.cur false [g.1])
    pure (g.1, a.data, a.lost)

/-- The sources in host memory are read first, then the entry joins the queue (notes/assumptions/11.md). -/
def State.enqueueRead (s : State) (e : MEntry) : Except Stop State := do
  let l ← s.hostReads e
  pure (s.enqueue { e with given := l })

/-- The matrix operand trap (R320). -/
def State.operandTrap {α : Type} (s : State) : Except Stop α := trapOf 0x1F s.epc

/-! ## Memory rows (R292) -/

/-- One row's checks, with the position rule its place must meet: its places. -/
def State.mRow (s : State) (k : AKind) (a : Word) (n align : Nat) (place : Nat → Bool := fun _ => true) :
    Except Stop (List Seg) := do
  checkAddr s.me.hmode k a n align
  s.xlateWith (s.baseCtx place 0) k a n s.hostPart

/-- The offset of an address in its granule. -/
def granuleOff (a : Word) (gs : List Seg) : Nat :=
  if pathOf a ≤ 2 then ((gs.map (·.addr)).headD 0) % 65536 else a.toNat % 65536

/-- Rows of n bytes at addresses a, a + n, and so on; the first must meet the position rule. -/
def State.mRows (s : State) (k : AKind) (a : Word) (n align count : Nat) (place : Nat → Bool) :
    Except Stop (List Seg) := do
  let l ← (List.range count).mapM fun j =>
    s.mRow k (a + BitVec.ofNat 64 (n * j)) n align fun o => j ≠ 0 || place o
  pure l.flatten

/-- A scale, or another part of the granule that holds address a at offset off. -/
def State.mPart (s : State) (k : AKind) (a : Word) (off at_ n : Nat) : Except Stop (List Seg) :=
  s.mRow k (a - BitVec.ofNat 64 off + BitVec.ofNat 64 at_) n 1

/-- The places of one activation row and of its scales (R301). DESIGN CHOICE (notes/assumptions/62.md): the two blocks
of an MX row are two accesses of 32 bytes, each aligned to 32 and matched by itself. -/
def State.actRow (s : State) (t : EType) (keyed : Bool) (a : Word) : Except Stop (List Seg) :=
  if keyed then s.mRow (.fmt t .plain) a (16 * t.width) 64
  else if t = .mxfp4 then do
    let k := AKind.fmt t .mx
    let gs ← s.mRows k a 32 32 2 fun o => (scaleAt .mx t.width o).isSome
    let off := granuleOff a gs
    let sc ← s.mPart k a off (0xF800 + off / 32) 2
    pure (gs ++ sc)
  else do
    let k := AKind.fmt t .segments
    let gs ← s.mRow k a (16 * t.width) 64 fun o => (scaleAt .segments t.width o).isSome
    let off := granuleOff a gs
    match (scaleAt .segments t.width off).bind (· false) with
    | none => pure gs
    | some (o, n) => do
      let l ← s.mPart k a off o n
      pure (gs ++ l)

/-- The trap of a weight-tile load names its reader in a record (R115). -/
def asTileLoad {α : Type} (x : Except Stop α) : Except Stop α :=
  match x with
  | .error (.trap t) => .error (.trap { t with src := 5 })
  | y => y

/-- A tile start of a weight format (R296). -/
def tileStart (fmt : EType) (o : Nat) : Bool :=
  match fmt with
  | .mxfp4 => o % 32 = 0 && o / 32 ≤ 1728
  | .bf16 => o = 0
  | _ => o % 0x4000 = 0 && o ≤ 0x8000

/-- The places of a weight tile: its rows, then its scale or scales, then its check vector (R296). -/
def State.tileSegs (s : State) (fmt : EType) (a b : Word) : Except Stop (List Seg) :=
  match fmt with
  | .mxfp4 => do
    let k := AKind.fmt .mxfp4 .mx
    let rows ← s.mRows k a 32 32 256 (tileStart fmt)
    let off := granuleOff a rows
    let sc ← s.mPart k a off (0xF800 + off / 32) 256
    checkAddr s.me.hmode .load b 1024 64
    check (pathOf b ≤ 5) (.trap { cause := 0x16, val := b })
    let ck ← s.xlateWith s.ctx .load b 1024 s.hostPart
    pure (rows ++ sc ++ ck)
  | _ => do
    let k := AKind.fmt fmt .tiles
    let n := 16 * fmt.width
    let rows ← s.mRows k a n 64 128 (tileStart fmt)
    let off := granuleOff a rows
    if fmt = .bf16 then
      let sc ← s.mPart k a off 0x8000 4
      pure (rows ++ sc)
    else
      let t := off / 0x4000
      let sc ← s.mPart k a off (0xCC00 + 4 * t) 4
      let ck ← s.mPart k a off (0xC000 + 0x400 * t) 1024
      pure (rows ++ sc ++ ck)

/-! ## Weight loads and MMUL -/

/-- The physical buffer of w0 or w1 (R295). -/
def Cog.phys (c : Cog) (w : Bool) : Bool := w != c.wswap

/-- A weight buffer. -/
def Cog.buffer (c : Cog) (w : Bool) : WBuf := if w then c.wbuf[1] else c.wbuf[0]

/-- Change a weight buffer. -/
def Cog.setBuffer (c : Cog) (w : Bool) (f : WBuf → WBuf) : Cog :=
  { c with wbuf := if w then c.wbuf.set 1 (f c.wbuf[1]) else c.wbuf.set 0 (f c.wbuf[0]) }

/-- The current bank's number as a Bool. -/
def State.half (s : State) : Bool := s.cur.num = 1

/-- MWLOAD: the tag is set at issue. -/
def execMwload (fmt : EType) (cvt buf : Bool) (a b : SReg) (s : State) : Host.Outcome State Fault Refusal :=
  issue (fun s => do
    s.queueRoom
    let x ← s.rdS a
    let y ← if fmt = .mxfp4 then s.rdS b else pure 0
    let gs ← asTileLoad (s.tileSegs (if cvt then .bf16 else fmt) x y)
    let w := s.mycog.phys buf
    let half := s.half
    let s := s.modCog s.cur.cog fun c => c.setBuffer w fun q => { q with tag := some (half, fmt) }
    s.enqueueRead
      { MEntry.blank s (.mwload fmt cvt buf a b) with a := x, segs := gs, addrs := gs.map fun _ => x, buf := w }) s

/-- MWSWAP: the names are exchanged at issue. -/
def execMwswap (s : State) : Host.Outcome State Fault Refusal :=
  issue (fun s => do
    s.queueRoom
    let other (w : Bool) : Bool := match (s.mycog.buffer w).tag with
      | some (h, _) => h != s.half
      | none => false
    if other false || other true then s.operandTrap
    else
      let s := s.modCog s.cur.cog fun c => { c with wswap := !c.wswap }
      pure (s.enqueue (MEntry.blank s .mwswap))) s

/-- The address of row j of an iterator: linear position (L + j) mod N (R301). -/
def Iter.rowAddr (it : Iter) (j : Nat) : Word :=
  { it with idx := it.decompose ((it.linear + j) % it.total) }.address

/-- MMUL: the buffer's tag first, then the rows in ascending order. -/
def execMmul (t : TReg) (row0 : Fin 128) (g : GReg) (n : SReg) (fmt : EType) (buf : Bool) (k : Option KReg)
    (adv : Bool) (s : State) : Host.Outcome State Fault Refusal :=
  issue (fun s => do
    s.queueRoom
    let x ← s.rdS n
    let it ← s.rdG g
    let w := s.mycog.phys buf
    let ok : Bool := match (s.mycog.buffer w).tag with
      | some (h, f) => h = s.half && modePairs fmt f
      | none => false
    if 128 < row0.val + x.toNat || !ok then s.operandTrap
    else
      let l ← (List.range x.toNat).mapM fun j => do
        let gs ← s.actRow fmt k.isSome (it.rowAddr j)
        pure (gs.map fun g => (g, it.rowAddr j))
      let kv := match k with
        | some r => s.rdK r
        | none => 0
      let s := if adv then s.result 1 [.g g (it.advance x.toNat).1] else s
      s.enqueueRead { MEntry.blank s (.mmul t row0 g n fmt buf k adv) with
        b := x, kv := kv, buf := w, segs := l.flatten.map Prod.fst, addrs := l.flatten.map Prod.snd }) s

/-- MCHK -/
def execMchk (a : SReg) (form : MchkForm) (s : State) : Host.Outcome State Fault Refusal :=
  issue (fun s => do
    s.queueRoom
    pure (s.enqueue { MEntry.blank s (.mchk a form) with
      dst := some (.s (s.me.physS a)), buf := s.mycog.phys true })) s

/-! ## Tiles -/

/-- TZERO -/
def execTzero (t : TReg) (row : Option (Fin 128)) (s : State) : Host.Outcome State Fault Refusal :=
  issue (fun s => do
    s.queueRoom
    pure (s.enqueue (MEntry.blank s (.tzero t row)))) s

/-- TLD, TST and TCST: N rows of n bytes from row0 (R306, R307). -/
def tileRows (i : Instr) (k : AKind) (bytes : Nat) (row0 : Fin 128) (a n : SReg) (kv : F32) : Core := fun s => do
  s.queueRoom
  let x ← s.rdS a
  let y ← s.rdS n
  if 128 < row0.val + y.toNat then s.operandTrap
  else
    let l ← (List.range y.toNat).mapM fun j => do
      let b := x + BitVec.ofNat 64 (bytes * j)
      checkAddr s.me.hmode k b bytes 64
      check (pathOf b ≤ 6) (.trap { cause := 0x16, val := b })
      let gs ← s.xlateWith s.ctx k b bytes fun a g => if readsMem i then s.hostPart a g else .ok ()
      pure (gs.map fun g => (g, b))
    let e : MEntry := { MEntry.blank s i with
      a := x, b := y, kv := kv, segs := l.flatten.map Prod.fst, addrs := l.flatten.map Prod.snd }
    if readsMem i then s.enqueueRead e else pure (s.enqueue e)

/-- TLD -/
def execTld (t : TReg) (row0 : Fin 128) (a n : SReg) (s : State) : Host.Outcome State Fault Refusal :=
  issue (tileRows (.tld t row0 a n) .load 512 row0 a n 0) s

/-- TST -/
def execTst (t : TReg) (row0 : Fin 128) (a n : SReg) (s : State) : Host.Outcome State Fault Refusal :=
  issue (tileRows (.tst t row0 a n) .store 512 row0 a n 0) s

/-- TCST -/
def execTcst (t : TReg) (row0 : Fin 128) (a n : SReg) (fmt : EType) (rm : RMode) (k : Option KReg) (s : State) :
    Host.Outcome State Fault Refusal :=
  issue (fun s => tileRows (.tcst t row0 a n fmt rm k) .store (16 * fmt.width) row0 a n
    (match k with
      | some r => s.rdK r
      | none => 0x3F800000) s) s

/-- TRD -/
def execTrd (d : VReg) (t : TReg) (dir : Dir) (idx : Fin 128) (s : State) : Host.Outcome State Fault Refusal :=
  issue (fun s => do
    s.queueRoom
    pure (s.enqueue { MEntry.blank s (.trd d t dir idx) with dst := some (.v (s.me.physV d)) })) s

/-- TWR -/
def execTwr (t : TReg) (dir : Dir) (idx : Fin 128) (a : VReg) (s : State) : Host.Outcome State Fault Refusal :=
  issue (fun s => do
    s.queueRoom
    let x ← s.rdV a
    pure (s.enqueue { MEntry.blank s (.twr t dir idx a) with va := x })) s

/-- TSCALE -/
def execTscale (t : TReg) (rm : RMode) (src : TscaleSrc) (s : State) : Host.Outcome State Fault Refusal :=
  issue (fun s => do
    s.queueRoom
    match src with
    | .v n => do
      let x ← s.rdV n
      pure (s.enqueue { MEntry.blank s (.tscale t rm src) with va := x })
    | .k n => pure (s.enqueue { MEntry.blank s (.tscale t rm src) with kv := s.rdK n })) s

/-- TMOV -/
def execTmov (t src : TReg) (tr : Bool) (s : State) : Host.Outcome State Fault Refusal :=
  issue (fun s => do
    s.queueRoom
    pure (s.enqueue (MEntry.blank s (.tmov t src tr)))) s

/-- TADD -/
def execTadd (t src : TReg) (rm : RMode) (s : State) : Host.Outcome State Fault Refusal :=
  issue (fun s => do
    s.queueRoom
    pure (s.enqueue (MEntry.blank s (.tadd t src rm)))) s

/-- KSET (R311): not queued; latency 1. -/
def execKset (form : KsetForm) (s : State) : Host.Outcome State Fault Refusal :=
  issue (fun s => match form with
    | .one k a => do
      let x ← s.rdS a
      pure (s.result 1 [.k k (x.setWidth 32)])
    | .vec a => do
      let x ← s.rdV a
      pure (s.result 1 ((List.finRange 16).map fun k => .k k (BitVec.ofNat 32 (lane 32 x k.val))))) s

/-! ## Reservoirs -/

/-- RSV_INIT -/
def execRsvInit (t : TReg) (row : Fin 128) (a b c : SReg) (s : State) : Host.Outcome State Fault Refusal :=
  issue (fun s => do
    s.queueRoom
    let x ← s.rdS a
    let y ← s.rdS b
    let z ← s.rdS c
    pure (s.enqueue { MEntry.blank s (.rsvInit t row a b c) with a := x, b := y, c := z })) s

/-- RSV_FEED -/
def execRsvFeed (t : TReg) (row : Fin 128) (a : VReg) (s : State) : Host.Outcome State Fault Refusal :=
  issue (fun s => do
    s.queueRoom
    let x ← s.rdV a
    pure (s.enqueue { MEntry.blank s (.rsvFeed t row a) with va := x })) s

/-- RSV_FEED2 -/
def execRsvFeed2 (t : TReg) (row : Fin 128) (a b : VReg) (s : State) : Host.Outcome State Fault Refusal :=
  issue (fun s => do
    s.queueRoom
    let x ← s.rdV a
    let y ← s.rdV b
    pure (s.enqueue { MEntry.blank s (.rsvFeed2 t row a b) with va := x, vb := y })) s

/-- RSV_DRAW -/
def execRsvDraw (d : SReg) (t : TReg) (row : Fin 128) (s : State) : Host.Outcome State Fault Refusal :=
  issue (fun s => do
    s.queueRoom
    pure (s.enqueue { MEntry.blank s (.rsvDraw d t row) with dst := some (.s (s.me.physS d)) })) s

end Sys2Proof.Machine
end

