-- ==== Sys2Proof/Machine/MUnit.lean ====
section
/-! DEFINITION. The M unit at work: M_UNIT_START takes the head of a cog's queue when its conditions hold and computes
its effect in queue order, MWLOAD_DONE fills a weight buffer (R290 to R312, R331). -/

namespace Sys2Proof.Machine

/-! ## What an entry has read -/

/-- The bytes of an entry's sources, in order. -/
def MEntry.bytes (e : MEntry) : List Byte := (e.fetch.map fun x => (x.2.map Prod.fst).getD []).flatten

/-- Some source place was poisoned. -/
def MEntry.anyBad (e : MEntry) : Bool := e.fetch.any fun x => (x.2.map Prod.snd).getD false

/-- Each place's first byte, length and poison, from byte o on. -/
def placesFrom (o : Nat) : List (Nat × Option (List Byte × Bool)) → List (Nat × Nat × Bool)
  | [] => []
  | x :: r =>
    let n := (x.2.map fun y => y.1.length).getD 0
    (o, n, (x.2.map Prod.snd).getD false) :: placesFrom (o + n) r

/-- Row j of rows of n bytes read a poisoned line. -/
def MEntry.rowBad (e : MEntry) (n j : Nat) : Bool :=
  (placesFrom 0 e.fetch).any fun p => p.2.2 && p.1 < n * (j + 1) && n * j < p.1 + p.2.1

/-- Row j of rows of n bytes. -/
def MEntry.rowBytes (e : MEntry) (n j : Nat) : List Byte := (e.bytes.drop (n * j)).take n

/-! ## Conditions and times (R294, R298, R303) -/

/-- MMUL streams one row a cycle, in BF16 mode every second one. -/
def rowCycles (t : EType) : Nat := if t = .bf16 then 2 else 1

/-- The load engine's cycles for a tile. -/
def loadCycles (fmt : EType) (cvt : Bool) (stk : Bool) : Nat :=
  let n := if cvt || fmt = .bf16 then 64 else if fmt = .mxfp4 then 18 else 32
  if stk then n else n / 2

/-- The head of the queue may start: its sources have been read, what its stores are performed after has been performed,
and the cog has not failed (R331). -/
def State.mayStart (s : State) (c : CogIx) (e : MEntry) : Bool :=
  let x := s.cog c
  !x.failed && x.mLast < s.clk && !e.unread && !(writesMem e.instr && e.after.any (s.waiting c)) &&
  (match e.instr with
    | .mwload .. => x.loadFree ≤ s.clk && (x.buffer e.buf).streamEnd ≤ s.clk
    | .mmul .. => (x.buffer e.buf).state = .full && x.arrayFree ≤ s.clk
    | _ => true)

/-- The cycle in which a result of latency n is written: results appear in queue order. -/
def State.mDue (s : State) (c : CogIx) (n : Nat) : Nat := Nat.max (s.clk + n) (s.cog c).mOrder

/-- A result, its events, or the mere end of an entry, n cycles from now. -/
def State.mResult (s : State) (c : CogIx) (e : MEntry) (n : Nat) (res : List Res) (causes : Causes) : State :=
  let due := s.mDue c n
  let s := s.modCog c fun x => { x with mOrder := due }
  s.modBank e.bank fun b =>
    { b with mDone := Nat.max b.mDone due
             inflight := if res.isEmpty ∧ causes = {} then b.inflight
               else b.inflight ++ [{ due := due, res := res, causes := causes, seq := e.ticket, req := some e.ticket }] }

/-- Change a tile of the entry's bank. -/
def State.setTile (s : State) (e : MEntry) (t : TReg) (x : Tile) : State :=
  s.modBank e.bank fun b => { b with t := b.t.set t x }

/-- A tile of the entry's bank. -/
def State.tile (s : State) (e : MEntry) (t : TReg) : Tile := (s.bank e.bank).t[t]

/-! ## MMUL (R303, R331) -/

/-- Numbers of w bits from bytes, n of them. -/
def elemsOf (w n : Nat) (bs : List Byte) : List Nat :=
  let x := natOf bs
  (List.range n).map fun k => x / 2 ^ (w * k) % 2 ^ w

/-- Bytes of one activation row, its scales included. -/
def actBytes (t : EType) (keyed : Bool) : Nat :=
  if t = .mxfp4 then 66 else 16 * t.width + (if keyed then 0 else 4)

/-- The scale of group g of a row. -/
def actScale (t : EType) (k : Option KReg) (kv : F32) (bs : List Byte) (g : Nat) : FVal :=
  if t = .mxfp4 then e8Val (natOf ((bs.drop (64 + g)).take 1))
  else if k.isSome then decodeF .fp32 kv.toNat
  else decodeF .fp32 (natOf ((bs.drop (16 * t.width)).take 4))

/-- Every row of an MMUL: the rows' new contents with events and mismatching groups, by tile row. -/
def mmulRows (w : WBuf) (t : Tile) (fmt : EType) (k : Option KReg) (e : MEntry) (row0 n : Nat) :
    List (Nat × Vec × Causes × Nat) :=
  (List.range n).map fun j =>
    let bs := e.rowBytes (actBytes fmt k.isSome) j
    let r := row0 + j
    (r, mmulRow w fmt (elemsOf fmt.width 128 bs) (actScale fmt k e.kv bs) (t.row r))

/-- A machine check of source 0x1 (R331): its record, its wait for a boundary, the count that makes a cog fail. -/
def State.machineCheck (s : State) (c : CogIx) (e : MEntry) (t : TReg) (rows : List Nat) : State :=
  let s := s.record 0x03 (bytesOf 8 s.time.toNat ++ bytesOf 8 (s.bankId e.bank).toNat ++
    bytesOf 8 (rows.length * 2 ^ 24 + (rows.headD 0) * 2 ^ 8 + t.val * 2 ^ 6 + 1) ++ bytesOf 8 e.epc.toNat)
  let x := s.bank e.bank
  let s := if x.live && x.iter = e.iter then
      s.modBank e.bank fun b => { b with pend := { b.pend with mcheck := b.pend.mcheck ++ [e.epc] } }
    else s
  let times := ((s.cog c).mchecks.filter fun n => s.clk < n + 2 ^ 32) ++ [s.clk]
  let s := s.modCog c fun y => { y with mchecks := times }
  if 4 ≤ times.length then s.schedule s.clk (.cogFailure c) else s

/-- MMUL in its turn. -/
def State.runMmul (s : State) (c : CogIx) (e : MEntry) (t : TReg) (row0 n : Nat) (fmt : EType) (k : Option KReg) :
    State :=
  let w := (s.cog c).buffer e.buf
  let tl := s.tile e t
  let rs := mmulRows w tl fmt k e row0 n
  let per := rowCycles fmt
  let bad (r : Nat) : Bool := rs.any fun x => x.1 = r &&
    (0 < x.2.2.2 || w.psn || e.rowBad (actBytes fmt k.isSome) (r - row0))
  let tl' := { tl.mapRows (fun r v => ((rs.find? fun x => x.1 = r).map fun x => x.2.1).getD v) with
               psn := tl.psn ||| psnOf bad }
  let s := s.setTile e t tl'
  let endS := s.clk + n * per
  let s := s.modCog c fun x =>
    ({ x with arrayFree := endS } : Cog).setBuffer e.buf fun q => { q with streamEnd := Nat.max q.streamEnd endS }
  let base := s.clk
  let order := (s.cog c).mOrder
  let s := rs.foldl (fun s x =>
    let due := Nat.max (base + (x.1 - row0) * per + 14) order
    s.modBank e.bank fun b =>
      if x.2.2.1 = {} then b
      else { b with inflight := b.inflight ++ [{ due := due, res := [], causes := x.2.2.1, seq := e.ticket }] }) s
  let s := s.mResult c e ((n - 1) * per + (if n = 0 then 1 else 14)) [] {}
  let miss := (rs.filter fun x => 0 < x.2.2.2).map fun x => x.1
  if miss.isEmpty then s else s.machineCheck c e t miss

/-! ## Tile stores -/

/-- The poison of each destination place, rows of n bytes from row0. -/
def rowPoison (tl : Tile) (row0 n : Nat) (segs : List Seg) : List Bool :=
  (segs.foldl (fun (acc : List Bool × Nat) g => (acc.1 ++ [tl.bad (row0 + acc.2 / n)], acc.2 + g.len)) ([], 0)).1

/-- The bytes of rows go to their places: here now, elsewhere, or in a region that is not active (R113), by an access under
the entry's ticket. -/
def State.tileStore (s : State) (e : MEntry) (data : List Byte) (psn : List Bool) : State :=
  let ops := gopSplit (.store e.segs data psn)
  let isHere (op : GOp) : Bool := (gopSegs op).all s.here && (s.regionShut op).isNone
  let far := ops.filter fun op => !isHere op
  let s := (ops.filter isHere).foldl (fun s op => (s.serve 0 (some e.bank.num) e.a op).2) s
  if far.isEmpty then s
  else
    let x : Access :=
      { id := e.ticket, bank := e.bank, owner := .munit e.ticket, kind := .store,
        cls := ((e.segs.map (·.cls)).head?).getD .strong, acq := false, after := [], due := s.clk, todo := far,
        got := [], psn := false, lost := false, dst := .none, sent := false, epc := e.epc, addr := e.a, gs := none }
    { s with accesses := s.accesses ++ [x] }

/-- TST and TCST in their turn. -/
def State.runStore (s : State) (c : CogIx) (e : MEntry) (t : TReg) (row0 n : Nat) (bytes : Nat)
    (f : Vec → List Byte × Causes) : State :=
  let tl := s.tile e t
  let rs := (List.range n).map fun j => f (tl.row (row0 + j))
  let s := s.tileStore e ((rs.map Prod.fst).flatten) (rowPoison tl row0 bytes e.segs)
  s.mResult c e (Nat.max n 1) [] ((rs.map Prod.snd).foldl Causes.plus {})

/-! ## The other instructions -/

/-- TLD in its turn. -/
def State.runTld (s : State) (c : CogIx) (e : MEntry) (t : TReg) (row0 n : Nat) : State :=
  let tl := s.tile e t
  let tl' := tl.mapRows fun r v => if row0 ≤ r && r < row0 + n then
    BitVec.ofNat 4096 (natOf (e.rowBytes 512 (r - row0))) else v
  let psn := psnOf fun r => row0 ≤ r && r < row0 + n && e.rowBad 512 (r - row0)
  let s := s.setTile e t { tl' with psn := (tl.psn &&& ~~~ rowBits row0 n) ||| psn }
  s.mResult c e (n + 3) [] {}

/-- TZERO in its turn (R305). -/
def State.runTzero (s : State) (c : CogIx) (e : MEntry) (t : TReg) (row : Option (Fin 128)) : State :=
  match row with
  | none => (s.setTile e t Tile.reset).mResult c e 16 [] {}
  | some r =>
    let tl := s.tile e t
    let tl' := { tl.mapRows (fun k v => if k = r.val then 0 else v) with psn := tl.psn &&& ~~~ rowBits r.val 1 }
    (s.setTile e t tl').mResult c e 4 [] {}

/-- A row of the entry's tile replaced by a reservoir instruction. -/
def State.setRow (s : State) (e : MEntry) (t : TReg) (r : Fin 128) (v : Vec) : State :=
  let tl := s.tile e t
  s.setTile e t (tl.mapRows fun k x => if k = r.val then v else x)

/-- The state code of a buffer (R312). -/
def bufCode : BufState → Nat
  | .empty => 0 | .loading => 1 | .full => 2

/-- One buffer's half of the MCHK.BUF word. -/
def WBuf.word (w : WBuf) : Nat :=
  bufCode w.state + (if w.state ≠ .empty && w.own then 4 else 0) + (if w.psn then 8 else 0) + 16 * w.fmt.code

/-- The word MCHK writes (R312). -/
def State.mchkWord (s : State) (c : CogIx) (e : MEntry) : MchkForm → Word
  | .lo t => (s.tile e t).psn.extractLsb' 0 64
  | .hi t => (s.tile e t).psn.extractLsb' 64 64
  | .buf => BitVec.ofNat 64 (((s.cog c).buffer (!e.buf)).word + ((s.cog c).buffer e.buf).word * 65536)

/-- The result that writes the entry's register. -/
def MEntry.res (e : MEntry) (w : Word) : List Res :=
  match e.dst with
  | some r => [r.res w]
  | none => []

/-- TRD's result: a whole vector. -/
def MEntry.vres (e : MEntry) (v : Vec) : List Res :=
  match e.dst with
  | some (.v n) => [.v n v (BitVec.allOnes 4096)]
  | _ => []

/-- MWLOAD in its turn: the buffer is LOADING until the engine is done. -/
def State.runLoad (s : State) (c : CogIx) (e : MEntry) (fmt : EType) (cvt : Bool) : State :=
  let stk := (e.segs.map fun g => physStk g.addr).headD true
  let due := Nat.max (s.clk + loadCycles fmt cvt stk) (s.cog c).mOrder
  let half : Bool := e.bank.num = 1
  let s := s.modCog c fun x =>
    ({ x with loadFree := due, mOrder := due, mLoads := x.mLoads ++ [(e, due)] } : Cog).setBuffer e.buf fun q =>
      { q with state := .loading, own := half, fmt := fmt }
  s.schedule due (.mwloadDone c e.buf)

/-- The head of the queue starts: its effect in queue order. -/
def State.startEntry (s : State) (c : CogIx) (e : MEntry) : State :=
  let s := s.modCog c fun x => { x with mq := x.mq.tail, mLast := s.clk }
  match e.instr with
  | .mwload fmt cvt _ _ _ => s.runLoad c e fmt cvt
  | .mmul t row0 _ _ fmt _ k _ => s.runMmul c e t row0.val e.b.toNat fmt k
  | .mchk _ form => s.mResult c e 4 (e.res (s.mchkWord c e form)) {}
  | .tzero t row => s.runTzero c e t row
  | .tld t row0 _ _ => s.runTld c e t row0.val e.b.toNat
  | .tst t row0 _ _ => s.runStore c e t row0.val e.b.toNat 512 fun v => (bytesOf 512 v.toNat, {})
  | .tcst t row0 _ _ fmt rm _ =>
    s.runStore c e t row0.val e.b.toNat (16 * fmt.width) fun v => tcstRow fmt rm v e.kv.toNat
  | .trd _ t dir idx => s.mResult c e 4 (e.vres ((s.tile e t).line dir idx.val)) {}
  | .twr t dir idx _ => (s.setTile e t ((s.tile e t).setLine dir idx.val e.va)).mResult c e 4 [] {}
  | .tscale t rm src =>
    let m (r : Nat) : Nat := match src with
      | .v _ => lane 32 e.va r
      | .k _ => e.kv.toNat
    let (x, cs) := (s.tile e t).scale rm m
    (s.setTile e t x).mResult c e 16 [] cs
  | .tmov t src tr => (s.setTile e t ((s.tile e t).move (s.tile e src) tr)).mResult c e 16 [] {}
  | .tadd t src rm =>
    let (x, cs) := (s.tile e t).add (s.tile e src) rm
    (s.setTile e t x).mResult c e 16 [] cs
  | .rsvInit t row _ _ _ => (s.setRow e t row (rsvInit e.a e.b e.c)).mResult c e 8 [] {}
  | .rsvFeed t row _ =>
    let (v, cs) := rsvFeed ((s.tile e t).row row.val) e.va none
    (s.setRow e t row v).mResult c e 12 [] cs
  | .rsvFeed2 t row _ _ =>
    let (v, cs) := rsvFeed ((s.tile e t).row row.val) e.va (some e.vb)
    (s.setRow e t row v).mResult c e 12 [] cs
  | .rsvDraw _ t row =>
    let (w, cs) := rsvDraw ((s.tile e t).row row.val) ((s.tile e t).bad row.val)
    s.mResult c e 8 (e.res w) cs
  | _ => s.mResult c e 4 [] {}

/-- M_UNIT_START: the head of the cog's queue starts if its conditions hold. -/
def execMUnitStart (c : CogIx) (s : State) : Host.Outcome State Fault Refusal :=
  match (s.cog c).mq with
  | [] => .next s
  | e :: _ => .next (if s.mayStart c e then s.startEntry c e else s)

/-! ## The end of a load (R297) -/

/-- 16-bit elements as a row. -/
def packRow (xs : List Nat) : BitVec 2048 := BitVec.ofNat 2048 (xs.foldr (fun x acc => x % 65536 + 65536 * acc) 0)

/-- 128 words from bytes. -/
def wordVec (bs : List Byte) : Vector Word 128 :=
  Vector.mk ((List.range 128).map fun k => BitVec.ofNat 64 (natOf ((bs.drop (8 * k)).take 8))).toArray (by simp)

/-- Rows from lists of elements. -/
def rowVec (rows : List (List Nat)) : Vector (BitVec 2048) 128 :=
  Vector.mk ((List.range 128).map fun k => packRow (rows.getD k [])).toArray (by simp)

/-- The buffer that an MWLOAD's bytes make, with the converter's events. -/
def fillBuf (w : WBuf) (e : MEntry) (fmt : EType) (cvt : Bool) : WBuf × Causes :=
  let bs := e.bytes
  let w := { w with state := .full, psn := e.anyBad, fmt := fmt }
  if fmt = .mxfp4 then
    let blk (k : Nat) := elemsOf 4 64 ((bs.drop (32 * k)).take 32)
    let blks := (List.range 256).map blk
    let row (k : Nat) := (List.range 128).map fun n => (blks.getD (2 * n + k / 64) []).getD (k % 64) 0
    ({ w with rows := rowVec ((List.range 128).map row), e8m0 := BitVec.ofNat 2048 (natOf ((bs.drop 8192).take 256)),
              check := wordVec (bs.drop 8448) }, {})
  else
    let wd := if cvt then 16 else fmt.width
    let n := 16 * wd
    let raw := (List.range 128).map fun k => elemsOf wd 128 ((bs.drop (n * k)).take n)
    let scale := BitVec.ofNat 32 (natOf ((bs.drop (128 * n)).take 4))
    if cvt then
      let cv := raw.map fun r => r.map fun x => convert fmt .bf16 .rne x
      let rows := cv.map fun r => r.map Prod.fst
      let cs := (cv.map fun r => (r.map Prod.snd).foldl Causes.plus ({} : Causes)).foldl Causes.plus {}
      let ck := Vector.mk ((List.range 128).map fun k => checkOf fmt (rows.getD k [])).toArray (by simp)
      ({ w with rows := rowVec rows, scale := scale, check := ck }, cs)
    else ({ w with rows := rowVec raw, scale := scale, check := wordVec (bs.drop (128 * n + 4)) }, {})

/-- MWLOAD_DONE: the load of a physical buffer that is due has ended. -/
def execMwloadDone (c : CogIx) (buf : Bool) (s : State) : Host.Outcome State Fault Refusal :=
  match (s.cog c).mLoads.find? fun x => x.1.buf = buf && x.2 ≤ s.clk && !(s.cog c).failed with
  | none => .next s
  | some (e, _) =>
    match e.instr with
    | .mwload fmt cvt _ _ _ =>
      let (w, cs) := fillBuf ((s.cog c).buffer buf) e fmt cvt
      let s := s.modCog c fun x =>
        { x.setBuffer buf (fun _ => w) with mLoads := x.mLoads.filter fun y => y.1.ticket ≠ e.ticket }
      .next (s.modBank e.bank fun b => b.addCauses cs)
    | _ => .next s

end Sys2Proof.Machine
end

