-- ==== Sys2Proof/Machine/Clock.lean ====
section
/-! DEFINITION. The package between bundles: TIME_ADVANCE and what comes due in a cycle, the firing of iterations (R28 to
R32), the core's handover (R40 to R42), the commit (R33 to R36, R130) and the traps that wait (R324, R327, R336). -/

namespace Sys2Proof.Machine

/-! ## Accesses come due (R105, R117) -/

/-- Who reads, in a memory error record (R115). -/
def State.accSrc (s : State) (x : Access) : Nat :=
  match x.owner with
  | .copy .. => 1
  | .remote .. => 4
  | .munit t => if (s.cog x.bank.cog).mq.any fun e => e.ticket = t && e.isTileLoad then 5 else 0
  | _ => 0

/-- The bank of the access in a memory error record: none for another package's (R115). -/
def Access.recBank (x : Access) : Option Nat :=
  match x.owner with
  | .remote .. | .revert => none
  | _ => some x.bank.num

/-- The registers that an access's bytes write, with the events of an atomic add or of a converter (R215, R229, R236,
R286, R287). -/
def Access.results (x : Access) : List Res × Causes :=
  match x.dst with
  | .none => ([], {})
  | .scalar r n sx => ([r.res (extend sx (x.got.take n))], {})
  | .pair r0 r1 => ([r0.res (wordAt x.got 0), r1.res (wordAt x.got 1)], {})
  | .vec n place => ([placedRes n place x.got], {})
  | .peek r => ([r.res (headerLen x.got)], {})
  | .cvt n t geo rm act place =>
    let (v, cs) := cvtLanes t geo rm act place x.got
    ([.v n v (elemMask 32 (some act))], cs)
  | .old r n fadd a =>
    let cs : Causes := if fadd then (fAdd .fp32 .rne (natOf x.got) a.toNat).2 else {}
    (match r with
      | some r => [r.res (BitVec.ofNat 64 (natOf (x.got.take n)))]
      | none => [], cs)
  | .snap rs p =>
    let one (k : Nat) (r : BusyReg) : Res := match r with
      | .v n => .v n (BitVec.ofNat 4096 (natOf x.got)) (BitVec.allOnes 4096)
      | r => r.res (wordAt x.got k)
    ((rs.zipIdx.map fun e => one e.2 e.1) ++ [.p p x.lost], {})

/-- An access is done: it leaves the list, and its bytes go to whom it was made for. -/
def State.finishAccess (s : State) (x : Access) : State :=
  let s := { s with accesses := s.accesses.filter (·.id ≠ x.id) }
  match x.owner with
  | .bank =>
    let (rs, cs) := x.results
    if rs.isEmpty then s else s.answer x.bank x.id rs cs
  | .pre =>
    s.modBank x.bank fun b =>
      { b with pre := b.pre.map fun a =>
          if a.id = x.id then { a with done := true, psn := x.psn, lost := x.lost, data := x.got } else a }
  | .remote src id _ => s.emit (.gresp src ⟨id, x.got, x.psn, x.lost, false⟩)
  | .munit t =>
    if x.kind = .store then s
    else
      s.modEntry x.bank.cog t fun e =>
        { e with fetch := e.fetch.map fun y => if y.1 = x.id && y.2.isNone then (y.1, some (x.got, x.psn)) else y }
  | .copy id u wr =>
    let s := s.modCopy id fun c => { c with waiting := c.waiting.filter (· ≠ x.id) }
    if wr then s
    else
      match s.copies.find? (·.id = id) with
      | none => s
      | some c => if s.dead c.bank then s else s.copyRead c u x.got x.psn x.lost
  | .revert => s

/-- An access that was refused leaves the list: a copy fails, the bundle that asked learns of it, another package is
told. A posted write to a host that no longer takes it is lost (R110, R390; notes/assumptions/20.md). -/
def State.accessRefused (s : State) (x : Access) : State :=
  let s := { s with accesses := s.accesses.filter (·.id ≠ x.id) }
  match x.owner with
  | .bank => s.answer x.bank x.id []
  | .pre =>
    s.modBank x.bank fun b =>
      { b with pre := b.pre.map fun a => if a.id = x.id then { a with done := true, fail := true } else a }
  | .copy id _ _ => s.modCopy id fun c =>
      let c := { c with waiting := c.waiting.filter (· ≠ x.id) }
      s.copyRefused c
  | .remote src id _ => s.emit (.gresp src ⟨id, [], false, false, true⟩)
  | .munit _ | .revert => s

/-- The host can be reached (R390). -/
def Hub.hostOpen (h : Hub) : Bool := h.busMaster && h.hostUp

/-- The access may write ring slots elsewhere: a copy by its window entry's RING, any other by R89. -/
def State.ringRight (s : State) (x : Access) : Bool :=
  match x.owner with
  | .copy id u _ => ((s.copies.find? (·.id = id)).map fun c => c.mayRing (c.unit u).1).getD true
  | _ => true

/-- The first operation of an access goes to the memory of another package or of the host. A posted write is done when
it leaves; everything else waits for its answer. DESIGN CHOICE (notes/assumptions/60.md): a write to host memory carries no
poison, also that of a copy which has read a poisoned line (R112). -/
def State.sendOut (s : State) (x : Access) (op : GOp) : State × Bool :=
  match gopSegs op with
  | [] => (s, true)
  | g :: _ =>
    if g.host then
      match op with
      | .store _ data _ => (s.emit (.pcieWrite x.id g.addr data), true)
      | .atomic _ o a b => (s.emit (.pcieAtomic x.id g.addr o g.len a b), false)
      | _ =>
        let r := hostRun g
        (s.emit (.pcieRead x.id r.addr r.len), false)
    else (s.emit (.greq g.pkg ⟨x.id, s.hub.pkg.toNat, op, s.ringRight x, x.addr⟩), false)

/-- The first operation of an access has been answered. The lines of a groupset store's new versions enter the write list
of the package that issued it (R139), to which they are sent back. -/
def State.absorb (s : State) (x : Access) (op : GOp) (a : Answer) : State × Access :=
  let s := match op with
    | .gsStore g _ h _ => if x.foreign then s else s.noteLines g h a.data
    | _ => s
  let (data, lost) : List Byte × Bool := match op with
    | .gsStore .. => (if x.foreign then a.data else [], a.lost)
    | .load [g] =>
      if g.host then
        let bs := hostBytes g a.data
        (bs.map (·.getD 0), bs.any (·.isNone))
      else (a.data, a.lost)
    | _ => (a.data, a.lost)
  (s, { x with got := x.got ++ data, psn := x.psn || a.psn, lost := x.lost || lost, sent := false })

/-- A write of another package's copy, without RING, that touches a ring slot here (R89, R249). -/
def State.remoteBad (s : State) (x : Access) (op : GOp) : Bool :=
  match x.owner, op with
  | .remote _ _ false, .store .. | .remote _ _ false, .gsStore .. => (gopSegs op).any s.inRing
  | _, _ => false

/-- A copy's groupset store to a line that is to have a new version, and the write lists are full (R140). -/
def State.listStop (s : State) (x : Access) (op : GOp) : Bool :=
  match op with
  | .gsStore .. => !x.foreign && x.got.contains 1 && 1048575 ≤ s.listed
  | _ => false

/-- Put an access back with what is still to be done. -/
def State.keepAccess (s : State) (x : Access) : State :=
  { s with accesses := s.accesses.map fun y => if y.id = x.id then x else y }

/-- A GS.LOAD reads SEALED of a version at its home (R144). -/
def State.askSealed (s : State) (x : Access) (r : Nat) : State :=
  let (id, s) := s.newId
  let (asid, name) := recKey r
  (s.keepAccess { x with sealReq := some (id, asid, name) }).emit
    (.gsmsg (s.liveHome (recHome r)) 3 { id := id, party := .hub s.hub.pkg.toNat, asid := asid, name := name, count := 0,
                                         epoch := recEpoch r })

/-- The operations of an access, place by place, until one has to be answered from elsewhere, or waits for a region to
become active. -/
def State.runOps (s : State) (x : Access) : List GOp → State
  | [] => s.finishAccess { x with todo := [] }
  | op :: r =>
    let kept : Access := { x with todo := op :: r }
    if s.listStop x op then s.accessRefused x
    else if (gopSegs op).all s.here then
      match s.regionShut op, s.sealNeed x.seals op with
      | some a, _ => (s.askExit a).keepAccess kept
      | none, some v => s.askSealed kept v
      | none, none =>
        if s.remoteBad x op then s.accessRefused x
        else
          let (a, s) := s.serve (s.accSrc x) x.recBank x.addr op x.seals
          let (s, x) := s.absorb x op a
          s.runOps x r
    else if (gopSegs op).any (·.host) && !s.hub.hostOpen then s.accessRefused x
    else
      let (s, done) := s.sendOut x op
      if done then s.runOps x r else s.keepAccess { kept with sent := true }

/-- An access whose time has come and whose predecessors are performed. -/
def State.mayPerform (s : State) (x : Access) : Bool :=
  !x.sent && x.sealReq.isNone && x.due ≤ s.clk && !x.after.any fun i => i ≠ x.id && s.waiting x.bank.cog i

/-- A home has answered a GS.LOAD's read of SEALED (R144). -/
def State.sealAnswer (s : State) (a : GsAns) : State :=
  { s with accesses := s.accesses.map fun x =>
      match x.sealReq with
      | some (id, asid, name) =>
        if id = a.id then { x with sealReq := none, seals := x.seals ++ [(asid, name, a.epoch)] } else x
      | none => x }

/-- Every access that may be performed is, in the order of issue. -/
def State.performAll (s : State) : State :=
  s.accesses.foldl (fun s y =>
    match s.accesses.find? (·.id = y.id) with
    | none => s
    | some x => if s.mayPerform x then s.runOps x x.todo else s) s

/-- The operation an access has sent is answered; the next ones follow. -/
def State.answered (s : State) (x : Access) (a : Answer) : State :=
  match x.todo with
  | [] => s
  | op :: r =>
    let (s, x) := s.absorb x op a
    s.runOps x r

/-! ## A cycle passes (R9, R10) -/

/-- The snapshot of a port's figures at the start of a fabric cycle (R28, R41, R222). -/
def snapPort (input : Bool) (q : PortState) : PortState :=
  { q with snap := q.figure input, snapOcc := (q.cum - q.freed).toNat }

/-- The snapshots of a bank. -/
def Bank.snapshot (b : Bank) : Bank :=
  if b.active then
    { b with ports := Vector.mk ((List.finRange 16).map fun i => snapPort (i.val < 8) b.ports[i]).toArray (by simp) }
  else b

/-- The cycle now ending counts for the bank that holds the core; the cycle of a yield counts at the yield (R42). -/
def State.countBudget (s : State) (c : CogIx) : State :=
  let x := s.cog c
  match x.holder with
  | none => s
  | some h =>
    let b := c.bank h
    if (s.bank b).live && x.heldFrom ≤ s.clk then s.modBank b fun y => { y with budcnt := y.budcnt + 1 } else s

/-- A walk that has ended fills the TLB when it found a leaf in tables whose regions are active (R92, R113). -/
def State.endWalk (s : State) (b : BankIx) : State :=
  match (s.bank b).walk with
  | some (asid, off, e) =>
    if e = s.clk && (s.walked asid off).all (s.retState · = .active) then
      let s := s.eccWalk (some b.num) (BitVec.ofNat 64 off) asid off
      match s.walk asid off with
      | .leaf t => s.tlbFill b.cog t
      | _ => s
    else s
  | none => s

/-- A sleeper whose time has come, or whose copies are complete, is ready (R210, R211, R335), unless a put of its bundle
still waits for a copy (R220). -/
def State.wake (s : State) (b : BankIx) : State :=
  let ready (s : State) : State := s.modBank b fun x =>
    { x with mode := if x.puts.any (s.putBlocked b) then .ringWait else .ready }
  match (s.bank b).mode with
  | .sleepTime t => if t.ule s.time then ready s else s
  | .sleepCopy t | .sleepTrap t => if t.ule s.time || !s.copying b then ready s else s
  | _ => s

/-- A bank that has drained for a hub-answered fault gives up the core (R324). -/
def State.lateYield (s : State) (b : BankIx) : State :=
  if !s.holds b then s
  else
    match (s.bank b).mode with
    | .waitHub .. => if s.draining b then s else s.yield b
    | _ => s

/-- Seals whose earlier accesses have been performed are sent (R141). -/
def State.sealsAct (s : State) : State :=
  s.gsreqs.foldl (fun s r => if r.kind = 1 && !r.sent && s.sealReady r then s.sendReq r else s) s

/-- The done edge's periodic returns (R379). -/
def State.doneReturns (s : State) : State :=
  s.fd.edges.foldl (fun s e =>
    if e.done && e.retDue ≤ s.clk then
      (s.sendDoneReturn e).modEdge (fun x => x.done && x.stage = e.stage) fun x => { x with retDue := s.clk + 1024 }
    else s) s

/-- Schedule an event after those already scheduled that a predicate names. -/
def State.scheduleAfter (s : State) (p : Instr → Bool) (ev : Instr) : State :=
  let (due, s) := s.later
  let last := s.agenda.foldl (fun m e => if p e.2 then Nat.max m e.1 else m) due
  s.schedule last ev

/-- No port of a moved stage waits for its counters, or for null packets of a recovery (R345). A stage that is not moved
keeps firing (R344). -/
def Bank.settled (b : Bank) : Bool := b.ports.toList.all fun q => q.await ≠ .counters && q.fill = 0

/-- A null packet leaves an output port on the hub's behalf (R26, R345). -/
def State.nullPut (s : State) (b : BankIx) (i : Fin 16) : State :=
  let q := (s.bank b).ports[i]
  let (w0, w1) := s.putHeader b q 0 q.cum
  let here (pkg : Nat) (s : State) (ev : Instr) (p : Instr → Bool) : State :=
    if pkg = s.hub.pkg.toNat then s.scheduleAfter p ev else s.sendPacket { w0 := w0, w1 := w1, payload := [] }
  match q.peer with
  | .none => s
  | .stage pkg .. => here pkg s (.streamPacket (.packet w0 w1 [])) fun e => match e with
    | .streamPacket (.packet ..) => true
    | _ => false
  | .seqr pkg _ => here pkg s (.donePacket w0 w1 []) fun e => match e with
    | .donePacket .. => true
    | _ => false

/-- The hub puts one of the null packets that a moved producer owes, when a slot is free (R345). -/
def State.fillPort (s : State) (b : BankIx) (i : Fin 16) : State :=
  let q := (s.bank b).ports[i]
  if q.fill = 0 || q.await ≠ .none || q.depth ≤ (q.cum - q.freed).toNat then s
  else
    (s.nullPut b i).modBank b fun x =>
      let q := x.ports[i]
      x.setPort i { q with cum := q.cum + 1, slot := (q.slot + 1) % Nat.max 1 q.depth, fill := q.fill - 1 }

/-- Every null packet that may be put in this fabric cycle is. -/
def State.fillAct (s : State) : State :=
  allBanks.foldl (fun s b =>
    if (s.bank b).settled then s else (List.finRange 16).foldl (fun s i => s.fillPort b i) s) s

/-- The start of a fabric cycle: snapshots are taken, the ports send. -/
def State.fabricCycle (s : State) : State :=
  (({ s with banks := vmap Bank.snapshot s.banks, evalNext := 0 } : State).fillAct.linksAct).doneReturns

/-- The one step of TIME, at a fabric-cycle boundary (R381). -/
def State.stepTime (s : State) : State :=
  { s with time := s.time + BitVec.ofNat 64 s.td.step, td := { s.td with step := 0 } }

/-- One core cycle. A failed cog does nothing in it (R331). What accesses, copies and the M unit give in it is written
with the other results that are due (R157). -/
def State.tick (s : State) : State :=
  let s := allCogs.foldl State.countBudget s
  let s := { s with clk := s.clk + 1, time := s.time + 1 }
  let s := if s.time.toNat % 2 = 0 then s.stepTime.fabricCycle else s
  let s := s.performAll
  let s := s.copiesAct
  let s := allBanks.foldl (fun s b => if s.dead b then s else (s.putsAct b).lateYield b) s
  let s := allCogs.foldl (fun s c => if (s.cog c).mq.isEmpty || (s.cog c).failed then s else s.fetchCog c) s
  let s := s.sealsAct
  let s := allBanks.foldl State.retireBank s
  allBanks.foldl (fun s b => (s.endWalk b).wake b) s

/-- TIME_ADVANCE: with the main rails off or no firmware running, no core clock runs (R397, R401). -/
def execTimeAdvance (s : State) : Host.Outcome State Fault Refusal :=
  if s.hub.railsOn && s.hub.running.isSome then .next s.tick else .fault .railsOff

/-! ## Firing (R28 to R32, R35) -/

/-- Every bound port has its declared count in the snapshot. -/
def Bank.supplied (b : Bank) : Bool := b.ports.toList.all fun q => !q.bound || q.rate ≤ q.snap

/-- The bank may fire. -/
def Bank.mayFire (b : Bank) : Bool := b.active && !b.freewheel && b.mode = .idle && !b.live && b.supplied && b.settled

/-- The bank fires in the fabric cycle that began at TIME t. -/
def Bank.fire (b : Bank) (t : Word) : Bank :=
  { b with
    mode := .fired t, live := true, iter := b.iter + 1, pc := b.stage.entry, rstpt := b.stage.entry,
    rstRot := (0, 0, 0), rotS := 0, rotV := 0, rotP := 0, asidcur := 0, cWork := b.c, cvWork := b.cv, budcnt := 0,
    budgetDone := false, walk := none, putSlots := [], afterTrap := none, delay := 0, rerun := false, pre := [],
    ports := vmap (fun q => { q with reserved := if q.bound then q.rate else 0, puts := 0, rstPuts := 0 }) b.ports }

/-- The contents of an iteration-private window are undefined when an iteration is run again, or follows a migration or a
restore: free values. An ordinary firing keeps them (R39; notes/assumptions/56.md). -/
def State.privFree (s : State) (b : BankIx) : State :=
  if (s.bank b).rerun then
    ((s.bank b).windows.toList.filter fun w => w.bit 0 && w.bit 5).foldl (fun s w =>
      let (n, s) := s.draw
      { s with mem := memSets s.mem (w.target b.cog.val w.base) ((List.range w.size).map (Config.freeByte n)) }) s
  else s

/-- FIRING_EVALUATION of one bank against the snapshot of this fabric cycle. -/
def execFiringEvaluation (b : BankIx) (s : State) : Host.Outcome State Fault Refusal :=
  let s := { s with evalNext := b.val + 1 }
  if (s.bank b).mayFire && !(s.cog b.cog).failed && s.time.toNat % 2 = 0 then
    .next ((s.privFree b).modBank b fun x => x.fire s.time)
  else .next s

/-! ## The core (R40, R41) -/

/-- The bank counts as ready for a choice at TIME t. -/
def Bank.isReady (b : Bank) (t : Word) : Bool :=
  match b.mode with
  | .ready | .endReady => true
  | .fired a => (a + 2).ule t
  | _ => false

/-- The greatest occupancy over the input ports, as a fraction. -/
def Bank.occupancy (b : Bank) : Nat × Nat :=
  (List.finRange 16).foldl (fun (m : Nat × Nat) i =>
    let q := b.ports[i]
    if i.val < 8 && q.bound && m.1 * q.depth < q.snapOcc * m.2 then (q.snapOcc, q.depth) else m) (0, 1)

/-- The bank that takes the free core: the one passed over, the fuller one, the one that did not hold it last, bank 0. -/
def State.choose (s : State) (c : CogIx) : Option Bool :=
  let x := s.cog c
  let r0 := (s.bank (c.bank false)).isReady s.time
  let r1 := (s.bank (c.bank true)).isReady s.time
  if r0 && r1 then
    match x.passed with
    | some h => some h
    | none =>
      let o0 := (s.bank (c.bank false)).occupancy
      let o1 := (s.bank (c.bank true)).occupancy
      if o1.1 * o0.2 < o0.1 * o1.2 then some false
      else if o0.1 * o1.2 < o1.1 * o0.2 then some true
      else some (match x.lastHolder with
        | some h => !h
        | none => false)
  else if r0 then some false
  else if r1 then some true
  else none

/-- CORE_HANDOVER: the first bundle issues at least two cycles after the yielding one, at an even TIME, and later by what
a NOP before a ring wait asked for (R209). A STAGE.END that has waited for a copy goes on (R207). -/
def execCoreHandover (c : CogIx) (s : State) : Host.Outcome State Fault Refusal :=
  if (s.cog c).holder.isSome || (s.cog c).failed then .next s
  else
    match s.choose c with
    | none => .next s
    | some h =>
      let b := c.bank h
      let yielded := match (s.cog c).lastHolder with
        | some l => (s.bank (c.bank l)).yieldClk + 2
        | none => 0
      let at_ := Nat.max s.clk yielded
      let at_ := if (s.time.toNat + (at_ - s.clk)) % 2 = 0 then at_ else at_ + 1
      let both : Bool := (s.bank b.other).isReady s.time
      let s := s.modCog c fun x => { x with holder := some h, passed := if both then some !h else none, heldFrom := at_ }
      .next (s.modBank b fun x =>
        { x with mode := if x.mode = .endReady then .ending else .running, nextIssue := at_ + x.delay, delay := 0 })

/-! ## The commit (R33, R34, R130, R207) -/

/-- The bytes of the input slots that an iteration frees. -/
def State.freedSlots (s : State) (b : BankIx) : List Seg :=
  ((List.finRange 16).filter fun i => i.val < 8).flatMap fun i =>
    let q := (s.bank b).ports[i]
    match s.ringSeg b i with
    | none => []
    | some g => (List.range q.rate).map fun j =>
        { g with addr := g.addr + (q.slot + j) % Nat.max 1 q.depth * q.stride, len := q.stride }

/-- A copy of the iteration may still read a slot that is being freed. -/
def State.slotRead (s : State) (b : BankIx) : Bool :=
  s.copies.any fun c => c.bank = b && c.iter = (s.bank b).iter && s.copyReading c &&
    (match s.copySrcs c with
      | some gs => sharing gs (s.freedSlots b)
      | none => true)

/-- Every syllable of the iteration has written its results (R207): no result is in flight or awaited, no load and no M
instruction is on its way, and no atomic of a slot that is being freed, whose old value may have no register (R124, R130,
R228). -/
def State.written (s : State) (b : BankIx) : Bool :=
  let x := s.bank b
  x.inflight.isEmpty && x.busy.isEmpty && !s.mBusy b &&
  !s.accesses.any fun y => y.bank = b && (match y.owner with
    | .bank => y.kind = .load || (y.kind = .atomic && sharing y.segs (s.freedSlots b))
    | .munit _ => true
    | _ => false)

/-- STAGE.END waits for a copy: into a slot that has been put, or, once the puts are complete, out of a slot that is being
freed (R128, R130, R207). -/
def State.endCopies (s : State) (b : BankIx) : Bool :=
  (s.bank b).puts.any (s.putBlocked b) || s.slotCopied b || ((s.bank b).puts.isEmpty && s.slotRead b)

/-- The waits of STAGE.END are over. -/
def State.commitReady (s : State) (b : BankIx) : Bool :=
  s.written b && !s.endCopies b && (s.bank b).puts.isEmpty

/-- A packet that leaves from a send ring, and the read of its bytes: header words, payload, poison set in the header
(R111, R218, R375). -/
def State.sentPacket (s : State) (a : Nat) : Packet × State :=
  let s := s.eccRead 4 none 0 a 32
  let w (k : Nat) : Word := BitVec.ofNat 64 (natOf (s.load (a + k) 8))
  let n := 32 * wfld (w 0) 14 8
  let s := s.eccRead 4 none 0 (a + 32) n
  ({ w0 := if 0 < n && poisoned s a (32 + n) then w 0 ||| 512 else w 0, w1 := w 8, payload := s.load (a + 32) n }, s)

/-- The physical address of the j-th slot from a port's current one, in a ring at g. -/
def slotOf (g : Seg) (q : PortState) (j : Nat) : Nat := g.addr + (q.slot + j) % Nat.max 1 q.depth * q.stride

/-- An output port's packets leave with the commit; those of an edge that waits for a moved consumer stay in the send
ring, from which they are replayed (R345). -/
def State.commitOut (s : State) (b : BankIx) (i : Fin 16) : State :=
  let q := (s.bank b).ports[i]
  let n := q.rate
  let far (s : State) (put : State → Packet → State) : State :=
    match s.ringSeg b i with
    | none => s
    | some g => (List.range n).foldl (fun s j =>
        let (k, s) := s.sentPacket (slotOf g q j)
        put s k) s
  let s := if q.await ≠ .none then s else match q.peer with
    | .none => s
    | .stage pkg bank port _ =>
      if pkg ≠ s.hub.pkg.toNat then far s State.sendPacket
      else
        match bank? bank with
        | none => s
        | some k =>
          let p : Fin 16 := ⟨port.val, by omega⟩
          if k.cog = b.cog then s.arrived k p n
          else
            let (due, s) := s.later
            s.schedule due (.streamPacket (.localCommit k port n))
    | .seqr pkg _ =>
      if pkg ≠ s.hub.pkg.toNat then far s State.sendPacket
      else far s fun s k => s.scheduleAfter (fun e => match e with | .donePacket .. => true | _ => false)
        (.donePacket k.w0 k.w1 k.payload)
  s.modBank b fun x =>
    let q := x.ports[i]
    x.setPort i { q with cum := q.cum + BitVec.ofNat 16 n, reserved := 0, slot := (q.slot + n) % Nat.max 1 q.depth,
                         puts := 0, rstPuts := 0 }

/-- An input port's slots are freed with the commit, and its return follows in the next fabric cycle (R379). -/
def State.commitIn (s : State) (b : BankIx) (i : Fin 16) : State :=
  let q := (s.bank b).ports[i]
  let c := q.freed + BitVec.ofNat 16 q.rate
  let s := s.modBank b fun x =>
    x.setPort i { q with freed := c, reserved := 0, slot := (q.slot + q.rate) % Nat.max 1 q.depth }
  let p : Fin 8 := ⟨i.val % 8, Nat.mod_lt _ (by omega)⟩
  let s := match q.peer with
    | .stage pkg bank _ _ =>
      if pkg = s.hub.pkg.toNat && bank / 2 = b.cog.val then
        match s.producerOf (s.bank b).stage.id.toNat p.val with
        | some (k, o) => s.modBank k fun x => x.setPort o { x.ports[o] with freed := c }
        | none => s
      else s
    | _ => s
  s.wantReturn b p

/-- The commit: rings, carries, bases, the budget counter. -/
def State.commitBank (s : State) (b : BankIx) : State :=
  let s := (List.finRange 16).foldl (fun s i =>
    if !((s.bank b).ports[i]).bound then s
    else if i.val < 8 then s.commitIn b i else s.commitOut b i) s
  let s := (s.flush b).modBank b fun x =>
    { x with c := x.cWork, cv := x.cvWork, rotS := 0, rotV := 0, rotP := 0, budcnt := 0, budgetRow := 0,
             budgetDone := false, live := false, mode := .idle, putSlots := [], firings := x.firings + 1 }
  s

/-- STAGE.END goes on once the iteration's results are written (R207): a ring wait for a copy, after which the bank
waits for the core; at its completion the core is yielded (R40), and the commit takes effect at the end of that fabric
cycle (R33). None while it waits. -/
def State.stageEndStep (s : State) (b : BankIx) : Option State :=
  let c := s.cog b.cog
  let mode (s : State) (m : BankMode) : State := s.modBank b fun x => { x with mode := m }
  if c.failed then none
  else
    match (s.bank b).mode with
    | .ending =>
      if !s.written b || s.clk < c.heldFrom then none
      else if s.endCopies b then some ((mode s .endWait).yield b)
      else if !s.commitReady b then none
      else if s.time.toNat % 2 = 1 then some ((s.commitBank b).yield b)
      else some ((mode s .ended).yield b)
    | .endWait => if s.endCopies b then none else some (mode s .endReady)
    | .ended => if s.time.toNat % 2 = 1 then some (s.commitBank b) else none
    | _ => none

/-- COMMIT: the next phase of a STAGE.END. -/
def execCommit (b : BankIx) (s : State) : Host.Outcome State Fault Refusal := .next ((s.stageEndStep b).getD s)

/-! ## Budget and traps that wait (R42, R324, R327, R336) -/

/-- The iteration has held the core for longer than its budget, and its trap is not raised yet. -/
def Bank.overBudget (b : Bank) : Bool := b.live && b.stage.budget < b.budcnt && !b.budgetDone

/-- BUDGET_EXCEEDED: the budget trap waits for the next boundary. -/
def execBudgetExceeded (b : BankIx) (s : State) : Host.Outcome State Fault Refusal :=
  if (s.bank b).overBudget then
    .next (s.modBank b fun x => { x with pend := { x.pend with budget := true }, budgetDone := true })
  else .next s

/-- TRAP_TAKE: the bank has drained, and the trap is taken (R327). -/
def execTrapTake (b : BankIx) (s : State) : Host.Outcome State Fault Refusal :=
  match (s.bank b).mode with
  | .trapping t epc => .next (if s.draining b || s.dead b then s else s.enterTrap b t epc)
  | _ => .next s

/-- A handler that runs after an abandon has not issued TRET 65,536 cycles after its start. -/
def State.handlerLate (s : State) (b : BankIx) : Bool :=
  match (s.bank b).handlerAt with
  | some n => !s.dead b && n + 65536 ≤ s.clk
  | none => false

/-- HANDLER_TIMEOUT: the bank is stopped (R327, R330). DESIGN CHOICE (notes/assumptions/62.md): R327 names no cause for the
record; it repeats the return point, TVAL, SUB and CAUSE of the trap being handled. -/
def execHandlerTimeout (b : BankIx) (s : State) : Host.Outcome State Fault Refusal :=
  if s.handlerLate b then
    let x := s.bank b
    .next (s.stopBank b x.tepc x.tval (x.tcause.toNat / 256 % 256) (x.tcause.toNat % 256))
  else .next s

end Sys2Proof.Machine
end

