-- ==== Sys2Proof/Machine/Paths.lean ====
section
/-! DEFINITION. The hub's part in memory: answers to faults (R103), page-table entries and the collapse of read-duplicate
pages (R99, R100), accesses of the host (R102, R390), scrub and retention (R111, R113), and the arrival of global
requests and responses (R374). -/

namespace Sys2Proof.Machine

/-! ## Answers (R103, R110) -/

/-- A held fault has been answered. -/
def State.release (s : State) (party : FaultParty) : State :=
  { s with hub := { s.hub with held := s.hub.held.filter fun h => h.1 ≠ party } }

/-- FAULT_ANSWER: the bank is ready again, or takes the global access error at its bundle; the copy goes on, or fails. A
bank that still drains is answered later. -/
def execFaultAnswer (party : FaultParty) (refused : Bool) (s : State) : Host.Outcome State Fault Refusal :=
  match party with
  | .bank b =>
    if s.dead b then .next (s.release party)
    else
    match (s.bank b).mode with
    | .waitHub cause val slot =>
      if s.holds b then
        let (due, s) := s.later
        .next (s.schedule due (.faultAnswer party refused))
      else
        let s := s.release party
        if refused then .next (s.enterTrap b { cause := 0x1A, sub := cause, slot := slot, val := val } (s.bank b).pc)
        else .next (s.modBank b fun x => { x with mode := .ready })
    | _ => .next (s.release party)
  | .copy id => .next ((s.release party).modCopy id fun c =>
      if s.dead c.bank then c else if refused then s.copyRefused c else { c with held := false })

/-- The faults held for a granule are answered, a free time later each. -/
def State.answerHeld (s : State) (p : FaultParty × BitVec 12 × BitVec 52 × Nat → Bool) : State :=
  (s.hub.held.filter p).foldl (fun s h =>
    let (due, s) := s.later
    s.schedule due (.faultAnswer h.1 false)) s

/-- A held fault lies in a granule of an ASID. -/
def heldIn (asid : BitVec 12) (g : Nat) (h : FaultParty × BitVec 12 × BitVec 52 × Nat) : Bool :=
  h.2.1 = asid && h.2.2.1.toNat / 65536 = g && h.2.2.2 ≠ 0x33

/-! ## Page-table entries (R93 to R95, R99) -/

/-- The address of an entry in a table. -/
def entryAddr (table idx : Nat) : Nat := table + 16 * idx

/-- Write an entry. -/
def State.setEntry (s : State) (a : Nat) (w0 w1 : Word) : State :=
  s.store a (bytesOf 8 w0.toNat ++ bytesOf 8 w1.toNat) false

/-- The table that a table entry names, if the entry is valid and a table entry. -/
def State.tableAt (s : State) (a : Nat) : Option Nat :=
  let (w0, w1) := s.entry a
  if abit w1 0 && w1.toNat / 2 % 4 = 0 then some (granuleAddr w0) else none

/-- Where the entry that maps an offset stands: its level (2 or 3) and address. -/
def State.leafPlace (s : State) (asid : BitVec 12) (off : Nat) : Option (Nat × Nat) :=
  if !s.ptroot.getLsbD 0 then none
  else do
    let t1 ← s.tableAt (entryAddr (granuleAddr s.ptroot) (walkIndex asid off 0))
    let t2 ← s.tableAt (entryAddr t1 (walkIndex asid off 1))
    let e2 := entryAddr t2 (walkIndex asid off 2)
    match s.tableAt e2 with
    | some t3 => some (3, entryAddr t3 (walkIndex asid off 3))
    | none => some (2, e2)

/-- A place in stacked SRAM that fits a use: the first granule after a free starting point, of active regions if one fits
there (R113; notes/assumptions/17.md). -/
def State.findPlace (s : State) (fits : Nat → Bool) : Option Nat × State :=
  let (n, s) := s.draw
  let at_ (k : Nat) : Nat :=
    let i := (Config.freeNat n + k) % 92160
    physAddr (i / 288) true (i % 288 * 65536)
  let l := List.range 92160
  let k := match l.find? fun k => fits (at_ k) && s.retState (at_ k) = .active with
    | some k => some k
    | none => l.find? fun k => fits (at_ k)
  (k.map at_, s)

/-- A frame of stacked SRAM that nothing uses. -/
def State.takeFrame (s : State) : Option (Nat × State) :=
  match s.findPlace fun a => !s.hub.frames.contains a with
  | (none, _) => none
  | (some a, s) => some (a, { s with hub := { s.hub with frames := s.hub.frames ++ [a] } })

/-- The device form of a granule's address, without an offset. -/
def granuleForm (pkg a : Nat) : Word := BitVec.ofNat 64 ((deviceForm pkg a).toNat / 2 ^ 33 * 2 ^ 33)

/-- The entry for a table in a frame of this package. -/
def tableEntry (pkg a : Nat) : Word × Word := (granuleForm pkg a, 1)

/-- A mask of word 1's bit k. -/
def w1bit (k : Nat) : Word := BitVec.ofNat 64 (2 ^ k)

/-- The granules of a 256 MiB page as 4,096 entries of their own. -/
def splitBig (w0 w1 : Word) : List (Word × Word) :=
  let e : TlbEntry := ⟨0, 28, 0, w0, w1⟩
  (List.range 4096).map fun j =>
    let (pkg, host, a) := e.target (j * 65536)
    (if host then BitVec.ofNat 64 a else granuleForm pkg a, w1)

/-- The page that maps an offset is broken into granules; the address of the granule's own entry. -/
def State.splitPage (s : State) (asid : BitVec 12) (off : Nat) : Option (Nat × State) :=
  match s.leafPlace asid off with
  | none => none
  | some (2, a) =>
    let (w0, w1) := s.entry a
    match s.takeFrame with
    | none => none
    | some (f, s) =>
      let s := ((splitBig w0 w1).zipIdx).foldl (fun s e => s.setEntry (entryAddr f e.2) e.1.1 e.1.2) s
      let (t0, t1) := tableEntry s.hub.pkg.toNat f
      let s := s.setEntry a t0 t1
      some (entryAddr f (walkIndex asid off 3), s)
  | some (_, a) =>
    let (_, w1) := s.entry a
    if abit w1 19 then
      let first := a - 16 * (walkIndex asid off 3 % 32)
      let s := s.eccRead 0 none (BitVec.ofNat 64 off) first 512
      some (a, (List.range 32).foldl (fun s k =>
        let (x0, x1) := s.entry (first + 16 * k)
        s.setEntry (first + 16 * k) x0 (x1 &&& ~~~ w1bit 19)) s)
    else some (a, s)

/-- A granule leaves every TLB of the package (R99). -/
def State.shootdown (s : State) (asid : BitVec 12) (off : Nat) : State :=
  { s with cogs := vmap (fun (c : Cog) => { c with tlb := c.tlb.filter fun e => !e.covers asid off }) s.cogs }

/-- Change the granule's entry, breaking its page, and invalidate it. The hub reads the entries on the way (R111). -/
def State.changeLeaf (s : State) (asid : BitVec 12) (off : Nat) (f : Word × Word → Word × Word) : State :=
  let s := s.eccWalk none (BitVec.ofNat 64 off) asid off
  match s.splitPage asid off with
  | none => s
  | some (a, s) =>
    let (w0, w1) := f (s.entry a)
    (s.setEntry a w0 w1).shootdown asid off

/-- The granule's entry becomes invalid. -/
def State.closeLeaf (s : State) (asid : BitVec 12) (off : Nat) : State :=
  let s := s.changeLeaf asid off fun w => (w.1, w.2 &&& ~~~ w1bit 0)
  { s with hub := { s.hub with closed := (s.hub.closed ++ [(asid, off / 65536)]).eraseDups } }

/-- Word 1 of a granule whose target changes: V set, DUP and CONT clear, TGT of the new target, every other attribute as it
was (R99). -/
def newTarget (old tgt : Word) : Word :=
  (old &&& ~~~ (w1bit 3 ||| w1bit 14 ||| w1bit 19)) ||| (tgt &&& w1bit 3) ||| w1bit 0

/-- The granule's entry names a new target, OWNER's frame; a frame of this package's own that it named before is free. -/
def State.openLeaf (s : State) (asid : BitVec 12) (off : Nat) (w0 w1 : Word) : State :=
  let old := (s.leafPlace asid off).map fun e => (s.entry e.2).1
  let s := s.changeLeaf asid off fun w => (w0, newTarget w.2 w1)
  let freed : Option Nat := old.bind fun o =>
    if o.toNat / 2 ^ 52 = s.hub.pkg.toNat && o ≠ w0 then some (granuleAddr o) else none
  { s with hub := { s.hub with
      closed := s.hub.closed.filter (· ≠ (asid, off / 65536))
      frames := match freed with
        | some f => s.hub.frames.filter (· ≠ f)
        | none => s.hub.frames } }

/-- Accesses of this package to a frame, in whatever package it lies, are in flight, or M instructions have still to make
them. -/
def State.readsOf (s : State) (pkg frame : Nat) : Bool :=
  let hit (g : Seg) : Bool := !g.host && g.pkg = pkg && g.addr / 65536 = frame / 65536
  s.accesses.any (fun x => x.segs.any hit) ||
  s.cogs.toList.any fun c => c.mq.any fun e => (e.unread || writesMem e.instr) && e.segs.any hit

/-- The frame that a granule's entry names is still being read from here (R99). -/
def State.granuleBusy (s : State) (asid : BitVec 12) (off : Nat) : Bool :=
  match s.leafPlace asid off with
  | none => false
  | some (_, a) =>
    let w0 := (s.entry a).1
    s.readsOf (w0.toNat / 2 ^ 52) (granuleAddr w0)

/-! ## The collapse (R99, R100) -/

/-- The hubs of the chain image other than this one. -/
def State.otherPkgs (s : State) : List Nat := s.livePkgs.filter (· ≠ s.hub.pkg.toNat)

/-- A message to every other hub. -/
def State.tellAll (s : State) (m : HubMsg) : State := s.otherPkgs.foldl (fun s p => s.emit (.hub p m)) s

/-- A collapse is over: the fault that asked for it is answered, and every other fault held here for the granule. -/
def State.collapseOver (s : State) (r : CollapseReq) : State :=
  let g := r.goff.toNat / 65536
  let s := { s with hub := { s.hub with collapses := s.hub.collapses.filter fun c => c.req ≠ r } }
  let s := s.answerHeld fun h => heldIn r.asid g h && h.1 ≠ r.party
  if r.src = s.hub.pkg.toNat then
    let (due, s) := s.later
    s.schedule due (.faultAnswer r.party false)
  else s.emit (.hub r.src (.collapseAnswer r.party false))

/-- COLLAPSE, run by OWNER's hub, one after another: every mapper's entry of the granule becomes invalid, reads in flight
complete, every entry names OWNER's frame with DUP = 0, the fault is answered. A granule no longer duplicate needs
nothing. -/
def execCollapse (r : CollapseReq) (s : State) : Host.Outcome State Fault Refusal :=
  let off := r.goff.toNat
  let again (s : State) : State :=
    let (due, s) := s.later
    s.schedule due (.collapse r)
  match s.hub.collapses with
  | [] => .next s
  | c :: _ =>
    if c.req ≠ r then (if s.hub.collapses.any (·.req = r) then .next (again s) else .next s)
    else .next (s.hubWork (s.walkRuns r.asid off) (.collapse r) fun s =>
      if !c.opened then
        match s.leafPlace r.asid off with
        | none => s.collapseOver r
        | some (_, a) =>
          if !abit (s.entry a).2 14 then s.collapseOver r
          else
            let s := (s.closeLeaf r.asid off).tellAll (.entryUpdate r.asid r.goff 0 0)
            let others := s.otherPkgs
            again { s with hub := { s.hub with collapses := s.hub.collapses.map fun c =>
              if c.req = r then { c with opened := true, awaiting := others } else c } }
      else if !c.awaiting.isEmpty || s.granuleBusy r.asid off then again s
      else
        match s.leafPlace r.asid off with
        | none => s.collapseOver r
        | some (_, a) =>
          let (w0, w1) := s.entry a
          let n1 := newTarget w1 w1
          let s := (s.openLeaf r.asid off w0 n1).tellAll (.entryUpdate r.asid r.goff w0 n1)
          s.collapseOver r)

/-- Another package's hub changes the entry of a granule here: with V = 0 it is acknowledged when no read of the granule
is in flight, with V = 1 the faults held for it are answered. -/
def State.entryUpdate (s : State) (src : Nat) (asid : BitVec 12) (goff : BitVec 52) (w0 w1 : Word) : State :=
  let off := goff.toNat
  let again : Instr := .hubMessage src (.entryUpdate asid goff w0 w1)
  s.hubWork (s.walkRuns asid off) again fun s =>
    if abit w1 0 then (s.openLeaf asid off w0 w1).answerHeld (heldIn asid (off / 65536))
    else
      let s := if s.hub.closed.contains (asid, off / 65536) then s else s.closeLeaf asid off
      if s.granuleBusy asid off then
        let (due, s) := s.later
        s.schedule due again
      else s.emit (.hub src (.entryAck s.hub.pkg.toNat asid goff))

/-- A mapper's reads of the granule have completed. -/
def State.entryAck (s : State) (src : Nat) (asid : BitVec 12) (goff : BitVec 52) : State :=
  { s with hub := { s.hub with collapses := s.hub.collapses.map fun c =>
      if c.req.asid = asid && c.req.goff.toNat / 65536 = goff.toNat / 65536 then
        { c with awaiting := c.awaiting.filter (· ≠ src) } else c } }

/-! ## The host at device pages (R102, R390) -/

/-- The hub's own translation. -/
def hubCtx (asid : BitVec 12) : XCtx :=
  { cog := 0, wins := Vector.replicate 64 Win.reset, asid := asid, walked := none, engine := true, handler := false }

/-- What a host access to device pages meets. -/
inductive HostWay where
  /-- Its places. -/
  | go (gs : List Seg)
  /-- A page is absent, refuses the access, or lies elsewhere; a page with PSN = 1 gives its place for the record (R115). -/
  | refused (psn : Option Word)
  /-- A region in transition; a retained region, with an address in it (R113). -/
  | wait
  | retained (a : Nat)
deriving DecidableEq, Repr

/-- The places of a host access to device pages, decoded when the page is compressed (R102). -/
def State.hostSegs (s : State) (k : AKind) (asid : BitVec 12) (goff : BitVec 52) (len : Nat) : HostWay :=
  let path : Nat := match s.walk asid goff.toNat with
    | .leaf e => if e.w1.toNat / 2 ^ 15 % 4 ≠ 0 then 5 else 3
    | _ => 3
  if path = 5 && k.writes then .refused none
  else
    match s.xlate (hubCtx asid) k (BitVec.ofNat 64 (path * 2 ^ 60 + goff.toNat)) len with
    | .ok gs => if gs.all s.here then .go gs else .refused none
    | .error .stall => .wait
    | .error (.hub 0x33 _ a _ _) => .retained a.toNat
    | .error (.trap t) => .refused t.psn
    | .error _ => .refused none

/-- A host access at a global offset is performed, is refused, or is made again once its region may be active (R113).
The hub's walk reads the page table (R111); a refusal for PSN = 1 writes a record (R115). DESIGN CHOICE
(notes/assumptions/17.md): its SRC is 4, remote access; R115 names no code for the host's reads. -/
def State.hostAccess (s : State) (k : AKind) (asid : BitVec 12) (goff : BitVec 52) (len : Nat) (again : Instr)
    (refuse : State → State) (go : State → List Seg → State) : Host.Outcome State Fault Refusal :=
  let s := s.eccWalk none (goff.setWidth 64) asid goff.toNat
  let later (s : State) : State :=
    let (due, s) := s.later
    s.schedule due again
  .next (match s.hostSegs k asid goff len with
    | .go gs => go s gs
    | .refused (some loc) => refuse (s.memRecord 4 4 none loc (goff.setWidth 64) 0)
    | .refused none => refuse s
    | .wait => later s
    | .retained a => later (s.askExit a))

/-- HOST_MEMORY_READ. DESIGN CHOICE (notes/assumptions/60.md): a read that meets a poisoned line, or decodes beyond its
frame, completes with failure and the data. -/
def execHostMemoryRead (id : Nat) (asid : BitVec 12) (goff : BitVec 52) (len : Nat) (s : State) :
    Host.Outcome State Fault Refusal :=
  s.hostAccess .load asid goff len (.hostMemoryRead id asid goff len)
    (fun s => s.emit (.completion id false [])) fun s gs =>
      let (a, s) := s.serve 4 none (goff.setWidth 64) (.load gs)
      s.emit (.completion id (!a.psn && !a.lost) a.data)

/-- HOST_MEMORY_WRITE: a write that is refused is answered with Completer Abort, or reported when posted. -/
def execHostMemoryWrite (posted : Bool) (asid : BitVec 12) (goff : BitVec 52) (data : List Byte) (s : State) :
    Host.Outcome State Fault Refusal :=
  s.hostAccess .store asid goff data.length (.hostMemoryWrite posted asid goff data)
    (fun s => s.emit (if posted then .aerAbort else .completion 0 false [])) fun s gs =>
      let (_, s) := s.serve 4 none (goff.setWidth 64) (.store gs data [])
      if posted then s else s.emit (.completion 0 true [])

/-! ## Migration (R102, R103) -/

/-- The word 0 of a granule in host memory (R94). -/
def hostForm (a : Nat) : Word := BitVec.ofNat 64 (a / 65536 * 65536)

/-- A page may move: its granule is mapped, exclusive, no groupset page, and not there already. -/
def State.movable (s : State) (asid : BitVec 12) (off : Nat) (host : Option Nat) : Bool :=
  match s.leafPlace asid off with
  | none => false
  | some (_, a) =>
    let (w0, w1) := s.entry a
    abit w1 0 && !abit w1 14 && !abit w1 17 && abit w1 3 != host.isSome &&
    (abit w1 3 || w0.toNat / 2 ^ 52 = s.hub.pkg.toNat)

/-- A granule has moved: its entry names the new target, the faults held for it are answered. -/
def State.moved (s : State) (asid : BitVec 12) (g : Nat) (w0 w1 : Word) : State :=
  let s := { s with hub := { s.hub with moves := s.hub.moves.filter fun m => !(m.1 = asid && m.2.1 = g) } }
  (s.openLeaf asid (g * 65536) w0 w1).answerHeld (heldIn asid g)

/-- A granule that was to move stays where it was. -/
def State.stay (s : State) (asid : BitVec 12) (g : Nat) : State :=
  match (s.leafPlace asid (g * 65536)).map fun e => s.entry e.2 with
  | some (w0, w1) => s.moved asid g w0 w1
  | none => s

/-- The hub moves a granule between device and host memory: its entry becomes invalid, accesses in flight complete, the
raw image with its masks is copied, and the entry names the new place with its other attributes kept (R102). A host that
cannot be reached by then leaves the granule where it was (R390). DESIGN CHOICE (notes/assumptions/60.md): poison of the
granule's lines does not reach host memory, whose writes carry none. DESIGN CHOICE (notes/assumptions/17.md): SRC of a
record that the hub's read writes is 4; R115 names no code for the hub. -/
def State.migrate (s : State) (asid : BitVec 12) (goff : BitVec 52) (host : Option Nat) : State :=
  let g := goff.toNat / 65536
  let off := g * 65536
  let event : Instr := .hubMessage s.hub.pkg.toNat (.migrate asid goff host)
  let again (s : State) : State :=
    let (due, s) := s.later
    s.schedule due event
  let frame : List (Nat × Nat) := match s.leafPlace asid off, host with
    | some (_, e), some _ => [(granuleAddr (s.entry e).1, 65536)]
    | _, _ => []
  s.hubWork (s.walkRuns asid off ++ frame) event fun s =>
  if !s.hub.moves.contains (asid, g, host) then
    if s.movable asid off host && !s.hub.works asid goff && !s.rebuilding asid goff.toNat && s.hub.hostOpen then
      let s := s.closeLeaf asid off
      again { s with hub := { s.hub with moves := s.hub.moves ++ [(asid, g, host)] } }
    else s
  else if s.granuleBusy asid off then again s
  else if !s.hub.hostOpen then s.stay asid g
  else
    match (s.leafPlace asid off).map fun e => (s.entry e.2).1, host with
    | none, _ => s
    | some w0, some h =>
      let s := s.eccRead 4 none (BitVec.ofNat 64 off) (granuleAddr w0) 65536
      let s := s.emit (.pcieWrite s.nextId (h / 65536 * 65536) (s.load (granuleAddr w0) 65536))
      ({ s with nextId := s.nextId + 1 } : State).moved asid g (hostForm h) (w1bit 3)
    | some w0, none =>
      let (id, s) := s.newId
      { s with hub := { s.hub with reads := s.hub.reads ++ [(id, HostRead.page asid g)] } }.emit
        (.pcieRead id (w0.toNat / 65536 * 65536) 65536)

/-- The bytes of a granule have come from the host: they enter a free frame. Without them, or without a frame, the granule
stays where it was. -/
def State.pageRead (s : State) (asid : BitVec 12) (g : Nat) (data : List Byte) : State :=
  s.hubWork (s.walkRuns asid (g * 65536)) (.hubMessage s.hub.pkg.toNat (.pageIn asid g data)) fun s =>
  if data.isEmpty then s.stay asid g
  else
    match s.takeFrame with
    | none => s.stay asid g
    | some (f, s) => (s.store f data false).moved asid g (granuleForm s.hub.pkg.toNat f) 0

/-! ## Scrub and retention (R111, R113) -/

/-- A physical address lies in active stacked SRAM of a cog. -/
def State.scrubbed (s : State) (c : CogIx) (a : Nat) : Bool :=
  physCog a = c.val && physStk a && (s.cog c).regions[regionOf (physOff a)] = .active

/-- The first line of a cog's active stacked SRAM that holds an error: the next that a pass of the scrub changes. -/
def State.scrubLine (s : State) (c : CogIx) : Option Nat :=
  (s.ecc.find? fun e => s.scrubbed c e.addr).map fun e => e.addr / 64

/-- SCRUB: a line of the cog's active stacked SRAM is read and corrected. When no line of it has an error left the pass is
over, and the next one is due within 2^27 cycles. -/
def execScrub (c : CogIx) (line : Nat) (s : State) : Host.Outcome State Fault Refusal :=
  let s := if s.scrubbed c (line * 64) then s.eccRead 2 none 0 (line * 64) 64 else s
  if (s.scrubLine c).isSome then .next s
  else
    let (n, s) := s.draw
    .next (s.modCog c fun x => { x with scrubDue := s.clk + 1 + Config.freeDelay n % 2 ^ 27 })

/-- Bits of the codeword that holds an address go wrong. -/
def State.upset (s : State) (a bits : Nat) : State :=
  let n := if physStk a then 16 else 8
  let w := a / n * n
  let old := ((s.ecc.find? fun e => e.addr = w).map (·.bits)).getD 0
  if bits = 0 || 320 ≤ physCog a || sramSize (physStk a) ≤ physOff a then s
  else { s with ecc := s.ecc.filter (fun e => e.addr ≠ w) ++ [⟨w, old + bits⟩] }

/-- RETREQ_WRITE: by the hub. -/
def execRetreqWrite (c : CogIx) (req : BitVec 9) (s : State) : Host.Outcome State Fault Refusal :=
  .next (s.setRetreq c req)

/-- The wrong bits of the BCH codeword that holds a line of a retained region. -/
def State.bchBits (s : State) (l : Nat) : Nat := ((s.ecc.filter fun e => e.addr / 64 = l).map (·.bits)).sum

/-- A line of a region that leaves retention: up to 4 wrong bits are corrected and counted; 5 poison the line and are
recorded, unless the line is poisoned already (R115); of more it is left open whether they are found, and if they are
not, what the line holds (R113). -/
def State.bchLine (s : State) (c : CogIx) (l : Nat) : State :=
  let bits := s.bchBits l
  let s := { s with ecc := s.ecc.filter fun e => e.addr / 64 ≠ l }
  if bits ≤ 4 then s.modCog c fun x => { x with memceStk := satAdd x.memceStk bits }
  else
    let (n, s) := s.draw
    if (bits = 5 || Config.freeBool n) && s.poison.contains l then s
    else if bits = 5 || Config.freeBool n then
      let s := s.modCog c fun x => { x with memue := satAdd x.memue 1 }
      ({ s with poison := lineInsert l s.poison } : State).memRecord 3 3 none (deviceForm s.hub.pkg.toNat (l * 64)) 0
        (Config.freeNat n % 2 ^ 32)
    else { s with mem := memSets s.mem (l * 64) ((List.range 64).map (Config.freeByte n)) }

/-- A physical address lies in region k of a cog's stacked SRAM. -/
def inRegion (c : CogIx) (k : Fin 9) (a : Nat) : Bool := physCog a = c.val && physStk a && regionOf (physOff a) = k

/-- RETENTION_TRANSITION_DONE: the region in transition is retained, or active again; faults held for it are answered;
the next transition begins. -/
def execRetentionTransitionDone (c : CogIx) (s : State) : Host.Outcome State Fault Refusal :=
  let x := s.cog c
  match (List.finRange 9).find? fun k => x.regions[k] = .entering || x.regions[k] = .exiting with
  | none => .next s
  | some k =>
    if s.clk < x.retEnd then .next s
    else
      let ls := ((s.ecc.filter fun e => inRegion c k e.addr).map fun e => e.addr / 64).eraseDups
      if x.regions[k] = .entering then
        let s := ls.foldl (fun s l => s.eccRead 3 none 0 (l * 64) 64) s
        .next ((s.modCog c fun x => { x with regions := x.regions.set k .retained }).retStart c)
      else
        let s := ls.foldl (fun s l => s.bchLine c l) s
        let s := s.modCog c fun x => { x with regions := x.regions.set k .active }
        .next ((s.answerHeld fun h => h.2.2.2 = 0x33 && inRegion c k h.2.2.1.toNat).retStart c)

/-! ## Requests and responses between packages (R127, R374) -/

/-- What an operation does, for the order of accesses. -/
def gopKind : GOp → AccKind
  | .load _ | .probe _ | .gsLoad .. | .gsProbe .. | .given .. => .load
  | .atomic .. => .atomic
  | .store .. | .gsStore .. | .gsRevert .. => .store

/-- GLOBAL_REQUEST: an access on another package's behalf, performed at this package's memory and answered; it waits for a
region that is not active, and for a home that GS.LOAD has to ask. A write takes a free time, for which its words are
pending (R107). -/
def execGlobalRequest (r : GReq) (s : State) : Host.Outcome State Fault Refusal :=
  let gs := gopSegs r.op
  if gs.isEmpty || !gs.all s.here then .next s
  else
    let (id, s) := s.newId
    let now : Bool := gopKind r.op = .load
    let (due, s) := if now then (s.clk, s) else s.later
    let x : Access :=
      { id := id, bank := 0, owner := .remote r.src r.id r.ring, kind := gopKind r.op, cls := .unordered, acq := false,
        after := [], due := due, todo := [r.op], got := [], psn := false, lost := false, dst := .none, sent := false,
        epc := 0, addr := r.addr, gs := none }
    let s : State := { s with accesses := s.accesses ++ [x] }
    .next (if now then s.runOps x x.todo else s)

/-- GLOBAL_RESPONSE: the access that waits for it goes on, or has been refused. -/
def execGlobalResponse (r : GResp) (s : State) : Host.Outcome State Fault Refusal :=
  match s.accesses.find? fun x => x.id = r.id && x.sent with
  | none => .next s
  | some x => .next (if r.bad then s.accessRefused x else s.answered x ⟨r.data, r.psn, r.lost⟩)

end Sys2Proof.Machine
end

