-- ==== Sys2Proof/Machine/System.lean ====
section
/-! DEFINITION. Class Y: CSRs, the window table, the TLB and the return from a trap (R164 to R166, R252 to R256,
R328). -/

namespace Sys2Proof.Machine

/-- An instruction that only a trap handler may run is illegal elsewhere (R252). -/
def State.handlerOnly (s : State) : Except Stop Unit := check s.me.hmode (.trap { cause := 0x12, val := s.epc })

/-- TSTAT (R328); a timing event is pending while its copy is incomplete (R109). -/
def State.tstat (s : State) (i : BankIx) : Word :=
  let b := s.bank i
  BitVec.ofNat 64 (b.hmode.toNat + 2 * b.aband.toNat + 4 * (!b.pend.mcheck.isEmpty).toNat +
    8 * (!b.pend.copyErr.isEmpty).toNat + 16 * (b.pend.timing.any fun e => s.copyOpen e.2).toNat + 32 * b.pend.budget.toNat)

/-- ROT (R166). -/
def Bank.rot (b : Bank) : Word :=
  BitVec.ofNat 64 (b.rotP.toNat * 2 ^ 16 + b.rotV.toNat * 2 ^ 8 + b.rotS.toNat)

/-- The value of a CSR; the decoder lets only assigned numbers pass (R164). DESIGN CHOICE (notes/assumptions/62.md):
BUDCNT's 20 bits are the low ones of a budget counter that has passed 2^20 - 1 (R42, R166). -/
def State.readCsr (s : State) (n : BitVec 16) : Word :=
  let b := s.me
  match n.toNat with
  | 0x00 => s.bankId s.cur
  | 0x02 => b.rot
  | 0x03 => b.rstpt
  | 0x04 => BitVec.ofNat 64 (b.budcnt % 2 ^ 20)
  | 0x10 => b.arflags.setWidth 64
  | 0x11 => b.arcnt[0]
  | 0x12 => b.arcnt[1]
  | 0x13 => b.arcnt[2]
  | 0x14 => b.arcnt[3]
  | 0x15 => b.arcnt[4]
  | 0x20 => b.asidcur.setWidth 64
  | 0x21 => if b.memdbg then 1 else 0
  | 0x30 => b.tvec
  | 0x31 => b.tcause
  | 0x32 => b.tepc
  | 0x33 => b.tval
  | 0x34 => s.tstat s.cur
  | 0x35 => b.tscr0
  | 0x36 => b.tscr1
  | _ => 0

/-- CSR_RD -/
def execCsrRd (d : SReg) (n : BitVec 16) (s : State) : Host.Outcome State Fault Refusal :=
  issue (fun s => pure (s.result 1 [s.dS d (s.readCsr n)])) s

/-- CSR_WR: the write takes effect at the end of the issue cycle, field by field (R253). -/
def execCsrWr (n : BitVec 16) (a : SReg) (s : State) : Host.Outcome State Fault Refusal :=
  issue (fun s => do
    let x ← s.rdS a
    pure (s.result 1 [.csr n x])) s

/-- The status of a window entry (R254): the lowest code that applies, 0 when the entry is accepted. DESIGN CHOICE
(notes/assumptions/62.md): an OFFSET that is not 64-byte aligned (R87), for which the table names no code, gets code 4. -/
def winStatus (w : Win) : Nat :=
  let path := w.base / 2 ^ 60
  let stk : Bool := if path = 0 then false else if path = 1 then true else w.w2.getLsbD 50
  let off := w.w2.toNat % 2 ^ 25
  if path ≤ 2 && (sramSize stk < off + w.size || (path = 2 && 319 < w.w2.toNat / 2 ^ 51 % 512)) then 1
  else if w.w1.toNat / 2 ^ 25 ≠ 0 || w.w2.toNat / 2 ^ 60 ≠ 0 || w.w2.toNat / 2 ^ 25 % 2 ^ 25 ≠ 0 ||
    w.w3.toNat / 2 ^ 14 ≠ 0 || w.w3.toNat / 64 % 4 = 3 then 2
  else if 10 ≤ fmtOf w.w3 || !blkLegal (fmtOf w.w3) (blkOf w.w3) then 3
  else if w.base % 64 ≠ 0 || 2 < path || w.size % 64 ≠ 0 || w.size < 64 || 0x1200000 < w.size || off % 64 ≠ 0 then 4
  else 0

/-- The word at byte k of loaded bytes. -/
def loadedWord (bs : List Byte) (k : Nat) : Word := BitVec.ofNat 64 (natOf ((bs.drop k).take 8))

/-- WIN_LD (R254): the record is read at issue, or asked for behind an access or a snapshot that it is performed after. -/
def execWinLd (d : SReg) (entry : Fin 64) (a : SReg) (other : Bool) (s : State) :
    Host.Outcome State Fault Refusal :=
  issue (fun s => do
    s.handlerOnly
    let addr ← s.rdS a
    checkAddr s.me.hmode .load addr 32 32
    check (pathOf addr ≤ 2) (.trap { cause := 0x16, val := addr })
    let gs ← s.xlateLoad .load addr 32
    let (bs, s) ← s.readFirst addr gs
    let w : Win := ⟨loadedWord bs 0, loadedWord bs 8, loadedWord bs 16, loadedWord bs 24⟩
    let st := winStatus w
    pure (s.result 2 (s.dS d (BitVec.ofNat 64 st) :: (if st = 0 then [.win other entry w] else [])))) s

/-- A word of a window entry. -/
def Win.word (w : Win) (k : Fin 4) : Word :=
  match k with
  | 0 => w.w0
  | 1 => w.w1
  | 2 => w.w2
  | 3 => w.w3

/-- WIN_RD -/
def execWinRd (d : SReg) (entry : Fin 64) (w : Fin 4) (other : Bool) (s : State) :
    Host.Outcome State Fault Refusal :=
  issue (fun s =>
    let b := if other then s.bank s.cur.other else s.me
    pure (s.result 1 [s.dS d (b.windows[entry].word w)])) s

/-- TLB_INV (R255) -/
def execTlbInv (form : TlbInvForm) (s : State) : Host.Outcome State Fault Refusal :=
  issue (fun s => do
    s.handlerOnly
    let drop (p : TlbEntry → Bool) : State := s.modCog s.cur.cog fun c => { c with tlb := c.tlb.filter (! p ·) }
    match form with
    | .all => pure (drop fun _ => true)
    | .asid a => do
      let x ← s.rdS a
      pure (drop fun e => e.asid = x.setWidth 12)
    | .va a b => do
      let x ← s.rdS a
      let y ← s.rdS b
      pure (drop fun e => e.covers (x.setWidth 12) (y.toNat % 2 ^ 52))
    | .vaany b => do
      let y ← s.rdS b
      pure (drop fun e => e.covers e.asid (y.toNat % 2 ^ 52))) s

/-- What TLB.PROBE writes for an entry (R255). -/
def TlbEntry.probe (e : TlbEntry) : Word :=
  BitVec.ofNat 64 ((if e.bits = 16 then 1 else if e.bits = 21 then 2 else 3) * 2 ^ 32 + e.w1.toNat % 2 ^ 32)

/-- TLB_PROBE -/
def execTlbProbe (d a b : SReg) (s : State) : Host.Outcome State Fault Refusal :=
  issue (fun s => do
    let x ← s.rdS a
    let y ← s.rdS b
    pure (s.result 2 [s.dS d (((s.tlbFind s.cur.cog (x.setWidth 12) (y.toNat % 2 ^ 52)).map TlbEntry.probe).getD 0)]))
    s

/-- TRET (R256, R329) -/
def execTret (rst : Bool) (s : State) : Host.Outcome State Fault Refusal :=
  if s.me.hmode then .next { s.trapReturn s.cur rst with stop := some .taken }
  else issue (fun s => trapOf 0x12 s.epc) s

end Sys2Proof.Machine
end

