-- ==== Sys2Proof/Machine/Loader.lean ====
section
/-! DEFINITION. The chain image (R182 to R186, R342, R387): its parts as this package holds them, the checks before
activation (R43 to R48, R365, R376), signatures and digests (R387, R388), and the repetition vector (R44). -/

namespace Sys2Proof.Machine

/-! ## Bytes held -/

/-- A byte of the image, if a piece of it is held. -/
def heldByte (h : List (Nat × List Byte)) (o : Nat) : Option Byte :=
  h.findSome? fun c => if c.1 ≤ o then c.2[o - c.1]? else none

/-- n bytes from an offset; zero where none is held. -/
def heldBytes (h : List (Nat × List Byte)) (o n : Nat) : List Byte :=
  (List.range n).map fun k => (heldByte h (o + k)).getD 0

/-- All n bytes are held. -/
def heldAll (h : List (Nat × List Byte)) (o n : Nat) : Bool := (List.range n).all fun k => (heldByte h (o + k)).isSome

/-- A new piece disagrees with bytes already held (R386). -/
def heldClash (h : List (Nat × List Byte)) (o : Nat) (bs : List Byte) : Bool :=
  bs.zipIdx.any fun e => match heldByte h (o + e.2) with
    | some b => b ≠ e.1
    | none => false

/-- The number in n bytes of a run, at a position. -/
def le (bs : List Byte) (o n : Nat) : Nat := natOf ((bs.drop o).take n)

/-- Every byte of a run is zero. -/
def zeros (bs : List Byte) (o n : Nat) : Bool := ((bs.drop o).take n).all (· = 0)

/-! ## Header, directory, records (R182 to R186) -/

/-- A directory entry. -/
def sectionOf (bs : List Byte) : Section :=
  { type := le bs 0 2, pkg := le bs 2 2, cog := le bs 4 2, bank := le bs 6 1, off := le bs 8 8, len := le bs 16 8 }

/-- The directory. -/
def directory (h : List (Nat × List Byte)) : List Section :=
  let hd := heldBytes h 0 64
  (List.range (le hd 16 4)).map fun k => sectionOf (heldBytes h (le hd 24 8 + 32 * k) 32)

/-- The header and the directory are held. -/
def headHeld (h : List (Nat × List Byte)) : Bool :=
  heldAll h 0 64 && heldAll h (le (heldBytes h 0 64) 24 8) (32 * le (heldBytes h 0 64) 16 4)

/-- A section is kept by a package. -/
def Section.keptBy (x : Section) (pkg : Nat) : Bool := x.pkg = 0xFFFF || x.pkg = pkg

/-- A section's bytes. -/
def Section.bytes (x : Section) (h : List (Nat × List Byte)) : List Byte := heldBytes h x.off x.len

/-- Everything that a package keeps has arrived. -/
def keptHeld (h : List (Nat × List Byte)) (pkg : Nat) : Bool :=
  headHeld h && (directory h).all fun x => !x.keptBy pkg || heldAll h x.off x.len

/-- The records of n bytes of a run. -/
def records (n : Nat) (bs : List Byte) : List (List Byte) :=
  (List.range (bs.length / n)).map fun k => (bs.drop (n * k)).take n

/-- A port record (R184). -/
def portRecOf (r : List Byte) : PortRec :=
  { bound := natBit (le r 0 1) 0, endpoint := natBit (le r 0 1) 1, rate := le r 1 1, peerPort := le r 2 1,
    peer := BitVec.ofNat 32 (le r 4 4), ringBase := BitVec.ofNat 64 (le r 8 8), depth := le r 16 2,
    capacity := le r 18 2, init := le r 20 2 }

/-- A stage descriptor (R184). -/
def stageOf (d : List Byte) : Stage :=
  { id := BitVec.ofNat 32 (le d 0 4), pkg := le d 4 2, cog := le d 6 2, bank := le d 8 1, nin := le d 9 1,
    nout := le d 10 1, cvmask := BitVec.ofNat 8 (le d 11 1), budget := le d 12 4, entry := BitVec.ofNat 64 (le d 16 8),
    gmask := BitVec.ofNat 16 (le d 24 2),
    ports := Vector.mk ((List.range 16).map fun k => portRecOf ((d.drop (64 + 24 * k)).take 24)).toArray (by simp) }

/-- A page run (R186). -/
def runOf (r : List Byte) : PageRun :=
  { goff := BitVec.ofNat 52 (le r 0 8), attr := BitVec.ofNat 64 (le r 8 8), target := BitVec.ofNat 64 (le r 16 8),
    len := le r 24 8 }

/-- A fallback record (R342). -/
def fallbackOf (r : List Byte) : Option Fallback :=
  match le r 0 1 with
  | 1 => some (.move (le r 2 2) (BitVec.ofNat 32 (le r 4 4)) (le r 8 2) (le r 10 2) (le r 12 1))
  | 2 => some (.mirror (le r 2 2) (le r 4 2))
  | 3 => some (.run (le r 2 2) (BitVec.ofNat 64 (le r 8 8)) (BitVec.ofNat 64 (le r 16 8)) (le r 24 8))
  | 4 => some (.recoverable (le r 2 2))
  | _ => none

/-- A placement record names a place in its memory, with GRAN that of the offset (R183). -/
def placeOk (r : List Byte) : Bool :=
  let w := le r 0 8
  let off := w % 2 ^ 25
  let stk := natBit w 42
  zeros r 8 8 && w / 2 ^ 43 % 512 < 320 && w / 2 ^ 33 % 512 = off / 65536 && off < sramSize stk &&
  w / 2 ^ 25 % 2 ^ 8 = 0

/-- The sections of a type that are held. -/
def sectionsOf (h : List (Nat × List Byte)) (pkg type : Nat) : List Section :=
  (directory h).filter fun x => x.type = type && x.keptBy pkg

/-- The records of all sections of a type. -/
def allRecords (h : List (Nat × List Byte)) (pkg type n : Nat) : List (List Byte) :=
  ((sectionsOf h pkg type).map fun x => records n (x.bytes h)).flatten

/-- The stages of the image. -/
def stagesOf (h : List (Nat × List Byte)) (pkg : Nat) : List Stage :=
  ((sectionsOf h pkg 1).map fun x => (records 448 ((x.bytes h).drop 8)).map stageOf).flatten

/-- A window table (R87, R183). -/
def windowsOf (bs : List Byte) : Vector Win 64 :=
  Vector.mk ((List.range 64).map fun k =>
    let w (j : Nat) : Word := BitVec.ofNat 64 (le bs (32 * k + 8 * j) 8)
    (⟨w 0, w 1, w 2, w 3⟩ : Win)).toArray (by simp)

/-- The section of a type for a bank. -/
def bankSection (h : List (Nat × List Byte)) (type pkg cog bank : Nat) : Option Section :=
  (directory h).find? fun x => x.type = type && x.pkg = pkg && x.cog = cog && x.bank = bank

/-- The signature block's section, when there is exactly one and every package keeps it (R387). -/
def signatureOf (h : List (Nat × List Byte)) : Option Section :=
  match (directory h).filter fun x => x.type = 11 with
  | [x] => if x.pkg = 0xFFFF then some x else none
  | _ => none

/-- The program image ID (R387). -/
def imageId (h : List (Nat × List Byte)) : List Byte :=
  let hd := heldBytes h 0 64
  let dig := match signatureOf h with
    | some x => (x.bytes h).drop 3392
    | none => []
  sha512 (hd ++ heldBytes h (le hd 24 8) (32 * le hd 16 4) ++ dig)

/-- The image as this package holds it. -/
def parseImage (h : List (Nat × List Byte)) (pkg : Nat) : Image :=
  let hd := heldBytes h 0 64
  let fb := ((sectionsOf h pkg 10).map fun x => x.bytes h).flatten
  { id := imageId h, period := le hd 8 8, npkg := le hd 20 2, sections := directory h, stages := stagesOf h pkg,
    packages := (allRecords h pkg 9 8).map fun r => (le r 0 2, le r 2 2),
    groupsets := (allRecords h pkg 8 4).map fun r => (BitVec.ofNat 16 (le r 2 2), le r 0 2 % 4096),
    runs := (allRecords h pkg 7 32).map runOf,
    super := if fb.isEmpty then none else some (le fb 0 2, le fb 2 2),
    fallback := (records 32 (fb.drop 16)).filterMap fallbackOf,
    keyslot := match signatureOf h with
      | some x => le (x.bytes h) 12 4
      | none => 0
    chunks := h }

/-! ## Format (R182, R185, R342): reason 0x10 -/

/-- Two sections share bytes. -/
def sectionsClash (l : List Section) : Bool :=
  match l with
  | [] => false
  | x :: r => r.any (fun y => x.off < y.off + y.len && y.off < x.off + x.len) || sectionsClash r

/-- A reserved field of a stage descriptor is not zero. DESIGN CHOICE (notes/assumptions/34.md): DEPTH and INIT of an
output port record, to which R184 gives a meaning for inputs only, count as such, as its RINGBASE does. -/
def stageReserved (d : List Byte) : Bool :=
  !zeros d 26 38 || (List.range 16).any fun k =>
    let r := (d.drop (64 + 24 * k)).take 24
    4 ≤ le r 0 1 || !zeros r 3 1 || !zeros r 22 2 || (8 ≤ k && (le r 8 8 ≠ 0 || le r 16 2 ≠ 0 || le r 20 2 ≠ 0))

/-- A reserved field of a window entry is not zero, valid or not (R87). -/
def windowReserved (w : Win) : Bool :=
  w.w1.toNat / 2 ^ 25 ≠ 0 || w.w2.toNat / 2 ^ 60 ≠ 0 || w.w2.toNat / 2 ^ 25 % 2 ^ 25 ≠ 0 || w.w3.toNat / 2 ^ 14 ≠ 0

/-- A page run record breaks R186, or a reserved field of its leaf words is not zero (R94). -/
def runReserved (r : List Byte) : Bool :=
  let x := runOf r
  2 ^ 52 ≤ le r 0 8 || le r 0 8 % 65536 ≠ 0 || le r 24 8 % 65536 ≠ 0 ||
  x.attr.toNat / 2 ^ 32 ≠ 0 || abit x.attr 5 ||
  x.target.toNat % (if abit x.attr 3 then 2 ^ 16 else 2 ^ 33) ≠ 0

/-- A section's content breaks its layout. DESIGN CHOICE (notes/assumptions/34.md): R182 and R183 do not say so of a
section whose length is not its layout's, nor of a valid window entry that WIN.LD would refuse (R87, R254); both make
the format bad here. -/
def contentBad (bs : List Byte) (type : Nat) : Bool :=
  match type with
  | 1 => bs.length ≠ 8 + 448 * le bs 0 8 || (records 448 (bs.drop 8)).any stageReserved
  | 2 | 6 => bs.length < 16 || !placeOk bs
  | 3 => bs.length ≠ 2048 || (windowsOf bs).toList.any fun w => windowReserved w || (w.bit 0 && winStatus w ≠ 0)
  | 4 => bs.length ≠ 768 || (records 48 bs).any fun r => (iterOf r).isNone
  | 5 => bs.length ≠ 4096
  | 7 => bs.length % 32 ≠ 0 || (records 32 bs).any runReserved
  | 8 => bs.length % 4 ≠ 0 || (records 4 bs).any fun r => 4096 ≤ le r 0 2
  | 9 => bs.length % 8 ≠ 0 || (records 8 bs).any fun r => !zeros r 4 4
  | 10 => bs.length ≠ 16 + 32 * le bs 4 4 || !zeros bs 8 8 || (records 32 (bs.drop 16)).any fun r =>
      (fallbackOf r).isNone || !zeros r 1 1 || (match le r 0 1 with
        | 1 => !zeros r 13 19
        | 2 => !zeros r 6 26
        | 3 => !zeros r 4 4 || le r 24 8 % 65536 ≠ 0
        | _ => !zeros r 4 28)
  | 11 => le bs 0 4 ≠ 0x4E474953 || le bs 4 2 ≠ 1 || !zeros bs 6 2 || !zeros bs 3389 3 || 8 ≤ le bs 12 4 ||
      bs.length ≠ 3392 + 64 * le bs 8 4
  | _ => true

/-- A fallback record moves a stage into a bank that is not empty in the image (R342). -/
def targetTaken (im : Image) : Bool :=
  im.fallback.any fun f => match f with
    | .move _ _ p c b => im.stages.any fun t => t.pkg = p && t.cog = c && t.bank = b
    | _ => false

/-- The header is that of a chain image (R182): without it there is nothing more to read. -/
def magicOk (h : List (Nat × List Byte)) : Bool := le (heldBytes h 0 64) 0 4 = 0x494B4D4F && le (heldBytes h 0 64) 4 2 = 1

/-- The image breaks R182, R185 or R342 as far as this package can see; size is its length where it is known. -/
def formatBad (h : List (Nat × List Byte)) (pkg : Nat) (size : Option Nat) : Bool :=
  let hd := heldBytes h 0 64
  let dir := directory h
  !magicOk h || !zeros hd 6 2 || !zeros hd 22 2 || !zeros hd 32 32 ||
  le hd 20 2 = 0 || 4096 < le hd 20 2 ||
  (List.range (le hd 16 4)).any (fun k =>
    let e := heldBytes h (le hd 24 8 + 32 * k) 32
    !zeros e 7 1 || !zeros e 24 8) ||
  dir.any (fun x => x.type = 0 || 12 ≤ x.type) || sectionsClash dir ||
  (match size with
    | some n => dir.any fun x => n < x.off + x.len
    | none => false) ||
  dir.any (fun x => x.keptBy pkg && contentBad (x.bytes h) x.type) || targetTaken (parseImage h pkg) ||
  (match signatureOf h with
    | some x => le (x.bytes h) 8 4 ≠ dir.length
    | none => false)

/-! ## The stage graph (R44 to R48, R365) -/

/-- An edge of the graph; the producer of a start edge is none. -/
structure Edge where
  prod  : Option (BitVec 32)
  cons  : BitVec 32
  m     : Nat
  n     : Nat
  depth : Nat
  init  : Nat
  /-- Capacity of the ring, and the largest payload the producer declares. -/
  cap   : Nat
  most  : Nat
deriving DecidableEq, Repr

/-- The stage of an id. -/
def stageById (l : List Stage) (id : BitVec 32) : Option Stage := l.find? fun s => s.id = id

/-- A port record by number. -/
def Stage.port (s : Stage) (k : Nat) : PortRec := s.ports.toList.getD k PortRec.reset

/-- The edges into a stage. -/
def edgesInto (l : List Stage) (c : Stage) : List Edge :=
  (List.range 8).filterMap fun i =>
    let r := c.port i
    if !r.bound then none
    else if r.endpoint then some ⟨none, c.id, 1, r.rate, r.depth, r.init, r.capacity, 4096⟩
    else
      (stageById l r.peer).map fun p =>
        ⟨some p.id, c.id, (p.port r.peerPort).rate, r.rate, r.depth, r.init, r.capacity, (p.port r.peerPort).capacity⟩

/-- The edges of the graph. -/
def graphEdges (l : List Stage) : List Edge := (l.map (edgesInto l)).flatten

/-- A bound port and the port it names bind one another. -/
def paired (l : List Stage) (s : Stage) (k : Nat) : Bool :=
  let r := s.port k
  !r.bound || r.endpoint || (match stageById l r.peer with
    | none => false
    | some p =>
      let q := p.port r.peerPort
      r.peerPort < 16 && (if k < 8 then 8 ≤ r.peerPort else r.peerPort < 8) && q.bound && !q.endpoint &&
      q.peer = s.id && q.peerPort = k)

/-- The endpoint codes that the image's ports name. -/
def endpoints (l : List Stage) : List (Nat × Nat) :=
  (l.map fun s => (List.range 16).filterMap fun k =>
    let r := s.port k
    if r.bound && r.endpoint then some (k, r.peer.toNat) else none).flatten

/-- Code 0x01. DESIGN CHOICE (notes/assumptions/34.md): the table of R48 names no code for two stages of one STAGEID or
an endpoint of the wrong kind, which are refused with this one; an endpoint record whose PEERPORT or whose PEER bits
15:12 are not zero (R365) is accepted. -/
def code1 (l : List Stage) : Bool :=
  let es := endpoints l
  l.any (fun s => !(List.range 8).any fun k => (s.port k).bound) ||
  l.any (fun s => !(List.range 16).all (paired l s)) ||
  l.any (fun s => (l.filter fun t => t.id = s.id).length ≠ 1) ||
  es.any (fun e => e.2 / 65536 ≠ (if e.1 < 8 then 1 else 2) || e.2 % 65536 ≠ (es.headD (0, 0)).2 % 65536) ||
  (es.filter fun e => 8 ≤ e.1).length ≠ 1

/-- The depth of the ring behind an output port. -/
def outDepth (l : List Stage) (r : PortRec) : Nat :=
  if r.endpoint then 16 else ((stageById l r.peer).map fun c => (c.port r.peerPort).depth).getD 0

/-- Code 0x02. -/
def code2 (l : List Stage) : Bool :=
  l.any fun s => (List.range 16).any fun k =>
    let r := s.port k
    r.bound && (r.rate = 0 || (if k < 8 then r.depth else outDepth l r) < r.rate)

/-- One round of the balance equations from the start edges: q of a consumer from its producer's, as a fraction. -/
def spreadQ (es : List Edge) (q : List (BitVec 32 × Nat × Nat)) : List (BitVec 32 × Nat × Nat) :=
  es.foldl (fun q e =>
    if q.any fun x => x.1 = e.cons then q
    else
      match e.prod with
      | none => q ++ [(e.cons, 1, Nat.max 1 e.n)]
      | some p =>
        match q.find? fun x => x.1 = p with
        | none => q
        | some (_, a, b) =>
          let x := a * e.m
          let y := b * Nat.max 1 e.n
          let g := Nat.max 1 (Nat.gcd x y)
          q ++ [(e.cons, x / g, y / g)]) q

/-- q of every stage that a start edge reaches. -/
def graphQ (l : List Stage) : List (BitVec 32 × Nat × Nat) :=
  let es := graphEdges l
  (List.range (l.length + 1)).foldl (fun q _ => spreadQ es q) []

/-- The repetition vector (R44), if there is one. -/
def repetition (l : List Stage) : Option (List (BitVec 32 × Nat)) :=
  let q := graphQ l
  let of (id : BitVec 32) : Nat := ((q.find? fun x => x.1 = id).map fun x => x.2.1).getD 0
  if q.length = l.length && q.all (fun x => x.2.2 = 1 && 0 < x.2.1) &&
    (graphEdges l).all (fun e => match e.prod with
      | none => of e.cons * e.n = 1
      | some p => of p * e.m = of e.cons * e.n) &&
    (q.foldl (fun n x => n + x.2.1) 0) ≤ 1048576
  then some (q.map fun x => (x.1, x.2.1)) else none

/-- q of a stage in a vector. -/
def qOf (q : List (BitVec 32 × Nat)) (id : BitVec 32) : Nat := ((q.find? fun x => x.1 = id).map (·.2)).getD 0

/-- A ring's slot stride (R20). -/
def strideOf (cap : Nat) : Nat := (32 + cap + 63) / 64 * 64

/-- A RING window of a table holds a run (R20). -/
def ringWindow (ws : Vector Win 64) (a n : Nat) : Bool :=
  ws.toList.any fun w => w.bit 0 && w.bit 4 && w.base / 2 ^ 60 = 0 && w.hits a n

/-- The rings of a stage's input ports: port, base, bytes. -/
def inputRings (s : Stage) : List (Nat × Nat × Nat) :=
  (List.range 8).filterMap fun k =>
    let r := s.port k
    if r.bound then some (k, r.ringBase.toNat, r.depth * strideOf r.capacity) else none

/-- The send rings a stage needs: output port, depth, stride (R218, R365). -/
def sendNeeds (l : List Stage) (s : Stage) : List (Nat × Nat × Nat) :=
  ((List.range 16).filter (8 ≤ ·)).filterMap fun k =>
    let r := s.port k
    if !r.bound then none
    else if r.endpoint then some (k, 16, strideOf 4096)
    else
      match stageById l r.peer with
      | none => none
      | some c => if c.pkg = s.pkg then none
          else some (k, (c.port r.peerPort).depth, strideOf (c.port r.peerPort).capacity)

/-- The lowest place in a RING window above the rings already there, if the window has room. Only a window of the bank's
near SRAM holds rings (R20): the identity entries of R218 on path 0x2, RING too, name the rings of other banks. -/
def placeIn (w : Win) (used : List (Nat × Nat)) (n : Nat) : Option Nat :=
  if !(w.bit 0 && w.bit 4 && w.base / 2 ^ 60 = 0) then none
  else
    let inside := used.filter fun u => w.base ≤ u.1 && u.1 < w.base + w.size
    let a := inside.foldl (fun m u => Nat.max m ((u.1 + u.2 + 63) / 64 * 64)) w.base
    if a + n ≤ w.base + w.size then some a else none

/-- The places of a stage's send rings, in ascending port order (R218). -/
def placeSends (ws : Vector Win 64) : List (Nat × Nat × Nat) → List (Nat × Nat) → Option (List (Nat × Nat))
  | [], _ => some []
  | (k, d, st) :: r, used =>
    match ws.toList.findSome? fun w => placeIn w used (d * st) with
    | none => none
    | some a => (placeSends ws r (used ++ [(a, d * st)])).map fun l => (k, a) :: l

/-- The windows of a stage's bank in the image, where this package holds them; a stage that a recovery has moved has those
of its place in the image. -/
def stageWindows (h : List (Nat × List Byte)) (s : Stage) : Option (Vector Win 64) :=
  let o := (stageById (stagesOf h s.pkg) s.id).getD s
  (bankSection h 3 o.pkg o.cog o.bank).map fun x => windowsOf (x.bytes h)

/-- The send rings of a stage of this package. -/
def stageSends (h : List (Nat × List Byte)) (l : List Stage) (s : Stage) : Option (List (Nat × Nat)) :=
  let ws := (stageWindows h s).getD (Vector.replicate 64 Win.reset)
  placeSends ws (sendNeeds l s) ((inputRings s).map fun r => (r.2.1, r.2.2))

/-- Code 0x04; the windows of other packages' banks are checked there. -/
def code4 (h : List (Nat × List Byte)) (l : List Stage) (pkg : Nat) : Bool :=
  (graphEdges l).any (fun e => e.depth + Nat.gcd e.m e.n < e.m + e.n + e.init ||
    e.depth < e.init + Nat.max e.m e.n || e.depth = 0 || 4096 < e.depth || 4096 < e.cap || e.cap % 32 ≠ 0) ||
  l.any fun s => s.pkg = pkg &&
    ((inputRings s).any (fun r => r.2.1 % 64 ≠ 0 ||
        !ringWindow ((stageWindows h s).getD (Vector.replicate 64 Win.reset)) r.2.1 r.2.2) ||
      (stageSends h l s).isNone)

/-- The state of the symbolic check: firings by stage, tokens by edge. -/
structure Period where
  fired  : List (BitVec 32 × Nat)
  tokens : List (Edge × Nat)
deriving DecidableEq, Repr

/-- The stage can fire, with depth in place of free slots. -/
def Period.canFire (p : Period) (s : Stage) : Bool :=
  p.tokens.all fun t =>
    (t.1.cons ≠ s.id || t.1.n ≤ t.2) && (t.1.prod ≠ some s.id || t.2 + t.1.m ≤ t.1.depth)

/-- Place in the order of the check: lowest cog, then bank (R46). The rule does not order two ready stages with the same
cog id and bank in different packages: the model's choice is the lower package first (DESIGN CHOICE,
notes/assumptions/58.md). -/
def Stage.place (s : Stage) : Nat := (s.cog * 2 + s.bank) * 4096 + s.pkg

/-- Fire stages one by one; none when a stage fires more often than it may. -/
def Period.run (l : List Stage) (q : List (BitVec 32 × Nat)) (p : Period) : Nat → Option Period
  | 0 => some p
  | k + 1 =>
    let ready := (l.filter p.canFire).foldl (fun (b : Option Stage) s => match b with
      | none => some s
      | some t => if s.place < t.place then some s else b) none
    match ready with
    | none => some p
    | some s =>
      let n := qOf p.fired s.id + 1
      if qOf q s.id < n then none
      else
        Period.run l q
          { fired := p.fired.map (fun f => if f.1 = s.id then (f.1, n) else f),
            tokens := p.tokens.map fun t =>
              let a := if t.1.cons = s.id then t.2 - t.1.n else t.2
              (t.1, if t.1.prod = some s.id then a + t.1.m else a) } k

/-- Code 0x05: the symbolic period check of R46. -/
def code5 (l : List Stage) (q : List (BitVec 32 × Nat)) : Bool :=
  let start : Period :=
    { fired := l.map fun s => (s.id, 0),
      tokens := (graphEdges l).map fun e => (e, e.init + if e.prod.isNone then qOf q e.cons * e.n else 0) }
  let total := q.foldl (fun n x => n + x.2) 0
  match start.run l q (total + 1) with
  | none => true
  | some p => p.fired.any (fun f => f.2 ≠ qOf q f.1) || p.tokens.any fun t => t.2 ≠ t.1.init

/-- Code 0x06 (R18, R47). -/
def code6 (l : List Stage) (q : List (BitVec 32 × Nat)) (period : Nat) : Bool :=
  l.any fun s => s.budget < 16 || 1048575 < s.budget ||
    period < ((l.filter fun t => t.pkg = s.pkg && t.cog = s.cog).foldl
      (fun n t => n + qOf q t.id * (t.budget + 16)) 0)

/-- The code window of a table: its lowest-numbered EX window (R406). -/
def codeWindow (ws : Vector Win 64) : Option Win := ws.toList.find? fun w => w.bit 0 && w.bit 3

/-- Where a placement record points (R183). -/
def placeOf (r : List Byte) : Nat :=
  let w := le r 0 8
  physAddr (w / 2 ^ 43 % 512) (natBit w 42) (w % 2 ^ 25)

/-- A package places a code or data section that it keeps and whose record names it (R183). -/
def Section.placedBy (x : Section) (h : List (Nat × List Byte)) (pkg : Nat) : Bool :=
  (x.type = 2 || x.type = 6) && x.keptBy pkg && le (x.bytes h) 0 8 / 2 ^ 52 = pkg

/-- A section holds the code of a bank whose code window is w: one of this bank, or one that begins where the window's base
translates to (R406). -/
def Section.codeOf (x : Section) (h : List (Nat × List Byte)) (o : Stage) (w : Win) : Bool :=
  x.type = 2 && x.placedBy h o.pkg && ((x.cog = o.cog && x.bank = o.bank) || placeOf (x.bytes h) = w.target o.cog w.base)

/-- The code of a stage does not fit into its bank's code window, or its entry lies outside it (R406); a stage that a
recovery has moved is checked in its place in the image. -/
def codeOutside (h : List (Nat × List Byte)) (s : Stage) : Bool :=
  let o := (stageById (stagesOf h s.pkg) s.id).getD s
  match (stageWindows h s).bind codeWindow with
  | none => true
  | some w => !w.hits s.entry.toNat 8 || (directory h).any fun x => x.codeOf h o w && w.size + 16 < x.len

/-- Code 0x07; code and entry are checked by the package that holds the stage's windows. DESIGN CHOICE
(notes/assumptions/34.md): the table of R48 names no code for an entry that is not a multiple of 8 or a stage whose PKG
is not in the package table, which are refused with this one. -/
def code7 (h : List (Nat × List Byte)) (l : List Stage) (pkgs : List Nat) (pkg : Nat) : Bool :=
  l.any fun s => 319 < s.cog || 1 < s.bank || !pkgs.contains s.pkg ||
    (l.filter fun t => t.pkg = s.pkg && t.cog = s.cog && t.bank = s.bank).length ≠ 1 ||
    (s.pkg = pkg && (s.entry.toNat % 8 ≠ 0 || codeOutside h s))

/-- Code 0x08. -/
def code8 (l : List Stage) : Bool :=
  (graphEdges l).any (fun e => e.cap < e.most) ||
  l.any fun s => (List.range 16).any fun k =>
    let r := s.port k
    8 ≤ k && r.bound && r.endpoint && 4096 < r.capacity

/-- The codes of R48 that apply. -/
def loaderCodes (h : List (Nat × List Byte)) (im : Image) (pkg : Nat) : List Nat :=
  let l := im.stages
  let q := (repetition l).getD []
  (if code1 l then [1] else []) ++ (if code2 l then [2] else []) ++
  (if (repetition l).isNone then [3] else []) ++ (if code4 h l pkg then [4] else []) ++
  (if (repetition l).isSome && code5 l q then [5] else []) ++ (if code6 l q im.period then [6] else []) ++
  (if code7 h l (im.packages.map (·.1)) pkg then [7] else []) ++ (if code8 l then [8] else [])

/-! ## Routes, signatures, digests (R376, R387, R388) -/

/-- A package lies more than three hops from this one. -/
def State.tooFar (s : State) (pkg : Nat) : Bool :=
  match distIn (distances s.topo s.hub.pkg.toNat) pkg with
  | some d => 3 < d
  | none => true

/-- Reason 0x11, for the routes that this package uses: a package with a stage of the image, or with its sequencer, may use
every groupset home, and every seal mirror once its home has failed (R343). -/
def State.routesBad (s : State) (im : Image) : Bool :=
  let me := s.hub.pkg.toNat
  (graphEdges im.stages).any (fun e =>
    let c := ((stageById im.stages e.cons).map (·.pkg)).getD me
    match e.prod with
    | none => false
    | some p =>
      let q := ((stageById im.stages p).map (·.pkg)).getD me
      (c = me && s.tooFar q) || (q = me && s.tooFar c)) ||
  im.stages.any (fun t => t.pkg = me && (List.range 16).any fun k =>
    (t.port k).bound && (t.port k).endpoint && s.tooFar ((t.port k).peer.toNat % 4096)) ||
  ((im.stages.any fun t => t.pkg = me || (List.range 16).any fun k =>
      (t.port k).bound && (t.port k).endpoint && (t.port k).peer.toNat % 4096 = me) &&
    (im.groupsets.any (fun g => s.tooFar g.2) || im.fallback.any fun f => match f with
      | .mirror _ m => s.tooFar m
      | _ => false)) ||
  im.fallback.any fun f => match f with
    | .mirror home m => home = me && s.tooFar m
    | _ => false

/-- Both signatures over the image ID verify under the key pair of KEYSLOT. -/
def State.signed (s : State) (h : List (Nat × List Byte)) (im : Image) : Bool :=
  match signatureOf h with
  | none => false
  | some x =>
    let bs := x.bytes h
    match s.hub.keys.toList[im.keyslot]? with
    | some (.keys ed ml) =>
      Config.ed25519Verify ed im.id ((bs.drop 16).take 64) && Config.mlDsaVerify ml im.id ((bs.drop 80).take 3309)
    | _ => false

/-- A section matches its digest; the signature block's own entry is zero (R387). -/
def digestOk (h : List (Nat × List Byte)) (x : Section) (k : Nat) : Bool :=
  match signatureOf h with
  | none => false
  | some g =>
    let d := ((g.bytes h).drop (3392 + 64 * k)).take 64
    if x.type = 11 then zeros d 0 64 else sha512 (x.bytes h) = d

/-- Every section that this package keeps matches its digest. -/
def digestsOk (h : List (Nat × List Byte)) (pkg : Nat) : Bool :=
  (directory h).zipIdx.all fun e => !e.1.keptBy pkg || digestOk h e.1 e.2

/-- The reasons for which this package refuses the image it holds, 0x01 to 0x15: all that apply, so that the lowest can be
reported (R393). The checks of R43 are not made of an image that its format or a route has refused before them (R182, R376);
of a string that does not begin as a chain image only the format is known. -/
def State.imageReasons (s : State) (h : List (Nat × List Byte)) (size : Option Nat) : List Nat :=
  let me := s.hub.pkg.toNat
  let im := parseImage h me
  if !magicOk h then [0x10]
  else
    let before := (if formatBad h me size then [0x10] else []) ++ (if s.routesBad im then [0x11] else [])
    let codes := if before.isEmpty then loaderCodes h im me else []
    let block := if (signatureOf h).isNone then [0x13]
      else (if s.signed h im then [] else [0x14]) ++ (if digestsOk h me then [] else [0x15])
    before ++ codes ++ block

end Sys2Proof.Machine
end

