-- ==== Sys2Proof/Machine/Activate.lean ====
section
/-! DEFINITION. Activation of a chain image on this package: page tables (R93 to R95, R99, R135, R186), sections placed
in memory with the check vectors of their weight tiles (R74, R183), banks with their windows, shapes, carries and ports
(R18 to R22, R218), and the sequencer's edges (R365). -/

namespace Sys2Proof.Machine

/-! ## Page tables -/

/-- A frame is written zero. -/
def State.zeroFrame (s : State) (f : Nat) : State :=
  { s with mem := s.mem.filter (fun c => c.1 < f || f + 65536 ≤ c.1)
           poison := s.poison.filter fun l => l < f / 64 || f / 64 + 1024 ≤ l }

/-- The table that an entry names; a new one in a free frame when the entry is not valid. -/
def State.ensureTable (s : State) (a : Nat) : Option (Nat × State) :=
  match s.tableAt a with
  | some t => some (t, s)
  | none =>
    match s.takeFrame with
    | none => none
    | some (f, s) =>
      let (t0, t1) := tableEntry s.hub.pkg.toNat f
      some (f, (s.zeroFrame f).setEntry a t0 t1)

/-- The package has a root table. -/
def State.ensureRoot (s : State) : State :=
  if s.ptroot.getLsbD 0 then s
  else
    match s.takeFrame with
    | none => s
    | some (f, s) => { s.zeroFrame f with ptroot := granuleForm 0 f ||| 1 }

/-- Where the entry of a level (2 or 3) for an offset stands, tables made on the way. -/
def State.makeEntry (s : State) (asid : BitVec 12) (off level : Nat) : Option (Nat × State) := do
  let (t1, s) ← s.ensureTable (entryAddr (granuleAddr s.ptroot) (walkIndex asid off 0))
  let (t2, s) ← s.ensureTable (entryAddr t1 (walkIndex asid off 1))
  let e2 := entryAddr t2 (walkIndex asid off 2)
  if level = 2 then some (e2, s)
  else do
    let (t3, s) ← s.ensureTable e2
    some (entryAddr t3 (walkIndex asid off 3), s)

/-- A leaf of a run: level, offset, words. -/
structure Leaf where
  level : Nat
  off   : Nat
  w0    : Word
  w1    : Word
deriving DecidableEq, Repr

/-- The target n granules on: of host memory, or of device memory, from the end of a cog's memory to the next cog
(DESIGN CHOICE, notes/assumptions/18.md: R186 names the first granule's only). -/
def nextTarget (tgt : Bool) (w0 : Word) (n : Nat) : Word :=
  if tgt then w0 + BitVec.ofNat 64 (n * 65536)
  else
    let w := w0.toNat
    let mem := w0.getLsbD 42
    let k := w / 2 ^ 33 % 512 + n
    let size := granules mem
    BitVec.ofNat 64 (w / 2 ^ 52 * 2 ^ 52 + (w / 2 ^ 43 % 512 + k / size) * 2 ^ 43 + mem.toNat * 2 ^ 42 + k % size * 2 ^ 33)

/-- The leaves of a run of granules, of the largest kind that size and alignment allow (R95, R186). DESIGN CHOICE
(notes/assumptions/18.md): R186 gives TARGET for the first granule only; a later one lies next in the same memory, after the
end of a cog's memory in the next cog (nextTarget), after a 256 MiB leaf in the row of cogs above it, and in a run of
groupset pages every third granule on, since each takes three (R135). -/
def leavesOf (off : Nat) (w0 w1 : Word) (rem : Nat) : Nat → List Leaf
  | 0 => []
  | k + 1 =>
    let tgt := abit w1 3
    let gs := abit w1 17
    let w1 := w1 &&& ~~~ w1bit 19
    let gran := w0.toNat / 2 ^ 33 % 512
    let cog := w0.toNat / 2 ^ 43 % 512
    let big : Bool := off % 2 ^ 28 = 0 && 4096 ≤ rem && !gs &&
      (if tgt then w0.toNat % 2 ^ 28 = 0 else w0.getLsbD 42 && cog % 16 = 0 && gran ≤ 32)
    let mid : Bool := off % 2 ^ 21 = 0 && 32 ≤ rem && !gs &&
      (if tgt then w0.toNat % 2 ^ 21 = 0 else gran % 32 = 0 && gran + 31 < granules (w0.getLsbD 42))
    if rem = 0 then []
    else if big then
      let next := if tgt then nextTarget tgt w0 4096 else w0 + BitVec.ofNat 64 (16 * 2 ^ 43)
      ⟨2, off, w0, w1⟩ :: leavesOf (off + 2 ^ 28) next w1 (rem - 4096) k
    else if mid then
      ((List.range 32).map fun j => (⟨3, off + j * 65536, nextTarget tgt w0 j, w1 ||| w1bit 19⟩ : Leaf)) ++
        leavesOf (off + 2 ^ 21) (nextTarget tgt w0 32) w1 (rem - 32) k
    else ⟨3, off, w0, w1⟩ :: leavesOf (off + 65536) (nextTarget tgt w0 (if gs then 3 else 1)) w1 (rem - 1) k

/-- A groupset frame's records: slot A of every line valid and newest with epoch 0, slot B invalid (R135). -/
def State.initGroupset (s : State) (frame : Nat) : State :=
  (List.range 1024).foldl (fun s i => (s.setSlotRec frame i false 3).setSlotRec frame i true 0) s

/-- One leaf is mapped; the hub reads the entries on the way (R111). -/
def State.mapLeaf (s : State) (asid : BitVec 12) (l : Leaf) : State :=
  let s := s.eccWalk none (BitVec.ofNat 64 l.off) asid l.off
  match s.makeEntry asid l.off l.level with
  | none => s
  | some (a, s) =>
    let s := s.setEntry a l.w0 l.w1
    if abit l.w1 17 && !abit l.w1 3 && l.w0.toNat / 2 ^ 52 = s.hub.pkg.toNat then s.initGroupset (granuleAddr l.w0) else s

/-- A run of granules is mapped. -/
def State.mapRun (s : State) (asid : BitVec 12) (off : Nat) (w0 w1 : Word) (n : Nat) : State :=
  (leavesOf off w0 w1 n n).foldl (fun s l => s.mapLeaf asid l) s

/-- The package of a run's first granule. -/
def PageRun.pkg (r : PageRun) : Nat := r.target.toNat / 2 ^ 52

/-- The leaves of a run. -/
def PageRun.leaves (r : PageRun) : List Leaf := leavesOf r.goff.toNat r.target r.attr (r.len / 65536) (r.len / 65536)

/-- The records that this package maps: of a read-duplicate run its own copy, or else OWNER's (R186). -/
def ownRuns (rs : List PageRun) (me : Nat) : List PageRun :=
  rs.filter fun r =>
    !abit r.attr 14 || abit r.attr 3 || r.pkg = me ||
    (r.pkg = r.attr.toNat / 2 ^ 20 % 4096 && !rs.any fun q => q.goff = r.goff && q.pkg = me)

/-- Frames of this package that a run of granules uses. -/
def runFrames (me : Nat) (r : PageRun) : List Nat :=
  (r.leaves.map fun l =>
    if abit l.w1 3 || l.w0.toNat / 2 ^ 52 ≠ me then []
    else if l.level = 2 then (splitBig l.w0 l.w1).map fun e => granuleAddr e.1
    else
      let f := granuleAddr l.w0
      if abit l.w1 17 then [f, f + 65536, f + 131072] else [f]).flatten

/-- Frames of stacked SRAM that a window reaches. -/
def windowFrames (cog : Nat) (w : Win) : List Nat :=
  if !w.bit 0 then []
  else
    let a := w.target cog w.base
    (List.range ((w.size + a % 65536 + 65535) / 65536)).map fun k => a / 65536 * 65536 + k * 65536

/-- Frames that a placed section covers. -/
def placedFrames (bs : List Byte) : List Nat :=
  let a := placeOf bs
  let n := bs.length - 16
  (List.range ((n + a % 65536 + 65535) / 65536)).map fun k => a / 65536 * 65536 + k * 65536

/-- The frames that the image uses on this package. -/
def imageFrames (im : Image) (me : Nat) : List Nat :=
  let h := im.chunks
  (((directory h).filter fun x => x.placedBy h me).map fun x => placedFrames (x.bytes h)).flatten ++
  ((ownRuns im.runs me).map (runFrames me)).flatten ++
  ((im.stages.filter fun t => t.pkg = me).map fun t =>
    ((stageWindows h t).map fun ws => (ws.toList.map (windowFrames t.cog)).flatten).getD []).flatten

/-! ## Banks -/

/-- The package-wide bank number of a stage. -/
def Stage.bankNo (s : Stage) : Nat := s.cog * 2 + s.bank

/-- The bytes of a bank's section, empty when there is none. -/
def bankBytes (h : List (Nat × List Byte)) (type pkg cog bank : Nat) : List Byte :=
  ((bankSection h type pkg cog bank).map fun x => x.bytes h).getD []

/-- The other end of a port. -/
def peerOf (l : List Stage) (k : Nat) (r : PortRec) : Peer :=
  if !r.bound then .none
  else if r.endpoint then .seqr (r.peer.toNat % 4096) (8 ≤ k)
  else
    match stageById l r.peer with
    | none => .none
    | some t => .stage t.pkg t.bankNo ⟨r.peerPort % 8, Nat.mod_lt _ (by omega)⟩ t.id

/-- The path 0x2 address of a near location of this package. -/
def nearAddr (cog off : Nat) : Word := BitVec.ofNat 64 (2 * 2 ^ 60 + cog * 2 ^ 51 + off)

/-- The ring base of a consumer's port as its producers in the package address it (R218). -/
def consumerRing (h : List (Nat × List Byte)) (c : Stage) (port : Nat) : Word :=
  let r := c.port port
  match (stageWindows h c).bind fun ws => winFind ws r.ringBase.toNat (r.depth * strideOf r.capacity) with
  | none => 0
  | some w => nearAddr c.cog (physOff (w.target c.cog r.ringBase.toNat))

/-- A port at activation (R21, R22). -/
def portAt (h : List (Nat × List Byte)) (l : List Stage) (s : Stage) (k : Nat) : PortState :=
  let r := s.port k
  let base := { PortState.reset with peer := peerOf l k r, rate := r.rate }
  if !r.bound then PortState.reset
  else if k < 8 then
    { base with depth := r.depth, stride := strideOf r.capacity, capacity := r.capacity, ring := r.ringBase,
                cum := BitVec.ofNat 16 r.init }
  else
    let sends := (stageSends h l s).getD []
    let send : Word := BitVec.ofNat 64 (((sends.find? fun e => e.1 = k).map (·.2)).getD 0)
    if r.endpoint then { base with depth := 16, stride := strideOf 4096, capacity := 4096, ring := send }
    else
      match stageById l r.peer with
      | none => base
      | some c =>
        let q := c.port r.peerPort
        { base with depth := q.depth, stride := strideOf q.capacity, capacity := q.capacity,
                    ring := if c.pkg = s.pkg then consumerRing h c r.peerPort else send,
                    cum := BitVec.ofNat 16 q.init, slot := q.init % Nat.max 1 q.depth }

/-- A bank at activation (R19): the stage st in its place in the image, its windows, shapes and initial carries taken
from the sections of the bank that src names. -/
def Bank.activate (old : Bank) (h : List (Nat × List Byte)) (l : List Stage) (st src : Stage) : Bank :=
  let shapes := bankBytes h 4 src.pkg src.cog src.bank
  let carries := bankBytes h 5 src.pkg src.cog src.bank
  let g := Vector.mk ((List.range 16).map fun k =>
    if st.gmask.getLsbD k then (iterOf ((shapes.drop (48 * k)).take 48)).getD Iter.reset
    else Iter.reset).toArray (by simp)
  let cv := Vector.mk ((List.range 8).map fun k =>
    if st.cvmask.getLsbD k then BitVec.ofNat 4096 (natOf ((carries.drop (512 * k)).take 512)) else (0 : Vec)).toArray
      (by simp)
  { Bank.reset with
    active := true, stage := st, pc := st.entry, rstpt := st.entry, g := g, cv := cv, cvWork := cv,
    windows := ((bankSection h 3 src.pkg src.cog src.bank).map fun x => windowsOf (x.bytes h)).getD
      (Vector.replicate 64 Win.reset),
    ports := Vector.mk ((List.range 16).map fun k => portAt h l st k).toArray (by simp),
    iter := old.iter + 1 }

/-- A stage of this package is activated in its bank, and its returns are sent (R379). -/
def State.activateStage (s : State) (im : Image) (st src : Stage) : State :=
  match bank? st.bankNo with
  | none => s
  | some b =>
    let s := s.modBank b fun x => x.activate im.chunks im.stages st src
    (List.finRange 8).foldl (fun s p =>
      if ((s.bank b).ports[(⟨p.val, by omega⟩ : Fin 16)]).bound then s.wantReturn b p else s) s

/-! ## Sections in memory (R74, R97, R183) -/

/-- Memory that holds weight tiles of an 8-bit form, by a window or a page: first byte, length, form, and whether its frames
are packed (R101). -/
structure TileRun where
  addr   : Nat
  len    : Nat
  form   : EType
  packed : Bool
deriving DecidableEq, Repr

/-- The 8-bit form that an attribute word gives weight tiles (R97). DESIGN CHOICE (notes/assumptions/34.md): the loader
computes no check vector of an MXFP4 tile (R74): R97 gives an MX granule no place for one, and MWLOAD.MXF4 takes it from
where its operand says (R296), so that the image holds it as data. -/
def tileForm (w : Word) : Option EType :=
  if blkOf w = 2 then (EType.ofCode? (fmtOf w)).filter fun t => t = .fp8e4 || t = .fp8e5 || t = .int8 else none

/-- The memory of this package that holds weight tiles: windows of its stages, and its own frames of page runs. -/
def tileRuns (im : Image) (me : Nat) : List TileRun :=
  ((im.stages.filter fun t => t.pkg = me).map fun t =>
    (((stageWindows im.chunks t).map (·.toList)).getD []).filterMap fun w =>
      if w.bit 0 then (tileForm w.w3).map fun f => ⟨w.target t.cog w.base, w.size, f, false⟩ else none).flatten ++
  ((ownRuns im.runs me).map fun r =>
    (runFrames me r).filterMap fun a => (tileForm r.attr).map fun f => ⟨a, 65536, f, cmpOf r.attr ≠ 0⟩).flatten

/-- The check vector of the tile of n-th place in a granule's bytes, from its 128 rows of 128 bytes (R74). -/
def checkVector (form : EType) (d : List Byte) (n : Nat) : List Byte :=
  ((List.range 128).map fun k =>
    bytesOf 8 (checkOf form (((d.drop (0x4000 * n + 128 * k)).take 128).map (·.toNat))).toNat).flatten

/-- The packed form of a granule's bytes: the mask of each line, then the bytes that are not zero; none where they do not fit
in a frame (R101). -/
def packGranule (d : List Byte) : Option (List Byte) :=
  let full := d.filter (· ≠ 0)
  let mask (j : Nat) : Nat :=
    ((d.drop (64 * j)).take 64).zipIdx.foldl (fun m e => m + if e.1 ≠ 0 then 2 ^ e.2 else 0) 0
  if 57344 < full.length then none else some (((List.range 1024).map fun j => bytesOf 8 (mask j)).flatten ++ full)

/-- The check vector of the tile of n-th place in a granule is computed and stored; of a packed one in its decoded
bytes, which are packed again (R74, R101). DESIGN CHOICE (notes/assumptions/34.md): a packed granule whose bytes with
the vector do not fit in its frame stays as it is. -/
def State.checkTile (s : State) (r : TileRun) (granule n : Nat) : State :=
  let at_ := 0xC000 + 0x400 * n
  let s := if r.packed then s.eccRead 4 none 0 granule 65536 else s.eccRead 4 none 0 (granule + 0x4000 * n) 0x4000
  if !r.packed then s.store (granule + at_) (checkVector r.form (s.load granule 65536) n) false
  else
    match (unpackRun s.load granule 0 65536).mapM id with
    | none => s
    | some d =>
      match packGranule (d.take at_ ++ checkVector r.form d n ++ d.drop (at_ + 0x400)) with
      | none => s
      | some bs => s.store granule bs false

/-- A run holds a whole tile of a granule and its check vector. -/
def TileRun.tile (r : TileRun) (granule n : Nat) : Bool :=
  r.addr ≤ granule + 0x4000 * n && granule + 0xC400 + 0x400 * n ≤ r.addr + r.len

/-- Placed bytes belong to a tile: to its rows, or to the packed frame that holds it. -/
def TileRun.touched (r : TileRun) (granule n : Nat) (p : Nat × Nat) : Bool :=
  if r.packed then p.1 < granule + 65536 && granule < p.1 + p.2
  else p.1 < granule + 0x4000 * (n + 1) && granule + 0x4000 * n < p.1 + p.2

/-- Once data is placed at runs of memory, the loader computes the check vectors of the weight tiles it belongs to. -/
def State.checkVectors (s : State) (tiles : List TileRun) (placed : List (Nat × Nat)) : State :=
  let granules := ((placed.map fun p => (List.range ((p.2 + p.1 % 65536 + 65535) / 65536)).map fun k =>
    p.1 / 65536 * 65536 + k * 65536).flatten).eraseDups
  granules.foldl (fun s g => (List.range 3).foldl (fun s n =>
    match tiles.find? fun r => r.tile g n with
    | some r => if placed.any (r.touched g n) then s.checkTile r g n else s
    | none => s) s) s

/-- Sections go to memory: first all their bytes, then the check vectors of the data among them (whether a section is data,
with its place and bytes). -/
def State.putSections (s : State) (tiles : List TileRun) (l : List (Bool × Nat × List Byte)) : State :=
  (l.foldl (fun s e => s.store e.2.1 e.2.2 false) s).checkVectors tiles
    ((l.filter (·.1)).map fun e => (e.2.1, e.2.2.length))

/-- The code and data of this package. -/
def State.placeSections (s : State) (im : Image) : State :=
  let h := im.chunks
  let me := s.hub.pkg.toNat
  s.putSections (tileRuns im me) (((directory h).filter fun x => x.placedBy h me).map fun x =>
    (x.type = 6, placeOf (x.bytes h), (x.bytes h).drop 16))

/-! ## The sequencer's edges (R365) -/

/-- The package whose sequencer serves the chain. -/
def Image.serving (im : Image) : Option Nat := (endpoints im.stages).head?.map fun e => e.2 % 4096

/-- The edges that the sequencer of the serving package ends. -/
def seqEdges (l : List Stage) : List SeqEdge :=
  (l.map fun t => (List.range 16).filterMap fun k =>
    let r := t.port k
    if r.bound && r.endpoint then
      some { bank := t.bankNo, pkg := t.pkg, port := ⟨k % 8, Nat.mod_lt _ (by omega)⟩, stage := t.id, done := 8 ≤ k,
             depth := if k < 8 then r.depth else 16, cum := BitVec.ofNat 16 (if k < 8 then r.init else 0), freed := 0,
             slot := if k < 8 then r.init % Nat.max 1 r.depth else 0, packets := [], discard := 0, retDue := 0 }
    else none).flatten

/-- The image's supervisor, or its deputy while the supervisor has failed; without the section the serving package
(R342). -/
def State.supervisor (s : State) : Nat :=
  match s.image with
  | none => s.hub.pkg.toNat
  | some im =>
    match im.super with
    | some (a, b) => if s.hub.failedPkgs.contains a then b else a
    | none => im.serving.getD s.hub.pkg.toNat

/-! ## The history arena (R353) -/

/-- The granules of the history arena. -/
def FdConf.histGranules (c : FdConf) : Nat := (c.gsize * c.ngroup * c.maxpos * 4 + 65535) / 65536

/-- The k-th granule of the history arena, in the device form. -/
def FdConf.histGranule (c : FdConf) (k : Nat) : Word := nextTarget false c.hist k

/-- The physical address of a byte of the history arena. -/
def FdConf.histAddr (c : FdConf) (n : Nat) : Nat := granuleAddr (c.histGranule (n / 65536)) + n % 65536

/-- The frames of the history arena. -/
def FdConf.frames (c : FdConf) : List Nat := (List.range c.histGranules).map fun k => granuleAddr (c.histGranule k)

/-! ## The whole image -/

/-- An event of the chain that an image replaced must not see. -/
def chainEvent : Instr → Bool
  | .streamPacket _ | .freeSlotReturn .. | .periodicReturn .. | .donePacket .. | .gsAnswer _ | .gsHomeOpen _
  | .gsHomeSeal _ | .gsHomeAbort _ | .gsHomeSnap _ | .gsHomeStat _ | .gsRevert .. | .mwloadDone .. | .faultAnswer ..
  | .collapse _ | .hubMessage _ (.history ..) => true
  | _ => false

/-- A cog at activation: nothing held, nothing queued; errors, retention and failure stay. -/
def Cog.activate (c : Cog) : Cog :=
  { c with tlb := [], mq := [], mLoads := [], wbuf := Vector.replicate 2 WBuf.reset, wswap := false, holder := none,
           lastHolder := none, passed := none }

/-- The package runs an image: everything of the one before is gone. -/
def State.runImage (s : State) (im : Image) : State :=
  let me := s.hub.pkg.toNat
  let s := { s with
    banks := vmap (fun (b : Bank) => { Bank.reset with iter := b.iter }) s.banks
    cogs := vmap Cog.activate s.cogs
    accesses := [], copies := [], gsreqs := [], homes := [], wlists := [], ptroot := 0, image := some im,
    agenda := s.agenda.filter fun e => !chainEvent e.2
    hub := { s.hub with frames := (imageFrames im me ++ (s.fd.conf.map FdConf.frames).getD []).eraseDups,
                        arenas := [], asids := [], arenaWait := none, held := [], collapses := [], moves := [], closed := [],
                        failedPkgs := [], recov := [], edgeMsgs := [], recovWait := [], mirrors := [], mirrorWait := [],
                        polls := [], fw := .running, fwReady := [], ctx := [] }
    fd := { s.fd with edges := if im.serving = some me then seqEdges im.stages else [], nextStep := 0, recovB := 0,
                      steps := [], lastPrefill := [], stopFreewheel := false, stopError := false,
                      stopRecovery := false } }
  let s := (s.placeSections im).ensureRoot
  let s := (ownRuns im.runs me).foldl (fun s r => s.mapRun 0 r.goff.toNat r.target r.attr (r.len / 65536)) s
  (im.stages.filter fun t => t.pkg = me).foldl (fun s t => s.activateStage im t t) s

end Sys2Proof.Machine
end

