-- ==== Sys2Proof/Machine/Text.lean ====
section
/-! DEFINITION. Text in the front door: UTF-8, the vocabulary image (R354, R355), the tokenizer (R356), reply records
(R350) and the detokenizer (R366). -/

namespace Sys2Proof.Machine

/-! ## UTF-8 -/

/-- The length of the sequence that a byte begins; 0 when it begins none. -/
def utf8Len (b : Byte) : Nat :=
  let n := b.toNat
  if n < 0x80 then 1 else if n < 0xC2 then 0 else if n < 0xE0 then 2 else if n < 0xF0 then 3
  else if n < 0xF5 then 4 else 0

/-- A byte begins or continues a valid sequence after the bytes held. -/
def utf8Step (hold : List Byte) (b : Byte) : Bool :=
  let n := b.toNat
  match hold with
  | [] => utf8Len b ≠ 0
  | [h] =>
    let lo := if h.toNat = 0xE0 then 0xA0 else if h.toNat = 0xF0 then 0x90 else 0x80
    let hi := if h.toNat = 0xED then 0x9F else if h.toNat = 0xF4 then 0x8F else 0xBF
    lo ≤ n && n ≤ hi
  | _ => 0x80 ≤ n && n ≤ 0xBF

/-- The bytes held are a whole sequence. -/
def utf8Whole (hold : List Byte) : Bool :=
  match hold with
  | [] => false
  | h :: _ => hold.length = utf8Len h

/-- The bytes are valid UTF-8, after those held. -/
def utf8Valid (hold : List Byte) : List Byte → Bool
  | [] => hold.isEmpty
  | b :: r =>
    utf8Step hold b && (if utf8Whole (hold ++ [b]) then utf8Valid [] r else utf8Valid (hold ++ [b]) r)

/-! ## The vocabulary image (R354, R355) -/

/-- The token table as stored: string, special, hidden; with whether every entry is sound. -/
def tokenTable (bs : List Byte) (off n : Nat) : List (List Byte × Bool × Bool) × Bool :=
  let es := (List.range n).map fun k => (bs.drop (off + 8 * k)).take 8
  (es.map fun e => ((bs.drop (le e 0 4)).take (le e 4 1), natBit (le e 5 1) 0, natBit (le e 5 1) 1),
   es.all fun e => 1 ≤ le e 4 1 && le e 0 4 + le e 4 1 ≤ bs.length && le e 5 1 < 4 && zeros e 6 2)

/-- Two entries of a list are equal. -/
def repeats {α : Type} [DecidableEq α] : List α → Bool
  | [] => false
  | x :: r => r.contains x || repeats r

/-- The string of a token. -/
def tokenStr (t : List (List Byte × Bool × Bool)) (id : Nat) : List Byte := ((t[id]?).map (·.1)).getD []

/-- A token has the special bit. -/
def tokenSpecial (t : List (List Byte × Bool × Bool)) (id : Nat) : Bool := ((t[id]?).map (·.2.1)).getD false

/-- The vocabulary of an image, none when R355 refuses it. DESIGN CHOICE (notes/assumptions/39.md): the special tokens
of which no two may have equal strings are all those with the special bit, named by the special table or not. -/
def vocabOf (bs : List Byte) : Option Vocab :=
  let ntok := le bs 8 4
  let nmerge := le bs 12 4
  let nspec := le bs 16 4
  let neos := le bs 20 4
  let table (off n : Nat) : Bool := off + n ≤ bs.length
  let sound : Bool := 64 ≤ bs.length && bs.length ≤ 2 ^ 26 && le bs 0 4 = 0x42434F56 && le bs 4 2 = 1 &&
    zeros bs 6 2 && 256 ≤ ntok && ntok ≤ 262144 && nmerge ≤ 262143 && nspec ≤ 1024 && neos ≤ 4 &&
    le bs 60 4 = bs.length && zeros bs (24 + 4 * neos) (16 - 4 * neos) && table (le bs 40 4) (8 * ntok) &&
    table (le bs 44 4) (12 * nmerge) && table (le bs 48 4) (4 * nspec) && table (le bs 52 4) 256 &&
    table (le bs 56 4) 1024
  if !sound then none
  else
    let (toks, ok) := tokenTable bs (le bs 40 4) ntok
    let merges := (List.range nmerge).map fun k =>
      let o := le bs 44 4 + 12 * k
      (le bs o 4, le bs (o + 4) 4, le bs (o + 8) 4)
    let special := (List.range nspec).map fun k => le bs (le bs 48 4 + 4 * k) 4
    let eos := (List.range neos).map fun k => le bs (24 + 4 * k) 4
    let classes := (bs.drop (le bs 52 4)).take 256
    let bytes := (List.range 256).map fun k => le bs (le bs 56 4 + 4 * k) 4
    let ids : Bool := merges.all (fun m => m.1 < ntok && m.2.1 < ntok && m.2.2 < ntok) && special.all (· < ntok) &&
      eos.all (· < ntok) && bytes.all (· < ntok)
    if ok && ids && classes.all (·.toNat < 64) &&
      merges.all (fun m => tokenStr toks m.2.2 = tokenStr toks m.1 ++ tokenStr toks m.2.1) &&
      !repeats (merges.map fun m => (m.1, m.2.1)) &&
      bytes.zipIdx.all (fun e => tokenStr toks e.1 = [BitVec.ofNat 8 e.2]) &&
      (special ++ eos).all (tokenSpecial toks) &&
      !repeats ((toks.filter (·.2.1)).map (·.1))
    then some { tokens := toks, merges := merges, special := special, eos := eos, classes := classes, bytes := bytes }
    else none

/-! ## The tokenizer (R356) -/

/-- A token already chosen, or a run of ordinary bytes. -/
inductive Piece where
  | tok (id : Nat)
  | run (bs : List Byte)
deriving DecidableEq, Repr

/-- The longest special token whose string begins the text. DESIGN CHOICE (notes/assumptions/39.md): the special tokens
that the prompt is searched for are those of the special table. -/
def Vocab.specialAt (v : Vocab) (bs : List Byte) : Option (Nat × Nat) :=
  v.special.foldl (fun best id =>
    let w := tokenStr v.tokens id
    if w.isPrefixOf bs && (match best with
        | some b => b.2 < w.length
        | none => true) then some (id, w.length) else best) none

/-- Stage 1: specials, and the runs between them; fuel is the text's length. -/
def Vocab.specials (v : Vocab) (run : List Byte) (bs : List Byte) : Nat → List Piece
  | 0 => if run.isEmpty then [] else [.run run]
  | n + 1 =>
    match bs with
    | [] => if run.isEmpty then [] else [.run run]
    | b :: r =>
      match v.specialAt bs with
      | some (id, k) => (if run.isEmpty then [] else [Piece.run run]) ++ .tok id :: v.specials [] (bs.drop k) n
      | none => v.specials (run ++ [b]) r n

/-- The class byte of a byte. -/
def Vocab.classOf (v : Vocab) (b : Byte) : Nat := ((v.classes[b.toNat]?).map (·.toNat)).getD 0

/-- A chunk boundary lies between two bytes. -/
def Vocab.boundary (v : Vocab) (x y : Byte) : Bool :=
  natBit (v.classOf x) 5 || natBit (v.classOf y) 5 ||
  (v.classOf x % 16 ≠ v.classOf y % 16 && !natBit (v.classOf x) 4)

/-- Stage 2: a run's chunks. -/
def Vocab.chunks (v : Vocab) (chunk : List Byte) : List Byte → List (List Byte)
  | [] => if chunk.isEmpty then [] else [chunk]
  | b :: r =>
    match chunk.getLast? with
    | none => v.chunks [b] r
    | some x =>
      if v.boundary x b || chunk.length = 4096 then chunk :: v.chunks [b] r else v.chunks (chunk ++ [b]) r

/-- The rank and result of the merge of two tokens. -/
def Vocab.rank (v : Vocab) (a b : Nat) : Option (Nat × Nat) :=
  (v.merges.zipIdx.find? fun e => e.1.1 = a && e.1.2.1 = b).map fun e => (e.2, e.1.2.2)

/-- The merge of lowest rank in a sequence, leftmost on ties: rank, place, result. -/
def Vocab.best (v : Vocab) : List Nat → Nat → Option (Nat × Nat × Nat)
  | a :: b :: r, k =>
    let later := v.best (b :: r) (k + 1)
    match v.rank a b with
    | none => later
    | some (q, res) =>
      match later with
      | some m => if m.1 < q then later else some (q, k, res)
      | none => some (q, k, res)
  | _, _ => none

/-- Stage 3: merge until no pair merges; fuel is the chunk's length. -/
def Vocab.mergeAll (v : Vocab) (l : List Nat) : Nat → List Nat
  | 0 => l
  | n + 1 =>
    match v.best l 0 with
    | none => l
    | some (_, k, res) => v.mergeAll (l.take k ++ res :: l.drop (k + 2)) n

/-- The token of a byte. -/
def Vocab.byteToken (v : Vocab) (b : Byte) : Nat := (v.bytes[b.toNat]?).getD 0

/-- The tokens of a prompt. -/
def Vocab.tokenize (v : Vocab) (bs : List Byte) : List Nat :=
  ((v.specials [] bs bs.length).map fun p => match p with
    | .tok id => [id]
    | .run r => ((v.chunks [] r).map fun c => v.mergeAll (c.map v.byteToken) c.length).flatten).flatten

/-! ## Reply records (R350) -/

/-- A reply record; reason is none unless it is the last one. -/
def replyBytes (reqid : Word) (reason : Option Nat) (off count detail : Nat) (text : List Byte) : List Byte :=
  [0x81, if reason.isSome then 1 else 0, BitVec.ofNat 8 (reason.getD 0), 0] ++ bytesOf 2 text.length ++ [0, 0] ++
  bytesOf 8 reqid.toNat ++ bytesOf 8 off ++ bytesOf 4 count ++ bytesOf 4 detail ++ text

/-- A request is answered without text: rejected, or ended before any token (R352, R367). -/
def State.refuse (s : State) (conn : Nat) (reqid : Word) (reason detail : Nat) : State :=
  s.emit (.reply conn (replyBytes reqid (some reason) 0 0 detail []))

/-! ## The detokenizer (R366) -/

/-- A sequence's detokenizer at work, with the records it has sent. -/
abbrev Detok := Sequence × List (List Byte)

/-- The text released so far leaves as a record. -/
def Detok.send (d : Detok) (reason : Option Nat) : Detok :=
  let q := d.1
  ({ q with offset := q.offset + q.released.length, released := [] },
   d.2 ++ [replyBytes q.req.reqid reason q.offset q.count 0 q.released])

/-- Bytes are released; 256 of them leave at once. -/
def Detok.release (d : Detok) (bs : List Byte) : Detok :=
  bs.foldl (fun d b =>
    let d : Detok := ({ d.1 with released := d.1.released ++ [b] }, d.2)
    if d.1.released.length = 256 then d.send none else d) d

/-- The longest suffix of a window that is a proper prefix of a stop string. -/
def stopTail (stops : List (List Byte)) (w : List Byte) : Nat :=
  (List.range (w.length + 1)).foldl (fun n k =>
    if stops.any fun t => k < t.length && (t.take k).isSuffixOf w then k else n) 0

/-- One byte passes the stop window. -/
def Detok.stop (d : Detok) (b : Byte) : Detok :=
  let q := d.1
  if q.cut then d
  else
    let w := q.window ++ [b]
    let hit := (q.req.stops.filter fun t => t.isSuffixOf w).foldl (fun n t => Nat.max n t.length) 0
    if 0 < hit then ({ q with window := w.take (w.length - hit), cut := true }, d.2)
    else
      let k := w.length - stopTail q.req.stops w
      Detok.release ({ q with window := w.drop k }, d.2) (w.take k)

/-- The replacement character. -/
def Detok.broken (d : Detok) : Detok := [0xEF, 0xBF, 0xBD].foldl (fun d b => Detok.stop d (BitVec.ofNat 8 b)) d

/-- A byte begins a sequence, or is replaced. -/
def Detok.begin (d : Detok) (b : Byte) : Detok :=
  if utf8Step [] b then
    if utf8Whole [b] then d.stop b else ({ d.1 with hold := [b] }, d.2)
  else d.broken

/-- One byte passes the UTF-8 hold. -/
def Detok.utf8 (d : Detok) (b : Byte) : Detok :=
  let h := d.1.hold
  if h.isEmpty then d.begin b
  else if utf8Step h b then
    if utf8Whole (h ++ [b]) then (h ++ [b]).foldl (fun d b => Detok.stop d b) (({ d.1 with hold := [] }, d.2) : Detok)
    else ({ d.1 with hold := h ++ [b] }, d.2)
  else Detok.begin (Detok.broken ({ d.1 with hold := [] }, d.2)) b

/-- The sequence ends with a reason. -/
def Detok.finish (d : Detok) (r : Nat) : Detok :=
  let d := if r ≠ 1 ∧ !d.1.hold.isEmpty then Detok.broken ({ d.1 with hold := [] }, d.2) else d
  let w := d.1.window
  let d := Detok.release ({ d.1 with window := [] }, d.2) w
  let d := d.send (some r)
  ({ d.1 with done := true }, d.2)

/-- One accepted token; at is the position of the next one. -/
def Detok.token (d : Detok) (v : Vocab) (maxpos at_ t : Nat) : Detok :=
  if d.1.done then d
  else
    let d : Detok := ({ d.1 with count := d.1.count + 1 }, d.2)
    if v.eos.contains t then d.finish 3
    else
      let e := (v.tokens[t]?).getD ([], false, false)
      let d := if e.2.2 then d else e.1.foldl (fun d b => Detok.utf8 d b) d
      if d.1.cut then d.finish 1
      else if d.1.count = d.1.req.maxtok then d.finish 2
      else if at_ = maxpos then d.finish 4
      else if d.1.released.isEmpty then d
      else d.send none

/-- The accepted tokens of a step, the first of which stands at position pos. -/
def Detok.tokens (d : Detok) (v : Vocab) (maxpos pos : Nat) : List Nat → Detok
  | [] => d
  | t :: r => Detok.tokens (d.token v maxpos (pos + 1) t) v maxpos (pos + 1) r

end Sys2Proof.Machine
end

