-- ==== Sys2Proof/Machine/FrontDoor.lean ====
section
/-! DEFINITION. The front door: request and cancel records (R349, R352, R366), admission with its arenas (R357, R392),
the loop sequencer's steps (R322, R358 to R364), done packets and the answers of homes (R361 to R363, R367). -/

namespace Sys2Proof.Machine

/-! ## Arenas (R357, R392) -/

/-- n granules in a row of one cog's stacked SRAM that nothing uses. -/
def State.takeRun (s : State) (n : Nat) : Option (Nat × State) :=
  let fits (a : Nat) : Bool := physOff a / 65536 + n ≤ 288 &&
    (List.range n).all fun j => !s.hub.frames.contains (a + j * 65536)
  match s.findPlace fits with
  | (none, _) => none
  | (some a, s) =>
    some (a, { s with hub := { s.hub with frames := s.hub.frames ++ (List.range n).map fun j => a + j * 65536 } })

/-- The granules that one page of an arena takes (R135). -/
def arenaGranules (attr : Word) : Nat := if abit attr 17 then 3 else 1

/-- The pages of an arena are mapped for an ASID, each to zeroed frames of its own; a page that finds none stays
absent. -/
def State.mapArena (s : State) (asid : BitVec 12) (goff size : Nat) (attr : Word) : State :=
  (List.range (size / 65536)).foldl (fun s k =>
    match s.takeRun (arenaGranules attr) with
    | none => s
    | some (f, s) =>
      let s := (List.range (arenaGranules attr)).foldl (fun s j => s.zeroFrame (f + j * 65536)) s
      s.mapLeaf asid ⟨3, goff + k * 65536, granuleForm s.hub.pkg.toNat f, (attr &&& ~~~ w1bit 19) ||| 1⟩) s

/-- The pages of an arena are unmapped for an ASID, and their frames are free. -/
def State.unmapArena (s : State) (asid : BitVec 12) (goff size : Nat) (attr : Word) : State :=
  (List.range (size / 65536)).foldl (fun s k =>
    let off := goff + k * 65536
    let s := s.eccWalk none (BitVec.ofNat 64 off) asid off
    match s.leafPlace asid off with
    | none => s
    | some (_, a) =>
      let (w0, w1) := s.entry a
      if !abit w1 0 then s
      else
        let fs := if w0.toNat / 2 ^ 52 = s.hub.pkg.toNat
          then (List.range (arenaGranules attr)).map fun j => granuleAddr w0 + j * 65536 else []
        let s := (s.setEntry a 0 0).shootdown asid off
        { s with hub := { s.hub with frames := s.hub.frames.filter fun f => !fs.contains f } }) s

/-- Every arena is mapped for an ASID on this package. -/
def State.admitHere (s : State) (asid : Nat) : State :=
  let s := s.hub.arenas.foldl (fun s a => s.mapArena (BitVec.ofNat 12 asid) a.1.toNat a.2.1 a.2.2) s.ensureRoot
  { s with hub := { s.hub with asids := s.hub.asids.filter (· ≠ asid) ++ [asid] } }

/-- Every arena is unmapped for an ASID on this package. -/
def State.retireHere (s : State) (asid : Nat) : State :=
  let s := s.hub.arenas.foldl (fun s a => s.unmapArena (BitVec.ofNat 12 asid) a.1.toNat a.2.1 a.2.2) s
  { s with hub := { s.hub with asids := s.hub.asids.filter (· ≠ asid) } }

/-- The page-table entries of an arena's pages for an ASID, as runs of memory. -/
def State.arenaWalks (s : State) (asid goff size : Nat) : List (Nat × Nat) :=
  ((List.range (size / 65536)).map fun k => s.walkRuns (BitVec.ofNat 12 asid) (goff + k * 65536)).flatten

/-- The page-table entries of the arenas' pages for an ASID, as runs of memory. -/
def State.arenaRuns (s : State) (asid : Nat) : List (Nat × Nat) :=
  (s.hub.arenas.map fun a => s.arenaWalks asid a.1.toNat a.2.1).flatten

/-- This hub unmaps the arenas of an ASID, once the page tables can be reached (R113). -/
def State.leaveAsid (s : State) (asid : Nat) : State :=
  s.hubWork (s.arenaRuns asid) (.hubMessage s.hub.pkg.toNat (.retire asid)) fun s => s.retireHere asid

/-- This hub maps the arenas of an ASID, once the page tables can be reached and an earlier use of the ASID is unmapped. -/
def State.enterAsid (s : State) (asid : Nat) : State :=
  let me := s.hub.pkg.toNat
  if s.agenda.any fun e => e.2 = .hubMessage me (.retire asid) then
    let (due, s) := s.later
    s.schedule due (.hubMessage me (.enter asid))
  else s.hubWork (s.arenaRuns asid) (.hubMessage me (.enter asid)) fun s => s.admitHere asid

/-- Every hub maps the arenas of an ASID. -/
def State.admitAsid (s : State) (asid : Nat) : State := (s.enterAsid asid).tellAll (.enter asid)

/-- Every hub unmaps the arenas of an ASID. -/
def State.retireAsid (s : State) (asid : Nat) : State := (s.leaveAsid asid).tellAll (.retire asid)

/-! ## Sequences -/

/-- The sequence is part of a step that is not answered yet. -/
def FrontDoor.inStep (f : FrontDoor) (asid : Nat) : Bool := f.steps.any fun t => t.asids.contains asid

/-- Change the sequence of an ASID. -/
def State.modSeq (s : State) (asid : Nat) (f : Sequence → Sequence) : State :=
  { s with fd := { s.fd with seqs := s.fd.seqs.map fun q => if q.asid = asid then f q else q } }

/-- A request id is that of a request not yet answered by its final record. -/
def FrontDoor.liveId (f : FrontDoor) (id : Word) : Bool :=
  f.tokenizing.any (·.reqid = id) || f.queue.any (·.1.reqid = id) || f.seqs.any fun q => q.req.reqid = id && !q.done

/-- Some request is live. -/
def FrontDoor.live (f : FrontDoor) : Bool := !f.tokenizing.isEmpty || !f.queue.isEmpty || !f.seqs.isEmpty

/-- A step of the detokenizer for a sequence: its records leave, its state is kept. -/
def State.detok (s : State) (asid : Nat) (f : Detok → Detok) : State :=
  match s.fd.seqs.find? (·.asid = asid) with
  | none => s
  | some q =>
    let (q', rs) := f (q, [])
    (rs.foldl (fun s r => s.emit (.reply q.req.conn r)) s).modSeq asid fun _ => q'

/-- The hold and the window are dropped, and the final record is sent (R366, R367). -/
def Detok.drop (reason : Nat) (d : Detok) : Detok :=
  if d.1.done then d else Detok.finish ({ d.1 with hold := [], window := [], released := [] }, d.2) reason

/-- Sequences that have had their final record and have no step left give their ASIDs back. -/
def State.retireDone (s : State) : State :=
  let gone := s.fd.seqs.filter fun q => q.done && !s.fd.inStep q.asid
  let s := { s with fd := { s.fd with seqs := s.fd.seqs.filter fun q => !(q.done && !s.fd.inStep q.asid) } }
  gone.foldl (fun s q => s.retireAsid q.asid) s

/-- The lowest ASID that no sequence uses. -/
def FrontDoor.freeAsid (f : FrontDoor) : Option Nat :=
  ((List.range 4095).map (· + 1)).find? fun a => !(f.seqs.any (·.asid = a)) && !f.inStep a

/-- Tokens written into the sequence's part of the history arena, from a position on. -/
def State.writeHistory (s : State) (part pos : Nat) (toks : List Nat) : State :=
  match s.fd.conf with
  | none => s
  | some c =>
    ((toks.take (c.maxpos - pos)).zipIdx).foldl (fun s e =>
      s.store (c.histAddr (4 * (part * c.maxpos + pos + e.2))) (bytesOf 4 e.1) false) s

/-- The hub writes a sequence's tokens into the history arena, once the regions of its frames are active (R113, R353). -/
def State.putHistory (s : State) (part pos : Nat) (toks : List Nat) : State :=
  let rs := match s.fd.conf with
    | none => []
    | some c => (List.range (Nat.min toks.length (c.maxpos - pos))).map fun k =>
        (c.histAddr (4 * (part * c.maxpos + pos + k)), 4)
  s.hubWork rs (.hubMessage s.hub.pkg.toNat (.history part pos toks)) fun s => s.writeHistory part pos toks

/-- Tokens wait to enter the history arena: no step is injected before them. -/
def State.histWaits (s : State) : Bool := s.agenda.any fun e => match e.2 with
  | .hubMessage _ (.history ..) => true
  | _ => false

/-! ## Records (R349, R352) -/

/-- An fp32 that is NaN, infinite or negative; -0 is none of these. -/
def badTemp (t : F32) : Bool := t.toNat / 2 ^ 23 % 256 = 255 || (t.getLsbD 31 && t.toNat % 2 ^ 31 ≠ 0)

/-- The i-th stop string's entry. -/
def stopEntry (r : List Byte) (i : Nat) : List Byte := (r.drop (64 + 72 * i)).take 72

/-- Codes 0x01 to 0x09 of R352, the lowest that applies; none when the request passes. -/
def FrontDoor.requestCode (f : FrontDoor) (r : List Byte) : Option Nat :=
  let n := le r 2 1
  let badStop (i : Nat) : Bool :=
    let e := stopEntry r i
    if n ≤ i then !zeros e 0 72 else !zeros e 1 7 || !zeros e (8 + le e 0 1) 64
  if r.length < 352 || r.length ≠ 352 + le r 32 4 || le r 0 1 ≠ 1 || le r 1 1 ≠ 1 || 16 ≤ le r 3 1 || !zeros r 36 28 ||
      (List.range 4).any badStop then some 1
  else
    match f.conf, f.vocab with
    | some c, some _ =>
      if f.stopError then some 2
      else if BitVec.ofNat 32 (le r 16 4) ≠ c.model then some 3
      else if f.liveId (BitVec.ofNat 64 (le r 8 8)) then some 4
      else if badTemp (BitVec.ofNat 32 (le r 4 4)) then some 5
      else if 4 < n || (List.range n).any fun i => le (stopEntry r i) 0 1 < 1 || 64 < le (stopEntry r i) 0 1 then some 6
      else if le r 20 4 = 0 || 16777216 < le r 20 4 || le r 32 4 = 0 || 1048576 < le r 32 4 then some 7
      else if c.dmax < le r 3 1 % 8 then some 8
      else if !utf8Valid [] (r.drop 352) then some 9
      else none
    | _, _ => some 2

/-- The request of a record. -/
def requestOf (conn : Nat) (r : List Byte) : Request :=
  { conn := conn, reqid := BitVec.ofNat 64 (le r 8 8), spec := le r 3 1 % 8, resid := natBit (le r 3 1) 3,
    temp := BitVec.ofNat 32 (le r 4 4), maxtok := le r 20 4, seed := BitVec.ofNat 64 (le r 24 8),
    stops := (List.range (le r 2 1)).map fun i => ((stopEntry r i).drop 8).take (le (stopEntry r i) 0 1),
    prompt := r.drop 352 }

/-- REQUEST_RECORD. DESIGN CHOICE (notes/assumptions/38.md): the final record of a message too short to hold its REQID (R352)
carries the bytes of it that came, and zeros for the rest. -/
def execRequestRecord (conn : Nat) (r : List Byte) (s : State) : Host.Outcome State Fault Refusal :=
  match s.fd.requestCode r with
  | some c => .next (s.refuse conn (BitVec.ofNat 64 (le r 8 8)) 6 c)
  | none =>
    let q := requestOf conn r
    let s := { s with fd := { s.fd with tokenizing := s.fd.tokenizing ++ [q] } }
    let (due, s) := s.later
    .next (s.schedule due (.tokenizationComplete q.reqid))

/-- TOKENIZATION_COMPLETE: codes 0x0A and 0x0B, or the admission queue. -/
def execTokenizationComplete (reqid : Word) (s : State) : Host.Outcome State Fault Refusal :=
  match s.fd.tokenizing.find? (·.reqid = reqid), s.fd.conf, s.fd.vocab with
  | some q, some c, some v =>
    let s := { s with fd := { s.fd with tokenizing := s.fd.tokenizing.filter fun x => x.reqid ≠ reqid } }
    let toks := v.tokenize q.prompt
    if c.maxpos ≤ toks.length then .next (s.refuse q.conn reqid 6 0x0A)
    else if 1024 ≤ s.fd.queue.length then .next (s.refuse q.conn reqid 6 0x0B)
    else .next { s with fd := { s.fd with queue := s.fd.queue ++ [(q, toks)] } }
  | _, _, _ => .next s

/-! ## Admission (R357) -/

/-- The lowest-numbered group with a free slot. DESIGN CHOICE (notes/assumptions/38.md): a finished sequence holds its
slot until its ASID is freed; R357 states the time for the ASID only. -/
def FrontDoor.freeGroup (f : FrontDoor) (c : FdConf) : Option Nat :=
  (List.range c.ngroup).find? fun g => (f.seqs.filter (·.group = g)).length < c.gsize

/-- What the head of the queue takes: ASID and group. -/
def FrontDoor.admits (f : FrontDoor) : Option (Nat × Nat) :=
  match f.queue, f.conf with
  | _ :: _, some c =>
    match f.freeGroup c, f.freeAsid with
    | some g, some a => some (a, g)
    | _, _ => none
  | _, _ => none

/-- A part of the history arena that no sequence uses, a free choice. -/
def State.freePart (s : State) (c : FdConf) : Nat × State :=
  let (n, s) := s.draw
  let l := (List.range (c.gsize * c.ngroup)).filter fun k => !s.fd.seqs.any (·.part = k)
  (l.getD (Config.freeNat n % Nat.max 1 l.length) 0, s)

/-- ADMISSION -/
def execAdmission (s : State) : Host.Outcome State Fault Refusal :=
  match s.fd.admits, s.fd.queue, s.fd.conf with
  | some (a, g), (r, toks) :: rest, some c =>
    let (part, s) := s.freePart c
    let q : Sequence :=
      { req := r, asid := a, group := g, part := part, hist := toks, fed := toks.length - 1, hold := [], window := [],
        cut := false, offset := 0, count := 0, released := [], done := false, cancel := false, replay := false }
    let s := { s with fd := { s.fd with queue := rest, seqs := s.fd.seqs ++ [q] } }
    .next ((s.putHistory part 0 toks).admitAsid a)
  | _, _, _ => .next s

/-- CANCEL_RECORD: at once when no step of the sequence is in flight, else when it is answered; a cancel that names no
live request is ignored. -/
def execCancelRecord (conn : Nat) (r : List Byte) (s : State) : Host.Outcome State Fault Refusal :=
  let _ := conn
  let id : Word := BitVec.ofNat 64 (le r 8 8)
  if r.length ≠ 16 || le r 0 1 ≠ 2 || !zeros r 1 7 then .next s
  else
    match s.fd.tokenizing.find? (·.reqid = id) with
    | some q =>
      .next (({ s with fd := { s.fd with tokenizing := s.fd.tokenizing.filter fun x => x.reqid ≠ id } } : State).refuse
        q.conn id 5 0)
    | none =>
      match s.fd.queue.find? (·.1.reqid = id) with
      | some q =>
        .next (({ s with fd := { s.fd with queue := s.fd.queue.filter fun x => x.1.reqid ≠ id } } : State).refuse
          q.1.conn id 5 0)
      | none =>
        match s.fd.seqs.find? fun q => q.req.reqid = id && !q.done with
        | none => .next s
        | some q =>
          if s.fd.inStep q.asid then .next (s.modSeq q.asid fun q => { q with cancel := true })
          else .next ((s.detok q.asid (Detok.drop 5)).retireDone)

/-! ## Requests of the sequencer (R362, R363) -/

/-- Change the step of a group. -/
def State.modStep (s : State) (g : Nat) (f : Step → Step) : State :=
  { s with fd := { s.fd with steps := s.fd.steps.map fun t => if t.group = g then f t else t } }

/-- Change a name of a group's step. -/
def State.modName (s : State) (g : Nat) (n : StepName) (f : StepName → StepName) : State :=
  s.modStep g fun t => { t with names := t.names.map fun x => if x.entry = n.entry && x.j = n.j then f x else x }

/-- The sequencer asks a name's home. -/
def State.seqRequest (s : State) (g : Nat) (n : StepName) (kind : Nat) (st : NameState) : State :=
  match s.fd.conf with
  | none => s
  | some c =>
    let nm : BitVec 16 := c.kvbase + BitVec.ofNat 16 n.j
    let (id, s) := s.newId
    let h : Handle := { v := kind ≠ 0, snap := false, asid := BitVec.ofNat 12 n.asid, name := nm,
                        home := BitVec.ofNat 12 ((s.homeOf nm).getD 0), pcnt := BitVec.ofNat 12 c.kvpcnt,
                        epoch := BitVec.ofNat 40 n.epoch }
    let r : GsReq := { id := id, party := .sequencer s.hub.pkg.toNat, kind := kind, dst := none, h := h, asid := h.asid, sent := false }
    let s := s.modName g n fun x => { x with state := st, req := id }
    ({ s with gsreqs := s.gsreqs ++ [r] } : State).sendReq r

/-- NACC of an entry in a done packet. -/
def naccOf (done : List Byte) (k : Nat) : Nat := le done (32 + 64 * k + 2) 1

/-- A name is one that the step seals. -/
def Step.seals (t : Step) (n : StepName) : Bool := n.j < Nat.max (naccOf (t.done.getD []) n.entry) 1

/-- The step has a done packet that meets R361, and no seal of it has failed so far. -/
def Step.sound (t : Step) : Bool :=
  (t.done.getD []).length ≠ 0 && t.names.all fun n => !t.seals n || n.state ≠ .aborted

/-- A name needs no more answers. -/
def NameState.closed (x : NameState) : Bool := x = .committed || x = .aborted

/-- Every name of an answered step is closed. -/
def Step.answered (t : Step) : Bool := t.done.isSome && t.names.all (fun n => NameState.closed n.state)

/-! ## The end of a step (R346, R363, R364) -/

/-- Slots of the done ring are freed in order, and a return is due for them. -/
def State.freeDone (s : State) : State :=
  match s.fd.edges.find? (·.done) with
  | none => s
  | some e =>
    let n := (e.packets.takeWhile fun p => p.2.1 = 1).length
    if n = 0 then s
    else
      let e' := { e with packets := e.packets.drop n, freed := e.freed + BitVec.ofNat 16 n,
                         slot := (e.slot + n) % Nat.max 1 e.depth }
      (s.modEdge (·.done) fun _ => e').wantDoneReturn

/-- The done slot of a step index is answered. -/
def State.slotAnswered (s : State) (index : Word) : State :=
  (s.modEdge (·.done) fun e => { e with packets := e.packets.map fun p =>
    if p.1 = index then (p.1, 1, p.2.2) else p }).freeDone

/-- A sequence starts again under a new ASID: every history token but the last is prefill work (R364). -/
def State.restartSeq (s : State) (asid : Nat) : State :=
  match s.fd.freeAsid with
  | none => s
  | some a =>
    let s := s.modSeq asid fun q => { q with asid := a, fed := q.hist.length - 1, replay := false }
    (s.retireAsid asid).admitAsid a

/-- What a committed step does for one entry (R363, R366). -/
def State.commitEntry (s : State) (t : Step) (done : List Byte) (k : Nat) (asid : Nat) : State :=
  match s.fd.seqs.find? (·.asid = asid), s.fd.conf, s.fd.vocab with
  | some q, some c, some v =>
    if q.done || q.cancel then s
    else if t.prefill then s.modSeq asid fun q => { q with fed := q.fed - t.counts.getD k 0 }
    else
      let toks := (List.range (naccOf done k)).map fun j => le done (32 + 64 * k + 32 + 4 * j) 4
      let pos := q.hist.length
      let s := (s.putHistory q.part pos toks).modSeq asid fun q => { q with hist := q.hist ++ toks }
      s.detok asid fun d => d.tokens v c.maxpos pos toks
  | _, _, _ => s

/-- After its step is answered a sequence is cancelled, or starts again. -/
def State.settleSeq (s : State) (asid : Nat) : State :=
  match s.fd.seqs.find? (·.asid = asid) with
  | none => s
  | some q =>
    if q.cancel && !q.done then s.detok asid (Detok.drop 5)
    else if q.replay && !q.done then s.restartSeq asid
    else s

/-- A step whose names are all answered ends: committed, its tokens go to the detokenizer; aborted, it is injected again
as a new step with the same entries, unless one of its sequences has ended or changed. -/
def State.endStep (s : State) (t : Step) : State :=
  let s := if t.put then s.slotAnswered (BitVec.ofNat 64 t.index) else s
  let ok := t.sound
  let s := if ok then (t.asids.zipIdx).foldl (fun s e => s.commitEntry t (t.done.getD []) e.2 e.1) s else s
  let steady : Bool := t.asids.all fun a => s.fd.seqs.any fun q => q.asid = a && !q.done && !q.cancel && !q.replay
  let again : Bool := !ok && steady && !s.fd.stopError
  let rest := s.fd.steps.filter (·.group ≠ t.group)
  let next : Step := { t with index := 0, start := [], put := false, done := none,
                              names := t.names.map fun n => { n with state := .toOpen, epoch := 0, req := 0 } }
  let s := { s with fd := { s.fd with
    steps := if again then rest ++ [next] else rest
    lastPrefill := if !ok && !again && t.prefill then s.fd.lastPrefill.filter (· ≠ t.group) else s.fd.lastPrefill } }
  (t.asids.foldl (fun s a => if again then s else s.settleSeq a) s).retireDone

/-- Go on with a group's step after an answer: names of an aborted step that still wait for their epoch are aborted, and
a step whose names are all closed ends. -/
def State.followStep (s : State) (g : Nat) : State :=
  match s.fd.steps.find? (·.group = g) with
  | none => s
  | some t =>
    if t.answered then s.endStep t else s

/-! ## Protocol errors (R367) -/

/-- A step without a done packet is given up: names not opened yet count as aborted, open ones are aborted at their homes,
and those whose opening is not answered yet will be when it is. -/
def State.giveUp (s : State) (t : Step) : State :=
  let s := s.modStep t.group fun t => { t with
    done := some [], names := t.names.map fun n => if n.state = .toOpen then { n with state := .aborted } else n }
  ((t.names.filter (·.state = .opened)).foldl (fun s n => s.seqRequest t.group n 2 .aborting) s).followStep t.group

/-- Every live request ends with REASON 7. -/
def State.endLive (s : State) : State := s.fd.seqs.foldl (fun s q => s.detok q.asid (Detok.drop 7)) s

/-- A front-door protocol error of a group's step: its open names are aborted, and those of every step that will now
never be put (R363: no name stays open); the record is written, injection stops, every live request ends with REASON 7,
and queued requests are rejected. DESIGN CHOICE (notes/assumptions/41.md): a step that has no number yet is recorded
with STEP 0. -/
def State.protocolError (s : State) (index group : Nat) : State :=
  let lost := s.fd.steps.filter fun t => t.done.isNone && (t.group = group || !t.put)
  let s := s.record 0x04 (bytesOf 8 index ++ bytesOf 2 group)
  let gone := s.fd.tokenizing ++ s.fd.queue.map (·.1)
  let s := { s with fd := { s.fd with stopError := true, tokenizing := [], queue := [] } }
  let s := gone.foldl (fun s q => s.refuse q.conn q.reqid 6 2) s
  (lost.foldl State.giveUp s.endLive).retireDone

/-- A home answers the sequencer (R362, R363). -/
def State.seqAnswer (s : State) (r : GsReq) (a : GsAns) : State :=
  let s := { s with gsreqs := s.gsreqs.filter (·.id ≠ r.id) }
  let hit := s.fd.steps.findSome? fun t => (t.names.find? (·.req = r.id)).map fun n => (t, n)
  match hit with
  | none => s
  | some (t, n) =>
    let g := t.group
    let put (s : State) (st : NameState) : State := (s.modName g n fun x => { x with state := st }).followStep g
    let ask (s : State) : State := if t.sound then s.seqRequest g n 4 .polling else s.seqRequest g n 2 .aborting
    match n.state with
    | .opening =>
      if a.status = 0 then
        let n' := { n with epoch := a.epoch }
        let s := s.modName g n fun x => { x with epoch := a.epoch, state := .opened }
        if t.done.isSome then s.seqRequest g n' 2 .aborting else s
      else if t.done.isSome then put s .aborted
      else if a.status = 5 then put s .toOpen
      else (s.modName g n fun x => { x with state := .aborted }).protocolError t.index g
    | .sealing =>
      if a.status = 1 then put (s.closeLists r.h.asid r.h.name (r.h.epoch.toNat + 1)) .committed
      else if a.status = 0 then ask s
      else put s .aborted
    | .polling =>
      match a.word.toNat / 2 ^ 62 with
      | 2 => put s .committed
      | 3 => put s .aborted
      | _ => ask s
    | .aborting => put s .aborted
    | _ => s

/-- GS_ANSWER: the status reaches the bank, the sequencer, or the hub that asked; the answer to a GS.LOAD's read of SEALED
(R144) reaches the access that waits for it. -/
def execGsAnswer (a : GsAns) (s : State) : Host.Outcome State Fault Refusal :=
  match s.gsreqs.find? (·.id = a.id) with
  | none => .next (s.sealAnswer a)
  | some r =>
    match r.party, r.dst with
    | .bank .., some (b, d, hr) => .next (s.bankAnswer r b d hr a)
    | .sequencer _, _ => .next (s.seqAnswer r a)
    | _, _ => .next { s with gsreqs := s.gsreqs.filter (·.id ≠ r.id) }

/-! ## Steps (R322, R358 to R362) -/

/-- The sequencer injects nothing. -/
def State.injectStopped (s : State) : Bool :=
  s.fd.stopFreewheel || s.fd.stopError || s.fd.stopRecovery || s.hub.powerHold || !s.fd.holders.isEmpty

/-- The sequence may be part of a step. -/
def Sequence.ready (q : Sequence) : Bool := !q.done && !q.cancel && !q.replay

/-- Sequences in ascending ASID order. -/
def byAsid (l : List Sequence) : List Sequence := sortBy (·.asid) l

/-- Prefill and decode work are both pending in a group (R360). -/
def FrontDoor.bothWork (f : FrontDoor) (g : Nat) : Bool :=
  let qs := f.seqs.filter fun q => q.group = g && q.ready
  (qs.any fun q => 0 < q.fed) && qs.any fun q => q.fed = 0

/-- The step that a group takes next (R360): while both kinds of work are pending they alternate, beginning with prefill;
lastPrefill holds the groups whose last step was a prefill of such an alternation. -/
def FrontDoor.nextFor (f : FrontDoor) (c : FdConf) (g : Nat) : Option Step :=
  let qs := byAsid (f.seqs.filter fun q => q.group = g && q.ready)
  let pre := qs.filter fun q => 0 < q.fed
  let dec := qs.filter fun q => q.fed = 0
  let prefill : Bool := !pre.isEmpty && (dec.isEmpty || !f.lastPrefill.contains g)
  let es := if prefill then pre.take 1 else dec
  if es.isEmpty then none
  else
    let counts := es.map fun q => if prefill then Nat.min 1008 q.fed else q.req.spec
    let names := if c.kvpcnt = 0 then [] else
      (es.zipIdx.map fun e => (List.range ((if prefill then 0 else e.1.req.spec) + 1)).map fun j =>
        ({ entry := e.2, asid := e.1.asid, j := j, epoch := 0, state := .toOpen, req := 0 } : StepName)).flatten
    some { index := 0, group := g, prefill := prefill, asids := es.map (·.asid), counts := counts, start := [],
           names := names, put := false, done := none }

/-- SPEC of an entry. -/
def Request.specByte (r : Request) : Nat := r.spec + 8 * r.resid.toNat

/-- An entry of a decode start packet (R359). -/
def decodeEntry (q : Sequence) : List Byte :=
  bytesOf 2 q.asid ++ bytesOf 1 q.req.specByte ++ [0] ++ bytesOf 4 (q.hist.length - 1) ++
  bytesOf 4 (q.hist.getLastD 0) ++ bytesOf 4 q.req.temp.toNat ++ bytesOf 8 q.req.seed.toNat ++ List.replicate 40 0

/-- The 32-byte entry of a prefill start packet, and its tokens (R359). -/
def prefillEntry (q : Sequence) (n : Nat) : List Byte :=
  let pos := q.hist.length - 1 - q.fed
  bytesOf 2 q.asid ++ bytesOf 1 q.req.specByte ++ [if n = q.fed then 1 else 0] ++ bytesOf 4 pos ++ bytesOf 4 n ++
  bytesOf 4 q.req.temp.toNat ++ bytesOf 8 q.req.seed.toNat ++ List.replicate 8 0 ++ (((q.hist.drop pos).take n).map (bytesOf 4)).flatten

/-- Zeros up to a multiple of 32 bytes. -/
def pad32 (bs : List Byte) : List Byte := bs ++ List.replicate ((32 - bs.length % 32) % 32) 0

/-- The payload of a step's start packet with a step index. -/
def State.startBytes (s : State) (t : Step) (index : Nat) : List Byte :=
  let entry (a k : Nat) : List Byte :=
    match s.fd.seqs.find? (·.asid = a) with
    | none => []
    | some q => if t.prefill then prefillEntry q (t.counts.getD k 0) else decodeEntry q
  pad32 ([if t.prefill then 1 else 0, BitVec.ofNat 8 t.asids.length] ++ bytesOf 2 t.group ++ [0, 0, 0, 0] ++
    bytesOf 8 index ++ List.replicate 16 0 ++ (t.asids.zipIdx.map fun e => entry e.1 e.2).flatten)

/-- Every start edge has a free slot. -/
def FrontDoor.startFree (f : FrontDoor) : Bool :=
  f.edges.all fun e => e.done || (e.cum - e.freed).toNat < e.depth

/-- A stream packet leaves the sequencer on a start edge. -/
def State.startSend (s : State) (e : SeqEdge) (w : Word × Word) (payload : List Byte) : State :=
  if e.pkg = s.hub.pkg.toNat then
    s.scheduleAfter (fun i => match i with
      | .streamPacket (.packet ..) => true
      | _ => false) (.streamPacket (.packet w.1 w.2 payload))
  else s.sendPacket { w0 := w.1, w1 := w.2, payload := payload }

/-- The start packet is put on a start edge. -/
def State.startPut (s : State) (e : SeqEdge) (payload : List Byte) : State :=
  let w := headerWords 0 e.pkg (e.bank / 2) s.hub.pkg.toNat 0x1FF (payload.length / 32) e.port.val e.stage.toNat
    e.cum.toNat
  let kept := e.packets ++ [(w.1, w.2, payload)]
  let s := s.modEdge (fun x => !x.done && x.stage = e.stage && x.port = e.port) fun x =>
    { x with cum := x.cum + 1, slot := (x.slot + 1) % Nat.max 1 x.depth, packets := kept.drop (kept.length - e.depth) }
  s.startSend e w payload

/-- The step of a group is put: it takes the next index, and its packet goes out on every start edge. -/
def State.putStep (s : State) (t : Step) : State :=
  let i := s.fd.nextStep
  let bs := s.startBytes t i
  let s := { s with fd := { s.fd with nextStep := i + 1 } }
  let s := s.modStep t.group fun t => { t with index := i, start := bs, put := true }
  (s.fd.edges.filter fun e => !e.done).foldl (fun s e => s.startPut e bs) s

/-- Opens are sent for the names that need one. DESIGN CHOICE (notes/assumptions/62.md): R362 does not say what happens to a
name that the image's groupset table, replaced since FDCONF, does not hold; it is a front-door protocol error. -/
def State.openNames (s : State) (t : Step) : State :=
  match s.fd.conf with
  | none => s
  | some c =>
    let ns := t.names.filter (·.state = .toOpen)
    if ns.any fun n => (s.homeOf (c.kvbase + BitVec.ofNat 16 n.j)).isNone then s.protocolError t.index t.group
    else ns.foldl (fun s n => s.seqRequest t.group n 0 .opening) s

/-- What a group can do now: open names, or put its step. -/
def Step.canPut (f : FrontDoor) (t : Step) : Bool :=
  !t.put && t.done.isNone && t.names.all (·.state = .opened) && f.startFree

/-- STEP_INJECT is due for a group. -/
def State.injectDue (s : State) (g : Nat) : Bool :=
  !s.injectStopped && !s.histWaits && !(s.fd.edges.isEmpty) &&
  (match s.fd.steps.find? (·.group = g), s.fd.conf with
   | some t, _ => (t.done.isNone && t.names.any (·.state = .toOpen)) || t.canPut s.fd
   | none, some c => (s.fd.nextFor c g).isSome
   | none, none => false)

/-- STEP_INJECT: a group without a step takes its next one; its names are opened; when all are, and every start edge has
a free slot, it is put. -/
def execStepInject (g : Nat) (s : State) : Host.Outcome State Fault Refusal :=
  if !s.injectDue g then .next s
  else
    let s := match s.fd.steps.find? (·.group = g), s.fd.conf with
      | none, some c =>
        match s.fd.nextFor c g with
        | none => s
        | some t => { s with fd := { s.fd with
            steps := s.fd.steps ++ [t]
            lastPrefill := s.fd.lastPrefill.filter (· ≠ g) ++ if t.prefill && s.fd.bothWork g then [g] else [] } }
      | _, _ => s
    match s.fd.steps.find? (·.group = g) with
    | none => .next s
    | some t =>
      if t.names.any (·.state = .toOpen) then .next (s.openNames t)
      else if t.canPut s.fd then .next (s.putStep t)
      else .next s

/-! ## Done packets (R361, R363) -/

/-- The oldest step in flight on the done edge. -/
def FrontDoor.oldest (f : FrontDoor) : Option Step :=
  (f.steps.filter fun t => t.put && t.done.isNone).foldl (fun b t => match b with
    | none => some t
    | some u => if t.index < u.index then some t else b) none

/-- A done packet's payload is the answer to a step. -/
def Step.matches (t : Step) (bs : List Byte) : Bool :=
  bs.take 32 = t.start.take 32 &&
  (t.asids.zipIdx).all fun e =>
    le bs (32 + 64 * e.2) 2 = e.1 &&
    (if t.prefill then naccOf bs e.2 = 0
     else 1 ≤ naccOf bs e.2 && naccOf bs e.2 ≤ t.counts.getD e.2 0 + 1)

/-- The packet takes a slot of the done ring, for a step index; answered at once, or when the step is. -/
def State.doneSlot (s : State) (index : Nat) (now : Bool) (bs : List Byte) : State :=
  let s := s.modEdge (·.done) fun e =>
    { e with cum := e.cum + 1, packets := e.packets ++ [(BitVec.ofNat 64 index, if now then 1 else 0, bs)] }
  if now then s.freeDone else s

/-- DONE_PACKET. DESIGN CHOICE (notes/assumptions/41.md): with no step in flight, the record of R367 takes STEP and
GROUP from the packet's own payload. -/
def execDonePacket (w0 w1 : Word) (payload : List Byte) (s : State) : Host.Outcome State Fault Refusal :=
  if !s.fd.edges.any fun e => e.done && wfld w1 32 32 = 0x20000 + s.hub.pkg.toNat then .next s
  else
    let null : Bool := wfld w0 14 8 = 0
    match s.fd.oldest with
    | none => .next ((s.doneSlot 0 true payload).protocolError (le payload 8 8) (le payload 2 2))
    | some t =>
      let g := t.group
      let s := s.doneSlot t.index false payload
      if null && t.index < s.fd.recovB then
        .next ((s.modStep g fun t => { t with
          done := some [], names := t.names.map fun n => { n with state := .aborted } }).followStep g)
      else if null || !t.matches payload then .next (s.protocolError t.index g)
      else
        let s := s.modStep g fun t => { t with done := some payload }
        let s := t.names.foldl (fun s n =>
          if n.j < Nat.max (naccOf payload n.entry) 1 then s.seqRequest g n 1 .sealing
          else s.seqRequest g n 2 .aborting) s
        .next (s.followStep g)

end Sys2Proof.Machine
end

