-- ==== Sys2Proof/Machine/Recovery.lean ====
section
/-! DEFINITION. Freewheel, context images and their restore (R337 to R340), and the derailleur protocol: ports found dead,
hubs found silent, cogs that fail, and the recovery of a package or a cog (R341 to R347, R364). -/

namespace Sys2Proof.Machine

/-! ## Hubs among one another -/

/-- A message to a hub; one to this hub arrives here a free time later. -/
def State.tell (s : State) (pkg : Nat) (m : HubMsg) : State :=
  if pkg = s.hub.pkg.toNat then
    let (due, s) := s.later
    s.schedule due (.hubMessage pkg m)
  else s.emit (.hub pkg m)

/-- This package is the supervisor (R342). -/
def State.isSuper (s : State) : Bool := s.supervisor = s.hub.pkg.toNat

/-- The package that hears about the failure of another: the supervisor, or the deputy about the supervisor. -/
def State.superFor (s : State) (pkg : Nat) : Nat :=
  match s.image.bind (·.super) with
  | some (a, b) => if a = pkg then b else s.supervisor
  | none => s.supervisor

/-- This package's sequencer serves the chain. -/
def State.serves (s : State) : Bool := s.image.bind Image.serving = some s.hub.pkg.toNat

/-- The package that serves the chain. -/
def State.servingPkg (s : State) : Nat := (s.image.bind Image.serving).getD s.hub.pkg.toNat

/-- A package that serves the chain hears whether this one holds injection (R401). This package's own hold is powerHold. -/
def State.tellHold (s : State) (serving : Option Nat) (hold : Bool) : State :=
  match serving with
  | some p => if p = s.hub.pkg.toNat then s else s.tell p (.holdInjection s.hub.pkg.toNat hold)
  | none => s

/-- A hold of injection goes over to another image: the package that served is released, the one that serves is asked. -/
def State.moveHold (s : State) (im : Image) : State :=
  let old := s.image.bind Image.serving
  if !s.hub.powerHold || old = im.serving then s else (s.tellHold old false).tellHold im.serving true

/-- The mailbox command that runs completes: response, STATUS and RESULT, GO clear, DONE set, vector 0 (R392). The
response of the host's command is discarded after a reset of its function (R402). -/
def State.completeCommand (s : State) (status result : Nat) (resp : List Byte) : State :=
  match s.hub.queue with
  | [] => s
  | c :: rest =>
    match c.mb with
    | .mgmt =>
      ({ s with hub := { s.hub with queue := rest, mgbuf := resp ++ s.hub.mgbuf.drop resp.length, mggo := false } } :
        State).emit (.mgmt (BitVec.ofNat 8 status) (BitVec.ofNat 32 result) resp)
    | .host =>
      if c.drop then { s with hub := { s.hub with queue := rest } }
      else
        ({ s with hub := { s.hub with queue := rest, mbbuf := resp ++ s.hub.mbbuf.drop resp.length,
                                      mbstatus := BitVec.ofNat 8 status, mbresult := BitVec.ofNat 32 result,
                                      mbgo := false, mbdone := true } } : State).emit (.msix 0)

/-- Commands whose code is unknown complete when their turn comes. -/
def State.skipUnknown (s : State) : Nat → State
  | 0 => s
  | n + 1 =>
    match s.hub.queue with
    | c :: _ => if c.opc = 0 || 0x0B < c.opc then (s.completeCommand 1 0 []).skipUnknown n else s
    | [] => s

/-- The running command completes, and unknown ones behind it. -/
def State.finish (s : State) (status result : Nat) (resp : List Byte) : State :=
  let s := s.completeCommand status result resp
  s.skipUnknown s.hub.queue.length

/-! ## Boot chunks (R374, R386, R389) -/

/-- The header, the directory and the sections of an image, once header and directory are held. -/
def imageRuns (h : List (Nat × List Byte)) : List (Nat × Nat) :=
  let hd := heldBytes h 0 64
  (0, 64) :: (le hd 24 8, 32 * le hd 16 4) :: (directory h).map fun x => (x.off, x.len)

/-- The units of 32 bytes of the image that a run touches. -/
def runUnits (r : Nat × Nat) : List Nat :=
  if r.2 = 0 then [] else (List.range ((r.1 % 32 + r.2 + 31) / 32)).map (r.1 / 32 + ·)

/-- A unit can be sent: all of it that belongs to the image is held; bytes between its parts go as zero. -/
def unitHeld (h : List (Nat × List Byte)) (u : Nat) : Bool :=
  headHeld h && (List.range 32).all fun k => (heldByte h (32 * u + k)).isSome ||
    !(imageRuns h).any fun r => r.1 ≤ 32 * u + k && 32 * u + k < r.1 + r.2

/-- Ascending units in rows of neighbours, at most 128 to a packet (R373). -/
def unitRows : List Nat → List (Nat × Nat)
  | [] => []
  | u :: us =>
    match unitRows us with
    | (v, n) :: r => if v = u + 1 && n < 128 then (u, n + 1) :: r else (u, 1) :: (v, n) :: r
    | [] => [(u, 1)]

/-- Units of an image go to a package as boot chunks, on the pinned route and VC 3 (R371, R374, R389): SPKG is the boot root,
word 1 the byte offset. -/
def State.sendUnits (s : State) (dst root : Nat) (h : List (Nat × List Byte)) (us : List Nat) : State :=
  (unitRows us).foldl (fun s r =>
    s.sendPacket { w0 := (headerWords 7 dst 0x1FF root 0x1FF r.2 0 0 0).1 ||| 48, w1 := BitVec.ofNat 64 (32 * r.1),
                   payload := heldBytes h (32 * r.1) (32 * r.2) }) s

/-! ## Context images (R339, R340) -/

/-- The ROT register's value (R166). -/
def Bank.rotWord (b : Bank) : Nat := b.rotS.toNat + 256 * b.rotV.toNat + 65536 * b.rotP.toNat

/-- A port record of a context image. -/
def portRecord (q : PortState) : List Byte :=
  bytesOf 2 q.cum.toNat ++ bytesOf 2 q.freed.toNat ++ bytesOf 2 q.depth ++ bytesOf 2 q.stride ++
  [if q.bound then 1 else 0, 0] ++ bytesOf 2 q.slot ++ List.replicate 4 0

/-- The full slots of an input ring. -/
def PortState.fullSlots (q : PortState) : List Nat :=
  (List.range q.depth).filter fun k => (k + q.depth - q.slot) % Nat.max 1 q.depth < (q.cum - q.freed).toNat

/-- The bytes of the occupancy bitmap of a ring. -/
def bitmapLen (depth : Nat) : Nat := (depth + 63) / 64 * 8

/-- Where the full slots of a ring stand: slot, first byte, length. -/
def State.ringSlots (s : State) (b : BankIx) (i : Fin 16) : List (Nat × Nat × Nat) :=
  let q := (s.bank b).ports[i]
  match s.ringSeg b i with
  | none => []
  | some g => q.fullSlots.map fun k => (k, g.addr + k * q.stride, q.stride)

/-- A ring's part of a context image. -/
def State.ringImage (s : State) (b : BankIx) (i : Fin 16) : List Byte :=
  let full := s.ringSlots b i
  if (s.ringSeg b i).isNone then []
  else
    bytesOf (bitmapLen (s.bank b).ports[i].depth) (full.foldl (fun n e => n + 2 ^ e.1) 0) ++
      (full.map fun e => s.load e.2.1 e.2.2).flatten

/-- The input ports that are bound, ascending. -/
def Bank.inputs (b : Bank) : List (Fin 16) := (List.finRange 16).filter fun i => i.val < 8 && b.ports[i].bound

/-- A bank's context image. -/
def State.contextImage (s : State) (b : BankIx) : List Byte :=
  let x := s.bank b
  let id := ((s.image.map (·.id)).getD [])
  let words (l : List Word) : List Byte := (l.map fun w => bytesOf 8 w.toNat).flatten
  let regs := words x.c.toList ++ (x.cv.toList.map fun v => bytesOf 512 v.toNat).flatten ++
    (x.g.toList.map fun g => g.record ++ (g.idx.toList.map fun k => bytesOf 4 k.toNat).flatten).flatten ++
    (x.h.toList.map fun h => bytesOf 16 h.toNat).flatten ++ (x.ports.toList.map portRecord).flatten
  let rings := (x.inputs.map fun i => s.ringImage b i).flatten
  bytesOf 4 0x58434B4F ++ bytesOf 2 1 ++ bytesOf 2 0 ++ bytesOf 4 x.stage.id.toNat ++
  bytesOf 4 ((s.bankId b).toNat % 2 ^ 22) ++ (id ++ List.replicate (64 - id.length) 0) ++ bytesOf 8 s.time.toNat ++
  bytesOf 8 x.rotWord ++ bytesOf 8 x.tvec.toNat ++ bytesOf 8 x.arflags.toNat ++ words x.arcnt.toList ++
  bytesOf 8 x.memdbg.toNat ++ words [x.tscr0, x.tscr1] ++ bytesOf 4 x.aborts.toNat ++
  bytesOf 4 (5952 + rings.length) ++ List.replicate 72 0 ++ regs ++ rings

/-- An iterator of a context image. -/
def iterAt (bs : List Byte) : Iter :=
  let n (o : Nat) : BitVec 32 := BitVec.ofNat 32 (le bs o 4)
  { base := BitVec.ofNat 64 (le bs 0 8), ndim := Fin.ofNat 4 (le bs 8 1), count := #v[n 16, n 24, n 32, n 40],
    stride := #v[n 20, n 28, n 36, n 44], idx := #v[n 48, n 52, n 56, n 60] }

/-- An activated bank takes every field of a context image. -/
def Bank.restore (b : Bank) (bs : List Byte) : Bank :=
  let w (o : Nat) : Word := BitVec.ofNat 64 (le bs o 8)
  let c := Vector.mk ((List.range 32).map fun k => w (256 + 8 * k)).toArray (by simp)
  let cv := Vector.mk ((List.range 8).map fun k => (BitVec.ofNat 4096 (le bs (512 + 512 * k) 512) : Vec)).toArray (by simp)
  let port (i : Fin 16) : PortState :=
    let o := 5696 + 16 * i.val
    { b.ports[i] with cum := BitVec.ofNat 16 (le bs o 2), freed := BitVec.ofNat 16 (le bs (o + 2) 2),
                      slot := le bs (o + 10) 2 }
  { b with
    rotS := (w 88).extractLsb' 0 5, rotV := (w 88).extractLsb' 8 5, rotP := (w 88).extractLsb' 16 6,
    tvec := w 96, arflags := (w 104).extractLsb' 0 5, arcnt := #v[w 112, w 120, w 128, w 136, w 144],
    memdbg := (w 152).getLsbD 0, tscr0 := w 160, tscr1 := w 168, aborts := BitVec.ofNat 32 (le bs 176 4),
    c := c, cWork := c, cv := cv, cvWork := cv,
    g := Vector.mk ((List.range 16).map fun k => iterAt ((bs.drop (4608 + 64 * k)).take 64)).toArray (by simp),
    h := Vector.mk ((List.range 4).map fun k => BitVec.ofNat 128 (le bs (5632 + 16 * k) 16)).toArray (by simp),
    ports := Vector.mk ((List.finRange 16).map port).toArray (by simp) }

/-- The full slots of the rings go back, from a position of the image on. -/
def State.restoreRings (s : State) (b : BankIx) (bs : List Byte) : Nat → List (Fin 16) → State
  | _, [] => s
  | o, i :: rest =>
    let q := (s.bank b).ports[i]
    let n := bitmapLen q.depth
    let map := le bs o n
    let full := (List.range q.depth).filter fun k => natBit map k
    let s := match s.ringSeg b i with
      | none => s
      | some g => full.zipIdx.foldl (fun (s : State) (e : Nat × Nat) =>
          s.store (g.addr + e.1 * q.stride) ((bs.drop (o + n + e.2 * q.stride)).take q.stride) false) s
    s.restoreRings b bs (o + n + full.length * q.stride) rest

/-- A bank is restored from an image of the active chain image: activated, its fields and rings taken, its cog's weight
buffers EMPTY (R295), no bank of the cog counted as having held the core (R41), its returns sent again (R340); what its
iteration-private windows hold is undefined (R39). -/
def State.restoreBank (s : State) (x : CtxImage) : State :=
  match s.image with
  | none => s
  | some im =>
    let st := (s.bank x.bank).stage
    if (x.bytes.drop 16).take 64 ≠ im.id ++ List.replicate (64 - im.id.length) 0 then s
    else
      let s := s.modBank x.bank fun b => { (b.activate im.chunks im.stages st st).restore x.bytes with rerun := true }
      let s := s.modCog x.bank.cog fun c =>
        { c with wbuf := Vector.replicate 2 WBuf.reset, lastHolder := none, passed := none }
      let s := s.restoreRings x.bank x.bytes 5952 (s.bank x.bank).inputs
      (s.bank x.bank).inputs.foldl (fun s i => s.wantReturn x.bank ⟨i.val % 8, Nat.mod_lt _ (by omega)⟩) s

/-! ## Freewheel (R337, R338) -/

/-- d_e of the edge of an output port. -/
def State.edgeRest (s : State) (b : BankIx) (i : Fin 16) : Nat :=
  let r := (s.bank b).stage.port i.val
  if r.endpoint then 0
  else ((s.image.bind fun im => stageById im.stages r.peer).map fun c => (c.port r.peerPort).init).getD 0

/-- The bank has no iteration, and every edge that it produces on holds its d_e packets. -/
def State.bankQuiet (s : State) (b : BankIx) : Bool :=
  let x := s.bank b
  !x.active || (!x.live && (List.finRange 16).all fun i =>
    i.val < 8 || !x.ports[i].bound || (x.ports[i].cum - x.ports[i].freed).toNat = s.edgeRest b i)

/-- The start edges hold their d_e packets. -/
def State.startsQuiet (s : State) : Bool :=
  s.fd.edges.all fun e => e.done || ((e.cum - e.freed).toNat : Nat) =
    ((s.image.bind fun im => stageById im.stages e.stage).map fun c => (c.port e.port.val).init).getD 0

/-- No step is in flight. -/
def FrontDoor.drained (f : FrontDoor) : Bool := f.steps.all fun t => !t.put

/-- FREEWHEEL_QUIET is due: the sequencer has been answered, or this package's edges are at rest. -/
def State.quietDue (s : State) : Bool :=
  match s.hub.fw with
  | .quieting _ false => s.serves && s.fd.drained && !s.hub.fwReady.contains s.hub.pkg.toNat
  | .quieting _ true =>
    !s.hub.fwReady.contains s.hub.pkg.toNat && s.startsQuiet && allBanks.all s.bankQuiet
  | _ => false

/-- The hub asks a home to abort an epoch that a bank left open (R338). -/
def State.hubAbort (s : State) (h : Handle) : State :=
  let (id, s) := s.newId
  let r : GsReq := { id := id, party := .hub s.hub.pkg.toNat, kind := 2, dst := none, h := h, asid := h.asid, sent := false }
  ({ s with gsreqs := s.gsreqs ++ [r] } : State).sendReq r

/-- The writer handles that a bank still holds are aborted and counted. -/
def State.abortHandles (s : State) (b : BankIx) : State :=
  (List.finRange 4).foldl (fun s (k : Fin 4) =>
    let h := handleOf (s.bank b).h[k]
    if !Bank.writer h then s
    else
      (s.hubAbort h).modBank b fun x =>
        { x with h := x.h.set k (handleBits { h with v := false }), aborts := x.aborts + 1 }) s

/-- A bank enters freewheel and its image is saved; the reads of its rings meet the ECC as every read does (R111). -/
def State.saveBank (s : State) (b : BankIx) : State :=
  if !(s.bank b).active then s
  else
    let s := (s.abortHandles b).modBank b fun x => { x with freewheel := true }
    let s := (s.bank b).inputs.foldl (fun s i =>
      (s.ringSlots b i).foldl (fun s e => s.eccRead 4 none 0 e.2.1 e.2.2) s) s
    { s with hub := { s.hub with ctx := s.hub.ctx ++ [⟨b, s.contextImage b⟩] } }

/-- Injection goes on after a freewheel. -/
def State.endFreewheel (s : State) : State :=
  { s with hub := { s.hub with fw := .running, fwReady := [] }, fd := { s.fd with stopFreewheel := false } }

/-- A freewheel has failed: nothing is saved, and the chain goes on. -/
def State.failFreewheel (s : State) : State :=
  { s with banks := vmap (fun (b : Bank) => { b with freewheel := false }) s.banks
           hub := { s.hub with fw := .failed, fwReady := [], ctx := [] }
           fd := { s.fd with stopFreewheel := false } }

/-- The supervisor notes a package's report; after the last one the command completes: every image is saved, or every
bank is restored and the sequencer may inject. -/
def State.fwCollect (s : State) (src : Nat) : State :=
  let got := (s.hub.fwReady ++ [src]).eraseDups
  let all := s.livePkgs.all got.contains
  let s := { s with hub := { s.hub with fwReady := got } }
  match s.hub.fw with
  | .quieting limit false =>
    let s := { s with hub := { s.hub with fw := .quieting limit true, fwReady := [] } }
    s.tellAll .freewheelGo
  | .quieting _ true =>
    if all then ({ s with hub := { s.hub with fw := .complete } } : State).finish 0 0 [] else s
  | .resuming =>
    if all then
      (if s.serves then s.endFreewheel
       else ({ s with hub := { s.hub with fw := .running, fwReady := [] } } : State).tell s.servingPkg .freewheelGo
      ).finish 0 0 []
    else s
  | _ => s

/-- A package reports to the supervisor, which may be itself. -/
def State.fwReport (s : State) : State :=
  let me := s.hub.pkg.toNat
  if s.isSuper then s.fwCollect me
  else ({ s with hub := { s.hub with fwReady := s.hub.fwReady ++ [me] } } : State).tell s.supervisor (.freewheelReady me)

/-- The freewheel state becomes f. -/
def State.setFw (s : State) (f : FwState) : State := { s with hub := { s.hub with fw := f } }

/-- FREEWHEEL_QUIET -/
def execFreewheelQuiet (s : State) : Host.Outcome State Fault Refusal :=
  if !s.quietDue then .next s
  else
    match s.hub.fw with
    | .quieting _ false => .next s.fwReport
    | .quieting _ true =>
      let s := allBanks.foldl State.saveBank s
      .next (if s.isSuper then s.fwReport
        else s.fwReport.setFw .saved)
    | _ => .next s

/-- Every hub learns that a freewheel begins. -/
def State.startFreewheel (s : State) (limit : Nat) : State :=
  { s with hub := { s.hub with fw := .quieting (s.clk + limit) false, fwReady := [], ctx := [] }
           fd := { s.fd with stopFreewheel := s.fd.stopFreewheel || s.serves } }

/-- The supervisor's time limit has passed. -/
def State.limitPassed (s : State) : Bool :=
  match s.hub.fw with
  | .quieting limit _ => s.isSuper && limit ≤ s.clk
  | _ => false

/-- FREEWHEEL_TIME_LIMIT -/
def execFreewheelTimeLimit (s : State) : Host.Outcome State Fault Refusal :=
  if s.limitPassed then .next ((s.failFreewheel.tellAll .freewheelFail).finish 5 0 []) else .next s

/-- Every bank of this package is restored. -/
def State.restoreAll (s : State) : State :=
  let s := s.hub.ctx.foldl State.restoreBank s
  let s := { s with hub := { s.hub with ctx := [], fwReady := [] } }
  if s.isSuper then { s with hub := { s.hub with fw := .resuming } }
  else if s.serves then { s with hub := { s.hub with fw := .resuming } }
  else { s with hub := { s.hub with fw := .running } }

/-! ## What has failed (R341, R331) -/

/-- The stages of a unit. -/
def Stage.inUnit (t : Stage) (x : FailedUnit) : Bool :=
  t.pkg = x.pkg && (match x.cog with
    | none => true
    | some c => t.cog = c)

/-- The image lets the protocol recover the unit (R342). -/
def Image.recoverable (im : Image) (x : FailedUnit) : Bool :=
  im.fallback.contains (.recoverable x.pkg) && (x.cog.isSome || im.serving ≠ some x.pkg)

/-- Open epochs are aborted for their home's hub (R148, R344). -/
def State.abortEpochs (s : State) (p : SealRec → Bool) : State :=
  (s.homes.filter fun r => r.open_.isSome && !r.aborting && p r).foldl (fun s r => s.startAbort r (r.open_.getD 0) none) s

/-- A package is known to have failed: this one takes the place of a home that it mirrors, ends what waited for the
failed package, asks its mirror what it had been asked and not answered (R343), and aborts the open epochs that include
a participant on it (R148). It holds injection no more (R401). When it is this package that is lost without recovery,
and its sequencer serves the chain, live requests end with REASON 7 (R367). DESIGN CHOICE (notes/assumptions/35.md):
requests that wait for tokenization or admission stay waiting then. -/
def State.packageFailed (s : State) (pkg : Nat) : State :=
  if s.hub.failedPkgs.contains pkg then s
  else
    let mine := (s.hub.mirrors.filter (·.1 = pkg)).map (·.2)
    let asked := s.gsreqs.filter fun r => r.sent && s.liveHome r.h.home.toNat = pkg
    let s := s.dropEdges fun e => e.1 = pkg || e.2 = pkg
    let s : State := { s with
      fd := { s.fd with holders := s.fd.holders.filter (· ≠ pkg) }
      accesses := s.accesses.map fun x => match x.sealReq with
        | some (_, _, name) => if s.homeOf name = some pkg then { x with sealReq := none } else x
        | none => x
      hub := { s.hub with failedPkgs := s.hub.failedPkgs ++ [pkg], polls := s.hub.polls.filter (·.1 ≠ pkg),
                          mirrors := s.hub.mirrors.filter (·.1 ≠ pkg) } }
    let s := mine.foldl State.setSealRec s
    let s := (asked.filter fun r => s.liveHome r.h.home.toNat ≠ pkg).foldl State.askAgain s
    let s := (s.homes.filter (·.aborting)).foldl (fun s r => s.revertDone pkg r.asid r.name (r.open_.getD 0)) s
    let s := s.abortEpochs fun r => r.joined.any fun p => partyPkg p = pkg
    let s : State :=
      if s.mirrorPkg.isSome then s
      else
        let w := s.hub.mirrorWait
        w.foldl (fun s e => s.sendAns e.2.2.1 e.2.2.2) { s with hub := { s.hub with mirrorWait := [] } }
    if pkg = s.hub.pkg.toNat && s.serves then { s with fd := { s.fd with stopError := true } }.endLive.retireDone else s

/-- A failed unit is out of use here. -/
def State.markFailed (s : State) (x : FailedUnit) : State :=
  match x.cog with
  | none => s.packageFailed x.pkg
  | some c =>
    match cog? c with
    | some k => if x.pkg = s.hub.pkg.toNat then s.modCog k fun y => { y with failed := true, holder := none } else s
    | none => s

/-- The supervisor declares a unit failed: every hub hears of a failed package, and writes the supervisor its record; the
recovery begins where the image allows it. -/
def State.declareOne (s : State) (x : FailedUnit) : State :=
  if x.cog.isNone && s.hub.failedPkgs.contains x.pkg then s
  else
    let s := if x.cog.isNone then (s.tellAll (.failed x.pkg)).record 0x06 (bytesOf 8 s.time.toNat ++ bytesOf 2 x.pkg) else s
    let s := s.markFailed x
    match s.image with
    | none => s
    | some im =>
      if im.recoverable x then (s.tellAll (.recover x)).tell s.hub.pkg.toNat (.recover x) else s

/-- Of some packages those that no live package reaches any more are declared failed, and then those that they alone
reached (R341). -/
def State.cutOff (s : State) (ys : List Nat) : Nat → State
  | 0 => s
  | n + 1 =>
    match ys.find? fun y => y ≠ s.hub.pkg.toNat && s.livePkgs.contains y && !((nbrs s.topo y).any s.livePkgs.contains) with
    | none => s
    | some y => (s.declareOne ⟨y, none⟩).cutOff (ys ++ nbrs s.topo y) n

/-- A unit is declared failed, and with a package those that its failure cuts off. -/
def State.declareFailed (s : State) (x : FailedUnit) : State :=
  (s.declareOne x).cutOff (if x.cog.isNone then nbrs s.topo x.pkg else []) s.livePkgs.length

/-- COG_FAILURE: the cog stops at once and its hub reports it; the record is of source 0x2 unless four check-column
mismatches were the reason (R331). -/
def execCogFailure (c : CogIx) (s : State) : Host.Outcome State Fault Refusal :=
  if (s.cog c).failed then .next s
  else
    let s := if 4 ≤ (s.cog c).mchecks.length then s
      else s.record 0x03 (bytesOf 8 s.time.toNat ++ bytesOf 8 (s.hub.pkg.toNat * 1024 + c.val * 2) ++ bytesOf 8 2)
    let s := s.modCog c fun x => { x with failed := true, holder := none, mchecks := [] }
    let me := s.hub.pkg.toNat
    .next (s.tell s.supervisor (.report me ⟨me, some c.val⟩))

/-- A port whose four links, failed ones among them, have delivered nothing for 1,048,576 fabric cycles, or which has no
link left (R341, R378). -/
def State.portSilent (s : State) (p : ChainPort) : Bool :=
  let q := s.ports[p]
  q.neighbour.isSome && !q.dead && (q.upLinks.isEmpty || (List.finRange 4).all fun l => q.links[l].lastRx + 2097152 ≤ s.clk)

/-- PORT_DEAD: the supervisor hears of it, and of how many ports to the neighbour are left (R341). -/
def execPortDead (p : ChainPort) (s : State) : Host.Outcome State Fault Refusal :=
  if !s.portSilent p then .next s
  else
    let s := s.portChange p fun q => { q with dead := true }
    match (s.ports[p]).neighbour with
    | none => .next s
    | some n =>
      let left := ((List.finRange 32).filter fun o => (s.ports[o]).live && (s.ports[o]).neighbour = some n).length
      let me := s.hub.pkg.toNat
      let s := if left = 0 then s.dropEdges fun e => e = (me, n) || e = (n, me) else s
      .next (s.tell (s.superFor n) (.portDead me n left))

/-- The supervisor hears of a dead port between two packages; when no port is left between them, one that no live package
reaches has failed. -/
def State.pairDead (s : State) (a b left : Nat) : State :=
  if 0 < left then s else
  (s.dropEdges fun e => e = (a, b) || e = (b, a)).cutOff [a, b] s.livePkgs.length

/-- The poll of a hub has gone without answer for 2,097,152 fabric cycles. -/
def State.hubLate (s : State) (pkg : Nat) : Bool := s.hub.polls.any fun e => e.1 = pkg && e.2 + 4194304 ≤ s.clk

/-- HUB_SILENT -/
def execHubSilent (pkg : Nat) (s : State) : Host.Outcome State Fault Refusal :=
  if s.hubLate pkg then
    .next (({ s with hub := { s.hub with polls := s.hub.polls.filter (·.1 ≠ pkg) } } : State).declareFailed ⟨pkg, none⟩)
  else .next s

/-- The hubs that this one polls: the supervisor every other one, the deputy the supervisor. -/
def State.polled (s : State) : List Nat :=
  if s.isSuper then s.otherPkgs
  else
    match s.image.bind (·.super) with
    | some (a, b) => if b = s.hub.pkg.toNat && s.livePkgs.contains a then [a] else []
    | none => []

/-- Polls go out to the hubs that have answered the last one, and the next ones are due 2^20 cycles later. -/
def State.pollAll (s : State) : State :=
  let l := s.polled
  if l.isEmpty then s
  else
    let me := s.hub.pkg.toNat
    let s := (l.filter fun p => !s.hub.polls.any (·.1 = p)).foldl (fun s p =>
      ({ s with hub := { s.hub with polls := s.hub.polls ++ [(p, s.clk)] } } : State).emit (.hub p (.poll me))) s
    s.schedule (s.clk + 1048576) (.hubMessage me (.poll me))

/-! ## What a recovery moves (R342, R344) -/

/-- A stage's place after the recovery of a unit. -/
def Image.moved (im : Image) (x : FailedUnit) (t : Stage) : Stage :=
  if !t.inUnit x then t
  else
    (im.fallback.findSome? fun f => match f with
      | .move p id pkg cog bank => if p = x.pkg && id = t.id then some { t with pkg := pkg, cog := cog, bank := bank } else none
      | _ => none).getD t

/-- The granules of a run, as runs of their own (R95, R186). -/
def PageRun.granules (r : PageRun) : List PageRun :=
  (r.leaves.map fun l =>
    if l.level = 2 then (splitBig l.w0 l.w1).zipIdx.map fun e =>
      ({ r with goff := BitVec.ofNat 52 (l.off + e.2 * 65536), target := e.1.1, len := 65536 } : PageRun)
    else [{ r with goff := BitVec.ofNat 52 l.off, target := l.w0, len := 65536 }]).flatten

/-- Two runs share offsets. -/
def PageRun.overlaps (r q : PageRun) : Bool :=
  q.goff.toNat < r.goff.toNat + r.len && r.goff.toNat < q.goff.toNat + q.len

/-- The run's first granule lies in a unit. -/
def PageRun.startsIn (r : PageRun) (x : FailedUnit) : Bool :=
  !abit r.attr 3 && r.pkg = x.pkg && (match x.cog with
    | none => true
    | some c => r.target.toNat / 2 ^ 43 % 512 = c)

/-- A run whose frames a unit held, all of them. -/
def PageRun.inUnit (r : PageRun) (x : FailedUnit) : Bool :=
  r.startsIn x && (x.cog.isNone || r.granules.all (·.startsIn x))

/-- The page runs of the image, those of which a cog held some frames but not all cut into granules, whoever holds them. -/
def Image.cutRuns (im : Image) (x : FailedUnit) : List PageRun :=
  if x.cog.isNone then im.runs
  else
    let torn := im.runs.filter fun r => !r.inUnit x && r.granules.any (·.startsIn x)
    (im.runs.map fun r => if torn.any r.overlaps then r.granules else [r]).flatten

/-- OWNER of a run. -/
def PageRun.owner (r : PageRun) : Nat := r.attr.toNat / 2 ^ 20 % 4096

/-- A run with another OWNER. -/
def PageRun.withOwner (r : PageRun) (o : Nat) : PageRun :=
  { r with attr := (r.attr &&& ~~~ (0xFFF00000 : Word)) ||| BitVec.ofNat 64 (o * 2 ^ 20) }

/-- The lost runs of a unit at their KIND 0x03 targets: of a record that covers more than was lost, the granules lost. -/
def Image.rebuilt (im : Image) (x : FailedUnit) : List PageRun :=
  let lost := (im.cutRuns x).filter fun r => r.inUnit x && !abit r.attr 14
  (im.fallback.map fun f => match f with
    | .run p goff target len =>
      let at_ : PageRun := { goff := BitVec.ofNat 52 goff.toNat, attr := 0, target := target, len := len }
      match if p = x.pkg then lost.find? at_.overlaps else none with
      | none => []
      | some r =>
        let q := { at_ with attr := r.attr }
        if x.cog.isNone then [q] else q.granules.filter fun g => lost.any g.overlaps
    | _ => []).flatten

/-- The runs after a recovery: lost ones at their KIND 0x03 targets, and read-duplicate ones whose OWNER was lost with
the lowest-numbered live holder as OWNER. -/
def Image.runsAfter (im : Image) (x : FailedUnit) (live : List Nat) : List PageRun :=
  let lost := (im.cutRuns x).filter fun r => r.inUnit x
  let kept := (im.cutRuns x).filter fun r => !r.inUnit x
  let own (r : PageRun) : PageRun :=
    if abit r.attr 14 && r.owner = x.pkg && lost.any (fun q => q.goff = r.goff) then
      match (sortBy (fun n => n) ((kept.filter fun q => q.goff = r.goff && live.contains q.pkg).map PageRun.pkg)).head? with
      | some o => r.withOwner o
      | none => r
    else r
  kept.map own ++ im.rebuilt x

/-- The packages that a unit's stages and pages move to. -/
def Image.targets (im : Image) (x : FailedUnit) : List Nat :=
  ((im.stages.filter fun t => t.inUnit x).map (fun t => (im.moved x t).pkg) ++
    im.fallback.filterMap (fun f => match f with
      | .run p _ target _ => if p = x.pkg then some (target.toNat / 2 ^ 52) else none
      | _ => none)).eraseDups

/-- The sections of a unit that are sent again. -/
def Image.resent (im : Image) (x : FailedUnit) : List (Section × Nat) :=
  im.sections.zipIdx.filter fun e => e.1.pkg = x.pkg && 2 ≤ e.1.type && e.1.type ≤ 6 && (match x.cog with
    | none => true
    | some c => e.1.cog = c || e.1.cog = 0xFFFF)

/-- Code and data that every package keeps, and that a package of its own was to place (R183). -/
def Image.shared (im : Image) (x : FailedUnit) : List (Section × Nat) :=
  im.sections.zipIdx.filter fun e => e.1.pkg = 0xFFFF && e.1.placedBy im.chunks x.pkg

/-- Everything that this package needs of a unit is held and matches its digest. -/
def State.resentHeld (s : State) (im : Image) (x : FailedUnit) : Bool :=
  !(im.targets x).contains s.hub.pkg.toNat ||
  (im.resent x).all fun e => heldAll (im.chunks ++ s.boot.extra) e.1.off e.1.len &&
    digestOk (im.chunks ++ s.boot.extra) e.1 e.2

/-- The image source sends a unit's sections to the packages that need them (R344, R389). -/
def State.resendUnit (s : State) (im : Image) (x : FailedUnit) : State :=
  let me := s.hub.pkg.toNat
  if s.boot.source ≠ some me then s
  else
    let us := sortBy (fun n => n) ((im.resent x).map fun e => runUnits (e.1.off, e.1.len)).flatten.eraseDups
    ((im.targets x).filter (· ≠ me)).foldl (fun s d => s.sendUnits d me im.chunks us) s

/-! ## Pages (R344 step 4) -/

/-- The granules of a run: offset and frame. -/
def runPlaces (r : PageRun) : List (Nat × Nat) := r.granules.map fun g => (g.goff.toNat, granuleAddr g.target)

/-- A leaf is mapped over what stood there. -/
def State.remapLeaf (s : State) (asid : BitVec 12) (l : Leaf) : State :=
  let s : State := match s.leafPlace asid l.off with
    | some (2, a) =>
      if l.level = 3 && abit (s.entry a).2 0 then ((s.splitPage asid l.off).map fun e => e.2).getD s else s
    | _ => s
  s.mapLeaf asid l

/-- The runs that this package maps anew: those that neither stood in the image nor are a granule of one that did. -/
def changedRuns (old new : List PageRun) (me : Nat) : List PageRun :=
  (ownRuns new me).filter fun r => !(ownRuns old me).any fun q => q = r || (q.overlaps r && q.granules.contains r)

/-- The page tables take the runs of a recovery; the frames of those rebuilt on this package are zero first. -/
def State.remapRuns (s : State) (old new rebuilt : List PageRun) : State :=
  let me := s.hub.pkg.toNat
  let changed := changedRuns old new me
  let s := { s with hub := { s.hub with
    frames := (s.hub.frames ++ (changed.map (runFrames me)).flatten).eraseDups } }
  let fresh := changed.filter (rebuilt.contains ·)
  let s := ((fresh.map (runFrames me)).flatten).foldl State.zeroFrame s
  let s := changed.foldl (fun s r => r.leaves.foldl (fun s l => s.remapLeaf 0 l) s) s
  { s with cogs := vmap (fun (c : Cog) => { c with tlb := [] }) s.cogs }

/-- Where bytes of a unit's memory are now: at the target of their page's run, or in the cog that their stage moved to;
none when they are not on this package. -/
def State.newPlace (s : State) (im : Image) (x : FailedUnit) (new : List PageRun) (a : Nat) : Option Nat :=
  let me := s.hub.pkg.toNat
  let g := a / 65536 * 65536
  match ((im.cutRuns x).filter fun r => r.inUnit x).findSome? fun r => (runPlaces r).find? fun e => e.2 = g with
  | some (off, _) =>
    (new.filter fun r => r.pkg = me && !abit r.attr 3).findSome? fun r =>
      ((runPlaces r).find? fun e => e.1 = off).map fun e => e.2 + a % 65536
  | none =>
    ((im.stages.filter fun t => t.inUnit x && t.cog = physCog a).map (im.moved x)).findSome? fun t =>
      if t.pkg = me then some (physAddr t.cog (physStk a) (physOff a)) else none

/-- Where the bytes of a placed section of a unit go, granule by granule. -/
def State.newPieces (s : State) (im : Image) (x : FailedUnit) (new : List PageRun) (bs : List Byte) :
    List (Nat × List Byte) :=
  let a := placeOf bs
  let d := bs.drop 16
  let first := 65536 - a % 65536
  (List.range ((d.length + a % 65536 + 65535) / 65536)).filterMap fun k =>
    let lo := if k = 0 then 0 else first + (k - 1) * 65536
    let n := if k = 0 then first else 65536
    (s.newPlace im x new (a + lo)).map fun p => (p, (d.drop lo).take n)

/-- Per-sequence pages with frames in a failed cog of this package become absent, and their ASIDs go to the sequencer. -/
def State.lostArenas (s : State) (x : FailedUnit) : State :=
  match x.cog with
  | none => s
  | some c =>
    if x.pkg ≠ s.hub.pkg.toNat then s
    else
      ((List.range 4095).map (· + 1)).foldl (fun s asid =>
        let offs := (s.hub.arenas.map fun a => (List.range (a.2.1 / 65536)).map fun k => a.1.toNat + k * 65536).flatten
        let s := offs.foldl (fun s o => s.eccWalk none (BitVec.ofNat 64 o) (BitVec.ofNat 12 asid) o) s
        let lost := offs.filter fun o => match s.leafPlace (BitVec.ofNat 12 asid) o with
          | none => false
          | some (_, e) => abit (s.entry e).2 0 && physCog (granuleAddr (s.entry e).1) = c
        if lost.isEmpty then s
        else
          (lost.foldl (fun s o => s.changeLeaf (BitVec.ofNat 12 asid) o fun w => (w.1, w.2 &&& ~~~ w1bit 0)) s).tell
            s.servingPkg (.lostAsid asid)) s

/-! ## Edges (R345) -/

/-- N of the edge at a stage's port: packets of the steps below B. -/
def edgeCount (im : Image) (b : Nat) (t : Stage) (k : Nat) : Nat :=
  let q := (repetition im.stages).getD []
  let r := t.port k
  if 8 ≤ k then b * qOf q t.id * r.rate
  else if r.endpoint then b
  else
    match stageById im.stages r.peer with
    | none => 0
    | some p => b * qOf q p.id * (p.port r.peerPort).rate

/-- The package at the other end of a stage's port. -/
def peerPkg (l : List Stage) (t : Stage) (k : Nat) : Nat :=
  let r := t.port k
  if r.endpoint then r.peer.toNat % 4096 else ((stageById l r.peer).map (·.pkg)).getD t.pkg

/-- The ports of a stage that a recovery has activated here: an edge between two moved stages starts from N; one with a
live end waits for that end's counters. -/
def State.movedPorts (s : State) (im : Image) (x : FailedUnit) (n : Nat) (t : Stage) : State :=
  match bank? t.bankNo with
  | none => s
  | some b =>
    s.modBank b fun y => { y with ports := Vector.mk ((List.finRange 16).map fun i =>
      let q := y.ports[i]
      let r := t.port i.val
      let c := edgeCount im n t i.val
      if !q.bound then q
      else if !r.endpoint && ((stageById im.stages r.peer).map fun p => p.inUnit x).getD false then
        { q with cum := BitVec.ofNat 16 c, freed := BitVec.ofNat 16 c, slot := c % Nat.max 1 q.depth }
      else { q with cum := 0, freed := 0, await := .counters }).toArray (by simp) }

/-- The live ends here of a moved stage's edges: each takes the new place of the other end and tells it its counters; a
live producer waits until the consumer has them. -/
def State.liveEnds (s : State) (im : Image) (l : List Stage) (x : FailedUnit) : State :=
  let s := (allBanks.filter fun b => (s.bank b).active).foldl (fun s b =>
    (List.finRange 16).foldl (fun s i =>
      let y := s.bank b
      let r := y.stage.port i.val
      match if r.bound && !r.endpoint then stageById im.stages r.peer else none with
      | none => s
      | some o =>
        if !o.inUnit x || y.stage.inUnit x then s
        else
          let p := portAt im.chunks l y.stage i.val
          let q := { y.ports[i] with peer := p.peer, ring := p.ring,
                                     await := if 8 ≤ i.val then .ack else y.ports[i].await }
          let port : Fin 16 := ⟨r.peerPort % 16, Nat.mod_lt _ (by omega)⟩
          (s.modBank b fun y => y.setPort i q).tell (im.moved x o).pkg (.edge o.id port q.cum q.freed q.slot)) s) s
  s.fd.edges.foldl (fun s e =>
    match stageById im.stages e.stage with
    | none => s
    | some o =>
      if !o.inUnit x then s
      else
        let t := im.moved x o
        let port : Fin 16 := ⟨(e.port.val + if e.done then 8 else 0) % 16, Nat.mod_lt _ (by omega)⟩
        (s.modEdge (fun y => y.stage = e.stage && y.port = e.port && y.done = e.done) fun y =>
          { y with pkg := t.pkg, bank := t.bankNo }).tell t.pkg (.edge o.id port e.cum e.freed e.slot)) s

/-- A packet of a producer's replay window, as it stands in the send ring; a null packet where the ring does not hold
it. -/
def State.replayPacket (s : State) (b : BankIx) (i : Fin 16) (n : BitVec 16) (back : Nat) : Packet × State :=
  let q := (s.bank b).ports[i]
  let blank : Packet := let (w0, w1) := s.putHeader b q 0 n; { w0 := w0, w1 := w1, payload := [] }
  match s.ringSeg b i with
  | none => (blank, s)
  | some g =>
    let (k, s) := s.sentPacket (slotOf g q (q.depth - back))
    if k.w1 ≠ blank.w1 then (blank, s)
    else
      let (w0, w1) := s.putHeader b q k.payload.length n
      ({ k with w0 := w0 ||| (k.w0 &&& 512), w1 := w1 }, s)

/-- Packets go to a consumer's package. -/
def State.sendStream (s : State) (pkg : Nat) (k : Packet) : State :=
  if pkg = s.hub.pkg.toNat then
    s.scheduleAfter (fun e => match e with
      | .streamPacket (.packet ..) => true
      | _ => false) (.streamPacket (.packet k.w0 k.w1 k.payload))
  else s.sendPacket k

/-- A live producer sends again what the moved consumer has not freed. -/
def State.replay (s : State) (b : BankIx) (i : Fin 16) : State :=
  let q := (s.bank b).ports[i]
  let m := (q.cum - q.freed).toNat
  let pkg := match q.peer with
    | .stage pkg .. => pkg
    | _ => s.hub.pkg.toNat
  let s := (List.range m).foldl (fun s j =>
    let (k, s) := s.replayPacket b i (q.freed + BitVec.ofNat 16 j) (m - j)
    s.sendStream pkg k) s
  s.modBank b fun x => x.setPort i { x.ports[i] with await := .none }

/-- The sequencer sends again on a start edge whose consumer has moved. -/
def State.replayStart (s : State) (e : SeqEdge) : State :=
  let m := (e.cum - e.freed).toNat
  (e.packets.drop (e.packets.length - m)).foldl (fun s p =>
    let w := headerWords 0 e.pkg (e.bank / 2) s.hub.pkg.toNat 0x1FF (p.2.2.length / 32) e.port.val e.stage.toNat
      (p.2.1.toNat % 65536)
    s.startSend e w p.2.2) s

/-- Counters of the other end are taken at a moved stage's port, and that end hears of it. -/
def State.takeEdge (s : State) (im : Image) (b : BankIx) (i : Fin 16) (cum freed : BitVec 16) (slot : Nat) : State :=
  let x := s.bank b
  let q := x.ports[i]
  let n := edgeCount im s.fd.recovB x.stage i.val
  let d := Nat.max 1 q.depth
  let q := if i.val < 8 then
      { q with cum := freed, freed := freed, slot := (slot + q.depth - (cum - freed).toNat) % d,
               discard := (BitVec.ofNat 16 n - freed).toNat, await := .none }
    else
      { q with cum := cum, freed := freed, slot := (slot + (cum - freed).toNat) % d,
               fill := (BitVec.ofNat 16 n - cum).toNat, await := .none }
  let s := s.modBank b fun x => x.setPort i q
  let r := x.stage.port i.val
  let peer : BitVec 32 := if r.endpoint then x.stage.id else r.peer
  let port : Fin 16 := if r.endpoint then i else ⟨r.peerPort % 16, Nat.mod_lt _ (by omega)⟩
  s.tell (peerPkg im.stages x.stage i.val) (.edge peer port 0 0 0)

/-- The bank of a stage here. -/
def State.bankOfStage (s : State) (id : BitVec 32) : Option BankIx :=
  allBanks.find? fun b => (s.bank b).active && (s.bank b).stage.id = id

/-- Word of the other end of an edge: its counters for a moved stage here, kept until the stage is here; or the consent
that a live producer waits for. -/
def State.edgeMsg (s : State) (id : BitVec 32) (port : Fin 16) (cum freed : BitVec 16) (slot : Nat) : State :=
  match s.image, s.bankOfStage id with
  | some im, some b =>
    match ((s.bank b).ports[port]).await with
    | .counters => s.takeEdge im b port cum freed slot
    | .ack => s.replay b port
    | .none =>
      match s.fd.edges.find? fun e => e.stage = id && !e.done && e.port.val = port.val with
      | some e => s.replayStart e
      | none => s
  | some _, none =>
    match s.fd.edges.find? fun e => e.stage = id && !e.done && e.port.val = port.val with
    | some e => s.replayStart e
    | none => { s with hub := { s.hub with edgeMsgs := s.hub.edgeMsgs ++ [(id, port, cum, freed, slot)] } }
  | none, _ => s

/-! ## The protocol (R344) -/

/-- A recovery here is over when its stages and pages have moved and no port waits. -/
def State.checkRecovered (s : State) : State :=
  if s.hub.recov.isEmpty || !s.hub.recov.all (·.2.2) ||
      (allBanks.any fun b => (s.bank b).ports.toList.any (·.await ≠ .none)) then s
  else
    let me := s.hub.pkg.toNat
    ({ s with hub := { s.hub with recov := [] } } : State).tell s.servingPkg (.recovered me)

/-- The banks of this package that a unit's stages leave are inactive. -/
def State.dropBanks (s : State) (im : Image) (x : FailedUnit) : State :=
  ((im.stages.filter fun t => t.inUnit x && t.pkg = s.hub.pkg.toNat).filterMap fun t => bank? t.bankNo).foldl (fun s b =>
    s.modBank b fun y => { Bank.reset with iter := y.iter + 1 }) s

/-- A stage of a unit is activated in its target bank here, with q(S) * B as its firing count (R345); the target cog's weight
buffers are EMPTY (R295), and what its iteration-private windows hold is undefined (R39). -/
def State.moveStage (s : State) (im new : Image) (x : FailedUnit) (n : Nat) (t : Stage) : State :=
  let t' := im.moved x t
  match bank? t'.bankNo with
  | none => s
  | some b =>
    let s := (s.activateStage new t' t).movedPorts im x n t'
    let s := s.modBank b fun y =>
      { y with rerun := true, firings := qOf ((repetition im.stages).getD []) t.id * n }
    s.modCog b.cog fun c => { c with wbuf := Vector.replicate 2 WBuf.reset }

/-- Steps 3 to 5 on this package, once everything it needs has come. -/
def State.moveUnit (s : State) (x : FailedUnit) (n : Nat) : State :=
  match s.image with
  | none => s
  | some im =>
    if !s.resentHeld im x then s
    else
      let me := s.hub.pkg.toNat
      let full := { im with chunks := im.chunks ++ s.boot.extra }
      let l := im.stages.map (im.moved x)
      let runs := im.runsAfter x s.livePkgs
      let new := { full with stages := l, runs := runs }
      let secs := if (im.targets x).contains me
        then ((im.resent x).filter fun e => e.1.type = 2 || e.1.type = 6) ++ im.shared x else []
      let pieces := (secs.map fun e =>
        (s.newPieces im x runs (e.1.bytes full.chunks)).map fun p => ((e.1.type = 6 : Bool), p)).flatten
      let changed := changedRuns im.runs runs me
      let touched := (pieces.map fun p => (p.2.1, p.2.2.length)) ++
        (changed.map (runFrames me)).flatten.map (fun f => (f, 65536)) ++
        (changed.map fun r => (r.leaves.map fun l => s.walkRuns 0 l.off).flatten).flatten ++
        (if x.cog.isSome && x.pkg = me then ((List.range 4095).map fun a => s.arenaRuns (a + 1)).flatten else [])
      s.hubWork touched (.hubMessage me (.moveUnit x)) fun s =>
      let s := ((s.remapRuns im.runs runs (im.rebuilt x)).lostArenas x).putSections (tileRuns new me) pieces
      let s := s.answerHeld fun h => h.2.2.2 ≠ 0x33 && im.rebuilds x h.2.1 h.2.2.1.toNat
      let mine := (im.stages.filter fun t => t.inUnit x && (im.moved x t).pkg = me)
      let s := ({ s with image := some new, boot := { s.boot with extra := [] } } : State).dropBanks im x
      let s := mine.foldl (fun s t => s.moveStage im new x n t) s
      let s := s.liveEnds im l x
      let msgs := s.hub.edgeMsgs
      let rs := s.hub.recov.map fun e => if e.1 = x then (e.1, e.2.1, true) else e
      let s := { s with hub := { s.hub with edgeMsgs := [], recov := rs } }
      (msgs.foldl (fun s m => s.edgeMsg m.1 m.2.1 m.2.2.1 m.2.2.2.1 m.2.2.2.2) s).checkRecovered

/-- RECOVERY: the image source sends the unit's sections again; stages and pages move. -/
def execRecovery (x : FailedUnit) (s : State) : Host.Outcome State Fault Refusal :=
  match s.hub.recov.find? fun e => e.1 = x && !e.2.2, s.image with
  | some (_, n, _), some im => .next ((s.resendUnit im x).moveUnit x n)
  | _, _ => .next s

/-- What a piece holds before and after a section. -/
def Section.cutOut (x : Section) (p : Nat × List Byte) : List (Nat × List Byte) :=
  let e := Nat.max p.1 (x.off + x.len)
  [(p.1, p.2.take (x.off - p.1)), (e, p.2.drop (e - p.1))].filter fun q => !q.2.isEmpty

/-- A piece of a section sent again arrives; the bytes of a section that fails its digest are dropped. -/
def State.extraPiece (s : State) (off : Nat) (data : List Byte) : State :=
  match s.image with
  | none => s
  | some im =>
    let ex := s.boot.extra ++ [(off, data)]
    let bad := ((s.hub.recov.map fun r => im.resent r.1).flatten.filter fun e =>
      e.1.off < off + data.length && off < e.1.off + e.1.len &&
      heldAll (im.chunks ++ ex) e.1.off e.1.len && !digestOk (im.chunks ++ ex) e.1 e.2).map (·.1)
    let s := { s with boot := { s.boot with extra := bad.foldl (fun ex (x : Section) => (ex.map x.cutOut).flatten) ex } }
    (s.hub.recov.filter fun e => !e.2.2).foldl (fun s e => s.moveUnit e.1 e.2.1) s

/-- A recovery of the unit begins at every hub; the sequencer stops, and tells them B and the names of its steps not yet
put, whose epochs stay open (R344). A name whose opening a failed home has not answered is opened again, at its mirror
(R343); with arenas in a failed package every sequence starts again. -/
def State.recoverUnit (s : State) (x : FailedUnit) : State :=
  let s := s.markFailed x
  if !s.serves then s
  else
    let lost : Bool := x.cog.isNone && !s.hub.arenas.isEmpty
    let base := (s.fd.conf.map (·.kvbase)).getD 0
    let name (n : StepName) : BitVec 16 := base + BitVec.ofNat 16 n.j
    let unheard (r : GsReq) : Bool := x.cog.isNone && r.kind = 0 && r.dst.isNone && r.h.home.toNat = x.pkg
    let late (n : StepName) : Bool := n.state = .opening && s.gsreqs.any fun r => r.id = n.req && unheard r
    let steps := s.fd.steps.map fun (t : Step) =>
      if t.put || t.done.isSome then t
      else { t with names := t.names.map fun n => if late n then { n with state := .toOpen, req := 0 } else n }
    let keep := ((steps.filter fun t => !t.put && t.done.isNone).map fun t =>
      (t.names.filter fun n => n.state ≠ .toOpen).map fun n => (BitVec.ofNat 12 n.asid, name n)).flatten
    let seqs := s.fd.seqs.map fun (q : Sequence) => if lost then { q with replay := !q.done } else q
    let s := { s with
      gsreqs := s.gsreqs.filter fun r => !unheard r
      fd := { s.fd with stopRecovery := true, recovB := s.fd.nextStep, steps := steps, seqs := seqs }
      hub := { s.hub with recovWait := s.livePkgs } }
    s.livePkgs.foldl (fun s p => s.tell p (.recoverFrom x s.fd.nextStep keep)) s

/-- A hub learns B, and aborts every open epoch of its records but those of steps not yet injected (R344). -/
def State.recoverFrom (s : State) (x : FailedUnit) (n : Nat) (keep : List (BitVec 12 × BitVec 16)) : State :=
  let s := (s.markFailed x).abortEpochs fun r => !keep.contains (r.asid, r.name)
  let s := { s with fd := { s.fd with recovB := n },
                    hub := { s.hub with recov := s.hub.recov ++ [(x, n, false)] } }
  s.schedule (s.clk + 1) (.recovery x)

/-- Sequences that lost pages and have no step start again; a step not yet put that one of them is part of is given up
first (R346, R364). -/
def State.restartLost (s : State) : State :=
  let lost (a : Nat) : Bool := s.fd.seqs.any fun q => q.asid = a && q.replay && !q.done
  let s := (s.fd.steps.filter fun t => !t.put && t.done.isNone && t.asids.any lost).foldl State.giveUp s
  (s.fd.seqs.filter fun q => q.replay && !q.done && !s.fd.inStep q.asid).foldl (fun s q => s.restartSeq q.asid) s

/-- Outside a recovery such sequences start again at once. -/
def State.restartIdle (s : State) : State := if s.fd.stopRecovery then s else s.restartLost

/-- A package's recovery is over; after the last one the sequencer injects again (R344 step 6, R346). -/
def State.recovered (s : State) (src : Nat) : State :=
  let w := s.hub.recovWait.filter (· ≠ src)
  let s := { s with hub := { s.hub with recovWait := w } }
  if w.isEmpty && s.fd.stopRecovery then
    ({ s with fd := { s.fd with stopRecovery := false } } : State).restartLost
  else s

end Sys2Proof.Machine
end

