-- ==== Sys2Proof/Machine/Boot.lean ====
section
/-! DEFINITION. Broadcast boot: the pieces of a chain image, their way down the tree (R386), the checks and the READY,
FAIL, ACTIVATE and ABANDON reports (R388, R389), the load from the host (R393) and the activation. -/

namespace Sys2Proof.Machine

/-! ## The tree (R386) -/

/-- The children of this package in the tree of the image being received. -/
def State.bootKids (s : State) : List Nat :=
  match s.boot.root with
  | none => []
  | some r => treeChildren s.topo r s.hub.pkg.toNat

/-- The parent of this package in that tree. -/
def State.bootParent (s : State) : Option Nat := s.boot.root.bind fun r => treeParent s.topo r s.hub.pkg.toNat

/-- The units of the image that a child is to have: those of the header, the directory, the sections of every package, and
the sections of its subtree. -/
def State.childUnits (s : State) (child : Nat) : List Nat :=
  let h := s.boot.chunks
  let hd := heldBytes h 0 64
  let root := s.boot.root.getD s.hub.pkg.toNat
  (((0, 64) :: (le hd 24 8, 32 * le hd 16 4) ::
    ((directory h).filter fun x => x.pkg = 0xFFFF || inSubtree s.topo root child x.pkg 4096).map fun x =>
      (x.off, x.len)).map runUnits).flatten

/-- The units that can be sent since the pieces forwarded last time: those that the new pieces touch and complete, and all
that are complete when header and directory have just been held. -/
def Boot.newUnits (x : Boot) : List Nat :=
  let old := x.chunks.take x.sent
  let ps := if headHeld old then x.chunks.drop x.sent else x.chunks
  sortBy (fun n => n) (((ps.map fun p => runUnits (p.1, p.2.length)).flatten.eraseDups).filter fun u =>
    unitHeld x.chunks u && !unitHeld old u)

/-- What has come since the last time goes to the children, once header and directory are held. -/
def State.forwardBoot (s : State) : State :=
  if !headHeld s.boot.chunks then s
  else
    let us := s.boot.newUnits
    let s' := s.bootKids.foldl (fun t c =>
      let cs := s.childUnits c
      t.sendUnits c (s.boot.root.getD 0) s.boot.chunks (us.filter cs.contains)) s
    { s' with boot := { s'.boot with sent := s'.boot.chunks.length } }

/-! ## Outcomes (R388, R389, R393) -/

/-- STATE changes, with REASON and FAILPKG; vector 2 signals a change of STATE (R390). -/
def State.setImg (s : State) (st : ImgState) (reason : BitVec 8) (pkg : Nat) : State :=
  let t := { s with hub := { s.hub with imgState := st, imgReason := reason, imgFailPkg := BitVec.ofNat 12 pkg } }
  if s.hub.imgState = st then t else t.emit (.msix 2)

/-- The ID of the image being received, once the parts that it is made of are held (R387). -/
def Boot.imageId? (x : Boot) : List Byte :=
  if headHeld x.chunks && (signatureOf x.chunks).all fun g => heldAll x.chunks g.off g.len then imageId x.chunks else []

/-- A report may be about the image being received: its ID is the same, as far as both packages can compute it. -/
def Boot.mayBe (x : Boot) (id : List Byte) : Bool := id.isEmpty || x.imageId?.isEmpty || id = x.imageId?

/-- The image being received is forgotten; the active one's source stays, and so do the root and the ID for late reports. -/
def State.dropBoot (s : State) (wait : Bool) : State :=
  { s with boot := { Boot.reset with root := s.boot.root, source := s.boot.source, reported := wait, extra := s.boot.extra,
                                     failedId := s.boot.imageId? } }

/-- ABANDON goes down the tree. -/
def State.tellAbandon (s : State) (reason : BitVec 8) (pkg : Nat) : State :=
  s.bootKids.foldl (fun s c => s.emit (.abandon c reason pkg)) s

/-- This package refuses the image: the root has it abandoned, any other package reports FAIL to its parent and takes no
more pieces until ABANDON. -/
def State.bootFail (s : State) (reason : Nat) : State :=
  let me := s.hub.pkg.toNat
  let rs : BitVec 8 := BitVec.ofNat 8 reason
  let id := s.boot.imageId?
  let isRoot : Bool := s.boot.root = some me
  let s := s.setImg .refused rs me
  if isRoot then (s.tellAbandon rs me).dropBoot false
  else
    (match s.bootParent with
      | some p => s.emit (.fail p me id rs)
      | none => s).dropBoot true

/-- A disciplined package whose image passed the checks, and whose children are ready, reports READY; the root sends
ACTIVATE instead, for a time of its choice at least 2^22 cycles on. -/
def State.tryReady (s : State) : State :=
  let me := s.hub.pkg.toNat
  match s.hub.imgState, s.boot.image with
  | .checking, some im =>
    if s.boot.reported || s.td.state ≠ .disciplined || !s.bootKids.all fun k => s.boot.reports.contains (k, im.id) then s
    else if s.boot.root = some me then
      let (n, s) := s.draw
      let t : Word := s.time + BitVec.ofNat 64 (2 ^ 22 + Config.freeNat n)
      let s := { s with boot := { s.boot with reported := true, actAt := some t } }.setImg .ready 0 0
      s.bootKids.foldl (fun s c => s.emit (.activate c t)) s
    else
      let s := { s with boot := { s.boot with reported := true } }
      match s.bootParent with
      | some p => s.emit (.ready p me im.id)
      | none => s
  | _, _ => s

/-- Everything that this package keeps has come: the checks of R388. -/
def State.checkImage (s : State) : State :=
  let h := s.boot.chunks
  let s := s.setImg .checking 0 0
  match s.imageReasons h s.boot.size with
  | [] =>
    { s with boot := { s.boot with image := some (parseImage h s.hub.pkg.toNat) } }.tryReady
  | r :: rs => s.bootFail (rs.foldl Nat.min r)

/-- A wrong magic or version: the rest of the string cannot be read as a chain image (R182). -/
def headerBad (h : List (Nat × List Byte)) : Bool := heldAll h 0 64 && !magicOk h

/-- The root refuses the image for a package's reason, and has it abandoned. -/
def State.rootFail (s : State) (src : Nat) (reason : BitVec 8) : State :=
  ((s.setImg .refused reason src).tellAbandon reason src).dropBoot false

/-- Once the root can compute the image's ID, the reports that name it count, the lowest reason first; the others were
late ones of an image before (R389, R393). -/
def State.lateFails (s : State) : State :=
  let own := s.boot.imageId?
  if own.isEmpty || s.boot.fails.isEmpty then s
  else
    match sortBy (fun e => e.2.2.toNat) (s.boot.fails.filter fun e => e.2.1 = own) with
    | [] => { s with boot := { s.boot with fails := [] } }
    | e :: _ => s.rootFail e.1 e.2.2

/-- A piece of the image arrives while it is being received, checked or waiting for T. One that conflicts with bytes held
makes the image refused (R386), with a lower reason when the image as it was held has one (R393). Once everything that this
package keeps has come it is checked; one read from the host is first read to its end (State.imageRead). -/
def State.bootPiece (s : State) (off : Nat) (data : List Byte) : State :=
  let h := s.boot.chunks
  if heldClash h off data then
    s.bootFail ((if keptHeld h s.hub.pkg.toNat then s.imageReasons h s.boot.size else []).foldl Nat.min 0x12)
  else if s.hub.imgState = .ready || heldAll h off data.length then s
  else
    let s := { s with boot := { s.boot with chunks := h ++ [(off, data)] } }
    if headerBad s.boot.chunks then s.bootFail 0x10
    else
      let s := s.forwardBoot.lateFails
      if s.hub.imgState = .receiving && !s.boot.fromHost && keptHeld s.boot.chunks s.hub.pkg.toNat then s.checkImage else s

/-- An image begins to be received from a root; what is still read from the host for an earlier load is not of this one. -/
def State.bootStart (s : State) (root : Nat) (fromHost : Bool) (size : Option Nat) : State :=
  let s := s.setImg .receiving 0 0
  let reads := s.hub.reads.filter fun r => match r.2 with
    | .image _ => false
    | _ => true
  { s with hub := { s.hub with reads := reads }
           boot := { Boot.reset with root := some root, source := s.boot.source, fromHost := fromHost, size := size,
                                     extra := s.boot.extra } }

/-- STATE is one in which a load may start. -/
def ImgState.idleLike (x : ImgState) : Bool := x = .idle || x = .active || x = .refused || x = .abandoned

/-- The first piece of a new image comes from a root. While an image is active a piece that repeats its bytes is only
remembered: a late duplicate begins nothing, and the new image begins with the first piece that differs, or when everything
this package keeps has come again (R386; notes/assumptions/33.md). -/
def State.firstPiece (s : State) (root off : Nat) (data : List Byte) : State :=
  let again := s.boot.again ++ [(off, data)]
  let start (s : State) : State := again.foldl (fun s p =>
    if s.hub.imgState = .receiving || s.hub.imgState = .checking then s.bootPiece p.1 p.2 else s)
    (s.bootStart root false none)
  match s.image with
  | some im =>
    if s.hub.imgState = .active && heldAll im.chunks off data.length && !heldClash im.chunks off data &&
        !keptHeld again s.hub.pkg.toNat
    then { s with boot := { s.boot with again := again } }
    else start s
  | none => start s

/-- A piece is of a section of the active image that a recovery sends again: one is in progress here, and no image is being
received from the piece's root (R344, R389; notes/assumptions/33.md). -/
def State.resends (s : State) (root : Nat) : Bool :=
  s.image.isSome && (s.hub.recov.any fun e => !e.2.2) &&
  (s.hub.imgState.idleLike || (s.boot.source = some root && s.boot.root ≠ some root))

/-- BOOT_CHUNK: a piece of a section sent again in a recovery, whatever became of a later image; else a piece of the image
being received, or the first of a new one. -/
def execBootChunk (root off : Nat) (data : List Byte) (s : State) : Host.Outcome State Fault Refusal :=
  if s.resends root then .next (s.extraPiece off data)
  else match s.hub.imgState with
  | .receiving | .checking | .ready => .next (s.bootPiece off data)
  | .refused => if s.boot.reported then .next s else .next (s.firstPiece root off data)
  | .idle | .active | .abandoned => .next (s.firstPiece root off data)

/-- BOOT_MESSAGE: TYPE 0x10, zeros, offset, bytes; this package is the boot root. -/
def execBootMessage (msg : List Byte) (s : State) : Host.Outcome State Fault Refusal :=
  let me := s.hub.pkg.toNat
  if msg.length < 16 || le msg 0 1 ≠ 0x10 || !zeros msg 1 7 then .next s
  else
    let off := le msg 8 8
    let data := msg.drop 16
    if s.hub.imgState.idleLike then .next (s.firstPiece me off data)
    else if s.boot.root = some me then .next (s.bootPiece off data)
    else .next s

/-- READY_REPORT: of a child, with the image ID that it gives; it counts for the image of that ID alone (R388). -/
def execReadyReport (src : Nat) (id : List Byte) (s : State) : Host.Outcome State Fault Refusal :=
  if (s.hub.imgState = .receiving || s.hub.imgState = .checking) && s.boot.mayBe id then
    .next ({ s with boot := { s.boot with reports := (s.boot.reports ++ [(src, id)]).eraseDups } } : State).tryReady
  else .next s

/-- FAIL_REPORT: for the image being received, by its ID; passed to the parent; the root refuses the image and sends
ABANDON; of several reasons the lowest is reported. A report with an ID that the root cannot compare yet waits until it
can, and one without an ID, from a package that could not compute it, is taken for the image being received. -/
def execFailReport (src : Nat) (id : List Byte) (reason : BitVec 8) (s : State) : Host.Outcome State Fault Refusal :=
  let me := s.hub.pkg.toNat
  if s.boot.root = some me then
    match s.hub.imgState with
    | .receiving | .checking | .ready =>
      .next (if !s.boot.mayBe id then s
        else if id.isEmpty || !s.boot.imageId?.isEmpty then s.rootFail src reason
        else { s with boot := { s.boot with fails := s.boot.fails ++ [(src, id, reason)] } })
    | .refused =>
      .next (if (id.isEmpty || id = s.boot.failedId) && reason.ult s.hub.imgReason then s.setImg .refused reason src else s)
    | _ => .next s
  else if !s.boot.mayBe id then .next s
  else
    match s.bootParent with
    | some p => .next (s.emit (.fail p src id reason))
    | none => .next s

/-- ACTIVATE: the image is activated at T; the message goes on down the tree. -/
def execActivate (t : Word) (s : State) : Host.Outcome State Fault Refusal :=
  if s.hub.imgState = .checking && s.boot.reported then
    let s := { s with boot := { s.boot with actAt := some t } }.setImg .ready 0 0
    .next (s.bootKids.foldl (fun s c => s.emit (.activate c t)) s)
  else .next s

/-- ABANDON: the image is not activated; the message goes on down the tree. -/
def execAbandon (reason : BitVec 8) (pkg : Nat) (s : State) : Host.Outcome State Fault Refusal :=
  match s.hub.imgState with
  | .receiving | .checking | .ready =>
    .next (((s.tellAbandon reason pkg).setImg .abandoned reason pkg).dropBoot false)
  | .refused => .next ((s.tellAbandon reason pkg).dropBoot false)
  | _ => .next s

/-- T has come. -/
def State.activateDue (s : State) : Bool :=
  s.hub.imgState = .ready && (match s.boot.actAt with
    | some t => t.ule s.time
    | none => false)

/-- IMAGE_ACTIVATE: live requests end with REASON 7 (R393), a hold of injection goes to the package that now serves (R401),
this package runs the image, and polling begins (R341). Before
that it waits until the regions that the image uses are active (R113; notes/assumptions/17.md). -/
def execImageActivate (s : State) : Host.Outcome State Fault Refusal :=
  match s.boot.image with
  | some im =>
    if !s.activateDue then .next s
    else
    match s.shut ((imageFrames im s.hub.pkg.toNat).map fun f => (f, 65536)) with
    | some a => .next (s.askExit a)
    | none =>
      let s := s.endLive.moveHold im
      let s := ({ s with fd := { s.fd with seqs := [], steps := [] } } : State).runImage im
      let s := { s with td := { s.td with stepped := true }
                        boot := { Boot.reset with root := s.boot.root, source := s.boot.root } }.setImg .active 0 0
      .next s.pollAll
  | none => .next s

/-! ## Loading from the host (R393) -/

/-- The hub asks for bytes of host memory; false when the host refuses them at once (R390). -/
def State.hubRead (s : State) (addr len : Nat) (what : HostRead) : State × Bool :=
  if s.hub.busMaster && s.hub.hostUp then
    let (id, s) := s.newId
    (({ s with hub := { s.hub with reads := s.hub.reads ++ [(id, what)] } } : State).emit (.pcieRead id addr len), true)
  else (s, false)

/-- The bytes that one read of the image asks for. -/
def imagePiece (size off : Nat) : Nat := Nat.min 4096 (size - off)

/-- The next piece of the image is read; a read that fails ends the load with a reason that is not stated. -/
def State.readImage (s : State) (size off : Nat) : State :=
  let (s, ok) := s.hubRead (s.hub.imgaddr.toNat + off) (imagePiece size off) (.image off)
  if ok then s
  else
    let (n, s) := s.draw
    s.bootFail (Config.freeNat n % 256)

/-- IMAGE_LOAD_START -/
def execImageLoadStart (s : State) : Host.Outcome State Fault Refusal :=
  if !s.hub.imgState.idleLike then .next s
  else
    let n := s.hub.imglen.toNat
    let s := s.bootStart s.hub.pkg.toNat true (some n)
    if n = 0 then .next (s.bootFail 0x10) else .next (s.readImage n 0)

/-- A piece of the image has been read, or its read has failed. STATE is RECEIVING until all LEN bytes have been read, and
the checks follow (R393). -/
def State.imageRead (s : State) (off : Nat) (ok : Bool) (data : List Byte) : State :=
  let busy (s : State) : Bool := s.hub.imgState = .receiving && s.boot.fromHost
  if !busy s then s
  else if !ok then
    let (n, s) := s.draw
    s.bootFail (Config.freeNat n % 256)
  else
    let size := s.boot.size.getD 0
    let s := s.bootPiece off data
    if !busy s then s
    else if off + 4096 < size then s.readImage size (off + 4096)
    else if keptHeld s.boot.chunks s.hub.pkg.toNat then s.checkImage
    else s.bootFail 0x10

end Sys2Proof.Machine
end

