-- ==== Sys2Proof/Machine/Discipline.lean ====
section
/-! DEFINITION. The time discipline: states and steering (R381, R391), exchanges with a parent over a chain port (R383)
and with a grandmaster (R382). The core clock's frequency is not part of the state: steering has no effect of its own
(notes/assumptions/32.md). -/

namespace Sys2Proof.Machine

/-! ## The tree of time (R383) -/

/-- The distance of a package from the nearest time root. -/
def State.timeDepth (s : State) (pkg : Nat) : Option Nat :=
  s.td.roots.foldl (fun best r => match distIn (distances s.topo r) pkg, best with
    | some d, some b => some (Nat.min d b)
    | some d, none => some d
    | none, b => b) none

/-- The time parent of a package: its neighbour of least depth, ties to the lower id; a root has none. -/
def State.timeParentOf (s : State) (pkg : Nat) : Option Nat :=
  if s.td.roots.contains pkg then none
  else
    ((nbrs s.topo pkg).foldl (fun (best : Option (Nat × Nat)) y => match s.timeDepth y with
      | none => best
      | some d => match best with
        | none => some (d, y)
        | some (e, z) => if d < e || (d = e && y < z) then some (d, y) else best) none).map (·.2)

/-- The time parent of this package. -/
def State.timeParent (s : State) : Option Nat := s.timeParentOf s.hub.pkg.toNat

/-- The port over which this package takes time. -/
def State.timePort (s : State) : Option ChainPort := s.timeParent.bind s.portTo

/-- The ports over which this package gives time, one to each child: the port over which that child takes it. -/
def State.childPorts (s : State) : List ChainPort :=
  ((nbrs s.topo s.hub.pkg.toNat).eraseDups.filter fun y => s.timeParentOf y = some s.hub.pkg.toNat).filterMap s.childPort

/-- This package is a time root. -/
def State.setRoot (s : State) (root : Bool) : State :=
  let me := s.hub.pkg.toNat
  let rs := s.td.roots.filter (· ≠ me)
  { s with td := { s.td with root := root, roots := if root then rs ++ [me] else rs } }

/-- A message to every package that can be reached. -/
def State.tellReachable (s : State) (m : HubMsg) : State :=
  let me := s.hub.pkg.toNat
  ((distances s.topo me).filter fun e => e.1 ≠ me).foldl (fun s e => s.emit (.hub e.1 m)) s

/-! ## An exchange completes (R381, R391) -/

/-- TIME in 1/256 cycle. -/
def State.now256 (s : State) : Nat := s.time.toNat * 256

/-- A time-transfer packet (R383): type in word 1's bits 63:62, on VC3, to the neighbour at a port. -/
def State.sendTime (s : State) (p : ChainPort) (type : Nat) (payload : List Byte) : State :=
  match (s.ports[p]).neighbour with
  | none => s
  | some n =>
    let (w0, _) := headerWords 6 n 0x1FF s.hub.pkg.toNat 0x1FF (payload.length / 32) 0 0 0
    s.modPort p fun q => { q with waiting := q.waiting ++
      [{ w0 := w0 ||| 48, w1 := BitVec.ofNat 64 (type * 2 ^ 62), payload := payload }] }

/-- The time state changes: vector 3. -/
def State.setTime (s : State) (st : TimeState) : State :=
  if s.td.state = st then s
  else ({ s with td := { s.td with state := st } } : State).emit (.msix 3)

/-- An exchange has completed with offset theta, in 1/256 cycle. Before any image has run and for the first time, a package
behind its source steps TIME forward by the difference rounded down to an even number of cycles; three exchanges in a row
within 4 cycles make it DISCIPLINED; after a HOLDOVER it is LOCKING again. -/
def State.exchanged (s : State) (theta : Int) : State :=
  let d := s.td
  let step : Nat := if !d.stepped && d.state = .locking && theta < 0 then theta.natAbs / 512 * 2 else 0
  let good : Bool := theta.natAbs ≤ 1024
  let row := if good then d.goodRow + 1 else 0
  let s := { s with td := { d with theta := theta, exch := d.exch + 1, lastExch := s.clk, goodRow := row, step := step,
                                   stepped := true, t1 := none, t2 := none, t3 := none } }
  match d.state with
  | .locking => if 3 ≤ row then (s.setTime .disciplined).tryReady else s
  | .holdover => ({ s with td := { s.td with goodRow := if good then 1 else 0 } } : State).setTime .locking
  | _ => s

/-! ## Exchanges over a chain port (R383) -/

/-- A round of exchanges with the children is due. -/
def State.syncDue (s : State) : Bool := s.td.nextSync ≤ s.clk && !s.topo.isEmpty && !s.td.roots.isEmpty

/-- TIME_EXCHANGE: the parent sends SYNC on a port to a child; t1 is noted at its transmission (State.stampTime). The
first of a round makes the exchanges with the other children due, and the next round 2^22 fabric cycles later. -/
def execTimeExchange (p : ChainPort) (s : State) : Host.Outcome State Fault Refusal :=
  let s : State := if s.syncDue then
      (s.childPorts.filter (· ≠ p)).foldl (fun (s : State) q => s.schedule s.clk (.timeExchange q))
        ({ s with td := { s.td with nextSync := s.clk + 8388608 } } : State)
    else s
  if !s.childPorts.contains p then .next s
  else
    let rest := s.td.syncs.filter fun (e : ChainPort × Nat) => e.1 ≠ p
    .next (({ s with td := { s.td with syncs := rest } } : State).sendTime p 0 [])

/-- SYNC: the child notes t2 and sends DELREQ; t3 is noted at its transmission (State.stampTime). -/
def execSync (p : ChainPort) (s : State) : Host.Outcome State Fault Refusal :=
  if s.timePort ≠ some p then .next s
  else .next (({ s with td := { s.td with t2 := some s.now256, t3 := none } } : State).sendTime p 1 [])

/-- DELREQ: the parent answers with t1 and t4. -/
def execDelreq (p : ChainPort) (s : State) : Host.Outcome State Fault Refusal :=
  match s.td.syncs.find? (·.1 = p) with
  | none => .next s
  | some (_, t1) =>
    let rest := s.td.syncs.filter fun (e : ChainPort × Nat) => e.1 ≠ p
    let s : State := { s with td := { s.td with syncs := rest } }
    .next (s.sendTime p 2 (bytesOf 8 t1 ++ bytesOf 8 s.time.toNat ++ List.replicate 16 0))

/-- The offset ((t2 - t1) - (t4 - t3)) / 2 and the delay ((t2 - t1) + (t4 - t3)) / 2 of four timestamps in 1/256 cycle. -/
def State.measured (s : State) (t1 t2 t3 t4 : Nat) : State :=
  let a : Int := (t2 : Int) - t1
  let b : Int := (t4 : Int) - t3
  ({ s with td := { s.td with delay := (a + b) / 2 } } : State).exchanged ((a - b) / 2)

/-- DELRESP: the child computes its offset and the delay. -/
def execDelresp (p : ChainPort) (t1 t4 : Word) (s : State) : Host.Outcome State Fault Refusal :=
  if s.timePort ≠ some p then .next s
  else
    match s.td.t2, s.td.t3 with
    | some t2, some t3 => .next (s.measured (t1.toNat * 256) t2 t3 (t4.toNat * 256))
    | _, _ => .next s

/-! ## The grandmaster (R382) -/

/-- A time root sends its delay request. -/
def State.delayRequest (s : State) : State :=
  ({ s with td := { s.td with t3 := some s.now256 } } : State).emit (.ptpDelayReq s.now256)

/-- PTP_MESSAGE -/
def execPtpMessage (m : PtpMsg) (s : State) : Host.Outcome State Fault Refusal :=
  if !s.td.root then .next s
  else
    match m with
    | .sync twoStep t1 =>
      let s := { s with td := { s.td with t2 := some s.now256, t1 := if twoStep then none else some t1, t3 := none } }
      .next (if twoStep then s else s.delayRequest)
    | .followUp t1 =>
      if s.td.t2.isSome && s.td.t1.isNone then .next ({ s with td := { s.td with t1 := some t1 } } : State).delayRequest
      else .next s
    | .delayResp t4 =>
      match s.td.t1, s.td.t2, s.td.t3 with
      | some t1, some t2, some t3 => .next (s.measured t1 t2 t3 t4)
      | _, _, _ => .next s

/-! ## Holdover (R391) -/

/-- No exchange has completed for 4 * 2^22 fabric cycles. -/
def State.holdoverDue (s : State) : Bool := s.td.state = .disciplined && s.td.lastExch + 33554432 ≤ s.clk

/-- HOLDOVER_TIMEOUT -/
def execHoldoverTimeout (s : State) : Host.Outcome State Fault Refusal :=
  if s.holdoverDue then .next (({ s with td := { s.td with goodRow := 0 } } : State).setTime .holdover) else .next s

end Sys2Proof.Machine
end

