-- ==== Sys2Proof/Machine/Mailbox.lean ====
section
/-! DEFINITION. The hub's commands from the host's mailbox and the management mailbox (R337, R340, R353 to R355, R386,
R392, R397 to R401), one at a time in the order in which their GO arrived, and the messages between hubs. -/

namespace Sys2Proof.Machine

/-! ## The queue of commands (R392) -/

/-- The command that runs, when it has this code and comes from this mailbox: its arguments. -/
def State.command (s : State) (opc : Nat) (mb : MBox) : Option (List Byte) :=
  match s.hub.queue with
  | c :: _ => if c.opc = opc && c.mb = mb then some c.buf else none
  | [] => none

/-- A command joins the queue. -/
def State.enqueueCommand (s : State) (c : Command) : State :=
  let s := { s with hub := { s.hub with queue := s.hub.queue ++ [c] } }
  s.skipUnknown s.hub.queue.length

/-- A command comes to the management mailbox as a message of type 0x7E: OPC, then what the buffer is to hold (R395, R396);
while one is under way another is ignored, as a write of MBCMD is (R392). -/
def State.mgmtCommand (s : State) (opc : Nat) (buf : List Byte) : State :=
  if s.hub.mggo then s
  else
    let b := (buf ++ s.hub.mgbuf.drop buf.length).take 4096
    ({ s with hub := { s.hub with mgbuf := b, mggo := true } } : State).enqueueCommand
      { mb := .mgmt, opc := opc % 256, buf := b }

/-- The running command waits for something. -/
def State.commandWaits (s : State) (c : Command) : Bool :=
  match c.opc with
  | 0x02 => s.hub.reads.any (·.2 = .vocab)
  | 0x03 => s.hub.arenaWait.isSome
  | 0x04 => (match s.hub.fw with
      | .quieting .. => true
      | _ => false)
  | 0x05 => s.hub.fw = .resuming
  | _ => false

/-- A command from the mailbox that runs, or nothing. -/
def State.withCommand (s : State) (opc : Nat) (mb : MBox) (f : State → List Byte → State) :
    Host.Outcome State Fault Refusal :=
  match s.command opc mb with
  | none => .next s
  | some bs => .next (f s bs)

/-! ## FDCONF, VOCAB, ARENAS -/

/-- The configuration of a record. -/
def fdConfOf (bs : List Byte) : FdConf :=
  { model := BitVec.ofNat 32 (le bs 0 4), gsize := le bs 4 1, ngroup := le bs 5 1, dmax := le bs 6 1,
    kvbase := BitVec.ofNat 16 (le bs 8 2), kvpcnt := le bs 10 2, maxpos := le bs 12 4,
    hist := BitVec.ofNat 64 (le bs 16 8) }

/-- The conditions of R353. -/
def State.fdConfOk (s : State) (bs : List Byte) (c : FdConf) : Bool :=
  1 ≤ c.gsize && c.gsize ≤ 32 && 1 ≤ c.ngroup && c.ngroup ≤ 64 && c.dmax ≤ 7 && zeros bs 7 1 && zeros bs 24 40 &&
  c.kvpcnt ≤ 4095 && 2 ≤ c.maxpos && c.maxpos ≤ 16777216 &&
  c.hist.getLsbD 42 && c.hist.toNat / 2 ^ 52 = s.hub.pkg.toNat && c.hist.toNat % 2 ^ 33 = 0 &&
  c.hist.toNat / 2 ^ 33 % 512 < 288 &&
  c.hist.toNat / 2 ^ 43 % 512 + (c.hist.toNat / 2 ^ 33 % 512 + (c.histGranules - 1)) / 288 < 320 &&
  (c.kvpcnt = 0 || c.kvbase.toNat + c.dmax < 65536 && (List.range (c.dmax + 1)).all fun j => (s.homeOf (c.kvbase + BitVec.ofNat 16 j)).isSome)

/-- FDCONF -/
def execFdconf (mb : MBox) (s : State) : Host.Outcome State Fault Refusal :=
  s.withCommand 0x01 mb fun s bs =>
    let c := fdConfOf bs
    if s.fd.live then s.finish 3 0 []
    else if !s.fdConfOk bs c then s.finish 2 0 []
    else
      let old := (s.fd.conf.map FdConf.frames).getD []
      ({ s with fd := { s.fd with conf := some c }
                hub := { s.hub with frames := (s.hub.frames.filter (fun f => !old.contains f) ++ c.frames).eraseDups } } :
        State).finish 0 0 []

/-- VOCAB: the host's only; the image is read from host memory. -/
def execVocab (mb : MBox) (s : State) : Host.Outcome State Fault Refusal :=
  s.withCommand 0x02 mb fun s bs =>
    if mb = .mgmt then s.finish 4 0 []
    else if s.fd.live then s.finish 3 0 []
    else if s.hub.reads.any (·.2 = .vocab) then s
    else if 2 ^ 26 < le bs 8 8 || le bs 8 8 < 64 then s.finish 2 0 []
    else
      let (s, ok) := s.hubRead (le bs 0 8) (le bs 8 8) .vocab
      if ok then s
      else
        let (n, s) := s.draw
        s.finish (Config.freeNat n % 256) 0 []

/-- The vocabulary has been read, or its read has failed with a status that is not stated. -/
def State.vocabRead (s : State) (ok : Bool) (data : List Byte) : State :=
  if !ok then
    let (n, s) := s.draw
    s.finish (Config.freeNat n % 256) 0 []
  else if s.fd.live then s.finish 3 0 []
  else
    match vocabOf data with
    | none => s.finish 2 0 []
    | some v => ({ s with fd := { s.fd with vocab := some v } } : State).finish 0 0 []

/-- The arguments of ARENAS. -/
def arenaArgs (bs : List Byte) : BitVec 52 × Nat × Word :=
  (BitVec.ofNat 52 (le bs 0 8), le bs 8 8, BitVec.ofNat 64 (le bs 16 8))

/-- Frames of stacked SRAM that nothing uses are enough for an arena: for every ASID admitted here, or for one sequence
while none is. -/
def State.arenaFits (s : State) (size : Nat) (attr : Word) : Bool :=
  Nat.max 1 s.hub.asids.length * (size / 65536 * arenaGranules attr) ≤ 92160 - (s.hub.frames.filter physStk).length

/-- The STATUS that this hub finds for an arena: 3 while a sequence is live at its front door, 2 with too few frames. -/
def State.arenaStatus (s : State) (size : Nat) (attr : Word) : Nat :=
  if s.fd.live then 3 else if s.arenaFits size attr then 0 else 2

/-- An arena is noted here, in place of one at the same offset, and mapped for every ASID admitted (R357, R392). -/
def State.addArena (s : State) (goff : BitVec 52) (size : Nat) (attr : Word) : State :=
  let old := s.hub.arenas.filter (·.1 = goff)
  let s := s.hub.asids.foldl (fun s a =>
    old.foldl (fun (s : State) (x : BitVec 52 × Nat × Word) => s.unmapArena (BitVec.ofNat 12 a) x.1.toNat x.2.1 x.2.2) s) s
  let rest := s.hub.arenas.filter (·.1 ≠ goff)
  let s : State := { s with hub := { s.hub with arenas := rest ++ [(goff, size, attr)] } }
  s.hub.asids.foldl (fun s a => s.ensureRoot.mapArena (BitVec.ofNat 12 a) goff.toNat size attr) s

/-- The page-table entries that noting an arena touches. -/
def State.arenaTables (s : State) (goff : BitVec 52) (size : Nat) : List (Nat × Nat) :=
  (s.hub.asids.map fun a => s.arenaWalks a goff.toNat size ++
    ((s.hub.arenas.filter (·.1 = goff)).map fun (x : BitVec 52 × Nat × Word) => s.arenaWalks a x.1.toNat x.2.1).flatten).flatten

/-- One more package has put the arena in use; after the last one ARENAS is done. -/
def State.arenaDone (s : State) (src : Nat) : State :=
  match s.hub.arenaWait with
  | some (l, _, true) =>
    if (l.filter (· ≠ src)).isEmpty then ({ s with hub := { s.hub with arenaWait := none } } : State).finish 0 0 []
    else { s with hub := { s.hub with arenaWait := some (l.filter (· ≠ src), 0, true) } }
  | _ => s

/-- This hub puts an arena in use, once the page tables can be reached (R113), and the hub that asked hears of it. -/
def State.arenaSet (s : State) (src : Nat) (goff : BitVec 52) (size : Nat) (attr : Word) : State :=
  let me := s.hub.pkg.toNat
  s.hubWork (s.arenaTables goff size) (.hubMessage me (.arenaSet src goff size attr)) fun s =>
    let s := s.addArena goff size attr
    if src = me then s.arenaDone me else s.emit (.hub src (.arenaAnswer me 0))

/-- Every hub can have the arena, and puts it in use. -/
def State.arenaAgreed (s : State) (goff : BitVec 52) (size : Nat) (attr : Word) : State :=
  let me := s.hub.pkg.toNat
  let s := { s with hub := { s.hub with arenaWait := some (me :: s.otherPkgs, 0, true) } }
  (s.tellAll (.arenaSet me goff size attr)).arenaSet me goff size attr

/-- ARENAS -/
def execArenas (mb : MBox) (s : State) : Host.Outcome State Fault Refusal :=
  s.withCommand 0x03 mb fun s bs =>
    let (goff, size, attr) := arenaArgs bs
    if s.hub.arenaWait.isSome then s
    else if s.fd.live then s.finish 3 0 []
    else if le bs 0 8 % 65536 ≠ 0 || size % 65536 ≠ 0 || size = 0 || 2 ^ 52 < le bs 0 8 + size || abit attr 3 ||
        attr.toNat / 2 % 4 = 0 || !s.arenaFits size attr then s.finish 2 0 []
    else
      let others := s.otherPkgs
      if others.isEmpty then s.arenaAgreed goff size attr
      else
        let s := { s with hub := { s.hub with arenaWait := some (others, 0, false) } }
        s.tellAll (.arena s.hub.pkg.toNat goff size attr)

/-- Another hub answers. The arena is put in use when none objects, and else the command ends with the greatest STATUS. -/
def State.arenaAnswer (s : State) (src : Nat) (status : Nat) : State :=
  match s.hub.arenaWait, s.hub.queue with
  | some (l, worst, false), c :: _ =>
    let l := l.filter (· ≠ src)
    let worst := Nat.max worst status
    if !l.isEmpty then { s with hub := { s.hub with arenaWait := some (l, worst, false) } }
    else if worst = 0 then
      let (goff, size, attr) := arenaArgs c.buf
      s.arenaAgreed goff size attr
    else ({ s with hub := { s.hub with arenaWait := none } } : State).finish worst 0 []
  | some (_, _, true), _ => s.arenaDone src
  | _, _ => s

/-- A failed package answers no ARENAS any more. -/
def State.arenaFailed (s : State) (pkg : Nat) : State :=
  if s.hub.arenaWait.isNone then s
  else
    let (due, s) := s.later
    s.schedule due (.hubMessage pkg (.arenaAnswer pkg 0))

/-! ## FREEWHEEL, RESUME, REACTIVATE -/

/-- FREEWHEEL: by the supervisor, while the chain runs (R337). -/
def execFreewheel (mb : MBox) (s : State) : Host.Outcome State Fault Refusal :=
  s.withCommand 0x04 mb fun s bs =>
    match s.hub.fw with
    | .quieting .. => s
    | .running | .failed =>
      if !s.isSuper || s.image.isNone then s.finish 3 0 []
      else (s.tellAll (.freewheel (le bs 0 8))).startFreewheel (le bs 0 8)
    | _ => s.finish 3 0 []

/-- RESUME: every bank is restored (R340). -/
def execResume (mb : MBox) (s : State) : Host.Outcome State Fault Refusal :=
  s.withCommand 0x05 mb fun s _ =>
    match s.hub.fw with
    | .complete => (s.tellAll .resumeAll).restoreAll.fwReport
    | .resuming => s
    | _ => s.finish 3 0 []

/-- REACTIVATE: a stopped bank fires again, and that firing is a re-run (R330, R38). -/
def execReactivate (mb : MBox) (s : State) : Host.Outcome State Fault Refusal :=
  s.withCommand 0x06 mb fun s bs =>
    match s.bankOfStage (BitVec.ofNat 32 (le bs 0 4)) with
    | none => s.finish 2 0 []
    | some b =>
      if (s.bank b).mode = .stopped then
        (s.modBank b fun x => { x with mode := .idle, budgetRow := 0, rerun := true }).finish 0 0 []
      else s.finish 3 0 []

/-! ## ATTEST, POWERCAP, KEYSLOT, BOOTSRC, ROLLBACK -/

/-- The firmware that runs. -/
def Hub.firmware (h : Hub) : Option Firmware :=
  match h.running with
  | none => none
  | some b => if b then h.slotB else h.slotA

/-- The evidence record of R400. -/
def State.evidence (s : State) (nonce : List Byte) : List Byte :=
  let id := ((s.image.map (·.id)).getD [])
  let body := nonce ++ sha512 ((s.hub.firmware.map (·.image)).getD []) ++ (id ++ List.replicate (64 - id.length) 0) ++
    bytesOf 8 s.time.toNat ++ bytesOf 2 s.hub.pkg.toNat ++ List.replicate 22 0
  body ++ Config.ed25519Sign (sha512 body) ++ Config.mlDsaSign (sha512 body)

/-- ATTEST: the evidence, or with a nonce of zero both certificates (R398, R400). -/
def execAttest (mb : MBox) (s : State) : Host.Outcome State Fault Refusal :=
  s.withCommand 0x07 mb fun s bs =>
    let nonce := bs.take 32
    if zeros bs 0 32 then s.finish 0 0 Config.identityCerts else s.finish 0 0 (s.evidence nonce)

/-- A cap within the limits: 1,200 W to 2,400 W (R401). -/
def capOk (w : Nat) : Bool := 1200 ≤ w && w ≤ 2400

/-- The cap is w. -/
def State.setCap (s : State) (w : Nat) : State := { s with hub := { s.hub with powercap := w } }

/-- POWERCAP (R401). -/
def execPowercap (mb : MBox) (s : State) : Host.Outcome State Fault Refusal :=
  s.withCommand 0x08 mb fun s bs => if capOk (le bs 0 4) then (s.setCap (le bs 0 4)).finish 0 0 [] else s.finish 2 0 []

/-- KEYSLOT: management's only; an empty slot is written once, a revoked one never (R399). -/
def execKeyslot (mb : MBox) (s : State) : Host.Outcome State Fault Refusal :=
  s.withCommand 0x09 mb fun s bs =>
    let i : Fin 8 := ⟨le bs 0 1 % 8, Nat.mod_lt _ (by omega)⟩
    let put (k : KeySlot) : State := ({ s with hub := { s.hub with keys := s.hub.keys.set i k } } : State).finish 0 0 []
    if mb = .host then s.finish 4 0 []
    else if 7 < le bs 0 1 then s.finish 2 0 []
    else if natBit (le bs 1 1) 0 then put .revoked
    else
      match s.hub.keys[i] with
      | .empty => put (.keys ((bs.drop 8).take 32) ((bs.drop 40).take 1952))
      | _ => s.finish 3 0 []

/-- BOOTSRC: an image is awaited from the front door, or asked for from a peer (R386). -/
def execBootsrc (mb : MBox) (s : State) : Host.Outcome State Fault Refusal :=
  s.withCommand 0x0A mb fun s bs =>
    let me := s.hub.pkg.toNat
    let peer := le bs 2 2
    if 1 < le bs 0 1 || (le bs 0 1 = 1 && (4095 < peer || peer = me)) then s.finish 2 0 []
    else if !s.hub.imgState.idleLike then s.finish 3 0 []
    else
      let s := s.bootStart me false none
      (if le bs 0 1 = 1 then s.emit (.hub peer (.resendImage me)) else s).finish 0 0 []

/-- ROLLBACK: management's only; above the counter, and no higher than the running version or the row of fuses (R397). -/
def execRollback (mb : MBox) (s : State) : Host.Outcome State Fault Refusal :=
  s.withCommand 0x0B mb fun s bs =>
    let v := le bs 0 2
    let top := ((s.hub.firmware.map (·.version)).getD 0)
    if mb = .host then s.finish 4 0 []
    else if v ≤ s.hub.rollback || top < v || 64 < v then s.finish 2 0 []
    else ({ s with hub := { s.hub with rollback := v } } : State).finish 0 0 []

/-! ## Messages between hubs (R374) -/

/-- The image source's hub sends a package what it holds of the active image (R386). -/
def State.resendImage (s : State) (src : Nat) : State :=
  match s.image with
  | none => s
  | some im => s.sendUnits src src im.chunks
      ((sortBy (fun n => n) ((imageRuns im.chunks).map runUnits).flatten.eraseDups).filter (unitHeld im.chunks))

/-- The mirror has a changed record: one answer that waited for it leaves (R343). -/
def State.mirrorAck (s : State) (asid : BitVec 12) (name : BitVec 16) : State :=
  let hit (e : BitVec 12 × BitVec 16 × Party × GsAns) : Bool := e.1 = asid && e.2.1 = name
  match s.hub.mirrorWait.find? hit with
  | none => s
  | some e =>
    let rest := s.hub.mirrorWait.takeWhile (fun x => !hit x) ++ (s.hub.mirrorWait.dropWhile fun x => !hit x).tail
    ({ s with hub := { s.hub with mirrorWait := rest } } : State).sendAns e.2.2.1 e.2.2.2

/-- A mirrored record is kept. -/
def State.keepMirror (s : State) (src : Nat) (r : SealRec) : State :=
  let rest := s.hub.mirrors.filter fun e => !(e.1 = src && e.2.asid = r.asid && e.2.name = r.name)
  ({ s with hub := { s.hub with mirrors := rest ++ [(src, r)] } } : State).emit (.hub src (.mirrorAck r.asid r.name))

/-- HUB_MESSAGE -/
def execHubMessage (src : Nat) (m : HubMsg) (s : State) : Host.Outcome State Fault Refusal :=
  let me := s.hub.pkg.toNat
  match m with
  | .writeFault r =>
    let (due, s) := s.later
    let c : Collapse := { req := r, opened := false, awaiting := [] }
    .next (({ s with hub := { s.hub with collapses := s.hub.collapses ++ [c] } } : State).schedule due (.collapse r))
  | .collapseAnswer p refused =>
    let (due, s) := s.later
    .next (s.schedule due (.faultAnswer p refused))
  | .entryUpdate asid goff w0 w1 => .next (s.entryUpdate src asid goff w0 w1)
  | .entryAck p asid goff => .next (s.entryAck p asid goff)
  | .revert asid name e =>
    let (due, s) := s.later
    .next (s.schedule due (.gsRevert asid name e src))
  | .revertDone p asid name e => .next (s.revertDone p asid name e)
  | .mirror p r => .next (s.keepMirror p r)
  | .mirrorAck asid name => .next (s.mirrorAck asid name)
  | .resendImage p => .next (s.resendImage p)
  | .freewheel limit => .next (s.startFreewheel limit)
  | .freewheelReady p => .next (if s.isSuper then s.fwCollect p else s)
  | .freewheelGo =>
    .next (match s.hub.fw with
      | .quieting limit false => { s with hub := { s.hub with fw := .quieting limit true, fwReady := [] } }
      | .resuming => s.endFreewheel
      | _ => s)
  | .freewheelFail => .next s.failFreewheel
  | .resumeAll => .next s.restoreAll.fwReport
  | .portDead a b left => .next (s.pairDead a b left)
  | .failed p => .next ((s.packageFailed p).arenaFailed p)
  | .report _ x => .next (s.declareFailed x)
  | .poll p => .next (if p = me then s.pollAll else s.emit (.hub p (.pollAnswer me)))
  | .pollAnswer p => .next { s with hub := { s.hub with polls := s.hub.polls.filter (·.1 ≠ p) } }
  | .recover x => .next (s.recoverUnit x)
  | .recoverFrom x n keep => .next (s.recoverFrom x n keep)
  | .edge id port cum freed slot => .next (s.edgeMsg id port cum freed slot).checkRecovered
  | .lostAsid a => .next ((s.modSeq a fun q => { q with replay := !q.done }).restartIdle)
  | .recovered p => .next (s.recovered p)
  | .holdInjection p hold =>
    let rest := s.fd.holders.filter (· ≠ p)
    .next { s with fd := { s.fd with holders := if hold then rest ++ [p] else rest } }
  | .arena p _ size attr => .next (s.emit (.hub p (.arenaAnswer me (s.arenaStatus size attr))))
  | .arenaAnswer p status => .next (s.arenaAnswer p status)
  | .arenaSet p goff size attr => .next (s.arenaSet p goff size attr)
  | .enter a => .next (s.enterAsid a)
  | .retire a => .next (s.leaveAsid a)
  | .history part pos toks => .next (if src = me then s.putHistory part pos toks else s)
  | .pageIn asid g data => .next (if src = me then s.pageRead asid g data else s)
  | .moveUnit x => .next (match s.hub.recov.find? fun e => e.1 = x && !e.2.2 with
      | some e => if src = me then s.moveUnit x e.2.1 else s
      | none => s)
  | .timeRoot p root =>
    let rest := s.td.roots.filter (· ≠ p)
    .next { s with td := { s.td with roots := if root then rest ++ [p] else rest } }
  | .epochClosed asid name e => .next (s.closeLists asid name (e + 1))
  | .command opc buf => .next (if src = me then s.mgmtCommand opc buf else s)
  | .capEffecter w => .next (if src = me && capOk w then s.setCap w else s)
  | .migrate asid goff host => .next (if src = me then s.migrate asid goff host else s)
  | .upset a bits => .next (if src = me then s.upset a bits else s)

end Sys2Proof.Machine
end

