-- ==== Sys2Proof/Machine/Host.lean ====
section
/-! DEFINITION. The host's side of the hub and its management: the registers of BAR 0 (R390, R391), completions from the
host (R124, R390), the fault queue's room (R394), sensors, effecters and firmware (R395, R397), power and temperature
(R401), and the three resets (R402, R403). -/

namespace Sys2Proof.Machine

/-! ## Reading BAR 0 (R391) -/

/-- STATE of R393 as a number. -/
def ImgState.code : ImgState → Nat
  | .idle => 0
  | .receiving => 1
  | .checking => 2
  | .ready => 3
  | .active => 4
  | .refused => 5
  | .abandoned => 6

/-- STATE of TDSTAT. -/
def TimeState.code : TimeState → Nat
  | .free => 0
  | .locking => 1
  | .disciplined => 2
  | .holdover => 3

/-- A bit as a number. -/
def bitNat (b : Bool) (i : Nat) : Nat := if b then 2 ^ i else 0

/-- DEVID -/
def State.regDevid (s : State) : Nat :=
  bitNat s.hub.pkgv 28 + Config.siliconRev.toNat * 4096 + s.hub.pkg.toNat

/-- MBCMD -/
def Hub.regMbcmd (h : Hub) : Nat := bitNat h.mbgo 8 + h.mbcmd.toNat

/-- MBSTAT -/
def Hub.regMbstat (h : Hub) : Nat := h.mbresult.toNat * 2 ^ 32 + h.mbstatus.toNat * 256 + bitNat h.mbdone 0

/-- IMGSTAT -/
def Hub.regImgstat (h : Hub) : Nat := h.imgFailPkg.toNat * 2 ^ 52 + h.imgReason.toNat * 256 + h.imgState.code

/-- TDSTAT -/
def State.regTdstat (s : State) : Nat :=
  let me := s.hub.pkg.toNat
  (match s.timeParent with
    | some p => p * 2 ^ 52 + 2 ^ 47
    | none => 0) + (s.timeDepth me).getD 0 % 16 * 2 ^ 48 + s.td.exch.toNat * 65536 + s.td.state.code

/-- IMGID: the id of the image checked, else of the active one, else zero. -/
def State.imageIdBytes (s : State) : List Byte :=
  match s.boot.image, s.image with
  | some im, _ => im.id
  | none, some im => im.id
  | none, none => []

/-- The 64 bits that a read of BAR 0 at an 8-byte aligned offset returns; an offset that is not listed reads zero. -/
def State.hostReg (s : State) (off : Nat) : Word :=
  let h := s.hub
  if 0x1000 ≤ off ∧ off < 0x2000 then BitVec.ofNat 64 (le h.mbbuf (off - 0x1000) 8)
  else if 0x140 ≤ off ∧ off < 0x180 then BitVec.ofNat 64 (le s.imageIdBytes (off - 0x140) 8)
  else
    match off with
    | 0x000 => BitVec.ofNat 64 s.regDevid
    | 0x010 => BitVec.ofNat 64 h.regMbcmd
    | 0x018 => BitVec.ofNat 64 h.regMbstat
    | 0x100 => h.imgaddr
    | 0x108 => h.imglen.setWidth 64
    | 0x110 => if h.imgState = .receiving then 1 else 0
    | 0x118 => BitVec.ofNat 64 h.regImgstat
    | 0x200 => h.fqbase
    | 0x208 => h.fqsize.setWidth 64
    | 0x210 => h.fqhead.setWidth 64
    | 0x218 => h.fqtail.setWidth 64
    | 0x220 => h.fqlost
    | 0x300 => if s.td.root then 1 else 0
    | 0x308 => BitVec.ofNat 64 s.regTdstat
    | 0x310 => BitVec.ofInt 64 s.td.theta
    | _ => 0

/-- A naturally aligned 64-bit access within BAR 0 (R390). -/
def hostRegOk (off size : Nat) : Bool := size = 8 && off % 8 = 0 && off < 65536

/-- What a read of BAR 0 completes with: none is Unsupported Request (R390). -/
def State.hostRead (s : State) (off size : Nat) : Option Word := if hostRegOk off size then some (s.hostReg off) else none

/-! ## Writing BAR 0 (R391, R392, R394) -/

/-- Eight bytes of the argument buffer are written. -/
def Hub.writeBuf (h : Hub) (k : Nat) (v : Word) : Hub :=
  { h with mbbuf := h.mbbuf.take k ++ bytesOf 8 v.toNat ++ h.mbbuf.drop (k + 8) }

/-- MBCMD is written: ignored while GO reads 1; GO = 1 starts the command. -/
def State.writeMbcmd (s : State) (v : Word) : State :=
  if s.hub.mbgo then s
  else
    let go := v.getLsbD 8
    let opc : BitVec 8 := v.setWidth 8
    let s : State := { s with hub := { s.hub with mbcmd := opc, mbgo := go } }
    if go then s.enqueueCommand { mb := .host, opc := opc.toNat, buf := s.hub.mbbuf } else s

/-- The fault queue has more room: records move from the hub's own buffer (R394). -/
def State.drainFaults (s : State) : State := s.fqDrain s.hub.fqown

/-- FQHEAD is written. -/
def State.writeFqhead (s : State) (v : Word) : State :=
  ({ s with hub := { s.hub with fqhead := v.setWidth 16 } } : State).drainFaults

/-- TDCTL.ROOT is written, and every package that can be reached hears of it. -/
def State.writeRoot (s : State) (root : Bool) : State :=
  if s.td.root = root then s else (s.setRoot root).tellReachable (.timeRoot s.hub.pkg.toNat root)

/-- A register is written. -/
def State.writeHostReg (s : State) (off : Nat) (v : Word) : State :=
  if 0x1000 ≤ off ∧ off < 0x2000 then { s with hub := s.hub.writeBuf (off - 0x1000) v }
  else
    match off with
    | 0x010 => s.writeMbcmd v
    | 0x018 => if v.getLsbD 0 then { s with hub := { s.hub with mbdone := false } } else s
    | 0x100 => { s with hub := { s.hub with imgaddr := v &&& ~~~ 63 } }
    | 0x108 => { s with hub := { s.hub with imglen := v.setWidth 48 } }
    | 0x110 => if v.getLsbD 0 && s.hub.imgState.idleLike then s.schedule s.clk .imageLoadStart else s
    | 0x200 => ({ s with hub := { s.hub with fqbase := v &&& ~~~ 0xFFE } } : State).drainFaults
    | 0x208 => { s with hub := { s.hub with fqsize := v.setWidth 17 } }
    | 0x210 => s.writeFqhead v
    | 0x220 => { s with hub := { s.hub with fqlost := v } }
    | 0x300 => s.writeRoot (v.getLsbD 0)
    | _ => s

/-- HOST_REGISTER_WRITE: a write; an access that is not a naturally aligned one of 64 bits, read or write, completes as an
Unsupported Request and changes nothing. -/
def execHostRegisterWrite (off size : Nat) (val : Word) (s : State) : Host.Outcome State Fault Refusal :=
  if hostRegOk off size then .next (s.writeHostReg off val) else .next (s.emit (.completion 0 false []))

/-- FQHEAD_WRITE -/
def execFqheadWrite (val : Word) (s : State) : Host.Outcome State Fault Refusal := .next (s.writeFqhead val)

/-! ## Completions from the host (R124, R390) -/

/-- PCIE_COMPLETION: of the hub's own read, or of an access of host memory, which a failure refuses (R390). -/
def execPcieCompletion (c : PcieCompletion) (s : State) : Host.Outcome State Fault Refusal :=
  match s.hub.reads.find? (·.1 = c.id) with
  | some (_, what) =>
    let rest := s.hub.reads.filter (·.1 ≠ c.id)
    let s : State := { s with hub := { s.hub with reads := rest } }
    (match what with
      | .image off => .next (s.imageRead off c.ok c.data)
      | .vocab => .next (s.vocabRead c.ok c.data)
      | .page asid g => .next (s.pageRead asid g (if c.ok then c.data else [])))
  | none =>
    match s.accesses.find? fun x => x.id = c.id && x.sent with
    | none => .next s
    | some x => .next (if c.ok then s.answered x ⟨c.data, false, false⟩ else s.accessRefused x)

/-- HOST_LINK_LOSS: the link is down or up again, with Bus Master Enable as the host has set it; the chain goes on
(R390, R396). -/
def execHostLinkLoss (up master : Bool) (s : State) : Host.Outcome State Fault Refusal :=
  .next ({ s with hub := { s.hub with hostUp := up, busMaster := up && master } } : State).drainFaults

/-! ## The platform controller (R395, R397) -/

/-- PLDM_SENSOR_READ: the answer holds the reading that the sensor has outside the machine; of the hub's fault buffer, its
entries, oldest first (R394 to R396). -/
def execPldmSensorRead (x : Sensor) (s : State) : Host.Outcome State Fault Refusal :=
  match x with
  | .faultBuffer => .next (s.emit (.faults s.hub.fqown))
  | x => .next (s.emit (.sensor x))

/-- PACKAGE_ID_EFFECTER -/
def execPackageIdEffecter (id : BitVec 12) (s : State) : Host.Outcome State Fault Refusal :=
  .next { s with hub := { s.hub with pkg := id, pkgv := true } }

/-- A firmware enters slot A (false) or B (true). -/
def Hub.stage (h : Hub) (b : Bool) (f : Firmware) : Hub :=
  if b then { h with slotB := some f } else { h with slotA := some f }

/-- PLDM_FIRMWARE_UPDATE: into the slot that does not run; into either when none does. -/
def execPldmFirmwareUpdate (f : Firmware) (s : State) : Host.Outcome State Fault Refusal :=
  match s.hub.running with
  | some b => .next { s with hub := s.hub.stage (!b) f }
  | none =>
    let (n, s) := s.draw
    .next { s with hub := s.hub.stage (Config.freeBool n) f }

/-- Injection is to be held or may go on: the serving package is told. -/
def State.askHold (s : State) (hold : Bool) : State :=
  if s.hub.powerHold = hold then s
  else ({ s with hub := { s.hub with powerHold := hold } } : State).tellHold (s.image.bind Image.serving) hold

/-- A reading is above the cap or above 95 degrees (R401). -/
def Hub.overCap (h : Hub) (r : PowerReading) : Bool := h.powercap < r.watts || r.dies.any (95 < ·)

/-- Power is below the cap and every die below 90 degrees, and both have been for 10 ms (R401). -/
def Hub.calm (h : Hub) (r : PowerReading) : Bool := r.calm && r.watts < h.powercap && r.dies.all (· < 90)

/-- The main rails are removed. -/
def State.railsOff (s : State) : State := { s with hub := { s.hub with railsOn := false } }

/-- POWER_OVER_CAP: a reading of power and temperatures. A die at 105 degrees removes the main rails; a reading over the
limits holds injection, and one that has been calm for 10 ms lets it go on. -/
def execPowerOverCap (r : PowerReading) (s : State) : Host.Outcome State Fault Refusal :=
  if r.dies.any (105 ≤ ·) then .next s.railsOff
  else if s.hub.overCap r then .next (s.askHold true)
  else if s.hub.calm r then .next (s.askHold false)
  else .next s

/-- THERMAL_SHUTDOWN: a die has reached 105 degrees, and the main rails are removed at once. -/
def execThermalShutdown (_die : Fin 4) (s : State) : Host.Outcome State Fault Refusal := .next s.railsOff

/-! ## Resets (R402, R403) -/

/-- The boot ROM finds the firmware keys to be those of the fuses, both signatures good, and the version high enough
(R397). -/
def Hub.qualifies (h : Hub) (f : Firmware) : Bool :=
  let d := sha512 f.image
  sha512 (Config.firmwareKeys.1 ++ Config.firmwareKeys.2) = h.keyDigest &&
  Config.ed25519Verify Config.firmwareKeys.1 d f.edsig && Config.mlDsaVerify Config.firmwareKeys.2 d f.mlsig &&
    h.rollback ≤ f.version

/-- The slot the ROM runs: the higher version of those that qualify; a tie is the device's choice. -/
def Hub.romChoice (h : Hub) (tie : Bool) : Option Bool :=
  match h.slotA.filter h.qualifies, h.slotB.filter h.qualifies with
  | none, none => none
  | some _, none => some false
  | none, some _ => some true
  | some a, some b => if a.version < b.version then some true else if b.version < a.version then some false else some tie

/-- A key slot after a cold reset: keys are gone, and a revoked slot stays revoked (R399, R402). -/
def KeySlot.cold : KeySlot → KeySlot
  | .revoked => .revoked
  | _ => .empty

/-- The package after a reset and its bring-up; firmware slots and fuses last, and so do the model's own counters and
what is on its way in and out. -/
def State.bringUp (s : State) (h : Hub) : State :=
  { State.reset with
    free := s.free + 1, nextId := s.nextId, inbox := s.inbox, outbox := s.outbox
    hub := { h with slotA := s.hub.slotA, slotB := s.hub.slotB, rollback := s.hub.rollback, keyDigest := s.hub.keyDigest,
                    running := s.hub.romChoice (Config.freeBool s.free) } }

/-- COLD_RESET -/
def execColdReset (s : State) : Host.Outcome State Fault Refusal :=
  .next (s.bringUp { Hub.reset with keys := vmap KeySlot.cold s.hub.keys })

/-- WARM_RESET: the management domain, package id, key slots and the hub's fault buffer stay. -/
def execWarmReset (s : State) : Host.Outcome State Fault Refusal :=
  let h := s.hub
  .next (s.bringUp { Hub.reset with pkg := h.pkg, pkgv := h.pkgv, keys := h.keys, fqown := h.fqown, mgbuf := h.mgbuf })

/-- The registers of R391 that hold values of their own, and the mailbox, at their reset values; the responses of the host's
commands that are queued will be discarded (R402). -/
def Hub.functionReset (h : Hub) : Hub :=
  { h with mbbuf := List.replicate 4096 0, mbcmd := 0, mbgo := false, mbstatus := 0, mbresult := 0, mbdone := false,
           imgaddr := 0, imglen := 0, fqbase := 0, fqsize := 0, fqhead := 0, fqtail := 0, fqlost := 0, busMaster := false,
           queue := h.queue.map fun c => if c.mb = .host then { c with drop := true } else c }

/-- IMGSTAT after a reset of the function: the outcome of an earlier load is gone, and STATE tells of the chain, which stays;
a load that the chain still carries, or waits to see abandoned, keeps it (DESIGN CHOICE, notes/assumptions/45.md). -/
def State.resetImgstat (s : State) : State :=
  match s.hub.imgState with
  | .abandoned => s.setImg (if s.image.isSome then .active else .idle) 0 0
  | .refused => if s.boot.reported then s else s.setImg (if s.image.isSome then .active else .idle) 0 0
  | _ => s

/-- FUNCTION_LEVEL_RESET: an image load from the host ends ABANDONED, one just started among them, and a command in progress
completes without its response. -/
def execFunctionLevelReset (s : State) : Host.Outcome State Fault Refusal :=
  let me := s.hub.pkg.toNat
  let started : Bool := s.agenda.any (·.2 = .imageLoadStart)
  let s := ({ s with hub := s.hub.functionReset, td := { s.td with theta := 0, exch := 0 },
                     agenda := s.agenda.filter (·.2 ≠ .imageLoadStart) } : State).writeRoot false
  if s.hub.imgState = .receiving && s.boot.fromHost then
    .next (((s.tellAbandon 0x16 me).setImg .abandoned 0x16 me).dropBoot false)
  else if started && s.hub.imgState.idleLike then .next (s.setImg .abandoned 0x16 me)
  else .next s.resetImgstat

end Sys2Proof.Machine
end

