-- ==== Sys2Proof/Machine/Scalar.lean ====
section
/-! DEFINITION. Class A: scalar arithmetic, logic, fields, compares and predicates (R187 to R202). Every result has the
exposed latency of R188, and no instruction here raises a cause or a trap (R189). -/

namespace Sys2Proof.Machine

/-! ## The values (R191 to R197) -/

/-- imm24 sign-extended (R190). -/
def imm24 (i : BitVec 24) : Word := i.signExtend 64

/-- The amount of a shift: bits 5:0. -/
def amount (b : Word) : Nat := b.toNat % 64

/-- Bits 127:64 of the product (R191). -/
def mulHigh (u : Bool) (a b : Word) : Word :=
  if u then BitVec.ofNat 64 (a.toNat * b.toNat / 2 ^ 64)
  else BitVec.ofInt 64 (a.toInt * b.toInt / 2 ^ 64)

/-- The quotient of R192. -/
def divW (u : Bool) (a b : Word) : Word :=
  if b = 0 then BitVec.allOnes 64
  else if u then BitVec.ofNat 64 (a.toNat / b.toNat)
  else BitVec.ofInt 64 (Int.tdiv a.toInt b.toInt)

/-- The remainder of R192. -/
def remW (u : Bool) (a b : Word) : Word :=
  if b = 0 then a
  else if u then BitVec.ofNat 64 (a.toNat % b.toNat)
  else BitVec.ofInt 64 (Int.tmod a.toInt b.toInt)

/-- The smaller (R191). -/
def minW (u : Bool) (a b : Word) : Word := if (if u then a.ult b else a.slt b) then a else b

/-- The larger (R191). -/
def maxW (u : Bool) (a b : Word) : Word := if (if u then b.ult a else b.slt a) then a else b

/-- The absolute value; -2^63 gives -2^63 (R191). -/
def absW (a : Word) : Word := if a.msb then -a else a

/-- Leading zero bits (R191). -/
def clzW (a : Word) : Word := BitVec.ofNat 64 (64 - bitLen a.toNat)

/-- Trailing zero bits (R191). -/
def ctzW (a : Word) : Word :=
  BitVec.ofNat 64 (((List.range 64).find? fun k => a.getLsbD k).getD 64)

/-- One bits of the low n bits of a number. -/
def popNat (x n : Nat) : Nat := (List.range n).foldl (fun c k => c + (natBit x k).toNat) 0

/-- Byte k moved to byte 7 - k (R191). -/
def bswapW (a : Word) : Word := BitVec.ofNat 64 (natOf (bytesOf 8 a.toNat).reverse)

/-- Bit k moved to bit 63 - k (R191). -/
def brevW (a : Word) : Word := a.reverse

/-- The carry-less product (R194). -/
def clmulNat (a b : Nat) : Nat :=
  (List.range 64).foldl (fun acc k => if natBit b k then acc ^^^ (a * 2 ^ k) else acc) 0

/-- Byte matches (R195). -/
def bmatchW (ne : Bool) (a b : Word) : Word :=
  BitVec.ofNat 64 ((List.range 8).foldl (fun acc j =>
    acc + (if (a.extractLsb' (8 * j) 8 = b.extractLsb' 0 8) != ne then 2 ^ j else 0)) 0)

/-- BFX: w bits at pos, w already limited (R196). -/
def bfxW (sgn : Bool) (a : Word) (pos w : Nat) : Word :=
  let w := Nat.min w (64 - pos)
  let x := a.toNat / 2 ^ pos % 2 ^ w
  if sgn then sext64 w x else BitVec.ofNat 64 x

/-- BFI: the low w bits of a put at pos of d (R196). -/
def bfiW (d a : Word) (pos w : Nat) : Word :=
  let w := Nat.min w (64 - pos)
  let m : Word := BitVec.ofNat 64 ((2 ^ w - 1) * 2 ^ pos)
  maskedSet d (a <<< pos) m

/-- The width in bits of SEXT and ZEXT. -/
def extBits : ExtW → Nat
  | .w8 => 8 | .w16 => 16 | .w32 => 32

/-! ## Arithmetic and logic (R191, R192) -/

/-- ADD -/
def execAdd (d a b : SOp) (s : State) := issue (alu2 1 d a b (· + ·)) s
/-- ADD_IMM -/
def execAddImm (d a : SOp) (i : BitVec 24) (s : State) := issue (alu1 1 d a (· + imm24 i)) s
/-- SUB -/
def execSub (d a b : SOp) (s : State) := issue (alu2 1 d a b (· - ·)) s
/-- MUL -/
def execMul (d a b : SOp) (s : State) := issue (alu2 3 d a b (· * ·)) s
/-- MUL_IMM -/
def execMulImm (d a : SOp) (i : BitVec 24) (s : State) := issue (alu1 3 d a (· * imm24 i)) s
/-- MULH -/
def execMulh (u : Bool) (d a b : SOp) (s : State) := issue (alu2 3 d a b (mulHigh u)) s
/-- DIV -/
def execDiv (u : Bool) (d a b : SOp) (s : State) := issue (alu2 20 d a b (divW u)) s
/-- REM -/
def execRem (u : Bool) (d a b : SOp) (s : State) := issue (alu2 20 d a b (remW u)) s
/-- AND -/
def execAnd (d a b : SOp) (s : State) := issue (alu2 1 d a b (· &&& ·)) s
/-- AND_IMM -/
def execAndImm (d a : SOp) (i : BitVec 24) (s : State) := issue (alu1 1 d a (· &&& imm24 i)) s
/-- OR -/
def execOr (d a b : SOp) (s : State) := issue (alu2 1 d a b (· ||| ·)) s
/-- OR_IMM -/
def execOrImm (d a : SOp) (i : BitVec 24) (s : State) := issue (alu1 1 d a (· ||| imm24 i)) s
/-- XOR -/
def execXor (d a b : SOp) (s : State) := issue (alu2 1 d a b (· ^^^ ·)) s
/-- XOR_IMM -/
def execXorImm (d a : SOp) (i : BitVec 24) (s : State) := issue (alu1 1 d a (· ^^^ imm24 i)) s
/-- ANDN -/
def execAndn (d a b : SOp) (s : State) := issue (alu2 1 d a b (fun x y => x &&& ~~~ y)) s
/-- SHL -/
def execShl (d a b : SOp) (s : State) := issue (alu2 1 d a b (fun x y => x <<< amount y)) s
/-- SHL_IMM -/
def execShlImm (d a : SOp) (k : BitVec 6) (s : State) := issue (alu1 1 d a (· <<< k.toNat)) s
/-- SHR -/
def execShr (d a b : SOp) (s : State) := issue (alu2 1 d a b (fun x y => x >>> amount y)) s
/-- SHR_IMM -/
def execShrImm (d a : SOp) (k : BitVec 6) (s : State) := issue (alu1 1 d a (· >>> k.toNat)) s
/-- SAR -/
def execSar (d a b : SOp) (s : State) := issue (alu2 1 d a b (fun x y => x.sshiftRight (amount y))) s
/-- SAR_IMM -/
def execSarImm (d a : SOp) (k : BitVec 6) (s : State) := issue (alu1 1 d a (·.sshiftRight k.toNat)) s
/-- ROL -/
def execRol (d a b : SOp) (s : State) := issue (alu2 1 d a b (fun x y => x.rotateLeft (amount y))) s
/-- ROR -/
def execRor (d a b : SOp) (s : State) := issue (alu2 1 d a b (fun x y => x.rotateRight (amount y))) s
/-- ROR_IMM -/
def execRorImm (d a : SOp) (k : BitVec 6) (s : State) := issue (alu1 1 d a (·.rotateRight k.toNat)) s

/-- ADDC and SUBB (R193): the exact sum or difference, its low 64 bits and its carry or borrow. -/
def carryOp (sub : Bool) (d : SOp) (pe : PReg) (a b : SOp) (pc : PReg) : Core := fun s => do
  let x ← s.rdA a
  let y ← s.rdA b
  let c ← s.rdP pc
  let r : Int := if sub then x.toNat - y.toNat - c.toNat else x.toNat + y.toNat + c.toNat
  pure (s.result 1 [s.dA d (BitVec.ofInt 64 r), s.dP pe (if sub then r < 0 else 2 ^ 64 ≤ r)])

/-- ADDC -/
def execAddc (d : SOp) (pe : PReg) (a b : SOp) (pc : PReg) (s : State) := issue (carryOp false d pe a b pc) s
/-- SUBB -/
def execSubb (d : SOp) (pe : PReg) (a b : SOp) (pc : PReg) (s : State) := issue (carryOp true d pe a b pc) s
/-- MIN -/
def execMin (u : Bool) (d a b : SOp) (s : State) := issue (alu2 1 d a b (minW u)) s
/-- MIN_IMM -/
def execMinImm (u : Bool) (d a : SOp) (i : BitVec 24) (s : State) := issue (alu1 1 d a (minW u · (imm24 i))) s
/-- MAX -/
def execMax (u : Bool) (d a b : SOp) (s : State) := issue (alu2 1 d a b (maxW u)) s
/-- MAX_IMM -/
def execMaxImm (u : Bool) (d a : SOp) (i : BitVec 24) (s : State) := issue (alu1 1 d a (maxW u · (imm24 i))) s
/-- ABS -/
def execAbs (d a : SOp) (s : State) := issue (alu1 1 d a absW) s
/-- CLZ -/
def execClz (d a : SOp) (s : State) := issue (alu1 1 d a clzW) s
/-- CTZ -/
def execCtz (d a : SOp) (s : State) := issue (alu1 1 d a ctzW) s
/-- POPC -/
def execPopc (d a : SOp) (s : State) := issue (alu1 1 d a fun x => BitVec.ofNat 64 (popNat x.toNat 64)) s
/-- BSWAP -/
def execBswap (d a : SOp) (s : State) := issue (alu1 1 d a bswapW) s
/-- BREV -/
def execBrev (d a : SOp) (s : State) := issue (alu1 1 d a brevW) s
/-- CLMUL (R194) -/
def execClmul (h : Bool) (d a b : SOp) (s : State) :=
  issue (alu2 3 d a b fun x y =>
    BitVec.ofNat 64 (clmulNat x.toNat y.toNat / (if h then 2 ^ 64 else 1))) s
/-- BMATCH -/
def execBmatch (ne : Bool) (d a b : SOp) (s : State) := issue (alu2 1 d a b (bmatchW ne)) s

/-! ## Fields (R196) -/

/-- BFX -/
def execBfx (sgn : Bool) (d a b c : SOp) (s : State) :=
  issue (fun s => do
    let x ← s.rdA a
    let p ← s.rdA b
    let w ← s.rdA c
    pure (s.result 1 [s.dA d (bfxW sgn x (amount p) w.toNat)])) s
/-- BFX_IMM -/
def execBfxImm (sgn : Bool) (d a : SOp) (pos : BitVec 6) (w : BitVec 7) (s : State) :=
  issue (alu1 1 d a (bfxW sgn · pos.toNat w.toNat)) s
/-- BFI: d is a source too. -/
def execBfi (d a b c : SOp) (s : State) :=
  issue (fun s => do
    let o ← s.rdA d
    let x ← s.rdA a
    let p ← s.rdA b
    let w ← s.rdA c
    pure (s.result 1 [s.dA d (bfiW o x (amount p) w.toNat)])) s
/-- BFI_IMM -/
def execBfiImm (d a : SOp) (pos : BitVec 6) (w : BitVec 7) (s : State) :=
  issue (alu2 1 d d a fun o x => bfiW o x pos.toNat w.toNat) s
/-- SEXT -/
def execSext (w : ExtW) (d a : SOp) (s : State) := issue (alu1 1 d a fun x => sext64 (extBits w) x.toNat) s
/-- ZEXT -/
def execZext (w : ExtW) (d a : SOp) (s : State) :=
  issue (alu1 1 d a fun x => BitVec.ofNat 64 (x.toNat % 2 ^ extBits w)) s

/-! ## Compares, select and predicates (R197 to R201) -/

/-- CMP -/
def execCmp (k : Cond) (pd pe : PReg) (a b : SOp) (s : State) :=
  issue (fun s => do
    let x ← s.rdA a
    let y ← s.rdA b
    pure (s.result 1 [s.dP pd (condHolds k x y), s.dP pe (!condHolds k x y)])) s
/-- CMP_IMM -/
def execCmpImm (k : Cond) (pd : PReg) (a : SOp) (i : BitVec 24) (s : State) :=
  issue (fun s => do
    let x ← s.rdA a
    pure (s.result 1 [s.dP pd (condHolds k x (imm24 i))])) s
/-- SEL -/
def execSel (d : SOp) (pc : PReg) (a b : SOp) (s : State) :=
  issue (fun s => do
    let c ← s.rdP pc
    let x ← s.rdA a
    let y ← s.rdA b
    pure (s.result 1 [s.dA d (if c then x else y)])) s
/-- PLOG -/
def execPlog (tt : BitVec 4) (d a b : PReg) (s : State) :=
  issue (fun s => do
    let x ← s.rdP a
    let y ← s.rdP b
    pure (s.result 1 [s.dP d (truth tt x y)])) s
/-- PMOV -/
def execPmov (form : PmovForm) (s : State) :=
  issue (fun s => match form with
    | .pp d a => do
      let x ← s.rdP a
      pure (s.result 1 [s.dP d x])
    | .sp d a => do
      let x ← s.rdP a
      pure (s.result 1 [s.dA d (if x then 1 else 0)])
    | .ps d a => do
      let x ← s.rdA a
      pure (s.result 1 [s.dP d (x ≠ 0)])) s
/-- MOVI -/
def execMovi (mode : MoviMode) (d : SOp) (i : BitVec 32) (s : State) :=
  issue (fun s => match mode with
    | .sext => pure (s.result 1 [s.dA d (i.signExtend 64)])
    | .zext => pure (s.result 1 [s.dA d (i.setWidth 64)])
    | .hi => do
      let o ← s.rdA d
      pure (s.result 1 [s.dA d (i ++ o.extractLsb' 0 32)])) s

end Sys2Proof.Machine
end

