-- ==== Sys2Proof/Machine/VectorMove.lean ====
section
/-! DEFINITION. Class V across elements (R273 to R283): conversions between formats, reductions, scans, permutations
and moves of elements, seeds and special functions. -/

namespace Sys2Proof.Machine

/-! ## Conversions (R273 to R275) -/

/-- The bits of bytes lo to lo + n - 1. -/
def byteMask (lo n : Nat) : Vec := BitVec.ofNat 4096 ((2 ^ (8 * n) - 1) * 2 ^ (8 * lo))

/-- Where a conversion reads and writes: elements converted, first source element, first destination element (R274). -/
def cvtPart (dt st : EType) (p : Nat) : Nat × Nat × Nat :=
  let m := 4096 / Nat.max st.width dt.width
  (m, if st.width < dt.width then p * m else 0, if dt.width < st.width then p * m else 0)

/-- Values in a vector as a run of elements. -/
def packAt (w at_ : Nat) (xs : List Nat) : Vec := pack w (List.replicate at_ 0 ++ xs)

/-- The results that write d and the scale register together; where one register is both, which write is kept is
free. -/
def State.cvtPair (s : State) (d b : VReg) (rd rb : Res) (cs : Causes) : State :=
  if s.me.physV d = s.me.physV b then
    let (n, s) := s.draw
    s.result 4 (if Config.freeBool n then [rd, rb] else [rb, rd]) cs
  else s.result 4 [rd, rb] cs

/-- A conversion of elements one by one, those of the part whose destination is active. -/
def State.cvtEach (s : State) (dt st : EType) (part : Nat) (d : VReg) (m : Option Mask) (f : Nat → Nat × Causes) :
    State :=
  let (n, src, dst) := cvtPart dt st part
  let w := dt.width
  let on (j : Nat) : Bool := active m w (dst + j)
  let r := (List.range n).map fun j => if on j then f (src + j) else (0, {})
  let mask := packAt w dst ((List.range n).map fun j => if on j then 2 ^ w - 1 else 0)
  s.result 4 [s.dV d (packAt w dst (r.map Prod.fst)) mask] ((r.map Prod.snd).foldl Causes.plus {})

/-- Groups of k elements. -/
def chunks (k : Nat) (l : List Nat) : List (List Nat) :=
  (List.range (l.length / k)).map fun i => (l.drop (k * i)).take k

/-- Floating elements of a part to native mxfp4 blocks (R64). -/
def State.cvtToMx (s : State) (st : EType) (rm : RMode) (part : Nat) (d b : VReg) (x : Vec) : State :=
  let (n, _, dst) := cvtPart .mxfp4 st part
  let bl := (chunks 64 ((List.range n).map fun j => lane st.width x j)).map fun xs => toMx rm (xs.map (decodeF st))
  let es := (bl.map fun r => r.1).flatten
  let cs := (bl.map fun r => r.2.2).foldl Causes.plus {}
  s.cvtPair d b (s.dV d (packAt 4 dst es) (packAt 4 dst (es.map fun _ => 15)))
    (s.dV b (packAt 8 (dst / 64) (bl.map fun r => r.2.1)) (byteMask (dst / 64) bl.length)) cs

/-- OCP blocks to native blocks (R65). -/
def State.cvtOcp (s : State) (rm : RMode) (d b : VReg) (x y : Vec) : State :=
  let bl := (List.range 16).map fun j =>
    let e (k : Nat) := lane 4 x (64 * j + k)
    ocpPair rm ((List.range 32).map e) ((List.range 32).map fun k => e (32 + k)) (lane 8 y (2 * j))
      (lane 8 y (2 * j + 1))
  s.cvtPair d b (s.dV d (pack 4 ((bl.map fun r => r.1).flatten)) (BitVec.allOnes 4096))
    (s.dV b (pack 8 (bl.map fun r => r.2.1)) (byteMask 0 32)) ((bl.map fun r => r.2.2).foldl Causes.plus {})

/-- Native blocks to OCP blocks (R65). -/
def State.cvtToOcp (s : State) (d b : VReg) (x y : Vec) : State :=
  s.cvtPair d b (s.dV d x (BitVec.allOnes 4096))
    (s.dV b (pack 8 ((List.range 32).map fun k => lane 8 y (k / 2))) (byteMask 0 32)) {}

/-- VCVT -/
def execVcvt (dt st : EType) (rm : RMode) (part : Fin 8) (ocp toocp : Bool) (d a b : VReg) (m : VMask) (s : State) :
    Host.Outcome State Fault Refusal :=
  issue (fun s => do
    let x ← s.rdV a
    let q := s.rdMask m
    if dt = .mxfp4 then
      let y ← s.rdV b
      pure (if st = .mxfp4 then (if toocp then s.cvtToOcp d b x y else s.cvtOcp rm d b x y)
        else s.cvtToMx st rm part.val d b x)
    else if st = .mxfp4 then
      let y ← s.rdV b
      pure (s.cvtEach dt st part.val d q fun k =>
        encodeF dt rm (mxVal (lane 4 x k) (lane 8 y (k / (if ocp then 32 else 64)))))
    else pure (s.cvtEach dt st part.val d q fun k => convert dt st rm (lane st.width x k))) s

/-! ## Reductions and scans (R276 to R278) -/

/-- The operation of a reduction or scan on two elements. -/
def redOp (t : EType) (rm : RMode) (k : ScanOp) (a b : Nat) : Nat × Causes :=
  match k with
  | .sum => if t.isFloat then fAdd t rm a b else ((a + b) % 2 ^ t.width, {})
  | .max => minMax t true a b
  | .min => minMax t false a b

/-- The empty result (R276). -/
def redEmpty (t : EType) (k : ScanOp) : Nat :=
  match k with
  | .sum => 0
  | .max => if t.isFloat then withSign t true (infBits t) else wrapTo t.width (intMin t)
  | .min => if t.isFloat then infBits t else wrapTo t.width (intMax t)

/-- The active elements, the others absent. -/
def actives (t : EType) (m : Option Mask) (x : Vec) : List (Option Nat) :=
  (List.range t.lanes).map fun i => if active m t.width i then some (lane t.width x i) else none

/-- A floating element as an operand: any NaN is the canonical one, and a signalling one raises INV (R58). -/
def quiet (t : EType) (x : Nat) : Nat × Causes := if t.isFloat then fSign t x x else (x, {})

/-- One level of the tree. -/
def pairUp (op : Nat → Nat → Nat × Causes) : List (Option Nat) → List (Option Nat) × Causes
  | u :: v :: r =>
    let (l, c) := pairUp op r
    match u, v with
    | some a, some b => let (x, c') := op a b; (some x :: l, c'.plus c)
    | some a, none => (some a :: l, c)
    | none, v => (v :: l, c)
  | l => (l, {})

/-- The tree of R276, n levels at most. -/
def treeOf (op : Nat → Nat → Nat × Causes) : Nat → List (Option Nat) → Option Nat × Causes
  | 0, l => (l.head?.join, {})
  | n + 1, l =>
    let (l', c) := pairUp op l
    let (x, c') := treeOf op n l'
    (x, c.plus c')

/-- A reduction of the active elements, with at most one event per cause. -/
def reduceTree (t : EType) (rm : RMode) (k : ScanOp) (xs : List (Option Nat)) : Nat × Causes :=
  let ys := xs.map fun x => x.map (quiet t)
  let c := ys.foldl (fun c y => match y with
    | some y => c.plus y.2
    | none => c) ({} : Causes)
  let (r, c') := treeOf (redOp t rm k) 9 (ys.map fun y => y.map Prod.fst)
  (r.getD (redEmpty t k), (c.plus c').once)

/-- A bf16 pattern widened exactly to fp32. -/
def bf16Wide (x : Nat) : Nat := x * 65536

/-- Write the low n bits of d. -/
def State.lowRes (s : State) (L n : Nat) (d : VReg) (r : Nat × Causes) : State :=
  s.result L [s.dV d (BitVec.ofNat 4096 r.1) (BitVec.ofNat 4096 (2 ^ n - 1))] r.2

/-- VRSUM: an fp32 sum in the tree, or an exact 64-bit sum. -/
def execVrsum (t : EType) (rm : RMode) (d a : VReg) (m : VMask) (s : State) : Host.Outcome State Fault Refusal :=
  issue (fun s => do
    let x ← s.rdV a
    let xs := actives t (s.rdMask m) x
    if t.isFloat then
      let ys := if t = .bf16 then xs.map fun y => y.map bf16Wide else xs
      pure (s.lowRes 8 32 d (reduceTree .fp32 rm .sum ys))
    else
      let sum := xs.foldl (fun (acc : Int) y => match y with
        | some y => acc + intVal t y
        | none => acc) 0
      pure (s.lowRes 8 64 d (wrapTo 64 sum, {}))) s

/-- VRMAX and VRMIN. -/
def redMinMax (t : EType) (k : ScanOp) (d a : VReg) (m : VMask) : Core := fun s => do
  let x ← s.rdV a
  pure (s.lowRes 8 t.width d (reduceTree t .rne k (actives t (s.rdMask m) x)))

/-- VRMAX -/
def execVrmax (t : EType) (d a : VReg) (m : VMask) (s : State) : Host.Outcome State Fault Refusal :=
  issue (redMinMax t .max d a m) s
/-- VRMIN -/
def execVrmin (t : EType) (d a : VReg) (m : VMask) (s : State) : Host.Outcome State Fault Refusal :=
  issue (redMinMax t .min d a m) s

/-- The rank of an element in VRARGMAX: any NaN above +inf, -0 below +0 (R277). -/
def argRank (t : EType) (x : Nat) : Int :=
  if t.isFloat then (if (decodeF t x).isNan then 2 ^ t.width else fKey t x) else intVal t x

/-- The lowest index of greatest rank, with its element. -/
def argMax (t : EType) (xs : List (Option Nat)) : Option (Nat × Nat) :=
  (xs.foldl (fun (acc : Nat × Option (Nat × Nat)) x =>
    (acc.1 + 1, match x, acc.2 with
      | none, best => best
      | some v, none => some (acc.1, v)
      | some v, some best => if argRank t best.2 < argRank t v then some (acc.1, v) else some best)) (0, none)).2

/-- A value in 32 bits: fp32, or extended with the type's signedness (R277). -/
def wide32 (t : EType) (x : Nat) : Nat :=
  if t.isFloat then
    if (decodeF t x).isNan then canonNan .fp32 else if t = .bf16 then bf16Wide x else x
  else wrapTo 32 (intVal t x)

/-- VRARGMAX -/
def execVrargmax (t : EType) (d a : VReg) (m : VMask) (s : State) : Host.Outcome State Fault Refusal :=
  issue (fun s => do
    let x ← s.rdV a
    let xs := actives t (s.rdMask m) x
    let sig := t.isFloat && xs.any fun y => match y with
      | some y => (decodeF t y).isSig
      | none => false
    let r := match argMax t xs with
      | some (i, v) => wide32 t v * 2 ^ 32 + i
      | none => wide32 t (redEmpty t .max) * 2 ^ 32 + 0xFFFFFFFF
    pure (s.lowRes 8 64 d (r, if sig then invalid else {}))) s

/-- One step of a scan at distance k: the elements with the causes their steps have raised. -/
def scanStep (op : Nat → Nat → Nat × Causes) (k : Nat) (y : List (Option Nat × Causes)) : List (Option Nat × Causes) :=
  List.zipWith (fun (u v : Option Nat × Causes) => match u.1, v.1 with
    | none, _ => v
    | some a, none => (some a, v.2)
    | some a, some b => let (r, c) := op a b; (some r, v.2.plus c))
    (List.replicate k ((none, {}) : Option Nat × Causes) ++ y) y

/-- The steps at distances k, 2k, and so on, below n; fuel many. -/
def scanFrom (op : Nat → Nat → Nat × Causes) (n k : Nat) (y : List (Option Nat × Causes)) :
    Nat → List (Option Nat × Causes)
  | 0 => y
  | f + 1 => if k < n then scanFrom op n (2 * k) (scanStep op k y) f else y

/-- VSCAN -/
def execVscan (t : EType) (rm : RMode) (op : ScanOp) (excl : Bool) (d a : VReg) (m : VMask) (s : State) :
    Host.Outcome State Fault Refusal :=
  issue (fun s => do
    let x ← s.rdV a
    let q := s.rdMask m
    let y := scanFrom (redOp t rm op) t.lanes 1 ((actives t q x).map fun e => (e, {})) 9
    let y := if excl then ((none, {}) : Option Nat × Causes) :: y else y
    pure (s.vres 10 t.width d q (vecMap t.width q fun i =>
      let e := y.getD i ((none, {}) : Option Nat × Causes)
      match e.1 with
      | some v => ((quiet t v).1, e.2.once)
      | none => (redEmpty t op, {})))) s

/-! ## Moving elements (R279 to R282) -/

/-- A move: element i of the result comes from the sources' elements; no cause. -/
def State.vmove (s : State) (t : EType) (d : VReg) (m : VMask) (f : Nat → Nat) : State :=
  s.vres 2 t.width d (s.rdMask m) (vecMap t.width (s.rdMask m) fun i => (f i, {}))

/-- VPERM -/
def execVperm (t : EType) (hi : Bool) (d a b : VReg) (m : VMask) (s : State) : Host.Outcome State Fault Refusal :=
  issue (fun s => do
    let x ← s.rdV a
    let y ← s.rdV b
    let w := t.width
    pure (s.vmove t d m fun i => lane w x ((lane w y i + if hi then 256 else 0) % t.lanes))) s

/-- VPERM2 -/
def execVperm2 (t : EType) (d a b c : VReg) (m : VMask) (s : State) : Host.Outcome State Fault Refusal :=
  issue (fun s => do
    let x ← s.rdV a
    let y ← s.rdV b
    let z ← s.rdV c
    let w := t.width
    let n := t.lanes
    pure (s.vmove t d m fun i =>
      let k := lane w y i % (2 * n)
      if k < n then lane w x k else lane w z (k - n))) s

/-- VBCAST -/
def execVbcast (t : EType) (d a : VReg) (b : SReg) (m : VMask) (s : State) : Host.Outcome State Fault Refusal :=
  issue (fun s => do
    let x ← s.rdV a
    let k ← s.rdS b
    pure (s.vmove t d m fun _ => lane t.width x (k.toNat % t.lanes))) s

/-- VSPLAT -/
def execVsplat (t : EType) (d : VReg) (a : SReg) (m : VMask) (s : State) : Host.Outcome State Fault Refusal :=
  issue (fun s => do
    let x ← s.rdS a
    pure (s.vmove t d m fun _ => x.toNat % 2 ^ t.width)) s

/-- VSLIDE -/
def execVslide (t : EType) (up : Bool) (d a : VReg) (b : SReg) (c : VReg) (m : VMask) (s : State) :
    Host.Outcome State Fault Refusal :=
  issue (fun s => do
    let x ← s.rdV a
    let z ← s.rdV c
    let y ← s.rdS b
    let n := t.lanes
    let w := t.width
    let k := Nat.min y.toNat n
    pure (s.vmove t d m fun i =>
      if up then (if k ≤ i then lane w x (i - k) else lane w z (n + i - k))
      else if i + k < n then lane w x (i + k) else lane w z (i + k - n))) s

/-- VREV -/
def execVrev (t : EType) (d a : VReg) (m : VMask) (s : State) : Host.Outcome State Fault Refusal :=
  issue (fun s => do
    let x ← s.rdV a
    pure (s.vmove t d m fun i => lane t.width x (t.lanes - 1 - i))) s

/-- VZIP -/
def execVzip (t : EType) (hi : Bool) (d a c : VReg) (m : VMask) (s : State) : Host.Outcome State Fault Refusal :=
  issue (fun s => do
    let x ← s.rdV a
    let z ← s.rdV c
    let h := if hi then t.lanes / 2 else 0
    pure (s.vmove t d m fun i => lane t.width (if i % 2 = 0 then x else z) (h + i / 2))) s

/-- VUNZIP -/
def execVunzip (t : EType) (odd : Bool) (d a c : VReg) (m : VMask) (s : State) : Host.Outcome State Fault Refusal :=
  issue (fun s => do
    let x ← s.rdV a
    let z ← s.rdV c
    let h := t.lanes / 2
    pure (s.vmove t d m fun i =>
      if i < h then lane t.width x (2 * i + odd.toNat) else lane t.width z (2 * (i - h) + odd.toNat))) s

/-- VINS (R280): one element, if it is active. -/
def execVins (t : EType) (d : VReg) (a b : SReg) (m : VMask) (s : State) : Host.Outcome State Fault Refusal :=
  issue (fun s => do
    let x ← s.rdS a
    let y ← s.rdS b
    let w := t.width
    let j := y.toNat % t.lanes
    if active (s.rdMask m) w j then
      pure (s.result 2 [s.dV d (BitVec.ofNat 4096 (x.toNat % 2 ^ w * 2 ^ (w * j)))
        (BitVec.ofNat 4096 ((2 ^ w - 1) * 2 ^ (w * j)))])
    else pure s) s

/-- VEXT (R280): int8 and int32 sign-extended, every other type zero-extended. -/
def execVext (t : EType) (d : SReg) (a : VReg) (b : SReg) (s : State) : Host.Outcome State Fault Refusal :=
  issue (fun s => do
    let x ← s.rdV a
    let y ← s.rdS b
    let e := lane t.width x (y.toNat % t.lanes)
    let r := if t = .int8 ∨ t = .int32 then sext64 t.width e else BitVec.ofNat 64 e
    pure (s.result 2 [s.dS d r])) s

/-- VCOMPRESS (R281): the active elements first, then zeros. -/
def execVcompress (t : EType) (d a : VReg) (q : QReg) (s : State) : Host.Outcome State Fault Refusal :=
  issue (fun s => do
    let x ← s.rdV a
    let xs := (actives t (some (s.rdQ q)) x).filterMap id
    pure (s.result 2 [s.dV d (pack t.width xs) (BitVec.allOnes 4096)])) s

/-- Source elements handed to the active places in ascending order. -/
def expandTo (t : EType) (q : Mask) (x : Vec) : List Nat :=
  ((List.range t.lanes).foldl (fun (acc : List Nat × Nat) i =>
    if active (some q) t.width i then (acc.1 ++ [lane t.width x acc.2], acc.2 + 1) else (acc.1 ++ [0], acc.2))
    ([], 0)).1

/-- VEXPAND (R281) -/
def execVexpand (t : EType) (d a : VReg) (q : QReg) (s : State) : Host.Outcome State Fault Refusal :=
  issue (fun s => do
    let x ← s.rdV a
    pure (s.vres 2 t.width d (some (s.rdQ q)) (pack t.width (expandTo t (s.rdQ q) x), {}))) s

/-- VMOV (R282): carry vectors through their working copies. -/
def execVmov (t : EType) (d a : VOp) (m : VMask) (s : State) : Host.Outcome State Fault Refusal :=
  issue (fun s => do
    let x ← match a with
      | .v n => s.rdV n
      | .cv n => pure s.me.cvWork[n]
    let mask := elemMask t.width (s.rdMask m)
    pure (s.result 2 [match d with
      | .v n => s.dV n x mask
      | .cv n => .cv n x mask])) s

/-! ## Seeds and special functions (R283) -/

/-- VRCPE -/
def execVrcpe (d a : VReg) (m : VMask) (s : State) : Host.Outcome State Fault Refusal :=
  issue (vec1 4 .fp32 d a m rcpe) s
/-- VRSQE -/
def execVrsqe (d a : VReg) (m : VMask) (s : State) : Host.Outcome State Fault Refusal :=
  issue (vec1 4 .fp32 d a m rsqe) s
/-- VEXP2 -/
def execVexp2 (d a : VReg) (m : VMask) (s : State) : Host.Outcome State Fault Refusal :=
  issue (vec1 14 .fp32 d a m exp2F) s
/-- VLOG2 -/
def execVlog2 (d a : VReg) (m : VMask) (s : State) : Host.Outcome State Fault Refusal :=
  issue (vec1 14 .fp32 d a m log2F) s
/-- VSIN -/
def execVsin (d a : VReg) (m : VMask) (s : State) : Host.Outcome State Fault Refusal :=
  issue (vec1 14 .fp32 d a m sinF) s
/-- VCOS -/
def execVcos (d a : VReg) (m : VMask) (s : State) : Host.Outcome State Fault Refusal :=
  issue (vec1 14 .fp32 d a m cosF) s
/-- VTANH -/
def execVtanh (d a : VReg) (m : VMask) (s : State) : Host.Outcome State Fault Refusal :=
  issue (vec1 14 .fp32 d a m tanhF) s

end Sys2Proof.Machine
end

