-- ==== Sys2Proof/Machine/Dispatch.lean ====
section
/-! DEFINITION. One arm per constructor of Instr, each a direct call of that instruction's meaning. -/

namespace Sys2Proof.Machine

/-- The meaning of an instruction or of a step of the package. -/
def exec (i : Instr) (s : State) : Host.Outcome State Fault Refusal :=
  match i with
  | .add x1 x2 x3 => Sys2Proof.Machine.execAdd x1 x2 x3 s
  | .addImm x1 x2 x3 => Sys2Proof.Machine.execAddImm x1 x2 x3 s
  | .sub x1 x2 x3 => Sys2Proof.Machine.execSub x1 x2 x3 s
  | .mul x1 x2 x3 => Sys2Proof.Machine.execMul x1 x2 x3 s
  | .mulImm x1 x2 x3 => Sys2Proof.Machine.execMulImm x1 x2 x3 s
  | .mulh x1 x2 x3 x4 => Sys2Proof.Machine.execMulh x1 x2 x3 x4 s
  | .div x1 x2 x3 x4 => Sys2Proof.Machine.execDiv x1 x2 x3 x4 s
  | .rem x1 x2 x3 x4 => Sys2Proof.Machine.execRem x1 x2 x3 x4 s
  | .and x1 x2 x3 => Sys2Proof.Machine.execAnd x1 x2 x3 s
  | .andImm x1 x2 x3 => Sys2Proof.Machine.execAndImm x1 x2 x3 s
  | .or x1 x2 x3 => Sys2Proof.Machine.execOr x1 x2 x3 s
  | .orImm x1 x2 x3 => Sys2Proof.Machine.execOrImm x1 x2 x3 s
  | .xor x1 x2 x3 => Sys2Proof.Machine.execXor x1 x2 x3 s
  | .xorImm x1 x2 x3 => Sys2Proof.Machine.execXorImm x1 x2 x3 s
  | .andn x1 x2 x3 => Sys2Proof.Machine.execAndn x1 x2 x3 s
  | .shl x1 x2 x3 => Sys2Proof.Machine.execShl x1 x2 x3 s
  | .shlImm x1 x2 x3 => Sys2Proof.Machine.execShlImm x1 x2 x3 s
  | .shr x1 x2 x3 => Sys2Proof.Machine.execShr x1 x2 x3 s
  | .shrImm x1 x2 x3 => Sys2Proof.Machine.execShrImm x1 x2 x3 s
  | .sar x1 x2 x3 => Sys2Proof.Machine.execSar x1 x2 x3 s
  | .sarImm x1 x2 x3 => Sys2Proof.Machine.execSarImm x1 x2 x3 s
  | .rol x1 x2 x3 => Sys2Proof.Machine.execRol x1 x2 x3 s
  | .ror x1 x2 x3 => Sys2Proof.Machine.execRor x1 x2 x3 s
  | .rorImm x1 x2 x3 => Sys2Proof.Machine.execRorImm x1 x2 x3 s
  | .addc x1 x2 x3 x4 x5 => Sys2Proof.Machine.execAddc x1 x2 x3 x4 x5 s
  | .subb x1 x2 x3 x4 x5 => Sys2Proof.Machine.execSubb x1 x2 x3 x4 x5 s
  | .min x1 x2 x3 x4 => Sys2Proof.Machine.execMin x1 x2 x3 x4 s
  | .minImm x1 x2 x3 x4 => Sys2Proof.Machine.execMinImm x1 x2 x3 x4 s
  | .max x1 x2 x3 x4 => Sys2Proof.Machine.execMax x1 x2 x3 x4 s
  | .maxImm x1 x2 x3 x4 => Sys2Proof.Machine.execMaxImm x1 x2 x3 x4 s
  | .abs x1 x2 => Sys2Proof.Machine.execAbs x1 x2 s
  | .clz x1 x2 => Sys2Proof.Machine.execClz x1 x2 s
  | .ctz x1 x2 => Sys2Proof.Machine.execCtz x1 x2 s
  | .popc x1 x2 => Sys2Proof.Machine.execPopc x1 x2 s
  | .bswap x1 x2 => Sys2Proof.Machine.execBswap x1 x2 s
  | .brev x1 x2 => Sys2Proof.Machine.execBrev x1 x2 s
  | .clmul x1 x2 x3 x4 => Sys2Proof.Machine.execClmul x1 x2 x3 x4 s
  | .bmatch x1 x2 x3 x4 => Sys2Proof.Machine.execBmatch x1 x2 x3 x4 s
  | .bfx x1 x2 x3 x4 x5 => Sys2Proof.Machine.execBfx x1 x2 x3 x4 x5 s
  | .bfxImm x1 x2 x3 x4 x5 => Sys2Proof.Machine.execBfxImm x1 x2 x3 x4 x5 s
  | .bfi x1 x2 x3 x4 => Sys2Proof.Machine.execBfi x1 x2 x3 x4 s
  | .bfiImm x1 x2 x3 x4 => Sys2Proof.Machine.execBfiImm x1 x2 x3 x4 s
  | .sext x1 x2 x3 => Sys2Proof.Machine.execSext x1 x2 x3 s
  | .zext x1 x2 x3 => Sys2Proof.Machine.execZext x1 x2 x3 s
  | .cmp x1 x2 x3 x4 x5 => Sys2Proof.Machine.execCmp x1 x2 x3 x4 x5 s
  | .cmpImm x1 x2 x3 x4 => Sys2Proof.Machine.execCmpImm x1 x2 x3 x4 s
  | .sel x1 x2 x3 x4 => Sys2Proof.Machine.execSel x1 x2 x3 x4 s
  | .plog x1 x2 x3 x4 => Sys2Proof.Machine.execPlog x1 x2 x3 x4 s
  | .pmov x1 => Sys2Proof.Machine.execPmov x1 s
  | .movi x1 x2 x3 => Sys2Proof.Machine.execMovi x1 x2 x3 s
  | .nop x1 => Sys2Proof.Machine.execNop x1 s
  | .br x1 => Sys2Proof.Machine.execBr x1 s
  | .jr x1 => Sys2Proof.Machine.execJr x1 s
  | .call x1 x2 => Sys2Proof.Machine.execCall x1 x2 s
  | .callr x1 x2 => Sys2Proof.Machine.execCallr x1 x2 s
  | .ret x1 => Sys2Proof.Machine.execRet x1 s
  | .loop x1 x2 x3 x4 x5 => Sys2Proof.Machine.execLoop x1 x2 x3 x4 x5 s
  | .stageEnd => Sys2Proof.Machine.execStageEnd s
  | .trap x1 => Sys2Proof.Machine.execTrap x1 s
  | .waitTime x1 x2 => Sys2Proof.Machine.execWaitTime x1 x2 s
  | .sleepUntil x1 x2 => Sys2Proof.Machine.execSleepUntil x1 x2 s
  | .timeRead x1 => Sys2Proof.Machine.execTimeRead x1 s
  | .vadd x1 x2 x3 x4 x5 x6 x7 => Sys2Proof.Machine.execVadd x1 x2 x3 x4 x5 x6 x7 s
  | .vsub x1 x2 x3 x4 x5 x6 x7 => Sys2Proof.Machine.execVsub x1 x2 x3 x4 x5 x6 x7 s
  | .vmul x1 x2 x3 x4 x5 x6 x7 => Sys2Proof.Machine.execVmul x1 x2 x3 x4 x5 x6 x7 s
  | .vfma x1 x2 x3 x4 x5 x6 x7 => Sys2Proof.Machine.execVfma x1 x2 x3 x4 x5 x6 x7 s
  | .vfms x1 x2 x3 x4 x5 x6 x7 => Sys2Proof.Machine.execVfms x1 x2 x3 x4 x5 x6 x7 s
  | .vfnma x1 x2 x3 x4 x5 x6 x7 => Sys2Proof.Machine.execVfnma x1 x2 x3 x4 x5 x6 x7 s
  | .vfnms x1 x2 x3 x4 x5 x6 x7 => Sys2Proof.Machine.execVfnms x1 x2 x3 x4 x5 x6 x7 s
  | .vmin x1 x2 x3 x4 x5 => Sys2Proof.Machine.execVmin x1 x2 x3 x4 x5 s
  | .vmax x1 x2 x3 x4 x5 => Sys2Proof.Machine.execVmax x1 x2 x3 x4 x5 s
  | .vabs x1 x2 x3 x4 x5 => Sys2Proof.Machine.execVabs x1 x2 x3 x4 x5 s
  | .vneg x1 x2 x3 x4 x5 => Sys2Proof.Machine.execVneg x1 x2 x3 x4 x5 s
  | .vabsd x1 x2 x3 x4 x5 x6 x7 => Sys2Proof.Machine.execVabsd x1 x2 x3 x4 x5 x6 x7 s
  | .vcpysgn x1 x2 x3 x4 x5 => Sys2Proof.Machine.execVcpysgn x1 x2 x3 x4 x5 s
  | .vround x1 x2 x3 x4 x5 => Sys2Proof.Machine.execVround x1 x2 x3 x4 x5 s
  | .vmulh x1 x2 x3 x4 x5 => Sys2Proof.Machine.execVmulh x1 x2 x3 x4 x5 s
  | .vmad x1 x2 x3 x4 x5 x6 x7 => Sys2Proof.Machine.execVmad x1 x2 x3 x4 x5 x6 x7 s
  | .vand x1 x2 x3 x4 x5 => Sys2Proof.Machine.execVand x1 x2 x3 x4 x5 s
  | .vor x1 x2 x3 x4 x5 => Sys2Proof.Machine.execVor x1 x2 x3 x4 x5 s
  | .vxor x1 x2 x3 x4 x5 => Sys2Proof.Machine.execVxor x1 x2 x3 x4 x5 s
  | .vandn x1 x2 x3 x4 x5 => Sys2Proof.Machine.execVandn x1 x2 x3 x4 x5 s
  | .vshl x1 x2 x3 x4 x5 => Sys2Proof.Machine.execVshl x1 x2 x3 x4 x5 s
  | .vshr x1 x2 x3 x4 x5 => Sys2Proof.Machine.execVshr x1 x2 x3 x4 x5 s
  | .vsar x1 x2 x3 x4 x5 => Sys2Proof.Machine.execVsar x1 x2 x3 x4 x5 s
  | .vclz x1 x2 x3 x4 => Sys2Proof.Machine.execVclz x1 x2 x3 x4 s
  | .vpopc x1 x2 x3 x4 => Sys2Proof.Machine.execVpopc x1 x2 x3 x4 s
  | .vdot4 x1 x2 x3 x4 x5 x6 x7 x8 => Sys2Proof.Machine.execVdot4 x1 x2 x3 x4 x5 x6 x7 x8 s
  | .vcmp x1 x2 x3 x4 x5 x6 => Sys2Proof.Machine.execVcmp x1 x2 x3 x4 x5 x6 s
  | .vclass x1 x2 x3 x4 => Sys2Proof.Machine.execVclass x1 x2 x3 x4 s
  | .vsel x1 x2 x3 x4 x5 x6 => Sys2Proof.Machine.execVsel x1 x2 x3 x4 x5 x6 s
  | .qlog x1 x2 x3 x4 => Sys2Proof.Machine.execQlog x1 x2 x3 x4 s
  | .qmov x1 => Sys2Proof.Machine.execQmov x1 s
  | .vcvt x1 x2 x3 x4 x5 x6 x7 x8 x9 x10 => Sys2Proof.Machine.execVcvt x1 x2 x3 x4 x5 x6 x7 x8 x9 x10 s
  | .vrsum x1 x2 x3 x4 x5 => Sys2Proof.Machine.execVrsum x1 x2 x3 x4 x5 s
  | .vrmax x1 x2 x3 x4 => Sys2Proof.Machine.execVrmax x1 x2 x3 x4 s
  | .vrmin x1 x2 x3 x4 => Sys2Proof.Machine.execVrmin x1 x2 x3 x4 s
  | .vrargmax x1 x2 x3 x4 => Sys2Proof.Machine.execVrargmax x1 x2 x3 x4 s
  | .vscan x1 x2 x3 x4 x5 x6 x7 => Sys2Proof.Machine.execVscan x1 x2 x3 x4 x5 x6 x7 s
  | .vperm x1 x2 x3 x4 x5 x6 => Sys2Proof.Machine.execVperm x1 x2 x3 x4 x5 x6 s
  | .vperm2 x1 x2 x3 x4 x5 x6 => Sys2Proof.Machine.execVperm2 x1 x2 x3 x4 x5 x6 s
  | .vbcast x1 x2 x3 x4 x5 => Sys2Proof.Machine.execVbcast x1 x2 x3 x4 x5 s
  | .vsplat x1 x2 x3 x4 => Sys2Proof.Machine.execVsplat x1 x2 x3 x4 s
  | .vslide x1 x2 x3 x4 x5 x6 x7 => Sys2Proof.Machine.execVslide x1 x2 x3 x4 x5 x6 x7 s
  | .vins x1 x2 x3 x4 x5 => Sys2Proof.Machine.execVins x1 x2 x3 x4 x5 s
  | .vext x1 x2 x3 x4 => Sys2Proof.Machine.execVext x1 x2 x3 x4 s
  | .vrev x1 x2 x3 x4 => Sys2Proof.Machine.execVrev x1 x2 x3 x4 s
  | .vzip x1 x2 x3 x4 x5 x6 => Sys2Proof.Machine.execVzip x1 x2 x3 x4 x5 x6 s
  | .vunzip x1 x2 x3 x4 x5 x6 => Sys2Proof.Machine.execVunzip x1 x2 x3 x4 x5 x6 s
  | .vcompress x1 x2 x3 x4 => Sys2Proof.Machine.execVcompress x1 x2 x3 x4 s
  | .vexpand x1 x2 x3 x4 => Sys2Proof.Machine.execVexpand x1 x2 x3 x4 s
  | .vmov x1 x2 x3 x4 => Sys2Proof.Machine.execVmov x1 x2 x3 x4 s
  | .vrcpe x1 x2 x3 => Sys2Proof.Machine.execVrcpe x1 x2 x3 s
  | .vrsqe x1 x2 x3 => Sys2Proof.Machine.execVrsqe x1 x2 x3 s
  | .vexp2 x1 x2 x3 => Sys2Proof.Machine.execVexp2 x1 x2 x3 s
  | .vlog2 x1 x2 x3 => Sys2Proof.Machine.execVlog2 x1 x2 x3 s
  | .vsin x1 x2 x3 => Sys2Proof.Machine.execVsin x1 x2 x3 s
  | .vcos x1 x2 x3 => Sys2Proof.Machine.execVcos x1 x2 x3 s
  | .vtanh x1 x2 x3 => Sys2Proof.Machine.execVtanh x1 x2 x3 s
  | .mwload x1 x2 x3 x4 x5 => Sys2Proof.Machine.execMwload x1 x2 x3 x4 x5 s
  | .mwswap => Sys2Proof.Machine.execMwswap s
  | .mmul x1 x2 x3 x4 x5 x6 x7 x8 => Sys2Proof.Machine.execMmul x1 x2 x3 x4 x5 x6 x7 x8 s
  | .mchk x1 x2 => Sys2Proof.Machine.execMchk x1 x2 s
  | .tzero x1 x2 => Sys2Proof.Machine.execTzero x1 x2 s
  | .tld x1 x2 x3 x4 => Sys2Proof.Machine.execTld x1 x2 x3 x4 s
  | .tst x1 x2 x3 x4 => Sys2Proof.Machine.execTst x1 x2 x3 x4 s
  | .tcst x1 x2 x3 x4 x5 x6 x7 => Sys2Proof.Machine.execTcst x1 x2 x3 x4 x5 x6 x7 s
  | .trd x1 x2 x3 x4 => Sys2Proof.Machine.execTrd x1 x2 x3 x4 s
  | .twr x1 x2 x3 x4 => Sys2Proof.Machine.execTwr x1 x2 x3 x4 s
  | .tscale x1 x2 x3 => Sys2Proof.Machine.execTscale x1 x2 x3 s
  | .tmov x1 x2 x3 => Sys2Proof.Machine.execTmov x1 x2 x3 s
  | .tadd x1 x2 x3 => Sys2Proof.Machine.execTadd x1 x2 x3 s
  | .kset x1 => Sys2Proof.Machine.execKset x1 s
  | .rsvInit x1 x2 x3 x4 x5 => Sys2Proof.Machine.execRsvInit x1 x2 x3 x4 x5 s
  | .rsvFeed x1 x2 x3 => Sys2Proof.Machine.execRsvFeed x1 x2 x3 s
  | .rsvFeed2 x1 x2 x3 x4 => Sys2Proof.Machine.execRsvFeed2 x1 x2 x3 x4 s
  | .rsvDraw x1 x2 x3 => Sys2Proof.Machine.execRsvDraw x1 x2 x3 s
  | .ld x1 x2 x3 x4 x5 x6 x7 => Sys2Proof.Machine.execLd x1 x2 x3 x4 x5 x6 x7 s
  | .st x1 x2 x3 x4 x5 x6 => Sys2Proof.Machine.execSt x1 x2 x3 x4 x5 x6 s
  | .ldp x1 x2 x3 x4 x5 => Sys2Proof.Machine.execLdp x1 x2 x3 x4 x5 s
  | .stp x1 x2 x3 x4 x5 => Sys2Proof.Machine.execStp x1 x2 x3 x4 x5 s
  | .ldg x1 x2 x3 x4 x5 x6 x7 => Sys2Proof.Machine.execLdg x1 x2 x3 x4 x5 x6 x7 s
  | .stg x1 x2 x3 x4 x5 x6 => Sys2Proof.Machine.execStg x1 x2 x3 x4 x5 x6 s
  | .stgGs x1 x2 x3 x4 x5 => Sys2Proof.Machine.execStgGs x1 x2 x3 x4 x5 s
  | .aadd x1 x2 x3 x4 x5 x6 => Sys2Proof.Machine.execAadd x1 x2 x3 x4 x5 x6 s
  | .aswap x1 x2 x3 x4 x5 x6 => Sys2Proof.Machine.execAswap x1 x2 x3 x4 x5 x6 s
  | .acas x1 x2 x3 x4 x5 x6 x7 => Sys2Proof.Machine.execAcas x1 x2 x3 x4 x5 x6 x7 s
  | .aand x1 x2 x3 x4 x5 x6 => Sys2Proof.Machine.execAand x1 x2 x3 x4 x5 x6 s
  | .aor x1 x2 x3 x4 x5 x6 => Sys2Proof.Machine.execAor x1 x2 x3 x4 x5 x6 s
  | .axor x1 x2 x3 x4 x5 x6 => Sys2Proof.Machine.execAxor x1 x2 x3 x4 x5 x6 s
  | .amin x1 x2 x3 x4 x5 x6 x7 => Sys2Proof.Machine.execAmin x1 x2 x3 x4 x5 x6 x7 s
  | .amax x1 x2 x3 x4 x5 x6 x7 => Sys2Proof.Machine.execAmax x1 x2 x3 x4 x5 x6 x7 s
  | .afadd x1 x2 x3 x4 x5 => Sys2Proof.Machine.execAfadd x1 x2 x3 x4 x5 s
  | .fence x1 x2 => Sys2Proof.Machine.execFence x1 x2 s
  | .gsOpen x1 x2 x3 x4 => Sys2Proof.Machine.execGsOpen x1 x2 x3 x4 s
  | .gsSeal x1 x2 => Sys2Proof.Machine.execGsSeal x1 x2 s
  | .gsAbort x1 x2 => Sys2Proof.Machine.execGsAbort x1 x2 s
  | .gsSnap x1 x2 x3 => Sys2Proof.Machine.execGsSnap x1 x2 x3 s
  | .gsLoad x1 x2 x3 x4 => Sys2Proof.Machine.execGsLoad x1 x2 x3 x4 s
  | .gsStat x1 x2 => Sys2Proof.Machine.execGsStat x1 x2 s
  | .itld x1 x2 => Sys2Proof.Machine.execItld x1 x2 s
  | .itset x1 => Sys2Proof.Machine.execItset x1 s
  | .itadv x1 x2 x3 => Sys2Proof.Machine.execItadv x1 x2 x3 s
  | .itrd x1 x2 x3 => Sys2Proof.Machine.execItrd x1 x2 x3 s
  | .cpy x1 x2 x3 x4 => Sys2Proof.Machine.execCpy x1 x2 x3 x4 s
  | .cpyGs x1 x2 x3 x4 x5 => Sys2Proof.Machine.execCpyGs x1 x2 x3 x4 x5 s
  | .cpyga x1 x2 x3 x4 x5 x6 => Sys2Proof.Machine.execCpyga x1 x2 x3 x4 x5 x6 s
  | .cpysc x1 x2 x3 x4 x5 x6 => Sys2Proof.Machine.execCpysc x1 x2 x3 x4 x5 x6 s
  | .cpybc x1 x2 x3 x4 x5 x6 => Sys2Proof.Machine.execCpybc x1 x2 x3 x4 x5 x6 s
  | .prmRd x1 x2 => Sys2Proof.Machine.execPrmRd x1 x2 s
  | .ringAddr x1 x2 x3 x4 x5 => Sys2Proof.Machine.execRingAddr x1 x2 x3 x4 x5 s
  | .ringPut x1 x2 x3 x4 => Sys2Proof.Machine.execRingPut x1 x2 x3 x4 s
  | .ringPeek x1 x2 x3 x4 x5 => Sys2Proof.Machine.execRingPeek x1 x2 x3 x4 x5 s
  | .ringAvail x1 x2 => Sys2Proof.Machine.execRingAvail x1 x2 s
  | .vld x1 x2 x3 x4 x5 => Sys2Proof.Machine.execVld x1 x2 x3 x4 x5 s
  | .vst x1 x2 x3 x4 x5 => Sys2Proof.Machine.execVst x1 x2 x3 x4 x5 s
  | .vgather x1 x2 x3 x4 x5 => Sys2Proof.Machine.execVgather x1 x2 x3 x4 x5 s
  | .vscatter x1 x2 x3 x4 x5 => Sys2Proof.Machine.execVscatter x1 x2 x3 x4 x5 s
  | .csrRd x1 x2 => Sys2Proof.Machine.execCsrRd x1 x2 s
  | .csrWr x1 x2 => Sys2Proof.Machine.execCsrWr x1 x2 s
  | .winLd x1 x2 x3 x4 => Sys2Proof.Machine.execWinLd x1 x2 x3 x4 s
  | .winRd x1 x2 x3 x4 => Sys2Proof.Machine.execWinRd x1 x2 x3 x4 s
  | .tlbInv x1 => Sys2Proof.Machine.execTlbInv x1 s
  | .tlbProbe x1 x2 x3 => Sys2Proof.Machine.execTlbProbe x1 x2 x3 s
  | .tret x1 => Sys2Proof.Machine.execTret x1 s
  | .timeAdvance => Sys2Proof.Machine.execTimeAdvance s
  | .firingEvaluation x1 => Sys2Proof.Machine.execFiringEvaluation x1 s
  | .commit x1 => Sys2Proof.Machine.execCommit x1 s
  | .coreHandover x1 => Sys2Proof.Machine.execCoreHandover x1 s
  | .budgetExceeded x1 => Sys2Proof.Machine.execBudgetExceeded x1 s
  | .faultAnswer x1 x2 => Sys2Proof.Machine.execFaultAnswer x1 x2 s
  | .collapse x1 => Sys2Proof.Machine.execCollapse x1 s
  | .retreqWrite x1 x2 => Sys2Proof.Machine.execRetreqWrite x1 x2 s
  | .retentionTransitionDone x1 => Sys2Proof.Machine.execRetentionTransitionDone x1 s
  | .promiseMissed x1 => Sys2Proof.Machine.execPromiseMissed x1 s
  | .copyComplete x1 => Sys2Proof.Machine.execCopyComplete x1 s
  | .copyFailure x1 => Sys2Proof.Machine.execCopyFailure x1 s
  | .mUnitStart x1 => Sys2Proof.Machine.execMUnitStart x1 s
  | .mwloadDone x1 x2 => Sys2Proof.Machine.execMwloadDone x1 x2 s
  | .globalRequest x1 => Sys2Proof.Machine.execGlobalRequest x1 s
  | .globalResponse x1 => Sys2Proof.Machine.execGlobalResponse x1 s
  | .gsHomeOpen x1 => Sys2Proof.Machine.execGsHomeOpen x1 s
  | .gsHomeSeal x1 => Sys2Proof.Machine.execGsHomeSeal x1 s
  | .gsHomeAbort x1 => Sys2Proof.Machine.execGsHomeAbort x1 s
  | .gsHomeSnap x1 => Sys2Proof.Machine.execGsHomeSnap x1 s
  | .gsHomeStat x1 => Sys2Proof.Machine.execGsHomeStat x1 s
  | .gsRevert x1 x2 x3 x4 => Sys2Proof.Machine.execGsRevert x1 x2 x3 x4 s
  | .gsAnswer x1 => Sys2Proof.Machine.execGsAnswer x1 s
  | .trapTake x1 => Sys2Proof.Machine.execTrapTake x1 s
  | .handlerTimeout x1 => Sys2Proof.Machine.execHandlerTimeout x1 s
  | .cogFailure x1 => Sys2Proof.Machine.execCogFailure x1 s
  | .freewheelQuiet => Sys2Proof.Machine.execFreewheelQuiet s
  | .livenessBeat x1 x2 => Sys2Proof.Machine.execLivenessBeat x1 x2 s
  | .portDead x1 => Sys2Proof.Machine.execPortDead x1 s
  | .hubSilent x1 => Sys2Proof.Machine.execHubSilent x1 s
  | .recovery x1 => Sys2Proof.Machine.execRecovery x1 s
  | .tokenizationComplete x1 => Sys2Proof.Machine.execTokenizationComplete x1 s
  | .admission => Sys2Proof.Machine.execAdmission s
  | .stepInject x1 => Sys2Proof.Machine.execStepInject x1 s
  | .donePacket x1 x2 x3 => Sys2Proof.Machine.execDonePacket x1 x2 x3 s
  | .streamPacket x1 => Sys2Proof.Machine.execStreamPacket x1 s
  | .freeSlotReturn x1 x2 x3 => Sys2Proof.Machine.execFreeSlotReturn x1 x2 x3 s
  | .periodicReturn x1 x2 => Sys2Proof.Machine.execPeriodicReturn x1 x2 s
  | .hubMessage x1 x2 => Sys2Proof.Machine.execHubMessage x1 x2 s
  | .linkFailure x1 x2 => Sys2Proof.Machine.execLinkFailure x1 x2 s
  | .timeExchange x1 => Sys2Proof.Machine.execTimeExchange x1 s
  | .sync x1 => Sys2Proof.Machine.execSync x1 s
  | .delreq x1 => Sys2Proof.Machine.execDelreq x1 s
  | .delresp x1 x2 x3 => Sys2Proof.Machine.execDelresp x1 x2 x3 s
  | .holdoverTimeout => Sys2Proof.Machine.execHoldoverTimeout s
  | .bootChunk x1 x2 x3 => Sys2Proof.Machine.execBootChunk x1 x2 x3 s
  | .imageActivate => Sys2Proof.Machine.execImageActivate s
  | .imageLoadStart => Sys2Proof.Machine.execImageLoadStart s
  | .fdconf x1 => Sys2Proof.Machine.execFdconf x1 s
  | .vocab x1 => Sys2Proof.Machine.execVocab x1 s
  | .arenas x1 => Sys2Proof.Machine.execArenas x1 s
  | .freewheel x1 => Sys2Proof.Machine.execFreewheel x1 s
  | .resume x1 => Sys2Proof.Machine.execResume x1 s
  | .reactivate x1 => Sys2Proof.Machine.execReactivate x1 s
  | .attest x1 => Sys2Proof.Machine.execAttest x1 s
  | .powercap x1 => Sys2Proof.Machine.execPowercap x1 s
  | .keyslot x1 => Sys2Proof.Machine.execKeyslot x1 s
  | .bootsrc x1 => Sys2Proof.Machine.execBootsrc x1 s
  | .rollback x1 => Sys2Proof.Machine.execRollback x1 s
  | .hostMemoryRead x1 x2 x3 x4 => Sys2Proof.Machine.execHostMemoryRead x1 x2 x3 x4 s
  | .hostMemoryWrite x1 x2 x3 x4 => Sys2Proof.Machine.execHostMemoryWrite x1 x2 x3 x4 s
  | .scrub x1 x2 => Sys2Proof.Machine.execScrub x1 x2 s
  | .requestRecord x1 x2 => Sys2Proof.Machine.execRequestRecord x1 x2 s
  | .cancelRecord x1 x2 => Sys2Proof.Machine.execCancelRecord x1 x2 s
  | .linkBlock x1 x2 x3 => Sys2Proof.Machine.execLinkBlock x1 x2 x3 s
  | .linkRejoin x1 x2 => Sys2Proof.Machine.execLinkRejoin x1 x2 s
  | .ptpMessage x1 => Sys2Proof.Machine.execPtpMessage x1 s
  | .bootMessage x1 => Sys2Proof.Machine.execBootMessage x1 s
  | .readyReport x1 x2 => Sys2Proof.Machine.execReadyReport x1 x2 s
  | .failReport x1 x2 x3 => Sys2Proof.Machine.execFailReport x1 x2 x3 s
  | .activate x1 => Sys2Proof.Machine.execActivate x1 s
  | .abandon x1 x2 => Sys2Proof.Machine.execAbandon x1 x2 s
  | .hostRegisterWrite x1 x2 x3 => Sys2Proof.Machine.execHostRegisterWrite x1 x2 x3 s
  | .pldmSensorRead x1 => Sys2Proof.Machine.execPldmSensorRead x1 s
  | .packageIdEffecter x1 => Sys2Proof.Machine.execPackageIdEffecter x1 s
  | .pldmFirmwareUpdate x1 => Sys2Proof.Machine.execPldmFirmwareUpdate x1 s
  | .powerOverCap x1 => Sys2Proof.Machine.execPowerOverCap x1 s
  | .thermalShutdown x1 => Sys2Proof.Machine.execThermalShutdown x1 s
  | .coldReset => Sys2Proof.Machine.execColdReset s
  | .warmReset => Sys2Proof.Machine.execWarmReset s
  | .functionLevelReset => Sys2Proof.Machine.execFunctionLevelReset s
  | .pcieCompletion x1 => Sys2Proof.Machine.execPcieCompletion x1 s
  | .freewheelTimeLimit => Sys2Proof.Machine.execFreewheelTimeLimit s
  | .fqheadWrite x1 => Sys2Proof.Machine.execFqheadWrite x1 s
  | .hostLinkLoss x1 x2 => Sys2Proof.Machine.execHostLinkLoss x1 x2 s
  | .linkTraining x1 x2 x3 x4 => Sys2Proof.Machine.execLinkTraining x1 x2 x3 x4 s

end Sys2Proof.Machine
end

