-- ==== Sys2Proof/Decode.lean ====
section
/-! DEFINITION. From bits to syllables and back: the ten operand formats (R159), the opcode map (R168 to R173), the
decoder of one syllable with the rejections of R153, and after it the encoder, from the same tables. -/

namespace Sys2Proof

/-- Why a syllable does not decode (R153 items 2 and 4): every one raises the illegal-instruction trap. -/
inductive DecodeError where
  /-- CLASS 0b110 or 0b111 (R150). -/
  | reservedClass
  /-- An opcode position not listed (R167). -/
  | unassigned
  /-- A reserved value in a format field or a non-zero unused field (R154). -/
  | reservedField
  /-- GP = 0 with GS = 1 (R153). -/
  | guardNever
deriving DecidableEq, Repr

/-! ## The ten formats (R159) -/

/-- The formats of R159. -/
inductive Format where
  | a3 | ai | li | br | mem | mem2 | vec | tile | ring | sys
deriving DecidableEq, Repr

/-- The fields of a syllable's bits 42:0, most significant first as R159 lists them. -/
inductive Fields where
  | a3 (d a b c e fn : Nat)
  | ai (d a fn imm24 : Nat)
  | li (d fn imm32 : Nat)
  | br (a fn disp32 : Nat)
  | mem (t base scope size fn off18 : Nat)
  | mem2 (d base a b scope size fn : Nat)
  | vec (d a b c qe q type rm fn : Nat)
  | tile (tsel dir idx a b c type fn : Nat)
  | ring (d port a b nul fn imm13 : Nat)
  | sys (d a b fn imm16 : Nat)
deriving DecidableEq, Repr

/-- Bits lo to lo + w - 1 of a word. -/
def bitsAt (w lo n : Nat) : Nat := w / 2 ^ lo % 2 ^ n

/-- The fields of a format in a word's bits 42:0 (R159). -/
def Fields.unpack (f : Format) (w : Nat) : Fields :=
  match f with
  | .a3 => .a3 (bitsAt w 36 7) (bitsAt w 29 7) (bitsAt w 22 7) (bitsAt w 15 7) (bitsAt w 8 7) (bitsAt w 0 8)
  | .ai => .ai (bitsAt w 36 7) (bitsAt w 29 7) (bitsAt w 24 5) (bitsAt w 0 24)
  | .li => .li (bitsAt w 36 7) (bitsAt w 32 4) (bitsAt w 0 32)
  | .br => .br (bitsAt w 36 7) (bitsAt w 32 4) (bitsAt w 0 32)
  | .mem => .mem (bitsAt w 36 7) (bitsAt w 29 7) (bitsAt w 25 4) (bitsAt w 22 3) (bitsAt w 18 4) (bitsAt w 0 18)
  | .mem2 => .mem2 (bitsAt w 36 7) (bitsAt w 29 7) (bitsAt w 22 7) (bitsAt w 15 7) (bitsAt w 11 4) (bitsAt w 8 3)
      (bitsAt w 0 8)
  | .vec => .vec (bitsAt w 36 7) (bitsAt w 29 7) (bitsAt w 22 7) (bitsAt w 15 7) (bitsAt w 14 1) (bitsAt w 10 4)
      (bitsAt w 6 4) (bitsAt w 4 2) (bitsAt w 0 4)
  | .tile => .tile (bitsAt w 41 2) (bitsAt w 39 2) (bitsAt w 32 7) (bitsAt w 25 7) (bitsAt w 18 7) (bitsAt w 11 7)
      (bitsAt w 7 4) (bitsAt w 0 7)
  | .ring => .ring (bitsAt w 36 7) (bitsAt w 32 4) (bitsAt w 25 7) (bitsAt w 18 7) (bitsAt w 17 1) (bitsAt w 13 4)
      (bitsAt w 0 13)
  | .sys => .sys (bitsAt w 36 7) (bitsAt w 29 7) (bitsAt w 22 7) (bitsAt w 16 6) (bitsAt w 0 16)

/-! ## Fields to operands -/

/-- A number below n. -/
def fin? (n x : Nat) : Option (Fin n) := if h : x < n then some ⟨x, h⟩ else none

/-- A scalar operand of class A, or of a memory syllable, by its carry-select bit (R187, R214). -/
def sop? (carry : Bool) (x : Nat) : Option SOp :=
  if carry then (fin? 32 x).map SOp.c else (fin? 64 x).map SOp.s

/-- A vector operand of VMOV by its carry-select bit (R282). -/
def vop? (carry : Bool) (x : Nat) : Option VOp :=
  if carry then (fin? 8 x).map VOp.cv else (fin? 64 x).map VOp.v

/-- The mask of fields qe and q (R159). -/
def mask? (qe q : Nat) : Option VMask :=
  if qe = 0 then (if q = 0 then some none else none) else (fin? 16 q).map some

/-- The rounding field (R59). -/
def rm? : Nat → Option RMode
  | 0 => some .rne | 1 => some .rtz | 2 => some .rdn | 3 => some .rup | _ => none

/-- The conditions of CMP (R198). -/
def cond? : Nat → Option Cond
  | 0 => some .eq | 1 => some .ne | 2 => some .lt | 3 => some .ge | 4 => some .le | 5 => some .gt
  | 6 => some .ltu | 7 => some .geu | 8 => some .leu | 9 => some .gtu | 10 => some .tst | 11 => some .tstz
  | _ => none

/-- The conditions of VCMP (R268). -/
def vcond? : Nat → Option VCond
  | 0 => some .eq | 1 => some .ne | 2 => some .lt | 3 => some .le | 4 => some .gt | 5 => some .ge
  | 6 => some .un | 7 => some .ord | _ => none

/-- The scope field (R160). -/
def scope? : Nat → Option Scope
  | 0 => some .bank | 1 => some .cog | 2 => some .row | 3 => some .die | 4 => some .package | 5 => some .hop
  | 6 => some .segment | 7 => some .chain | 8 => some .system | _ => none

/-- The size field (R160). -/
def size? : Nat → Option Size
  | 0 => some .b8 | 1 => some .b16 | 2 => some .b32 | 3 => some .b64 | 4 => some .b128 | _ => none

/-- The ordering of a load or store (R214). -/
def mord? : Nat → Option MOrd
  | 0 => some .plain | 1 => some .acq | 2 => some .rel | _ => none

/-- The ordering of an atomic (R228). -/
def aord? : Nat → Option AOrd
  | 0 => some .plain | 1 => some .acq | 2 => some .rel | 3 => some .ar | _ => none

/-- The fence kinds (R125). -/
def fenceKind? : Nat → Option FenceKind
  | 0 => some .full | 1 => some .acq | 2 => some .rel | 3 => some .ss | _ => none

/-- The port field (R160). -/
def port? (x : Nat) : Option Port :=
  if x < 8 then (fin? 8 x).map Port.i else (fin? 8 (x - 8)).map Port.o

/-- The tile directions (R160). -/
def dir? : Nat → Option Dir
  | 0 => some .row | 1 => some .col | 2 => some .dia | 3 => some .adi | _ => none

/-- The geometries of VLD.CVT (R284). -/
def geo? : Nat → Option Geo
  | 0 => some .plain | 1 => some .mx | 2 => some .tiles | 3 => some .segments | _ => none

/-- The widths of SEXT and ZEXT (R202). -/
def extW? : Nat → Option ExtW
  | 0 => some .w8 | 1 => some .w16 | 2 => some .w32 | _ => none

/-- The operations of VSCAN (R278). -/
def scanOp? : Nat → Option ScanOp
  | 0 => some .sum | 1 => some .max | 2 => some .min | _ => none

/-- A two-valued suffix in a field: 0 absent, 1 present. -/
def flag? : Nat → Option Bool
  | 0 => some false | 1 => some true | _ => none

/-- x when the condition holds; none is a reserved value or a non-zero unused field (R154). -/
def need (c : Bool) (x : Option Instr) : Option Instr := if c then x else none

/-! ## Class A (R168, R187, R202) -/

/-- d, a and b. -/
def decDab (d a b c e fn : Nat) (mk : SOp → SOp → SOp → Instr) : Option Instr :=
  need (c = 0 && e = 0 && !natBit fn 4) do
    let d ← sop? (natBit fn 7) d
    let a ← sop? (natBit fn 6) a
    let b ← sop? (natBit fn 5) b
    pure (mk d a b)

/-- d and a. -/
def decDa (d a b c e fn : Nat) (mk : SOp → SOp → Instr) : Option Instr :=
  need (b = 0 && c = 0 && e = 0 && !natBit fn 5 && !natBit fn 4) do
    let d ← sop? (natBit fn 7) d
    let a ← sop? (natBit fn 6) a
    pure (mk d a)

/-- d, a, b and c, all scalars. -/
def decDabc (d a b c e fn : Nat) (mk : SOp → SOp → SOp → SOp → Instr) : Option Instr :=
  need (e = 0) do
    let d ← sop? (natBit fn 7) d
    let a ← sop? (natBit fn 6) a
    let b ← sop? (natBit fn 5) b
    let c ← sop? (natBit fn 4) c
    pure (mk d a b c)

/-- d, a, b scalars, c and e predicates. -/
def decCarry (d a b c e fn : Nat) (mk : SOp → PReg → SOp → SOp → PReg → Instr) : Option Instr :=
  need (fn % 32 = 0) do
    let d ← sop? (natBit fn 7) d
    let a ← sop? (natBit fn 6) a
    let b ← sop? (natBit fn 5) b
    let c ← fin? 128 c
    let e ← fin? 128 e
    pure (mk d e a b c)

/-- The register forms of class A. -/
def decA3 (opc d a b c e fn : Nat) : Except DecodeError (Option Instr) :=
  let plain (mk : SOp → SOp → SOp → Instr) : Option Instr := need (fn % 16 = 0) (decDab d a b c e fn mk)
  let sfx (mk : Bool → SOp → SOp → SOp → Instr) : Option Instr := do
    let u ← flag? (fn % 16)
    decDab d a b c e fn (mk u)
  let un (mk : SOp → SOp → Instr) : Option Instr := need (fn % 16 = 0) (decDa d a b c e fn mk)
  match opc with
  | 0x00 => .ok (plain .add)
  | 0x01 => .ok (plain .sub)
  | 0x02 => .ok (plain .mul)
  | 0x03 => .ok (sfx .mulh)
  | 0x04 => .ok (sfx .div)
  | 0x05 => .ok (sfx .rem)
  | 0x06 => .ok (plain .and)
  | 0x07 => .ok (plain .or)
  | 0x08 => .ok (plain .xor)
  | 0x09 => .ok (plain .andn)
  | 0x0A => .ok (plain .shl)
  | 0x0B => .ok (plain .shr)
  | 0x0C => .ok (plain .sar)
  | 0x0D => .ok (plain .rol)
  | 0x0E => .ok (plain .ror)
  | 0x0F => .ok (decCarry d a b c e fn .addc)
  | 0x10 => .ok (decCarry d a b c e fn .subb)
  | 0x11 => .ok (sfx .min)
  | 0x12 => .ok (sfx .max)
  | 0x13 => .ok (un .abs)
  | 0x14 => .ok (un .clz)
  | 0x15 => .ok (un .ctz)
  | 0x16 => .ok (un .popc)
  | 0x17 => .ok (un .bswap)
  | 0x18 => .ok (un .brev)
  | 0x19 => .ok (sfx .clmul)
  | 0x1A => .ok (sfx .bmatch)
  | 0x1B => .ok (do let u ← flag? (fn % 16); decDabc d a b c e fn (.bfx u))
  | 0x1C => .ok (need (fn % 16 = 0) (decDabc d a b c e fn .bfi))
  | 0x1D => .ok (do let w ← extW? (fn % 16); decDa d a b c e fn (.sext w))
  | 0x1E => .ok (do let w ← extW? (fn % 16); decDa d a b c e fn (.zext w))
  | 0x1F => .ok (do
      let k ← cond? (fn % 16)
      need (c = 0 && !natBit fn 7 && !natBit fn 4) (do
        let pd ← fin? 128 d
        let pe ← fin? 128 e
        let a ← sop? (natBit fn 6) a
        let b ← sop? (natBit fn 5) b
        pure (.cmp k pd pe a b)))
  | 0x20 => .ok (need (e = 0 && fn % 32 = 0) (do
      let d ← sop? (natBit fn 7) d
      let a ← sop? (natBit fn 6) a
      let b ← sop? (natBit fn 5) b
      let c ← fin? 128 c
      pure (.sel d c a b)))
  | 0x21 => .ok (need (c = 0 && e = 0 && fn < 16) (do
      let d ← fin? 128 d
      let a ← fin? 128 a
      let b ← fin? 128 b
      pure (.plog (BitVec.ofNat 4 fn) d a b)))
  | 0x22 => .ok (need (b = 0 && c = 0 && e = 0 && !natBit fn 5 && !natBit fn 4) (
      match fn % 16 with
      | 0 => need (!natBit fn 7 && !natBit fn 6) (do
          let d ← fin? 128 d
          let a ← fin? 128 a
          pure (.pmov (.pp d a)))
      | 1 => need (!natBit fn 6) (do
          let d ← sop? (natBit fn 7) d
          let a ← fin? 128 a
          pure (.pmov (.sp d a)))
      | 2 => need (!natBit fn 7) (do
          let d ← fin? 128 d
          let a ← sop? (natBit fn 6) a
          pure (.pmov (.ps d a)))
      | _ => none))
  | _ => .error .unassigned

/-- The immediate forms of class A (R190, R202). -/
def decAI (opc d a fn imm : Nat) : Except DecodeError (Option Instr) :=
  let da (mk : SOp → SOp → Instr) : Option Instr := do
    let d ← sop? (natBit fn 4) d
    let a ← sop? (natBit fn 3) a
    pure (mk d a)
  let plain (mk : SOp → SOp → BitVec 24 → Instr) : Option Instr :=
    need (fn % 8 = 0) (da fun d a => mk d a (BitVec.ofNat 24 imm))
  let shift (mk : SOp → SOp → BitVec 6 → Instr) : Option Instr :=
    need (fn % 8 = 0 && imm < 64) (da fun d a => mk d a (BitVec.ofNat 6 imm))
  let sfx (mk : Bool → SOp → SOp → BitVec 24 → Instr) : Option Instr := do
    let u ← flag? (fn % 8)
    da fun d a => mk u d a (BitVec.ofNat 24 imm)
  let field (mk : SOp → SOp → BitVec 6 → BitVec 7 → Instr) : Option Instr :=
    need (imm < 2 ^ 13 && bfWidth (BitVec.ofNat 7 (imm / 64)))
      (da fun d a => mk d a (BitVec.ofNat 6 (imm % 64)) (BitVec.ofNat 7 (imm / 64)))
  match opc with
  | 0x40 => .ok (plain .addImm)
  | 0x41 => .ok (plain .andImm)
  | 0x42 => .ok (plain .orImm)
  | 0x43 => .ok (plain .xorImm)
  | 0x44 => .ok (shift .shlImm)
  | 0x45 => .ok (shift .shrImm)
  | 0x46 => .ok (shift .sarImm)
  | 0x47 => .ok (shift .rorImm)
  | 0x48 => .ok (plain .mulImm)
  | 0x49 => .ok (sfx .minImm)
  | 0x4A => .ok (sfx .maxImm)
  | 0x4B => .ok (do
      let k ← cond? (fn % 16)
      let pd ← fin? 128 d
      let a ← sop? (natBit fn 4) a
      pure (.cmpImm k pd a (BitVec.ofNat 24 imm)))
  | 0x4C => .ok (do let u ← flag? (fn % 8); field (.bfxImm u))
  | 0x4D => .ok (need (fn % 8 = 0) (field .bfiImm))
  | _ => .error .unassigned

/-- MOVI (R197). -/
def decLI (d fn imm : Nat) : Option Instr := do
  let m ← (match fn % 8 with | 0 => some MoviMode.sext | 1 => some .zext | 2 => some .hi | _ => none)
  let d ← sop? (natBit fn 3) d
  pure (.movi m d (BitVec.ofNat 32 imm))

/-! ## Class B (R169, R213) -/

/-- Class B. -/
def decBR (opc a fn disp : Nat) : Except DecodeError (Option Instr) :=
  let dd := BitVec.ofNat 32 disp
  let none0 (c : Bool) (i : Instr) : Option Instr := need (a = 0 && fn = 0 && c) (pure i)
  let reg (c : Bool) (mk : SReg → Instr) : Option Instr :=
    need (fn = 0 && c) (do let a ← fin? 64 a; pure (mk a))
  match opc with
  | 0x00 => .ok (none0 (disp < 2 ^ 16) (.nop (BitVec.ofNat 16 disp)))
  | 0x01 => .ok (none0 true (.br dd))
  | 0x02 => .ok (reg (disp = 0) .jr)
  | 0x03 => .ok (reg true (.call · dd))
  | 0x04 => .ok (do let d ← fin? 64 disp; reg true (.callr d))
  | 0x05 => .ok (reg (disp = 0) .ret)
  | 0x06 => .ok (need (fn < 8) (do
      let a ← fin? 64 a
      pure (.loop a (natBit fn 0) (natBit fn 1) (natBit fn 2) dd)))
  | 0x07 => .ok (none0 (disp = 0) .stageEnd)
  | 0x08 => .ok (none0 (disp < 2 ^ 16) (.trap (BitVec.ofNat 16 disp)))
  | 0x09 => .ok (reg true (.waitTime · dd))
  | 0x0A => .ok (reg true (.sleepUntil · dd))
  | 0x0B => .ok (reg (disp = 0) .timeRead)
  | _ => .error .unassigned

/-! ## Class V (R170, R257 to R283) -/

/-- The fields of a vector syllable after the opcode. -/
structure VecF where
  d  : Nat
  a  : Nat
  b  : Nat
  c  : Nat
  qe : Nat
  q  : Nat
  ty : EType
  rm : RMode
  fn : Nat
deriving DecidableEq, Repr

/-- d, a, b under a mask. -/
def VecF.dab (f : VecF) (mk : VReg → VReg → VReg → VMask → Instr) : Option Instr :=
  need (f.c = 0) do
    let d ← fin? 64 f.d
    let a ← fin? 64 f.a
    let b ← fin? 64 f.b
    let m ← mask? f.qe f.q
    pure (mk d a b m)

/-- d, a, b, c under a mask. -/
def VecF.dabc (f : VecF) (mk : VReg → VReg → VReg → VReg → VMask → Instr) : Option Instr := do
  let d ← fin? 64 f.d
  let a ← fin? 64 f.a
  let b ← fin? 64 f.b
  let c ← fin? 64 f.c
  let m ← mask? f.qe f.q
  pure (mk d a b c m)

/-- d, a under a mask. -/
def VecF.da (f : VecF) (mk : VReg → VReg → VMask → Instr) : Option Instr :=
  need (f.b = 0 && f.c = 0) do
    let d ← fin? 64 f.d
    let a ← fin? 64 f.a
    let m ← mask? f.qe f.q
    pure (mk d a m)

/-- d, a, c under a mask. -/
def VecF.dac (f : VecF) (mk : VReg → VReg → VReg → VMask → Instr) : Option Instr :=
  need (f.b = 0) do
    let d ← fin? 64 f.d
    let a ← fin? 64 f.a
    let c ← fin? 64 f.c
    let m ← mask? f.qe f.q
    pure (mk d a c m)

/-- A vector shift (R267). -/
def VecF.shift (f : VecF) (mk : VReg → VReg → ShAmt → VMask → Instr) : Option Instr := do
  let d ← fin? 64 f.d
  let a ← fin? 64 f.a
  let m ← mask? f.qe f.q
  match f.fn with
  | 0 => need (f.c = 0) (do let b ← fin? 64 f.b; pure (mk d a (.reg b) m))
  | 1 => need (f.b = 0) (do let k ← fin? 64 f.c; pure (mk d a (.imm k) m))
  | _ => none

/-- QMOV (R272). -/
def VecF.qmov (f : VecF) : Option QmovForm :=
  if f.c = 0 ∧ (f.fn = 6 ∨ f.b = 0) then
    match f.fn with
    | 0 => do let d ← fin? 16 f.d; let a ← fin? 16 f.a; pure (.qq d a)
    | 1 => do let d ← fin? 16 f.d; let a ← fin? 64 f.a; pure (.qv d a)
    | 2 => do let d ← fin? 64 f.d; let a ← fin? 16 f.a; pure (.vq d a)
    | 3 => do let d ← fin? 16 f.d; let a ← fin? 64 f.a; pure (.msb d a)
    | 4 => do let d ← fin? 64 f.d; let a ← fin? 16 f.a; pure (.cnt d a)
    | 5 => do let d ← fin? 64 f.d; let a ← fin? 16 f.a; pure (.first d a)
    | 6 => do let d ← fin? 16 f.d; let a ← fin? 64 f.a; let b ← fin? 64 f.b; pure (.set d a b)
    | 7 => do let d ← fin? 64 f.d; let a ← fin? 16 f.a; pure (.lo d a)
    | 8 => do let d ← fin? 64 f.d; let a ← fin? 16 f.a; pure (.hi d a)
    | _ => none
  else none

/-- VCVT (R273). -/
def VecF.vcvt (f : VecF) : Option Instr :=
  need (f.c < 32) do
    let st ← EType.ofCode? f.fn
    let d ← fin? 64 f.d
    let a ← fin? 64 f.a
    let b ← fin? 64 f.b
    let p ← fin? 8 (f.c % 8)
    let m ← mask? f.qe f.q
    pure (.vcvt f.ty st f.rm p (natBit f.c 3) (natBit f.c 4) d a b m)

/-- Class V: the type and rm fields have been read; the sets of types are checked after (Instr.wf). -/
def decVec (opc : Nat) (f : VecF) : Except DecodeError (Option Instr) :=
  let t := f.ty
  let rm := f.rm
  let rz : Bool := rm = .rne
  let fz : Bool := f.fn = 0
  let sat (mk : Bool → VReg → VReg → VReg → VMask → Instr) : Option Instr := do
    let s ← flag? f.fn
    f.dab (mk s)
  let un (mk : VReg → VReg → VMask → Instr) : Option Instr := need (rz && fz) (f.da mk)
  let bin (mk : VReg → VReg → VReg → VMask → Instr) : Option Instr := need (rz && fz) (f.dab mk)
  let f32un (mk : VReg → VReg → VMask → Instr) : Option Instr := need (t = .fp32 && rz && fz) (f.da mk)
  match opc with
  | 0x00 => .ok (sat (.vadd t rm))
  | 0x01 => .ok (sat (.vsub t rm))
  | 0x02 => .ok (sat (.vmul t rm))
  | 0x03 => .ok (need fz (f.dabc (.vfma t rm)))
  | 0x04 => .ok (need fz (f.dabc (.vfms t rm)))
  | 0x05 => .ok (need fz (f.dabc (.vfnma t rm)))
  | 0x06 => .ok (need fz (f.dabc (.vfnms t rm)))
  | 0x07 => .ok (bin (.vmin t))
  | 0x08 => .ok (bin (.vmax t))
  | 0x09 => .ok (do let s ← flag? f.fn; need rz (f.da (.vabs t s)))
  | 0x0A => .ok (do let s ← flag? f.fn; need rz (f.da (.vneg t s)))
  | 0x0B => .ok (sat (.vabsd t rm))
  | 0x0C => .ok (bin (.vcpysgn t))
  | 0x0D => .ok (need fz (f.da (.vround t rm)))
  | 0x0E => .ok (bin (.vmulh t))
  | 0x0F => .ok (do let s ← flag? f.fn; need rz (f.dabc (.vmad t s)))
  | 0x10 => .ok (bin (.vand t))
  | 0x11 => .ok (bin (.vor t))
  | 0x12 => .ok (bin (.vxor t))
  | 0x13 => .ok (bin (.vandn t))
  | 0x14 => .ok (need rz (f.shift (.vshl t)))
  | 0x15 => .ok (need rz (f.shift (.vshr t)))
  | 0x16 => .ok (need rz (f.shift (.vsar t)))
  | 0x17 => .ok (un (.vclz t))
  | 0x18 => .ok (un (.vpopc t))
  | 0x19 => .ok (need (rz && f.fn < 4) (f.dabc (.vdot4 t (natBit f.fn 0) (natBit f.fn 1))))
  | 0x1A => .ok (need (rz && f.c = 0) (do
      let k ← vcond? (f.fn % 8)
      let d ← (if natBit f.fn 3 then (fin? 64 f.d).map VcmpDst.v else (fin? 16 f.d).map VcmpDst.q)
      let a ← fin? 64 f.a
      let b ← fin? 64 f.b
      let m ← mask? f.qe f.q
      pure (.vcmp t k d a b m)))
  | 0x1B => .ok (un (.vclass t))
  | 0x1C => .ok (need rz (do
      let d ← fin? 64 f.d
      let a ← fin? 64 f.a
      let b ← fin? 64 f.b
      let c ← (match f.fn with
        | 0 => (fin? 16 f.c).map VselSrc.q
        | 1 => (fin? 64 f.c).map VselSrc.bit
        | _ => none)
      let m ← mask? f.qe f.q
      pure (.vsel t d a b c m)))
  | 0x1D => .ok (need (t = .raw && rz && f.qe = 0 && f.q = 0 && f.c = 0) (do
      let d ← fin? 16 f.d
      let a ← fin? 16 f.a
      let b ← fin? 16 f.b
      pure (.qlog (BitVec.ofNat 4 f.fn) d a b)))
  | 0x1E => .ok (need (t = .raw && rz && f.qe = 0 && f.q = 0) (f.qmov.map Instr.qmov))
  | 0x1F => .ok f.vcvt
  | 0x20 => .ok (need fz (f.da (.vrsum t rm)))
  | 0x21 => .ok (un (.vrmax t))
  | 0x22 => .ok (un (.vrmin t))
  | 0x23 => .ok (un (.vrargmax t))
  | 0x24 => .ok (need (f.fn < 8) (do let o ← scanOp? (f.fn % 4); f.da (.vscan t rm o (natBit f.fn 2))))
  | 0x25 => .ok (need rz (do let h ← flag? f.fn; f.dab (.vperm t h)))
  | 0x26 => .ok (need (rz && fz) (f.dabc (.vperm2 t)))
  | 0x27 => .ok (bin (.vbcast t))
  | 0x28 => .ok (un (.vsplat t))
  | 0x29 => .ok (need rz (do let u ← flag? f.fn; f.dabc (.vslide t u)))
  | 0x2A => .ok (bin (.vins t))
  | 0x2B => .ok (need (rz && fz && f.c = 0 && f.qe = 0 && f.q = 0) (do
      let d ← fin? 64 f.d
      let a ← fin? 64 f.a
      let b ← fin? 64 f.b
      pure (.vext t d a b)))
  | 0x2C => .ok (un (.vrev t))
  | 0x2D => .ok (need rz (do let h ← flag? f.fn; f.dac (.vzip t h)))
  | 0x2E => .ok (need rz (do let o ← flag? f.fn; f.dac (.vunzip t o)))
  | 0x2F => .ok (need (rz && fz && f.b = 0 && f.c = 0 && f.qe = 1) (do
      let d ← fin? 64 f.d
      let a ← fin? 64 f.a
      let q ← fin? 16 f.q
      pure (.vcompress t d a q)))
  | 0x30 => .ok (need (rz && fz && f.b = 0 && f.c = 0 && f.qe = 1) (do
      let d ← fin? 64 f.d
      let a ← fin? 64 f.a
      let q ← fin? 16 f.q
      pure (.vexpand t d a q)))
  | 0x31 => .ok (need (rz && f.b = 0 && f.c = 0 && f.fn < 4) (do
      let d ← vop? (natBit f.fn 0) f.d
      let a ← vop? (natBit f.fn 1) f.a
      let m ← mask? f.qe f.q
      pure (.vmov t d a m)))
  | 0x32 => .ok (f32un .vrcpe)
  | 0x33 => .ok (f32un .vrsqe)
  | 0x34 => .ok (f32un .vexp2)
  | 0x35 => .ok (f32un .vlog2)
  | 0x36 => .ok (f32un .vsin)
  | 0x37 => .ok (f32un .vcos)
  | 0x38 => .ok (f32un .vtanh)
  | _ => .error .unassigned

/-! ## Class M (R171, R320) -/

/-- Class M. -/
def decTile (opc tsel dir idx a b c ty fn : Nat) : Except DecodeError (Option Instr) :=
  let z (l : List Nat) : Bool := l.all (· = 0)
  let rows (mk : TReg → Fin 128 → SReg → SReg → Instr) : Option Instr := do
    let t ← fin? 4 tsel
    let r ← fin? 128 idx
    let a ← fin? 64 a
    let n ← fin? 64 b
    pure (mk t r a n)
  let line (mk : TReg → Dir → Fin 128 → VReg → Instr) : Option Instr :=
    need (z [b, c, ty, fn]) (do
      let t ← fin? 4 tsel
      let d ← dir? dir
      let k ← fin? 128 idx
      let v ← fin? 64 a
      pure (mk t d k v))
  match opc with
  | 0x00 => .ok (need (z [tsel, dir, idx, c] && fn < 4) (do
      let f ← EType.ofCode? ty
      let a ← fin? 64 a
      let b ← fin? 64 b
      pure (.mwload f (natBit fn 1) (natBit fn 0) a b)))
  | 0x01 => .ok (need (z [tsel, dir, idx, a, b, c, ty, fn]) (pure .mwswap))
  | 0x02 => .ok (need (dir = 0 && fn < 8 && (natBit fn 1 || c = 0)) (do
      let t ← fin? 4 tsel
      let r ← fin? 128 idx
      let g ← fin? 16 a
      let n ← fin? 64 b
      let f ← EType.ofCode? ty
      let k ← (if natBit fn 1 then (fin? 16 c).map some else some none)
      pure (.mmul t r g n f (natBit fn 0) k (natBit fn 2))))
  | 0x03 => .ok (need (z [dir, idx, b, c, ty]) (do
      let t ← fin? 4 tsel
      let a ← fin? 64 a
      match fn with
      | 0 => pure (.mchk a (.lo t))
      | 1 => pure (.mchk a (.hi t))
      | 2 => need (tsel = 0) (pure (.mchk a .buf))
      | _ => none))
  | 0x08 => .ok (need (z [dir, a, b, c, ty]) (do
      let t ← fin? 4 tsel
      let r ← fin? 128 idx
      match fn with
      | 0 => need (idx = 0) (pure (.tzero t none))
      | 1 => pure (.tzero t (some r))
      | _ => none))
  | 0x09 => .ok (need (z [dir, c, ty, fn]) (rows .tld))
  | 0x0A => .ok (need (z [dir, c, ty, fn]) (rows .tst))
  | 0x0B => .ok (need (dir = 0 && fn < 8 && (natBit fn 2 || c = 0)) (do
      let f ← EType.ofCode? ty
      let m ← rm? (fn % 4)
      let k ← (if natBit fn 2 then (fin? 16 c).map some else some none)
      rows fun t r a n => .tcst t r a n f m k))
  | 0x0C => .ok (line fun t d k v => .trd v t d k)
  | 0x0D => .ok (line .twr)
  | 0x0E => .ok (need (z [dir, idx, b, ty] && fn < 8) (do
      let t ← fin? 4 tsel
      let m ← rm? (fn % 4)
      if natBit fn 2 then need (a = 0) (do let k ← fin? 16 c; pure (.tscale t m (.k k)))
      else need (c = 0) (do let v ← fin? 64 a; pure (.tscale t m (.v v)))))
  | 0x0F => .ok (need (z [dir, idx, a, c, ty]) (do
      let t ← fin? 4 tsel
      let s ← fin? 4 b
      let x ← flag? fn
      pure (.tmov t s x)))
  | 0x10 => .ok (need (z [dir, idx, a, c, ty]) (do
      let t ← fin? 4 tsel
      let s ← fin? 4 b
      let m ← rm? fn
      pure (.tadd t s m)))
  | 0x11 => .ok (need (z [tsel, dir, b, c, ty]) (
      match fn with
      | 0 => do let k ← fin? 16 idx; let a ← fin? 64 a; pure (.kset (.one k a))
      | 1 => need (idx = 0) (do let v ← fin? 64 a; pure (.kset (.vec v)))
      | _ => none))
  | 0x20 => .ok (need (z [dir, ty, fn]) (do
      let t ← fin? 4 tsel
      let r ← fin? 128 idx
      let a ← fin? 64 a
      let b ← fin? 64 b
      let c ← fin? 64 c
      pure (.rsvInit t r a b c)))
  | 0x21 => .ok (need (z [dir, b, c, fn] && ty = 1) (do
      let t ← fin? 4 tsel
      let r ← fin? 128 idx
      let a ← fin? 64 a
      pure (.rsvFeed t r a)))
  | 0x22 => .ok (need (z [dir, c, fn] && ty = 1) (do
      let t ← fin? 4 tsel
      let r ← fin? 128 idx
      let a ← fin? 64 a
      let b ← fin? 64 b
      pure (.rsvFeed2 t r a b)))
  | 0x23 => .ok (need (z [dir, b, c, ty, fn]) (do
      let t ← fin? 4 tsel
      let r ← fin? 128 idx
      let a ← fin? 64 a
      pure (.rsvDraw a t r)))
  | _ => .error .unassigned

/-! ## Class X (R172) -/

/-- Loads and stores (R214, R226, R227). -/
def decMem (opc t base scope size fn off : Nat) : Except DecodeError (Option Instr) :=
  let o := BitVec.ofNat 18 off
  let go (sxOk : Bool) (mk : SOp → SReg → Size → Bool → MOrd → Scope → Instr) : Option Instr :=
    need (sxOk || !natBit fn 2) (do
      let t ← sop? (natBit fn 3) t
      let b ← fin? 64 base
      let z ← size? size
      let r ← mord? (fn % 4)
      let s ← scope? scope
      pure (mk t b z (natBit fn 2) r s))
  match opc with
  | 0x00 => .ok (go true fun t b z x r s => .ld t b o z x r s)
  | 0x01 => .ok (go false fun t b z _ r s => .st t b o z r s)
  | 0x02 => .ok (need (size = 4) (go false fun t b _ _ r s => .ldp t b o r s))
  | 0x03 => .ok (need (size = 4) (go false fun t b _ _ r s => .stp t b o r s))
  | 0x04 => .ok (go true fun t b z x r s => .ldg t b o z x r s)
  | 0x05 => .ok (go false fun t b z _ r s => .stg t b o z r s)
  | 0x06 => .ok (need (scope = 0 && !natBit fn 2) (do
      let t ← sop? (natBit fn 3) t
      let b ← fin? 64 base
      let z ← size? size
      let h ← fin? 4 (fn % 4)
      pure (.stgGs t b o z h)))
  | _ => .error .unassigned

/-- Atomics, fences and groupset instructions (R228, R231, R232). -/
def decMem2 (opc d base a b scope size fn : Nat) : Except DecodeError (Option Instr) :=
  let at3 (u : Bool) (mk : Bool → Size → AOrd → Scope → SReg → SReg → SReg → Instr) : Option Instr :=
    need (b = 0 && fn < 8 && (u || !natBit fn 2)) (do
      let z ← size? size
      let r ← aord? (fn % 4)
      let s ← scope? scope
      let d ← fin? 64 d
      let m ← fin? 64 base
      let a ← fin? 64 a
      pure (mk (natBit fn 2) z r s d m a))
  let gs1 (mk : SReg → HReg → Instr) : Option Instr :=
    need (base = 0 && a = 0 && b = 0 && size = 0 && scope = 0) (do
      let d ← fin? 64 d
      let h ← fin? 4 fn
      pure (mk d h))
  match opc with
  | 0x08 => .ok (at3 false fun _ => .aadd)
  | 0x09 => .ok (at3 false fun _ => .aswap)
  | 0x0A => .ok (need (fn < 4) (do
      let z ← size? size
      let r ← aord? fn
      let s ← scope? scope
      let d ← fin? 64 d
      let m ← fin? 64 base
      let a ← fin? 64 a
      let b ← fin? 64 b
      pure (.acas z r s d m a b)))
  | 0x0B => .ok (at3 false fun _ => .aand)
  | 0x0C => .ok (at3 false fun _ => .aor)
  | 0x0D => .ok (at3 false fun _ => .axor)
  | 0x0E => .ok (at3 true .amin)
  | 0x0F => .ok (at3 true .amax)
  | 0x10 => .ok (need (size = 2) (at3 false fun _ _ => .afadd))
  | 0x11 => .ok (need (d = 0 && base = 0 && a = 0 && b = 0 && size = 0) (do
      let k ← fenceKind? fn
      let s ← scope? scope
      pure (.fence k s)))
  | 0x18 => .ok (need (base = 0 && size = 0 && scope = 0) (do
      let d ← fin? 64 d
      let h ← fin? 4 fn
      let a ← fin? 64 a
      let b ← fin? 64 b
      pure (.gsOpen d h a b)))
  | 0x19 => .ok (gs1 .gsSeal)
  | 0x1A => .ok (gs1 .gsAbort)
  | 0x1B => .ok (need (base = 0 && b = 0 && size = 0 && scope = 0) (do
      let d ← fin? 64 d
      let h ← fin? 4 fn
      let a ← fin? 64 a
      pure (.gsSnap d h a)))
  | 0x1C => .ok (need (b = 0 && scope = 0 && fn < 8) (do
      let d ← (if natBit fn 2 then need2 (size = 0) ((fin? 64 d).map GsLoadDst.v)
               else match size with
                 | 3 => (fin? 64 d).map GsLoadDst.s64
                 | 4 => (fin? 64 d).map GsLoadDst.s128
                 | _ => none)
      let p ← fin? 128 a
      let h ← fin? 4 (fn % 4)
      let m ← fin? 64 base
      pure (.gsLoad d p h m)))
  | 0x1D => .ok (gs1 .gsStat)
  | _ => .error .unassigned
where
  /-- x when the condition holds. -/
  need2 (c : Bool) (x : Option GsLoadDst) : Option GsLoadDst := if c then x else none

/-- Iterators and copies (R239, R244). -/
def decX3 (opc d a b c e fn : Nat) : Except DecodeError (Option Instr) :=
  let z (l : List Nat) : Bool := l.all (· = 0)
  match opc with
  | 0x20 => .ok (need (z [b, c, e, fn]) (do let g ← fin? 16 d; let a ← fin? 64 a; pure (.itld g a)))
  | 0x21 => .ok (need (z [b, c] && (fn = 2 || e = 0)) (do
      let g ← fin? 16 d
      match fn with
      | 0 => do let a ← fin? 64 a; pure (.itset (.base g a))
      | 1 => do let a ← fin? 64 a; pure (.itset (.lin g a))
      | 2 => do let a ← fin? 64 a; let e ← fin? 4 e; pure (.itset (.dim g a e))
      | 3 => do let a ← fin? 16 a; pure (.itset (.copy g a))
      | _ => none))
  | 0x22 => .ok (need (z [b, e, fn]) (do
      let g ← fin? 16 d
      let a ← fin? 64 a
      let p ← fin? 128 c
      pure (.itadv g a p)))
  | 0x23 => .ok (need (z [b, c] && (fn = 2 || e = 0)) (do
      let d ← fin? 64 d
      let g ← fin? 16 a
      match fn with
      | 0 => pure (.itrd d g .addr)
      | 1 => pure (.itrd d g .lin)
      | 2 => do let e ← fin? 4 e; pure (.itrd d g (.idx e))
      | 3 => pure (.itrd d g .base)
      | _ => none))
  | 0x28 => .ok (need (z [e, fn]) (do
      let d ← fin? 64 d
      let a ← fin? 64 a
      let b ← fin? 64 b
      let c ← fin? 64 c
      pure (.cpy d a b c)))
  | 0x29 => .ok (need (e = 0) (do
      let d ← fin? 64 d
      let a ← fin? 64 a
      let b ← fin? 64 b
      let c ← fin? 64 c
      let h ← fin? 4 fn
      pure (.cpyGs d a b c h)))
  | 0x2A => .ok (do
      let d ← fin? 64 d
      let a ← fin? 64 a
      let b ← fin? 64 b
      let c ← fin? 64 c
      let e ← fin? 64 e
      let k ← fin? 10 fn
      pure (.cpyga d a b c e k))
  | 0x2B => .ok (do
      let d ← fin? 64 d
      let a ← fin? 64 a
      let b ← fin? 64 b
      let c ← fin? 64 c
      let e ← fin? 64 e
      let k ← fin? 10 fn
      pure (.cpysc d a b c e k))
  | 0x2C => .ok (do
      let d ← fin? 64 d
      let a ← fin? 64 a
      let b ← fin? 64 b
      let c ← fin? 64 c
      let e ← fin? 64 e
      pure (.cpybc d a b c e (BitVec.ofNat 8 fn)))
  | 0x2D => .ok (need (z [a, b, c, e]) (do let d ← fin? 64 d; let x ← flag? fn; pure (.prmRd d x)))
  | _ => .error .unassigned

/-- Ring instructions (R224). -/
def decRing (opc d port a b nul fn imm : Nat) : Except DecodeError (Option Instr) :=
  let i := BitVec.ofNat 13 imm
  match opc with
  | 0x30 => .ok (need (a = 0 && nul = 0) (do
      let d ← fin? 64 d
      let p ← port? port
      let b ← fin? 64 b
      let h ← flag? fn
      pure (.ringAddr d p b i h)))
  | 0x31 => .ok (need (d = 0 && b = 0 && fn = 0) (do
      let p ← port? port
      let a ← fin? 64 a
      pure (.ringPut p a i (natBit nul 0))))
  | 0x32 => .ok (need (a = 0 && nul = 0) (do
      let d ← fin? 64 d
      let p ← port? port
      let b ← fin? 64 b
      match fn with
      | 0 => pure (.ringPeek d p b i .h0)
      | 1 => pure (.ringPeek d p b i .h1)
      | 2 => pure (.ringPeek d p b i .len)
      | _ => none))
  | 0x33 => .ok (need (a = 0 && b = 0 && nul = 0 && fn = 0 && imm = 0) (do
      let d ← fin? 64 d
      let p ← port? port
      pure (.ringAvail d p)))
  | _ => .error .unassigned

/-- The address of VLD and VST (R284). -/
def vaddr? (fn a : Nat) : Option VAddr :=
  if natBit fn 0 then (if natBit fn 2 then none else (fin? 64 a).map VAddr.s)
  else (fin? 16 a).map (VAddr.it · (natBit fn 2))

/-- Vector memory access (R284 to R289). -/
def decVmem (opc : Nat) (f : VecF) : Except DecodeError (Option Instr) :=
  match opc with
  | 0x38 => .ok (need (f.b = 0 && f.fn < 8 && (natBit f.fn 1 || (f.c = 0 && f.rm = .rne))) (do
      let d ← fin? 64 f.d
      let a ← vaddr? f.fn f.a
      let m ← mask? f.qe f.q
      let g ← geo? f.c
      pure (.vld f.ty (if natBit f.fn 1 then some (g, f.rm) else none) d a m)))
  | 0x39 => .ok (need (f.d = 0 && f.c = 0 && f.fn < 8 && (natBit f.fn 1 || f.rm = .rne)) (do
      let b ← fin? 64 f.b
      let a ← vaddr? f.fn f.a
      let m ← mask? f.qe f.q
      pure (.vst f.ty (if natBit f.fn 1 then some f.rm else none) a b m)))
  | 0x3A => .ok (need (f.c = 0 && f.rm = .rne && f.fn = 0) (do
      let d ← fin? 64 f.d
      let a ← fin? 64 f.a
      let b ← fin? 64 f.b
      let m ← mask? f.qe f.q
      pure (.vgather f.ty d a b m)))
  | 0x3B => .ok (need (f.d = 0 && f.rm = .rne && f.fn = 0) (do
      let a ← fin? 64 f.a
      let b ← fin? 64 f.b
      let c ← fin? 64 f.c
      let m ← mask? f.qe f.q
      pure (.vscatter f.ty a b c m)))
  | _ => .error .unassigned

/-! ## Class Y (R173, R252) -/

/-- System instructions. -/
def decSys (opc d a b fn imm : Nat) : Except DecodeError (Option Instr) :=
  let z (l : List Nat) : Bool := l.all (· = 0)
  let n := BitVec.ofNat 16 imm
  match opc with
  | 0x00 => .ok (need (z [a, b, fn]) (do let d ← fin? 64 d; pure (.csrRd d n)))
  | 0x01 => .ok (need (z [d, b, fn]) (do let a ← fin? 64 a; pure (.csrWr n a)))
  | 0x02 => .ok (need (b = 0) (do
      let d ← fin? 64 d
      let a ← fin? 64 a
      let e ← fin? 64 imm
      let o ← flag? fn
      pure (.winLd d e a o)))
  | 0x03 => .ok (need (z [a, b] && fn < 8) (do
      let d ← fin? 64 d
      let e ← fin? 64 imm
      let w ← fin? 4 (fn % 4)
      pure (.winRd d e w (natBit fn 2))))
  | 0x04 => .ok (need (z [d, imm]) (
      match fn with
      | 0 => need (z [a, b]) (pure (.tlbInv .all))
      | 1 => need (b = 0) (do let a ← fin? 64 a; pure (.tlbInv (.asid a)))
      | 2 => do let a ← fin? 64 a; let b ← fin? 64 b; pure (.tlbInv (.va a b))
      | 3 => need (a = 0) (do let b ← fin? 64 b; pure (.tlbInv (.vaany b)))
      | _ => none))
  | 0x05 => .ok (need (z [fn, imm]) (do
      let d ← fin? 64 d
      let a ← fin? 64 a
      let b ← fin? 64 b
      pure (.tlbProbe d a b)))
  | 0x06 => .ok (need (z [d, a, b, imm]) (do let x ← flag? fn; pure (.tret x)))
  | _ => .error .unassigned

/-! ## Syllables -/

/-- The unit class of a class code (R150). -/
def class? : Nat → Option UnitClass
  | 0 => some .a | 1 => some .b | 2 => some .v | 3 => some .m | 4 => some .x | 5 => some .y | _ => none

/-- The format of an opcode position (R168 to R173); a position whose row is not listed has none. -/
def formatOf (c : UnitClass) (opc : Nat) : Option Format :=
  match c with
  | .a => if opc ≤ 0x22 then some .a3 else if 0x40 ≤ opc ∧ opc ≤ 0x4D then some .ai
          else if opc = 0x60 then some .li else none
  | .b => if opc ≤ 0x0B then some .br else none
  | .v => if opc ≤ 0x38 then some .vec else none
  | .m => if opc ≤ 0x03 ∨ (0x08 ≤ opc ∧ opc ≤ 0x11) ∨ (0x20 ≤ opc ∧ opc ≤ 0x23) then some .tile else none
  | .x => if opc ≤ 0x06 then some .mem
          else if (0x08 ≤ opc ∧ opc ≤ 0x11) ∨ (0x18 ≤ opc ∧ opc ≤ 0x1D) then some .mem2
          else if (0x20 ≤ opc ∧ opc ≤ 0x23) ∨ (0x28 ≤ opc ∧ opc ≤ 0x2D) then some .a3
          else if 0x30 ≤ opc ∧ opc ≤ 0x33 then some .ring
          else if 0x38 ≤ opc ∧ opc ≤ 0x3B then some .vec else none
  | .y => if opc ≤ 0x06 then some .sys else none

/-- The vector fields with their type and rounding read. -/
def vecF? (d a b c qe q ty rm fn : Nat) : Option VecF := do
  let t ← EType.ofCode? ty
  let r ← rm? rm
  pure ⟨d, a, b, c, qe, q, t, r, fn⟩

/-- The instruction of a class, opcode and fields, before the combinations of Instr.wf. -/
def decodeFields (c : UnitClass) (opc : Nat) (f : Fields) : Except DecodeError (Option Instr) :=
  match c, f with
  | .a, .a3 d a b c e fn => decA3 opc d a b c e fn
  | .a, .ai d a fn imm => decAI opc d a fn imm
  | .a, .li d fn imm => .ok (decLI d fn imm)
  | .b, .br a fn disp => decBR opc a fn disp
  | .v, .vec d a b c qe q ty rm fn =>
      (match vecF? d a b c qe q ty rm fn with
        | some f => decVec opc f
        | none => .ok none)
  | .m, .tile tsel dir idx a b c ty fn => decTile opc tsel dir idx a b c ty fn
  | .x, .mem t base scope size fn off => decMem opc t base scope size fn off
  | .x, .mem2 d base a b scope size fn => decMem2 opc d base a b scope size fn
  | .x, .a3 d a b c e fn => decX3 opc d a b c e fn
  | .x, .ring d port a b nul fn imm => decRing opc d port a b nul fn imm
  | .x, .vec d a b c qe q ty rm fn =>
      (match vecF? d a b c qe q ty rm fn with
        | some f => decVmem opc f
        | none => .ok none)
  | .y, .sys d a b fn imm => decSys opc d a b fn imm
  | _, _ => .error .unassigned

/-- The instruction of a syllable's CLASS, OPC and operand bits (R150, R153 item 4, R154). -/
def decodeInstr (c : UnitClass) (opc operands : Nat) : Except DecodeError Instr :=
  match formatOf c opc with
  | none => .error .unassigned
  | some f =>
    match decodeFields c opc (Fields.unpack f operands) with
    | .error e => .error e
    | .ok none => .error .reservedField
    | .ok (some i) => if i.wf then .ok i else .error .reservedField

/-- One syllable (R149). A reserved CLASS comes first (R153 item 2), then an opcode or field fault of the instruction,
then GP = 0 with GS = 1. -/
def decodeSyllable (w : Word) : Except DecodeError Syllable :=
  let n := w.toNat
  match class? (bitsAt n 59 3) with
  | none => .error .reservedClass
  | some c =>
    match decodeInstr c (bitsAt n 51 8) (bitsAt n 0 43) with
    | .error e => .error e
    | .ok i =>
      match fin? 128 (bitsAt n 44 7) with
      | none => .error .reservedField
      | some gp =>
        let gs := natBit n 43
        if gp.val = 0 ∧ gs then .error .guardNever
        else .ok ⟨natBit n 63, natBit n 62, gp, gs, i⟩

/-- The instruction the decoder reads from the low nbits bits of a table word: one syllable of 64 bits, the bits above
nbits zero. -/
def decodeTableWord (nbits w : Nat) : Option Instr :=
  match decodeSyllable (BitVec.ofNat 64 (w % 2 ^ nbits)) with
  | .ok y => some y.instr
  | .error _ => none

/-! ## The encoder -/

/-- The 43 operand bits of the fields (R159). -/
def Fields.pack : Fields → Nat
  | .a3 d a b c e fn => fn + 2 ^ 8 * (e + 2 ^ 7 * (c + 2 ^ 7 * (b + 2 ^ 7 * (a + 2 ^ 7 * d))))
  | .ai d a fn imm => imm + 2 ^ 24 * (fn + 2 ^ 5 * (a + 2 ^ 7 * d))
  | .li d fn imm => imm + 2 ^ 32 * (fn + 2 ^ 4 * d)
  | .br a fn disp => disp + 2 ^ 32 * (fn + 2 ^ 4 * a)
  | .mem t base scope size fn off =>
      off + 2 ^ 18 * (fn + 2 ^ 4 * (size + 2 ^ 3 * (scope + 2 ^ 4 * (base + 2 ^ 7 * t))))
  | .mem2 d base a b scope size fn =>
      fn + 2 ^ 8 * (size + 2 ^ 3 * (scope + 2 ^ 4 * (b + 2 ^ 7 * (a + 2 ^ 7 * (base + 2 ^ 7 * d)))))
  | .vec d a b c qe q ty rm fn =>
      fn + 2 ^ 4 * (rm + 2 ^ 2 * (ty + 2 ^ 4 * (q + 2 ^ 4 * (qe + 2 * (c + 2 ^ 7 * (b + 2 ^ 7 * (a + 2 ^ 7 * d)))))))
  | .tile tsel dir idx a b c ty fn =>
      fn + 2 ^ 7 * (ty + 2 ^ 4 * (c + 2 ^ 7 * (b + 2 ^ 7 * (a + 2 ^ 7 * (idx + 2 ^ 7 * (dir + 2 ^ 2 * tsel))))))
  | .ring d port a b nul fn imm =>
      imm + 2 ^ 13 * (fn + 2 ^ 4 * (nul + 2 * (b + 2 ^ 7 * (a + 2 ^ 7 * (port + 2 ^ 4 * d)))))
  | .sys d a b fn imm => imm + 2 ^ 16 * (fn + 2 ^ 6 * (b + 2 ^ 7 * (a + 2 ^ 7 * d)))

/-- The register number of a scalar operand. -/
def SOp.num : SOp → Nat
  | .s n => n.val
  | .c n => n.val

/-- The carry-select bit of a scalar operand (R187). -/
def SOp.carry : SOp → Bool
  | .s _ => false
  | .c _ => true

/-- The register number of a VMOV operand. -/
def VOp.num : VOp → Nat
  | .v n => n.val
  | .cv n => n.val

/-- The carry-select bit of a VMOV operand (R282). -/
def VOp.carry : VOp → Bool
  | .v _ => false
  | .cv _ => true

/-- The code of a rounding mode (R59). -/
def RMode.code : RMode → Nat
  | .rne => 0 | .rtz => 1 | .rdn => 2 | .rup => 3

/-- The code of a CMP condition (R198). -/
def Cond.code : Cond → Nat
  | .eq => 0 | .ne => 1 | .lt => 2 | .ge => 3 | .le => 4 | .gt => 5
  | .ltu => 6 | .geu => 7 | .leu => 8 | .gtu => 9 | .tst => 10 | .tstz => 11

/-- The code of a VCMP condition (R268). -/
def VCond.code : VCond → Nat
  | .eq => 0 | .ne => 1 | .lt => 2 | .le => 3 | .gt => 4 | .ge => 5 | .un => 6 | .ord => 7

/-- The code of a scope (R116). -/
def Scope.code : Scope → Nat
  | .bank => 0 | .cog => 1 | .row => 2 | .die => 3 | .package => 4 | .hop => 5 | .segment => 6 | .chain => 7
  | .system => 8

/-- The code of a size (R160). -/
def Size.code : Size → Nat
  | .b8 => 0 | .b16 => 1 | .b32 => 2 | .b64 => 3 | .b128 => 4

/-- The code of a memory ordering (R214). -/
def MOrd.code : MOrd → Nat
  | .plain => 0 | .acq => 1 | .rel => 2

/-- The code of an atomic's ordering (R228). -/
def AOrd.code : AOrd → Nat
  | .plain => 0 | .acq => 1 | .rel => 2 | .ar => 3

/-- The code of a fence kind (R125). -/
def FenceKind.code : FenceKind → Nat
  | .full => 0 | .acq => 1 | .rel => 2 | .ss => 3

/-- The code of a port (R160). -/
def Port.code : Port → Nat
  | .i n => n.val
  | .o n => 8 + n.val

/-- The code of a direction (R160). -/
def Dir.code : Dir → Nat
  | .row => 0 | .col => 1 | .dia => 2 | .adi => 3

/-- The code of a geometry (R284). -/
def Geo.code : Geo → Nat
  | .plain => 0 | .mx => 1 | .tiles => 2 | .segments => 3

/-- The code of an extension width (R202). -/
def ExtW.code : ExtW → Nat
  | .w8 => 0 | .w16 => 1 | .w32 => 2

/-- The code of a scan operation (R278). -/
def ScanOp.code : ScanOp → Nat
  | .sum => 0 | .max => 1 | .min => 2

/-- The fields qe and q of a mask (R159). -/
def maskQe : VMask → Nat
  | none => 0
  | some _ => 1

/-- The field q of a mask (R159). -/
def maskQ : VMask → Nat
  | none => 0
  | some q => q.val

/-- An A3 syllable of class A: scalar operands with their carry-select bits, a suffix in fn[3:0]. -/
def encA (opc : Nat) (d a b c : SOp) (e lo : Nat) : UnitClass × Nat × Fields :=
  (.a, opc, .a3 d.num a.num b.num c.num e
    (lo + 16 * c.carry.toNat + 32 * b.carry.toNat + 64 * a.carry.toNat + 128 * d.carry.toNat))

/-- An unused scalar field. -/
def noS : SOp := .s 0

/-- A predicate in a field that carries no carry-select bit. -/
def pField (d a b c : Nat) (e fn : Nat) (opc : Nat) : UnitClass × Nat × Fields := (.a, opc, .a3 d a b c e fn)

/-- An AI syllable of class A. -/
def encI (opc : Nat) (d a : SOp) (lo imm : Nat) : UnitClass × Nat × Fields :=
  (.a, opc, .ai d.num a.num (lo + 8 * a.carry.toNat + 16 * d.carry.toNat) imm)

/-- A BR syllable. -/
def encB (opc a fn disp : Nat) : UnitClass × Nat × Fields := (.b, opc, .br a fn disp)

/-- A VEC syllable of class V. -/
def encV (opc d a b c : Nat) (m : VMask) (t : EType) (rm : RMode) (fn : Nat) : UnitClass × Nat × Fields :=
  (.v, opc, .vec d a b c (maskQe m) (maskQ m) t.code rm.code fn)

/-- A MEM syllable. -/
def encM (opc : Nat) (t : SOp) (base : SReg) (off : BitVec 18) (size : Size) (sx : Bool) (ord : MOrd)
    (scope : Scope) : UnitClass × Nat × Fields :=
  (.x, opc, .mem t.num base.val scope.code size.code (ord.code + 4 * sx.toNat + 8 * t.carry.toNat) off.toNat)

/-- An atomic (R228). -/
def encAt (opc : Nat) (u : Bool) (size : Size) (ord : AOrd) (scope : Scope) (d base a : SReg) (b : Nat) :
    UnitClass × Nat × Fields :=
  (.x, opc, .mem2 d.val base.val a.val b scope.code size.code (ord.code + 4 * u.toNat))

/-- The address field and fn[0], fn[2] of VLD and VST (R284). -/
def vaddrField : VAddr → Nat × Nat
  | .s n => (n.val, 1)
  | .it g adv => (g.val, 4 * adv.toNat)

/-- The class, opcode and fields of a syllable instruction; none for the package's own steps, which have no encoding. -/
def encodeFields : Instr → Option (UnitClass × Nat × Fields)
  | .add d a b => encA 0x00 d a b noS 0 0
  | .addImm d a i => encI 0x40 d a 0 i.toNat
  | .sub d a b => encA 0x01 d a b noS 0 0
  | .mul d a b => encA 0x02 d a b noS 0 0
  | .mulImm d a i => encI 0x48 d a 0 i.toNat
  | .mulh u d a b => encA 0x03 d a b noS 0 u.toNat
  | .div u d a b => encA 0x04 d a b noS 0 u.toNat
  | .rem u d a b => encA 0x05 d a b noS 0 u.toNat
  | .and d a b => encA 0x06 d a b noS 0 0
  | .andImm d a i => encI 0x41 d a 0 i.toNat
  | .or d a b => encA 0x07 d a b noS 0 0
  | .orImm d a i => encI 0x42 d a 0 i.toNat
  | .xor d a b => encA 0x08 d a b noS 0 0
  | .xorImm d a i => encI 0x43 d a 0 i.toNat
  | .andn d a b => encA 0x09 d a b noS 0 0
  | .shl d a b => encA 0x0A d a b noS 0 0
  | .shlImm d a k => encI 0x44 d a 0 k.toNat
  | .shr d a b => encA 0x0B d a b noS 0 0
  | .shrImm d a k => encI 0x45 d a 0 k.toNat
  | .sar d a b => encA 0x0C d a b noS 0 0
  | .sarImm d a k => encI 0x46 d a 0 k.toNat
  | .rol d a b => encA 0x0D d a b noS 0 0
  | .ror d a b => encA 0x0E d a b noS 0 0
  | .rorImm d a k => encI 0x47 d a 0 k.toNat
  | .addc d pe a b pc => encA 0x0F d a b (.s 0) pe.val 0 |> withC pc.val
  | .subb d pe a b pc => encA 0x10 d a b (.s 0) pe.val 0 |> withC pc.val
  | .min u d a b => encA 0x11 d a b noS 0 u.toNat
  | .minImm u d a i => encI 0x49 d a u.toNat i.toNat
  | .max u d a b => encA 0x12 d a b noS 0 u.toNat
  | .maxImm u d a i => encI 0x4A d a u.toNat i.toNat
  | .abs d a => encA 0x13 d a noS noS 0 0
  | .clz d a => encA 0x14 d a noS noS 0 0
  | .ctz d a => encA 0x15 d a noS noS 0 0
  | .popc d a => encA 0x16 d a noS noS 0 0
  | .bswap d a => encA 0x17 d a noS noS 0 0
  | .brev d a => encA 0x18 d a noS noS 0 0
  | .clmul h d a b => encA 0x19 d a b noS 0 h.toNat
  | .bmatch n d a b => encA 0x1A d a b noS 0 n.toNat
  | .bfx s d a b c => encA 0x1B d a b c 0 s.toNat
  | .bfxImm s d a pos w => encI 0x4C d a s.toNat (pos.toNat + 64 * w.toNat)
  | .bfi d a b c => encA 0x1C d a b c 0 0
  | .bfiImm d a pos w => encI 0x4D d a 0 (pos.toNat + 64 * w.toNat)
  | .sext w d a => encA 0x1D d a noS noS 0 w.code
  | .zext w d a => encA 0x1E d a noS noS 0 w.code
  | .cmp k pd pe a b => pField pd.val a.num b.num 0 pe.val
      (k.code + 32 * b.carry.toNat + 64 * a.carry.toNat) 0x1F
  | .cmpImm k pd a i => some (.a, 0x4B, .ai pd.val a.num (k.code + 16 * a.carry.toNat) i.toNat)
  | .sel d pc a b => encA 0x20 d a b noS 0 0 |> withC pc.val
  | .plog tt d a b => pField d.val a.val b.val 0 0 tt.toNat 0x21
  | .pmov (.pp d a) => pField d.val a.val 0 0 0 0 0x22
  | .pmov (.sp d a) => pField d.num a.val 0 0 0 (1 + 128 * d.carry.toNat) 0x22
  | .pmov (.ps d a) => pField d.val a.num 0 0 0 (2 + 64 * a.carry.toNat) 0x22
  | .movi m d i => some (.a, 0x60, .li d.num
      ((match m with | .sext => 0 | .zext => 1 | .hi => 2) + 8 * d.carry.toNat) i.toNat)
  | .nop n => encB 0x00 0 0 n.toNat
  | .br disp => encB 0x01 0 0 disp.toNat
  | .jr a => encB 0x02 a.val 0 0
  | .call d disp => encB 0x03 d.val 0 disp.toNat
  | .callr d a => encB 0x04 a.val 0 d.val
  | .ret a => encB 0x05 a.val 0 0
  | .loop a rs rv rp disp => encB 0x06 a.val (rs.toNat + 2 * rv.toNat + 4 * rp.toNat) disp.toNat
  | .stageEnd => encB 0x07 0 0 0
  | .trap n => encB 0x08 0 0 n.toNat
  | .waitTime a disp => encB 0x09 a.val 0 disp.toNat
  | .sleepUntil a disp => encB 0x0A a.val 0 disp.toNat
  | .timeRead d => encB 0x0B d.val 0 0
  | .vadd t rm s d a b m => encV 0x00 d.val a.val b.val 0 m t rm s.toNat
  | .vsub t rm s d a b m => encV 0x01 d.val a.val b.val 0 m t rm s.toNat
  | .vmul t rm s d a b m => encV 0x02 d.val a.val b.val 0 m t rm s.toNat
  | .vfma t rm d a b c m => encV 0x03 d.val a.val b.val c.val m t rm 0
  | .vfms t rm d a b c m => encV 0x04 d.val a.val b.val c.val m t rm 0
  | .vfnma t rm d a b c m => encV 0x05 d.val a.val b.val c.val m t rm 0
  | .vfnms t rm d a b c m => encV 0x06 d.val a.val b.val c.val m t rm 0
  | .vmin t d a b m => encV 0x07 d.val a.val b.val 0 m t .rne 0
  | .vmax t d a b m => encV 0x08 d.val a.val b.val 0 m t .rne 0
  | .vabs t s d a m => encV 0x09 d.val a.val 0 0 m t .rne s.toNat
  | .vneg t s d a m => encV 0x0A d.val a.val 0 0 m t .rne s.toNat
  | .vabsd t rm s d a b m => encV 0x0B d.val a.val b.val 0 m t rm s.toNat
  | .vcpysgn t d a b m => encV 0x0C d.val a.val b.val 0 m t .rne 0
  | .vround t rm d a m => encV 0x0D d.val a.val 0 0 m t rm 0
  | .vmulh t d a b m => encV 0x0E d.val a.val b.val 0 m t .rne 0
  | .vmad t s d a b c m => encV 0x0F d.val a.val b.val c.val m t .rne s.toNat
  | .vand t d a b m => encV 0x10 d.val a.val b.val 0 m t .rne 0
  | .vor t d a b m => encV 0x11 d.val a.val b.val 0 m t .rne 0
  | .vxor t d a b m => encV 0x12 d.val a.val b.val 0 m t .rne 0
  | .vandn t d a b m => encV 0x13 d.val a.val b.val 0 m t .rne 0
  | .vshl t d a k m => encSh 0x14 t d a k m
  | .vshr t d a k m => encSh 0x15 t d a k m
  | .vsar t d a k m => encSh 0x16 t d a k m
  | .vclz t d a m => encV 0x17 d.val a.val 0 0 m t .rne 0
  | .vpopc t d a m => encV 0x18 d.val a.val 0 0 m t .rne 0
  | .vdot4 t bu s d a b c m => encV 0x19 d.val a.val b.val c.val m t .rne (bu.toNat + 2 * s.toNat)
  | .vcmp t k (.q d) a b m => encV 0x1A d.val a.val b.val 0 m t .rne k.code
  | .vcmp t k (.v d) a b m => encV 0x1A d.val a.val b.val 0 m t .rne (k.code + 8)
  | .vclass t d a m => encV 0x1B d.val a.val 0 0 m t .rne 0
  | .vsel t d a b (.q c) m => encV 0x1C d.val a.val b.val c.val m t .rne 0
  | .vsel t d a b (.bit c) m => encV 0x1C d.val a.val b.val c.val m t .rne 1
  | .qlog tt d a b => encV 0x1D d.val a.val b.val 0 none .raw .rne tt.toNat
  | .qmov f => encQ f
  | .vcvt dt st rm p o x d a b m =>
      encV 0x1F d.val a.val b.val (p.val + 8 * o.toNat + 16 * x.toNat) m dt rm st.code
  | .vrsum t rm d a m => encV 0x20 d.val a.val 0 0 m t rm 0
  | .vrmax t d a m => encV 0x21 d.val a.val 0 0 m t .rne 0
  | .vrmin t d a m => encV 0x22 d.val a.val 0 0 m t .rne 0
  | .vrargmax t d a m => encV 0x23 d.val a.val 0 0 m t .rne 0
  | .vscan t rm o x d a m => encV 0x24 d.val a.val 0 0 m t rm (o.code + 4 * x.toNat)
  | .vperm t h d a b m => encV 0x25 d.val a.val b.val 0 m t .rne h.toNat
  | .vperm2 t d a b c m => encV 0x26 d.val a.val b.val c.val m t .rne 0
  | .vbcast t d a b m => encV 0x27 d.val a.val b.val 0 m t .rne 0
  | .vsplat t d a m => encV 0x28 d.val a.val 0 0 m t .rne 0
  | .vslide t u d a b c m => encV 0x29 d.val a.val b.val c.val m t .rne u.toNat
  | .vins t d a b m => encV 0x2A d.val a.val b.val 0 m t .rne 0
  | .vext t d a b => encV 0x2B d.val a.val b.val 0 none t .rne 0
  | .vrev t d a m => encV 0x2C d.val a.val 0 0 m t .rne 0
  | .vzip t h d a c m => encV 0x2D d.val a.val 0 c.val m t .rne h.toNat
  | .vunzip t o d a c m => encV 0x2E d.val a.val 0 c.val m t .rne o.toNat
  | .vcompress t d a q => encV 0x2F d.val a.val 0 0 (some q) t .rne 0
  | .vexpand t d a q => encV 0x30 d.val a.val 0 0 (some q) t .rne 0
  | .vmov t d a m => encV 0x31 d.num a.num 0 0 m t .rne (d.carry.toNat + 2 * a.carry.toNat)
  | .vrcpe d a m => encV 0x32 d.val a.val 0 0 m .fp32 .rne 0
  | .vrsqe d a m => encV 0x33 d.val a.val 0 0 m .fp32 .rne 0
  | .vexp2 d a m => encV 0x34 d.val a.val 0 0 m .fp32 .rne 0
  | .vlog2 d a m => encV 0x35 d.val a.val 0 0 m .fp32 .rne 0
  | .vsin d a m => encV 0x36 d.val a.val 0 0 m .fp32 .rne 0
  | .vcos d a m => encV 0x37 d.val a.val 0 0 m .fp32 .rne 0
  | .vtanh d a m => encV 0x38 d.val a.val 0 0 m .fp32 .rne 0
  | .mwload f x w a b => some (.m, 0x00, .tile 0 0 0 a.val b.val 0 f.code (w.toNat + 2 * x.toNat))
  | .mwswap => some (.m, 0x01, .tile 0 0 0 0 0 0 0 0)
  | .mmul t r g n f w k x => some (.m, 0x02, .tile t.val 0 r.val g.val n.val (kNum k) f.code
      (w.toNat + 2 * k.isSome.toNat + 4 * x.toNat))
  | .mchk a (.lo t) => some (.m, 0x03, .tile t.val 0 0 a.val 0 0 0 0)
  | .mchk a (.hi t) => some (.m, 0x03, .tile t.val 0 0 a.val 0 0 0 1)
  | .mchk a .buf => some (.m, 0x03, .tile 0 0 0 a.val 0 0 0 2)
  | .tzero t none => some (.m, 0x08, .tile t.val 0 0 0 0 0 0 0)
  | .tzero t (some r) => some (.m, 0x08, .tile t.val 0 r.val 0 0 0 0 1)
  | .tld t r a n => some (.m, 0x09, .tile t.val 0 r.val a.val n.val 0 0 0)
  | .tst t r a n => some (.m, 0x0A, .tile t.val 0 r.val a.val n.val 0 0 0)
  | .tcst t r a n f rm k => some (.m, 0x0B, .tile t.val 0 r.val a.val n.val (kNum k) f.code
      (rm.code + 4 * k.isSome.toNat))
  | .trd v t d k => some (.m, 0x0C, .tile t.val d.code k.val v.val 0 0 0 0)
  | .twr t d k v => some (.m, 0x0D, .tile t.val d.code k.val v.val 0 0 0 0)
  | .tscale t rm (.v v) => some (.m, 0x0E, .tile t.val 0 0 v.val 0 0 0 rm.code)
  | .tscale t rm (.k k) => some (.m, 0x0E, .tile t.val 0 0 0 0 k.val 0 (rm.code + 4))
  | .tmov t s x => some (.m, 0x0F, .tile t.val 0 0 0 s.val 0 0 x.toNat)
  | .tadd t s rm => some (.m, 0x10, .tile t.val 0 0 0 s.val 0 0 rm.code)
  | .kset (.one k a) => some (.m, 0x11, .tile 0 0 k.val a.val 0 0 0 0)
  | .kset (.vec v) => some (.m, 0x11, .tile 0 0 0 v.val 0 0 0 1)
  | .rsvInit t r a b c => some (.m, 0x20, .tile t.val 0 r.val a.val b.val c.val 0 0)
  | .rsvFeed t r a => some (.m, 0x21, .tile t.val 0 r.val a.val 0 0 1 0)
  | .rsvFeed2 t r a b => some (.m, 0x22, .tile t.val 0 r.val a.val b.val 0 1 0)
  | .rsvDraw d t r => some (.m, 0x23, .tile t.val 0 r.val d.val 0 0 0 0)
  | .ld t b o z x r s => encM 0x00 t b o z x r s
  | .st t b o z r s => encM 0x01 t b o z false r s
  | .ldp t b o r s => encM 0x02 t b o .b128 false r s
  | .stp t b o r s => encM 0x03 t b o .b128 false r s
  | .ldg t b o z x r s => encM 0x04 t b o z x r s
  | .stg t b o z r s => encM 0x05 t b o z false r s
  | .stgGs t b o z h => some (.x, 0x06, .mem t.num b.val 0 z.code (h.val + 8 * t.carry.toNat) o.toNat)
  | .aadd z r s d m a => encAt 0x08 false z r s d m a 0
  | .aswap z r s d m a => encAt 0x09 false z r s d m a 0
  | .acas z r s d m a b => encAt 0x0A false z r s d m a b.val
  | .aand z r s d m a => encAt 0x0B false z r s d m a 0
  | .aor z r s d m a => encAt 0x0C false z r s d m a 0
  | .axor z r s d m a => encAt 0x0D false z r s d m a 0
  | .amin u z r s d m a => encAt 0x0E u z r s d m a 0
  | .amax u z r s d m a => encAt 0x0F u z r s d m a 0
  | .afadd r s d m a => encAt 0x10 false .b32 r s d m a 0
  | .fence k s => some (.x, 0x11, .mem2 0 0 0 0 s.code 0 k.code)
  | .gsOpen d h a b => some (.x, 0x18, .mem2 d.val 0 a.val b.val 0 0 h.val)
  | .gsSeal d h => some (.x, 0x19, .mem2 d.val 0 0 0 0 0 h.val)
  | .gsAbort d h => some (.x, 0x1A, .mem2 d.val 0 0 0 0 0 h.val)
  | .gsSnap d h a => some (.x, 0x1B, .mem2 d.val 0 a.val 0 0 0 h.val)
  | .gsLoad (.s64 d) p h m => some (.x, 0x1C, .mem2 d.val m.val p.val 0 0 3 h.val)
  | .gsLoad (.s128 d) p h m => some (.x, 0x1C, .mem2 d.val m.val p.val 0 0 4 h.val)
  | .gsLoad (.v d) p h m => some (.x, 0x1C, .mem2 d.val m.val p.val 0 0 0 (h.val + 4))
  | .gsStat d h => some (.x, 0x1D, .mem2 d.val 0 0 0 0 0 h.val)
  | .itld g a => some (.x, 0x20, .a3 g.val a.val 0 0 0 0)
  | .itset (.base g a) => some (.x, 0x21, .a3 g.val a.val 0 0 0 0)
  | .itset (.lin g a) => some (.x, 0x21, .a3 g.val a.val 0 0 0 1)
  | .itset (.dim g a e) => some (.x, 0x21, .a3 g.val a.val 0 0 e.val 2)
  | .itset (.copy g a) => some (.x, 0x21, .a3 g.val a.val 0 0 0 3)
  | .itadv g a p => some (.x, 0x22, .a3 g.val a.val 0 p.val 0 0)
  | .itrd d g .addr => some (.x, 0x23, .a3 d.val g.val 0 0 0 0)
  | .itrd d g .lin => some (.x, 0x23, .a3 d.val g.val 0 0 0 1)
  | .itrd d g (.idx e) => some (.x, 0x23, .a3 d.val g.val 0 0 e.val 2)
  | .itrd d g .base => some (.x, 0x23, .a3 d.val g.val 0 0 0 3)
  | .cpy d a b c => some (.x, 0x28, .a3 d.val a.val b.val c.val 0 0)
  | .cpyGs d a b c h => some (.x, 0x29, .a3 d.val a.val b.val c.val 0 h.val)
  | .cpyga d a b c e k => some (.x, 0x2A, .a3 d.val a.val b.val c.val e.val k.val)
  | .cpysc d a b c e k => some (.x, 0x2B, .a3 d.val a.val b.val c.val e.val k.val)
  | .cpybc d a b c e n => some (.x, 0x2C, .a3 d.val a.val b.val c.val e.val n.toNat)
  | .prmRd d x => some (.x, 0x2D, .a3 d.val 0 0 0 0 x.toNat)
  | .ringAddr d p b i h => some (.x, 0x30, .ring d.val p.code 0 b.val 0 h.toNat i.toNat)
  | .ringPut p a i n => some (.x, 0x31, .ring 0 p.code a.val 0 n.toNat 0 i.toNat)
  | .ringPeek d p b i f => some (.x, 0x32, .ring d.val p.code 0 b.val 0
      (match f with | .h0 => 0 | .h1 => 1 | .len => 2) i.toNat)
  | .ringAvail d p => some (.x, 0x33, .ring d.val p.code 0 0 0 0 0)
  | .vld t cvt d a m => some (.x, 0x38, .vec d.val (vaddrField a).1 0
      (match cvt with | none => 0 | some (g, _) => g.code) (maskQe m) (maskQ m) t.code
      (match cvt with | none => 0 | some (_, r) => r.code) ((vaddrField a).2 + 2 * cvt.isSome.toNat))
  | .vst t cvt a b m => some (.x, 0x39, .vec 0 (vaddrField a).1 b.val 0 (maskQe m) (maskQ m) t.code
      (match cvt with | none => 0 | some r => r.code) ((vaddrField a).2 + 2 * cvt.isSome.toNat))
  | .vgather t d a b m => some (.x, 0x3A, .vec d.val a.val b.val 0 (maskQe m) (maskQ m) t.code 0 0)
  | .vscatter t a b c m => some (.x, 0x3B, .vec 0 a.val b.val c.val (maskQe m) (maskQ m) t.code 0 0)
  | .csrRd d n => some (.y, 0x00, .sys d.val 0 0 0 n.toNat)
  | .csrWr n a => some (.y, 0x01, .sys 0 a.val 0 0 n.toNat)
  | .winLd d e a o => some (.y, 0x02, .sys d.val a.val 0 o.toNat e.val)
  | .winRd d e w o => some (.y, 0x03, .sys d.val 0 0 (w.val + 4 * o.toNat) e.val)
  | .tlbInv .all => some (.y, 0x04, .sys 0 0 0 0 0)
  | .tlbInv (.asid a) => some (.y, 0x04, .sys 0 a.val 0 1 0)
  | .tlbInv (.va a b) => some (.y, 0x04, .sys 0 a.val b.val 2 0)
  | .tlbInv (.vaany b) => some (.y, 0x04, .sys 0 0 b.val 3 0)
  | .tlbProbe d a b => some (.y, 0x05, .sys d.val a.val b.val 0 0)
  | .tret x => some (.y, 0x06, .sys 0 0 0 x.toNat 0)
  | _ => none
where
  /-- Put a predicate in field c. -/
  withC (c : Nat) : UnitClass × Nat × Fields → UnitClass × Nat × Fields
    | (k, o, .a3 d a b _ e fn) => (k, o, .a3 d a b c e fn)
    | x => x
  /-- A vector shift (R267). -/
  encSh (opc : Nat) (t : EType) (d a : VReg) (k : ShAmt) (m : VMask) : UnitClass × Nat × Fields :=
    match k with
    | .reg b => encV opc d.val a.val b.val 0 m t .rne 0
    | .imm n => encV opc d.val a.val 0 n.val m t .rne 1
  /-- QMOV (R272). -/
  encQ : QmovForm → UnitClass × Nat × Fields
    | .qq d a => encV 0x1E d.val a.val 0 0 none .raw .rne 0
    | .qv d a => encV 0x1E d.val a.val 0 0 none .raw .rne 1
    | .vq d a => encV 0x1E d.val a.val 0 0 none .raw .rne 2
    | .msb d a => encV 0x1E d.val a.val 0 0 none .raw .rne 3
    | .cnt d a => encV 0x1E d.val a.val 0 0 none .raw .rne 4
    | .first d a => encV 0x1E d.val a.val 0 0 none .raw .rne 5
    | .set d a b => encV 0x1E d.val a.val b.val 0 none .raw .rne 6
    | .lo d a => encV 0x1E d.val a.val 0 0 none .raw .rne 7
    | .hi d a => encV 0x1E d.val a.val 0 0 none .raw .rne 8
  /-- The number of an optional scale register. -/
  kNum : Option KReg → Nat
    | none => 0
    | some k => k.val

/-- The code of a unit class (R150). -/
def UnitClass.code : UnitClass → Nat
  | .a => 0 | .b => 1 | .v => 2 | .m => 3 | .x => 4 | .y => 5

/-- The word of a syllable (R149); none for the package's own steps. -/
def encode (y : Syllable) : Option Word :=
  (encodeFields y.instr).map fun (c, opc, f) =>
    BitVec.ofNat 64 (f.pack + 2 ^ 43 * (y.gs.toNat + 2 * (y.gp.val + 2 ^ 7 * (opc + 2 ^ 8 *
      (c.code + 2 ^ 3 * (y.rst.toNat + 2 * y.last.toNat))))))

end Sys2Proof
end

