-- ==== Sys2Proof/Machine/Bundle.lean ====
section
/-! DEFINITION. A bundle: its fetch and decoding with the traps of R153, the boundary events that go before it (R325), its
guards (R155), and its issue as one (R151, R156, R323). The meaning of a syllable is a parameter: Step gives it. -/

namespace Sys2Proof.Machine

/-- The meaning of an instruction. -/
abbrev Exec := Instr → State → Host.Outcome State Fault Refusal

/-! ## Fetch (R151, R153) -/

/-- A fetch fault at an address. -/
def fetchTrap {α : Type} (cause : Nat) (a : Word) : Except Trap α :=
  .error { cause := cause, fetch := true, val := a }

/-- One syllable's word, checked as an 8-byte load (R153 item 1): address error, path, window, window permission. -/
def State.fetchWord (s : State) (a : Word) : Except Trap Word :=
  let b := s.me
  if addrError b.hmode a 8 then fetchTrap 0x14 a
  else if pathOf a ≠ 0 then fetchTrap 0x16 a
  else
    match winFind b.windows a.toNat 8 with
    | none => fetchTrap 0x10 a
    | some w =>
      if !winPerm .fetch w then fetchTrap 0x11 a
      else .ok (BitVec.ofNat 64 (natOf (s.load (w.target s.cur.cog.val a.toNat) 8)))

/-- END of a syllable's word. -/
def wordEnd (w : Word) : Bool := w.getLsbD 63

/-- The words of the bundle at an address: at most n of them, up to the first with END. -/
def State.fetchWords (s : State) (a : Word) : Nat → Except Trap (List Word)
  | 0 => .ok []
  | n + 1 => do
    let w ← s.fetchWord a
    if wordEnd w then pure [w]
    else do
      let ws ← s.fetchWords (a + 8) n
      pure (w :: ws)

/-- A trap of the decoder: TVAL is the bundle's address, SLOT the syllable's position (R326, R328). -/
def decodeTrap {α : Type} (cause slot : Nat) (pc : Word) : Except Trap α :=
  .error { cause := cause, slot := slot, val := pc }

/-- The syllables of words, or the position of the first that has a fault (R153 item 4). -/
def decodeWords : List Word → Nat → Except Nat (List Syllable)
  | [], _ => .ok []
  | w :: ws, k =>
    match decodeSyllable w with
    | .error _ => .error k
    | .ok y => do
      let ys ← decodeWords ws (k + 1)
      pure (y :: ys)

/-- CLASS and RST of a word; none for a reserved class. -/
def wordClass (w : Word) : Option (UnitClass × Bool) :=
  (class? (bitsAt w.toNat 59 3)).map fun c => (c, w.getLsbD 62)

/-- The position of the first word whose CLASS is reserved. -/
def badClass : List Word → Nat → Option Nat
  | [], _ => none
  | w :: ws, k => if (wordClass w).isNone then some k else badClass ws (k + 1)

/-- The bundle of a list of words, in the order of R153 items 2 to 4. -/
def decodeBundle (pc : Word) (ws : List Word) : Except Trap (List Syllable) :=
  match badClass ws 0 with
  | some k => decodeTrap 0x12 k pc
  | none =>
    if !(ws.getLast?.map wordEnd).getD false || !bundleWf (ws.filterMap wordClass) then decodeTrap 0x13 0 pc
    else
      match decodeWords ws 0 with
      | .error k => decodeTrap 0x12 k pc
      | .ok ys => .ok ys

/-- The codewords that the fetch of a bundle reads, up to n syllables (R111). -/
def State.fetchEcc (s : State) (a : Word) : Nat → State
  | 0 => s
  | n + 1 =>
    match s.fetchWord a, winFind s.me.windows a.toNat 8 with
    | .ok w, some e =>
      let s := s.eccRead 0 (some s.cur.num) a (e.target s.cur.cog.val a.toNat) 8
      if wordEnd w then s else s.fetchEcc (a + 8) n
    | _, _ => s

/-- The bundle at an address. -/
def State.readBundle (s : State) (pc : Word) : Except Trap (List Syllable) := do
  let ws ← s.fetchWords pc 6
  decodeBundle pc ws

/-! ## Boundary events (R323, R325, R329) -/

/-- The boundary event taken before the next bundle, with the bank that no longer waits for it: machine check, copy
error, timing, budget. A timing trap of a copy that has completed is dropped. A bundle that has made an access already has
begun, and nothing goes before it (notes/assumptions/11.md). -/
def State.boundary (s : State) (b : Bank) : Option (Trap × Bank) :=
  let p := b.pend
  let timing := p.timing.filter fun e => s.copyOpen e.2
  if b.hmode || !b.pre.isEmpty then none
  else
    match p.mcheck, p.copyErr, timing, p.budget with
    | e :: r, _, _, _ => some ({ cause := 0x01, sub := 1, val := e }, { b with pend := { p with mcheck := r } })
    | [], e :: r, _, _ => some ({ cause := 0x02, val := e.1 }, { b with pend := { p with copyErr := r } })
    | [], [], e :: r, _ =>
      some ({ cause := 0x03, val := e.1 }, { b with pend := { p with timing := r }, trapPromise := e.1 })
    | [], [], [], true =>
      some ({ cause := 0x04, val := BitVec.ofNat 64 b.budcnt }, { b with pend := { p with budget := false } })
    | [], [], [], false => none

/-! ## Issue -/

/-- The bundle at pc of a bank is about to issue: its syllables' requests count from here, and a restart point records
its address, ROT and the puts made so far (R158, R333). -/
def State.prepare (s : State) (ys : List Syllable) : State :=
  let s := { s with nextPc := s.epc + BitVec.ofNat 64 (8 * ys.length), ownFrom := s.nextId, stop := none }
  if (ys.head?.map (·.rst)).getD false then
    s.modMe fun b =>
      { b with rstpt := s.epc, rstRot := (b.rotS, b.rotV, b.rotP)
               ports := vmap (fun p => { p with rstPuts := p.puts }) b.ports }
  else s

/-- The guard holds (R155). -/
def State.guardHolds (s : State) (y : Syllable) : Except Stop Bool := do
  let p ← s.rdP y.gp
  pure (p ≠ y.gs)

/-- A syllable of class X waits while the memory unit is busy (R289). -/
def State.unitBusy (s : State) (y : Syllable) : Bool := y.instr.unit = some .x && s.clk < s.me.xBusy

/-- What a syllable's own stop comes to, given what the rest of the bundle meets without it: an atomic of host memory, which
must be made first and cannot be undone, is made only when nothing else stops the bundle (notes/assumptions/11.md). -/
def stopFirst (t : State) (rest : Host.Outcome State Fault Refusal) : Host.Outcome State Fault Refusal :=
  match t.stop, rest with
  | some (.ask .load ..), _ => .next t
  | some (.ask ..), .next r =>
    (match r.stop with
      | none | some .taken | some (.ask ..) => .next t
      | some _ => .next r)
  | _, _ => .next t

/-- The syllables take effect in order until one stops the bundle: stop says what the last one met. -/
def runSyllables (ex : Exec) : List Syllable → Nat → State → Host.Outcome State Fault Refusal
  | [], _, s => .next s
  | y :: ys, k, s =>
    let s : State := { s with slot := k }
    match s.guardHolds y with
    | .error e => .next { s with stop := some e }
    | .ok false => runSyllables ex ys (k + 1) s
    | .ok true =>
      if s.unitBusy y then .next { s with stop := some .stall }
      else
        match ex y.instr s with
        | .next t =>
          if t.stop.isNone then runSyllables ex ys (k + 1) t
          else stopFirst t (runSyllables ex ys (k + 1) { s with stop := none })
        | o => o

/-- Every syllable has taken effect: the next bundle, no sooner than the next cycle; a NOP's delay lasts through a ring wait
(R209). -/
def State.bundleDone (s : State) : State :=
  s.modMe fun b =>
    { b with pc := s.nextPc, walk := none, nextIssue := Nat.max b.nextIssue (s.clk + 1), pre := [],
             delay := if b.mode = .ringWait then b.delay else 0 }

/-- The last syllable has set the program counter itself (TRAP, TRET): nothing of the bundle's issue is left. -/
def State.bundleLeft (s : State) : State := s.modMe fun b => { b with walk := none, pre := [] }

/-- The syllable at a position stops the bundle. -/
def State.haltAt (s : State) (slot : Nat) (e : Stop) : State := { s with slot := slot }.halt e

/-- A bundle that has been read issues: either every syllable takes effect, or none does and the first that stopped
decides what happens (R156, R323). -/
def State.issueSyllables (ex : Exec) (s : State) (ys : List Syllable) : Host.Outcome State Fault Refusal :=
  match runSyllables ex ys 0 (s.prepare ys) with
  | .next t =>
    (match t.stop with
      | none => .next t.bundleDone
      | some .taken => .next t.bundleLeft
      | some e => .next (s.haltAt t.slot e))
  | o => o

/-- A boundary of a running bank: one pending event is taken, or the bundle at pc is read and issues (R325). -/
def State.issueBundle (ex : Exec) (s : State) (b : BankIx) : Host.Outcome State Fault Refusal :=
  let s := { s with cur := b, epc := (s.bank b).pc, slot := 0, stop := none }
  match s.boundary s.me with
  | some (t, x) => .next ((s.setBank b x).raise b t s.epc)
  | none =>
    let f := s.fetchEcc s.epc 6
    match s.readBundle s.epc with
    | .error t => .next (f.haltAt t.slot (.trap t))
    | .ok ys => f.issueSyllables ex ys

end Sys2Proof.Machine
end

