-- ==== Sys2Proof/Machine/Schedule.lean ====
section
/-! DEFINITION. What the package does next (the order within a cycle: notes/assumptions/5.md): events that have arrived,
events scheduled for now, the firing of banks, what else is due, the bundles of the cogs, the commits, and then the next
core cycle. The meanings are a parameter: Step gives them. -/

namespace Sys2Proof.Machine

/-! ## Lists -/

/-- The index of the first element with a property, counted from k. -/
def findIx {α : Type} (p : α → Bool) : List α → Nat → Option Nat
  | [], _ => none
  | x :: xs, k => if p x then some k else findIx p xs (k + 1)

/-- The indices of all elements with a property, counted from k. -/
def allIx {α : Type} (p : α → Bool) : List α → Nat → List Nat
  | [], _ => []
  | x :: xs, k => if p x then k :: allIx p xs (k + 1) else allIx p xs (k + 1)

/-- A trap waits in the bank until it has drained (R324). -/
def BankMode.isTrapping : BankMode → Bool
  | .trapping .. => true
  | _ => false

/-- The banks on which a stage is active. -/
def State.liveBanks (s : State) : List BankIx := (allIx (·.active) s.banks.toList 0).filterMap bank?

/-- The first bank of a list for which an event is due. -/
def firstDue {α : Type} (l : List α) (f : α → Option Instr) : Option Instr := l.findSome? f

/-! ## What is due in this cycle -/

/-- The bank whose firing is evaluated next in this fabric cycle (R28). -/
def State.firingDue (s : State) (live : List BankIx) : Option Instr :=
  if 640 ≤ s.evalNext then none
  else (live.find? fun b => s.evalNext ≤ b.val).map .firingEvaluation

/-- Budgets, traps that have drained, handlers that take too long, returns; of a bank of a failed cog returns only (R331). -/
def State.bankDue (s : State) (b : BankIx) : Option Instr :=
  let x := s.bank b
  if x.overBudget then some (.budgetExceeded b)
  else if s.handlerLate b then some (.handlerTimeout b)
  else if x.mode.isTrapping && !s.draining b && !s.dead b then some (.trapTake b)
  else ((List.finRange 8).find? fun p =>
    let q := x.ports[p.val]
    q.bound && q.retDue ≤ s.clk).map (.periodicReturn b)

/-- Copies that are complete, have failed or have missed their promise (R108 to R110). -/
def State.copyDue (s : State) : Option Instr :=
  s.copies.findSome? fun c =>
    if s.dead c.bank then none
    else if c.failed then some (.copyFailure c.id)
    else if c.done then some (.copyComplete c.id)
    else if s.time.ult c.promise then none
    else some (.promiseMissed c.id)

/-- An M instruction may start. -/
def State.unitDue (s : State) (b : BankIx) : Option Instr :=
  match (s.cog b.cog).mq with
  | [] => none
  | e :: _ => if s.mayStart b.cog e then some (.mUnitStart b.cog) else none

/-- The front door admits a request, or a group may be served. -/
def State.doorDue (s : State) : Option Instr :=
  if s.fd.admits.isSome then some .admission
  else
    match s.fd.conf with
    | none => none
    | some c => ((List.range c.ngroup).find? s.injectDue).map .stepInject

/-- A freewheel goes on, an image is activated, TIME is disciplined, a hub is silent. -/
def State.hubDue (s : State) : Option Instr :=
  if s.quietDue then some .freewheelQuiet
  else if s.limitPassed then some .freewheelTimeLimit
  else if s.activateDue && s.boot.image.isSome then some .imageActivate
  else if s.holdoverDue then some .holdoverTimeout
  else
    match if s.syncDue then s.childPorts else [], s.hub.polls.find? fun e => s.hubLate e.1 with
    | p :: _, _ => some (.timeExchange p)
    | [], some e => some (.hubSilent e.1)
    | [], none => none

/-- A chain port has been silent too long, or a link has to send a beat (R341, R368). -/
def State.portDue (s : State) : Option Instr :=
  (List.finRange 32).findSome? fun p =>
    let q := s.ports[p]
    if q.neighbour.isNone then none
    else if s.portSilent p then some (.portDead p)
    else ((List.finRange 4).find? fun l =>
      let x := q.links[l]
      x.up && x.txq.isEmpty && x.lastTx + 8192 ≤ s.clk).map (.livenessBeat p)

/-- The meaning of a command code. -/
def commandOf (opc : Nat) (mb : MBox) : Option Instr :=
  match opc with
  | 0x01 => some (.fdconf mb)
  | 0x02 => some (.vocab mb)
  | 0x03 => some (.arenas mb)
  | 0x04 => some (.freewheel mb)
  | 0x05 => some (.resume mb)
  | 0x06 => some (.reactivate mb)
  | 0x07 => some (.attest mb)
  | 0x08 => some (.powercap mb)
  | 0x09 => some (.keyslot mb)
  | 0x0A => some (.bootsrc mb)
  | 0x0B => some (.rollback mb)
  | _ => none

/-- The command at the head of the queue runs unless it waits (R392). -/
def State.commandDue (s : State) : Option Instr :=
  match s.hub.queue with
  | [] => none
  | c :: _ => if s.commandWaits c then none else commandOf c.opc c.mb

/-- A free core may be given to a bank (R41). -/
def State.handoverDue (s : State) (b : BankIx) : Option Instr :=
  let x := s.cog b.cog
  if x.holder.isNone && !x.failed && (s.choose b.cog).isSome then some (.coreHandover b.cog) else none

/-- A pass of the background scrub over a cog's stacked SRAM is due or under way (R111): its next line, of those that hold
an error, or a last one. -/
def State.scrubDue (s : State) : Option Instr :=
  (allCogs.find? fun c => (s.cog c).scrubDue ≤ s.clk).map fun c =>
    .scrub c ((s.scrubLine c).getD (physAddr c.val true 0 / 64))

/-- The next event of the package itself that is due in this cycle, the core's handover last. -/
def State.eventDue (s : State) (live : List BankIx) : Option Instr :=
  s.firingDue live <|> live.findSome? s.bankDue <|> s.copyDue <|> live.findSome? s.unitDue <|> s.doorDue <|>
  s.hubDue <|> s.portDue <|> s.scrubDue <|> s.commandDue <|> live.findSome? s.handoverDue

/-- The running bank of the lowest-numbered cog whose next bundle is due. -/
def State.issuing (s : State) (live : List BankIx) : Option BankIx :=
  live.find? fun b => s.holds b && (s.bank b).mode = .running && (s.bank b).nextIssue ≤ s.clk

/-- The first bank whose STAGE.END goes on in this cycle (R207). -/
def State.commitDue (s : State) (live : List BankIx) : Option BankIx := live.find? fun b => (s.stageEndStep b).isSome

/-- The first scheduled event whose cycle has come, and the agenda without it. -/
def takeDue (clk : Nat) : List (Nat × Instr) → Option (Instr × List (Nat × Instr))
  | [] => none
  | e :: r => if e.1 ≤ clk then some (e.2, r) else (takeDue clk r).map fun x => (x.1, e :: x.2)

/-! ## Rails (R396, R397, R401) -/

/-- The hub and the cogs run. -/
def State.powered (s : State) : Bool := s.hub.railsOn && s.hub.running.isSome

/-- The events that the management domain answers by itself (R395, R396). -/
def mgmtEvent : Instr → Bool
  | .hubMessage _ (.capEffecter _) | .pldmSensorRead _ | .packageIdEffecter _ | .pldmFirmwareUpdate _ | .coldReset
  | .warmReset => true
  | _ => false

/-- An event from outside is taken: one of the package's own steps, and without power one of the management domain's. -/
def State.accepts (s : State) (i : Instr) : Bool := i.unit.isNone && (s.powered || mgmtEvent i)

/-! ## One step -/

/-- One step of the package. -/
def State.stepWith (ex : Exec) (s : State) : Host.Outcome State Fault Refusal :=
  match s.inbox with
  | i :: r =>
    let t := { s with inbox := r }
    if s.accepts i then ex i t else .next t
  | [] =>
    if !s.powered then ex .timeAdvance s
    else
      match takeDue s.clk s.agenda with
      | some (i, r) => ex i { s with agenda := r }
      | none =>
        let live := s.liveBanks
        match s.eventDue live with
        | some i => ex i s
        | none =>
          match s.issuing live, s.commitDue live with
          | some b, _ => s.issueBundle ex b
          | none, some b => ex (.commit b) s
          | none, none => ex .timeAdvance s

end Sys2Proof.Machine
end

