-- ==== Sys2Proof/Machine/Step.lean ====
section
/-! DEFINITION. One step of the package, and the placing of an instruction where the next step fetches it. -/

namespace Sys2Proof.Machine

/-- One step of the package (Schedule.lean says which). -/
def step (s : State) : Host.Outcome State Fault Refusal := s.stepWith exec

/-- A near window over a cog's first 2^16 bytes, valid, readable, writable and executable (R87). -/
def fetchWindow : Win := { w0 := 0, w1 := 0x10000, w2 := 0, w3 := 15 }

/-- The package with one syllable at program address 0 of bank 0 of cog 0, which holds its core and issues next; the
word's END bit is set, so that the bundle ends with it (notes/assumptions/4.md: what stands in for loading a program). -/
def State.withFetchWord (s : State) (nbits w : Nat) : State :=
  let word := w % 2 ^ nbits % 2 ^ 63 + 2 ^ 63
  let b := s.bank 0
  let b := { b with active := true, live := true, mode := .running, pc := 0, nextIssue := 0, xBusy := 0, pend := {}, busy := [],
                    budgetDone := true, handlerAt := none, windows := b.windows.set 0 fetchWindow }
  let s := (s.setBank 0 b).store (physAddr 0 false 0) (bytesOf 8 word) false
  let s := s.modCog 0 fun c => { c with holder := some false, heldFrom := 0 }
  { s with inbox := [], agenda := [], evalNext := 640 }

end Sys2Proof.Machine
end

