-- ==== Sys2Proof/Safety.lean ====
section
/-! DEFINITION. What the statements say of a state and a step: the invariant of the memory, a step that runs, a syllable's
result in flight, and the shapes in which results of many instructions are stated. -/

namespace Sys2Proof.Machine

/-! ## States -/

/-- The memory list is in its canonical form. -/
def State.Inv (s : State) : Prop := Memory.wf s.mem = true

/-- A step of the package answers a next state. -/
def State.Runs (s : State) : Prop := ∃ t, step s = .next t

/-! ## Results (R156, R188) -/

/-- A syllable went through and left its bundle going on. -/
def State.on (s : State) : State := { s with stop := none }

/-- The state with a result in flight for the current bank, to be written L cycles on, and nothing else changed. -/
def State.wrote (s : State) (L : Nat) (res : List Res) (cs : Causes := {}) : State := (s.result L res cs).on

/-- The state with an M instruction in the queue of the current bank's cog. -/
def State.queued (s : State) (e : MEntry) : State := (s.enqueue e).on

/-- An M instruction whose sources are read joins the queue once its sources in host memory, asked for one after another,
have been read; what an ask gives otherwise stops the bundle (R292, R390). -/
def State.QueuesRead (s v : State) (o : Host.Outcome State Fault Refusal) (e : MEntry) : Prop :=
  (∀ l, v.hostReads e = .ok l → o = .next (v.queued { e with given := l })) ∧
  (∀ x, v.hostReads e = .error x → o = .next { s.halt x with stop := some x }) ∧
  ((∀ g ∈ e.segs, g.host = false) → o = .next (v.queued e))

/-- The state in which the syllable's bundle is stopped. -/
def State.stopped (s : State) (e : Stop) : State := { s.halt e with stop := some e }

/-- The state in which the syllable's bundle is stopped by a trap. -/
def State.trapped (s : State) (t : Trap) : State := s.stopped (.trap t)

/-- An instruction of one scalar source whose result f gives, L cycles after its issue. -/
def Unary (mk : SOp → SOp → Instr) (L : Nat) (f : Word → Word) : Prop :=
  ∀ (s : State) (d a : SOp) (x : Word), s.rdA a = .ok x → exec (mk d a) s = .next (s.wrote L [s.dA d (f x)])

/-- An instruction of two scalar sources whose result f gives, L cycles after its issue. -/
def Binary (mk : SOp → SOp → SOp → Instr) (L : Nat) (f : Word → Word → Word) : Prop :=
  ∀ (s : State) (d a b : SOp) (x y : Word), s.rdA a = .ok x → s.rdA b = .ok y →
    exec (mk d a b) s = .next (s.wrote L [s.dA d (f x y)])

/-- A vector result of elements of w bits that f gives, under the mask, with the causes they raise. -/
def State.lanes (s : State) (L w : Nat) (d : VReg) (m : VMask) (f : Nat → Nat × Causes) : State :=
  s.wrote L [s.dV d (vecMap w (s.rdMask m) f).1 (elemMask w (s.rdMask m))] (vecMap w (s.rdMask m) f).2

/-- An instruction of one vector source whose active elements f gives, L cycles after its issue. -/
def Lanes1 (mk : VReg → VReg → VMask → Instr) (L : Nat) (t : EType) (f : Nat → Nat × Causes) : Prop :=
  ∀ (s : State) (d a : VReg) (m : VMask) (x : Vec), s.rdV a = .ok x →
    exec (mk d a m) s = .next (s.lanes L t.width d m fun i => f (lane t.width x i))

/-- An instruction of two vector sources whose active elements f gives, L cycles after its issue. -/
def Lanes2 (mk : VReg → VReg → VReg → VMask → Instr) (L : Nat) (t : EType) (f : Nat → Nat → Nat × Causes) : Prop :=
  ∀ (s : State) (d a b : VReg) (m : VMask) (x y : Vec), s.rdV a = .ok x → s.rdV b = .ok y →
    exec (mk d a b m) s = .next (s.lanes L t.width d m fun i => f (lane t.width x i) (lane t.width y i))

/-- An instruction of three vector sources whose active elements f gives, L cycles after its issue. -/
def Lanes3 (mk : VReg → VReg → VReg → VReg → VMask → Instr) (L : Nat) (t : EType)
    (f : Nat → Nat → Nat → Nat × Causes) : Prop :=
  ∀ (s : State) (d a b c : VReg) (m : VMask) (x y z : Vec), s.rdV a = .ok x → s.rdV b = .ok y → s.rdV c = .ok z →
    exec (mk d a b c m) s =
      .next (s.lanes L t.width d m fun i => f (lane t.width x i) (lane t.width y i) (lane t.width z i))

/-- The exact sum of two finite values, rounded once to a format; a zero sum has the sign of R60. -/
def finiteSum (t : EType) (rm : RMode) (n : Bool) (m : Nat) (e : Int) (n' : Bool) (m' : Nat) (e' : Int) : Nat × Causes :=
  let q := min e e'
  let z := signedAt n m e q + signedAt n' m' e' q
  encodeF t rm (.num (if z = 0 then (if m = 0 ∧ m' = 0 ∧ n = n' then n else decide (rm = .rdn)) else decide (z < 0)) z.natAbs q)

/-- The integer magnitude k that m * 2^e, of sign n, rounds to in a direction (R59). -/
def RoundsTo (rm : RMode) (n : Bool) (m : Nat) (e : Int) (k : Nat) : Prop :=
  (0 ≤ e → k = m * 2 ^ e.toNat) ∧
  (e < 0 → let h := 2 ^ (-e).toNat
    match rm with
    | .rtz => k * h ≤ m ∧ m < (k + 1) * h
    | .rdn => if n then m ≤ k * h ∧ k * h < m + h else k * h ≤ m ∧ m < (k + 1) * h
    | .rup => if n then k * h ≤ m ∧ m < (k + 1) * h else m ≤ k * h ∧ k * h < m + h
    | .rne => 2 * m ≤ (2 * k + 1) * h ∧ 2 * k * h ≤ 2 * m + h ∧
        ((2 * m = (2 * k + 1) * h ∨ 2 * k * h = 2 * m + h) → k % 2 = 0))

/-- m * 2^e is the integer k. -/
def IsInteger (m : Nat) (e : Int) (k : Nat) : Prop := 0 ≤ e ∨ k * 2 ^ (-e).toNat = m

/-- The value of a pattern of a floating format of f fraction bits, w exponent bits and a bias (R54, R55, R58). -/
def FormatValue (t : EType) (f w : Nat) (bias : Int) : Prop :=
  ∀ (n : Bool) (ex fr : Nat), ex < 2 ^ w → fr < 2 ^ f →
    let v := decodeF t (n.toNat * 2 ^ (f + w) + ex * 2 ^ f + fr)
    if ex = 2 ^ w - 1 ∧ (t = .fp32 ∨ t = .bf16 ∨ t = .fp8e5) then
      v = if fr = 0 then .inf n else .nan (decide (t ≠ .fp8e5 ∧ fr < 2 ^ (f - 1)))
    else if t = .fp8e4 ∧ ex = 15 ∧ fr = 7 then v = .nan false
    else if ex = 0 then v = .num n fr (1 - bias - f)
    else v = .num n (2 ^ f + fr) (ex - bias - f)

/-- The one rounding of a finite value that is not zero. Between two neighbouring magnitudes of the format it gives the one
that the mode names, of a tie under .RNE the one with an even pattern, and raises inexact; beyond the greatest it is
rounded as if a further magnitude stood one step above, and where it does not come back it overflows or saturates (R59,
R60, R66). -/
def Rounding (t : EType) (rm : RMode) : Prop :=
  ∀ (n : Bool) (m : Nat) (e q : Int), m ≠ 0 → q ≤ e → q ≤ 1 - expBias t - fracBits t →
    let v : Int := signedAt false m e q
    let mag (c : Nat) : Int := match decodeF t c with
      | .num _ k x => signedAt false k x q
      | _ => 0
    let r := encodeF t rm (.num n m e)
    let up (lo hi : Int) (odd : Prop) : Prop := match rm with
      | .rne => lo + hi < 2 * v ∨ (lo + hi = 2 * v ∧ odd)
      | .rtz => False
      | .rdn => n = true
      | .rup => n = false
    let top := maxFinite t
    let next := 2 * mag top - mag (top - 1)
    (∀ c, c < top → mag c ≤ v → v < mag (c + 1) →
      (mag c = v → r = (withSign t n c, {})) ∧
      (mag c < v → up (mag c) (mag (c + 1)) (c % 2 = 1) → r = (withSign t n (c + 1), { inx := 1 })) ∧
      (mag c < v → ¬ up (mag c) (mag (c + 1)) (c % 2 = 1) → r = (withSign t n c, { inx := 1 }))) ∧
    (v = mag top → r = (withSign t n top, {})) ∧
    (mag top < v → v < next → ¬ up (mag top) next (top % 2 = 1) → r = (withSign t n top, { inx := 1 })) ∧
    (mag top < v → next ≤ v ∨ up (mag top) next (top % 2 = 1) → r =
      if t = .fp8e4 ∨ t = .mxfp4 then (withSign t n top, { sat := 1, inx := 1 })
      else (withSign t n (match rm with
        | .rne => infBits t
        | .rtz => top
        | .rdn => if n then infBits t else top
        | .rup => if n then top else infBits t), { ovf := 1, inx := 1 }))

/-- The order of values that are not NaN: by value, with -0 below +0 (R263). -/
def FLess : FVal → FVal → Prop
  | .inf true, .inf p => p = false
  | .inf true, _ => True
  | .inf false, _ => False
  | .num .., .inf p => p = false
  | .num n m e, .num n' m' e' =>
    let q := min e e'
    signedAt n m e q < signedAt n' m' e' q ∨ (m = 0 ∧ m' = 0 ∧ n = true ∧ n' = false)
  | _, _ => False

/-- A seed's exponent and index bits: the unbiased exponent and the fraction of a finite non-zero fp32 value, a subnormal one
normalised (R78). -/
def SeedParts (m : Nat) (e ex : Int) (fr : Nat) : Prop :=
  ∃ l : Nat, 2 ^ l ≤ m ∧ m < 2 ^ (l + 1) ∧ l ≤ 23 ∧ ex = e + l ∧ fr = m * 2 ^ (23 - l) - 2 ^ 23

/-- The seeds: the special operands, and for every other one the entry nearest the midpoint value, at the exponent of the
rule; a reciprocal beyond the range overflows (R78, R79). -/
def Seeds : Prop :=
  ∀ (a : Nat) (n : Bool) (m : Nat) (e ex : Int) (fr : Nat),
    let x := decodeF .fp32 a
    let nan (sig : Bool) : Nat × Causes := (0x7FC00000, if sig then invalid else {})
    let neg (n : Bool) : Nat := if n then 0x80000000 else 0
    (∀ sig, x = .nan sig → rcpe a = nan sig ∧ rsqe a = nan sig) ∧
    (x = .inf n → rcpe a = (neg n, {}) ∧ rsqe a = if n then nan true else (0, {})) ∧
    (x = .num n 0 e → rcpe a = (neg n + 0x7F800000, {}) ∧ rsqe a = (neg n + 0x7F800000, {})) ∧
    (x = .num n m e → m ≠ 0 → SeedParts m e ex fr →
      (127 < -ex - 1 → rcpe a = (neg n + 0x7F800000, { ovf := 1 })) ∧
      (-ex - 1 ≤ 127 → ∃ k : Nat, let d := 513 + 2 * (fr / 2 ^ 15)
        let v := 4096 * (511 - 2 * (fr / 2 ^ 15))
        2 * v ≤ (2 * k + 1) * d ∧ 2 * k * d ≤ 2 * v + d ∧
          rcpe a = ((encodeF .fp32 .rne (.num n (4096 + k) (-ex - 1 - 12))).1, {})) ∧
      (n = true → rsqe a = nan true) ∧
      (n = false → ∃ k : Nat, let p := (ex % 2).toNat
        let d := (257 + 2 * (fr / 2 ^ 16)) * 2 ^ p
        (2 * (4096 + k) - 1) * (2 * (4096 + k) - 1) * d ≤ 2 ^ 36 ∧ 2 ^ 36 ≤ (2 * (4096 + k) + 1) * (2 * (4096 + k) + 1) * d ∧
          rsqe a = ((encodeF .fp32 .rne (.num false (4096 + k) (-((ex - p) / 2) - 1 - 12))).1, {})))

/-- The special operands of VEXP2, VLOG2, VSIN, VCOS and VTANH, the exact powers and logarithms of two, and the overflow of
VEXP2 (R81, R82). -/
def SpecialOperands : Prop :=
  (∀ a : Nat, let x := decodeF .fp32 a
    let nan (sig : Bool) : Nat × Causes := (0x7FC00000, if sig then invalid else {})
    let one (n : Bool) : Nat × Causes := (if n then 0xBF800000 else 0x3F800000, {})
    let inf (n : Bool) : Nat × Causes := (if n then 0xFF800000 else 0x7F800000, {})
    (∀ sig, x = .nan sig →
      exp2F a = nan sig ∧ log2F a = nan sig ∧ sinF a = nan sig ∧ cosF a = nan sig ∧ tanhF a = nan sig) ∧
    (∀ n, x = .inf n → exp2F a = (if n then (0, {}) else inf false) ∧ log2F a = (if n then nan true else inf false) ∧
      sinF a = nan true ∧ cosF a = nan true ∧ tanhF a = one n) ∧
    (∀ n e, x = .num n 0 e → exp2F a = one false ∧ log2F a = inf true ∧ sinF a = (a, {}) ∧ cosF a = one false ∧
      tanhF a = (a, {})) ∧
    (∀ m e, m ≠ 0 → x = .num true m e → log2F a = nan true) ∧
    (∀ m e, x = .num false m e → 128 * 2 ^ (-e).toNat ≤ m * 2 ^ e.toNat → exp2F a = (0x7F800000, { ovf := 1, inx := 1 }))) ∧
  (∀ k : Int, -149 ≤ k → k ≤ 127 →
    let whole := (encodeF .fp32 .rne (.num (decide (k < 0)) k.natAbs 0)).1
    let power := (encodeF .fp32 .rne (.num false 1 k)).1
    exp2F whole = (power, {}) ∧ log2F power = (whole, {}))

/-- An element operation that raises no cause. -/
def pure1 (f : Nat → Nat) (x : Nat) : Nat × Causes := (f x, {})

/-- An instruction of one vector source that moves elements: element i of the result is f of the source and i. -/
def Moves1 (mk : VReg → VReg → VMask → Instr) (t : EType) (f : Vec → Nat → Nat) : Prop :=
  ∀ (s : State) (d a : VReg) (m : VMask) (x : Vec), s.rdV a = .ok x →
    exec (mk d a m) s = .next (s.lanes 2 t.width d m fun i => (f x i, {}))

/-- An instruction of two vector sources that moves elements. -/
def Moves2 (mk : VReg → VReg → VReg → VMask → Instr) (t : EType) (f : Vec → Vec → Nat → Nat) : Prop :=
  ∀ (s : State) (d a b : VReg) (m : VMask) (x y : Vec), s.rdV a = .ok x → s.rdV b = .ok y →
    exec (mk d a b m) s = .next (s.lanes 2 t.width d m fun i => (f x y i, {}))

/-! ## Frames -/

/-- The register or place a result is written to, without its value. -/
def Res.place : Res → Res
  | .s n _ => .s n 0
  | .p n _ => .p n false
  | .v n _ _ => .v n 0 0
  | .q n _ _ => .q n 0 0
  | .c n _ => .c n 0
  | .cv n _ _ => .cv n 0 0
  | .k n _ => .k n 0
  | .g n _ => .g n Iter.reset
  | .h n _ => .h n 0
  | .win o n _ => .win o n Win.reset
  | .csr n _ => .csr n 0

/-- The register files of a bank, its flags, counters and special registers. -/
structure Regs where
  s : Vector Word 64
  p : Vector Bool 128
  v : Vector Vec 64
  q : Vector Mask 16
  t : Vector Tile 4
  k : Vector F32 16
  g : Vector Iter 16
  h : Vector (BitVec 128) 4
  c : Vector Word 32
  cWork : Vector Word 32
  cv : Vector Vec 8
  cvWork : Vector Vec 8
  rot : BitVec 5 × BitVec 5 × BitVec 6
  flags : BitVec 5 × Vector Word 5
  csr : List Word
  windows : Vector Win 64
deriving DecidableEq, Repr

/-- The registers of a bank. -/
def Bank.regs (b : Bank) : Regs :=
  { s := b.s, p := b.p, v := b.v, q := b.q, t := b.t, k := b.k, g := b.g, h := b.h, c := b.c, cWork := b.cWork,
    cv := b.cv, cvWork := b.cvWork, rot := (b.rotS, b.rotV, b.rotP), flags := (b.arflags, b.arcnt),
    csr := [b.asidcur.setWidth 64, if b.memdbg then 1 else 0, b.rstpt, b.tvec, b.tcause, b.tepc, b.tval, b.tscr0,
      b.tscr1], windows := b.windows }

/-- Nothing but the pc, the time of the next issue, the mode and the results in flight has changed in any bank, and
nothing at all in the memory, the hub, the chain ports, the front door and the accesses under way. -/
def SameButIssue (s t : State) : Prop :=
  (∀ b, (t.bank b).regs = (s.bank b).regs) ∧ (∀ b, b ≠ s.cur → t.bank b = s.bank b) ∧ t.mem = s.mem ∧
    t.poison = s.poison ∧ t.accesses = s.accesses ∧ t.copies = s.copies ∧ t.hub = s.hub ∧ t.ports = s.ports ∧
    t.fd = s.fd ∧ t.ptroot = s.ptroot ∧ t.time = s.time

/-! ## Accesses and requests (R104, R225) -/

/-- R104 finds nothing wrong with a load or a store, whose parts are gs; LD, ST, LDP and STP take paths 0x0 to 0x2 and 0x7,
LDG and STG paths 0x3 to 0x6. -/
def State.Grants (s : State) (k : AKind) (glob : Bool) (a : Word) (n : Nat) (gs : List Seg) : Prop :=
  checkAddr s.me.hmode k a n n = .ok () ∧ pathFits glob a = true ∧
    (if k = .load then s.xlateLoad k a n else s.xlate s.ctx k a n) = .ok gs

/-! ## Where an access stops (R84 to R96, R103, R104, R107) -/

/-- R84: an access of n bytes has an address error, from its path, the other 60 bits of its address, and whether a trap
handler runs in the bank. -/
def BadAddress (handler : Bool) (path x n : Nat) : Prop :=
  (path = 0 ∧ 0x200000 < x + n) ∨ (path = 1 ∧ 0x1200000 < x + n) ∨
  (path = 2 ∧ (319 < x / 2 ^ 51 ∨ (if x / 2 ^ 50 % 2 = 1 then 0x1200000 else 0x200000) < x % 2 ^ 50 + n)) ∨
  (3 ≤ path ∧ path ≤ 6 ∧ 2 ^ 52 < x + n) ∨
  (path = 7 ∧ ((319 < x / 2 ^ 51 ∧ x / 2 ^ 51 ≠ 0x1FF) ∨ 2 ^ 16 ≤ x % 2 ^ 51 ∨ handler = false ∨ n ≠ 8)) ∨ 7 < path

/-- The syllable's bundle is stopped by a trap with the access's address. -/
def State.Traps (s : State) (o : Host.Outcome State Fault Refusal) (cause : Nat) (a : Word) : Prop :=
  o = .next (s.trapped { cause := cause, val := a })

/-- Items 8 and 9 of R104 for a place that a load reads. In this package a poisoned line, or a codeword past correction, is
data poison, and with MEMDBG.PEND a pending word traps; another package is asked for both; the host's own memory is read
first, and a read that fails is the global access error (R103, R107, R111, R112, R390). -/
def State.LoadMeets (s : State) (o : Host.Outcome State Fault Refusal) (a : Word) (g : Seg) : Prop :=
  let bad : Prop := (s.runsRead g).any s.badRun = true ∨ s.unpackBad g = true
  (s.here g = true → g.addr < devBase →
    (bad → o = .next (s.trapped { cause := 0x18, val := a, reads := s.runsRead g })) ∧
    (g.view = .plain → poisoned s g.addr g.len = true ∨ (∃ e ∈ s.ecc, 2 ≤ e.bits ∧ e.meets g.addr g.len = true) →
      o = .next (s.trapped { cause := 0x18, val := a, reads := [(g.addr, g.len)] })) ∧
    (¬ bad → s.me.memdbg = true → 0 < g.len → physStk g.addr = false →
      ∀ x ∈ s.accesses, ∀ hs bs psn, GOp.store hs bs psn ∈ x.todo → ∀ h ∈ hs, s.here h = true → 0 < h.len →
        h.addr / 8 ≤ (g.addr + g.len - 1) / 8 → g.addr / 8 ≤ (h.addr + h.len - 1) / 8 → s.Traps o 0x19 a)) ∧
  (s.here g = false → g.host = false →
    (s.me.pre.find? (fun x => x.op = .probe [g] && x.done) = none →
      o = .next (s.stopped (.ask .load (.probe [g]) a []))) ∧
    (∀ x, s.me.pre.find? (fun x => x.op = .probe [g] && x.done) = some x → (x.psn = true → s.Traps o 0x18 a) ∧
      (x.psn = false → s.me.memdbg = true → x.lost = true → s.Traps o 0x19 a))) ∧
  (g.host = true →
    (s.me.pre.find? (fun x => x.op = .load [g] && x.done) = none →
      o = .next (s.stopped (.ask .load (.load [g]) a (s.after { kind := .load, addr := a } [g])))) ∧
    (∀ x, s.me.pre.find? (fun x => x.op = .load [g] && x.done) = some x →
      (x.fail = true → o = .next (s.trapped { cause := 0x1A, sub := Config.hostCause.toNat, val := a })) ∧
      (x.fail = false → x.lost = true → s.Traps o 0x18 a)))

/-- An entry of the window table is valid and holds n bytes at a (R88). -/
def Win.Holds (w : Win) (a : Word) (n : Nat) : Prop :=
  w.w3.getLsbD 0 = true ∧ w.w0.toNat ≤ a.toNat ∧ a.toNat + n ≤ w.w0.toNat + w.w1.toNat % 2 ^ 25

/-- An entry lets a load, a store or an atomic through: RD to read, WR to write, both for an atomic (R89). -/
def Win.lets (w : Win) (k : AKind) : Bool := (k = .store || w.w3.getLsbD 1) && (k = .load || w.w3.getLsbD 2)

/-- Where a load, store or atomic of n bytes on paths 0x0 to 0x2 stops. The lowest-numbered valid entry that holds all its
bytes gives the place; none is the window fault, one without RD or WR the permission fault; a region in retention is answered
by the hub and one in transition waits (R87 to R89, R103, R104, R113). -/
def State.LocalStops (s : State) (k : AKind) (a : Word) (n : Nat) (o : Host.Outcome State Fault Refusal) : Prop :=
  ((∀ i : Fin 64, ¬ (s.me.windows[i]).Holds a n) → s.Traps o 0x10 a) ∧
  ∀ i : Fin 64, let w := s.me.windows[i]
    w.Holds a n → (∀ j < i, ¬ (s.me.windows[j]).Holds a n) →
    (w.lets k = false → s.Traps o 0x11 a) ∧
    (w.lets k = true →
      let off := w.w2.toNat % 2 ^ 25 + (a.toNat - w.w0.toNat)
      let p := match w.w0.toNat / 2 ^ 60 with
        | 0 => physAddr s.cur.cog.val false off
        | 1 => physAddr s.cur.cog.val true off
        | _ => physAddr (w.w2.toNat / 2 ^ 51 % 512) (w.w2.toNat.testBit 50) off
      let g : Seg := { pkg := s.hub.pkg.toNat, host := false, addr := p, len := n, cls := ordOf w.w3, view := .plain }
      (s.retState p = .retained → o = .next (s.stopped (.hub 0x33 0 (BitVec.ofNat 52 p) none a))) ∧
      (s.retState p = .entering ∨ s.retState p = .exiting → o = .next (s.stopped .stall)) ∧
      (s.retState p = .active → s.retState (p + n - 1) = .active →
        s.xlate s.ctx k a n = .ok [g] ∧ (k = .load → s.LoadMeets o a g)))

/-- An access of n bytes at a, of an M instruction or of one element, traps before its place is sought: the address error
before alignment before the path (R84 to R86, R104, R292). -/
def State.RowStops (s : State) (o : Host.Outcome State Fault Refusal) (a : Word) (n align src : Nat) (far : Nat → Prop) :
    Prop :=
  let path := a.toNat / 2 ^ 60
  let bad : Prop := BadAddress s.me.hmode path (a.toNat % 2 ^ 60) n
  let trap (cause : Nat) : Prop := o = .next (s.trapped { cause := cause, val := a, src := src })
  (bad → trap 0x14) ∧ (¬ bad → a.toNat % align ≠ 0 → trap 0x15) ∧ (¬ bad → a.toNat % align = 0 → far path → trap 0x16)

/-- The bank's TLB holds a translation of an offset, or the walk that it has waited for finds it (R92, R323). -/
def State.Translates (s : State) (off : Nat) (e : TlbEntry) : Prop :=
  s.tlbFind s.cur.cog s.me.asidcur off = some e ∨
  (s.tlbFind s.cur.cog s.me.asidcur off = none ∧ s.ctx.walked = some (s.me.asidcur, off / 65536) ∧
    (∀ x ∈ s.walked s.me.asidcur off, s.retState x = .active) ∧ s.walk s.me.asidcur off = .leaf e)

/-- A load of n bytes that takes paths 0x0 to 0x2 only stops there (R104). -/
def State.NearStops (s : State) (a : Word) (n : Nat) (o : Host.Outcome State Fault Refusal) : Prop :=
  let path := a.toNat / 2 ^ 60
  s.RowStops o a n n 0 (2 < ·) ∧
  (¬ BadAddress s.me.hmode path (a.toNat % 2 ^ 60) n → a.toNat % n = 0 → path ≤ 2 → s.LocalStops .load a n o)

/-- The active runs of a vector access at a trap before their places are sought, but for the window: the span from the first
to the last active byte decides the address error and, on paths 0x0 to 0x2, the window and its permission; the address is
aligned to 64 bytes (R84 to R86, R89, R104, R285). -/
def State.SpanStops (s : State) (o : Host.Outcome State Fault Refusal) (k : AKind) (a : Word) (runs : List (Nat × Nat))
    (far : Nat → Prop) : Prop :=
  ∀ lo m l n, runs.head? = some (lo, m) → runs.getLast? = some (l, n) →
    let b := a + BitVec.ofNat 64 lo
    let path := a.toNat / 2 ^ 60
    let bad : Prop := path = 7 ∨ b.toNat / 2 ^ 60 ≠ path ∨ BadAddress s.me.hmode path (b.toNat % 2 ^ 60) (l + n - lo)
    (bad → s.Traps o 0x14 a) ∧ (¬ bad → a.toNat % 64 ≠ 0 → s.Traps o 0x15 a) ∧
    (¬ bad → a.toNat % 64 = 0 → (far path → s.Traps o 0x16 a) ∧
      (path ≤ 2 →
        ((∀ i : Fin 64, ¬ (s.me.windows[i]).Holds b (l + n - lo)) → s.Traps o 0x10 b) ∧
        ∀ i : Fin 64, (s.me.windows[i]).Holds b (l + n - lo) → (∀ j < i, ¬ (s.me.windows[j]).Holds b (l + n - lo)) →
          (s.me.windows[i]).lets k = false → s.Traps o 0x11 b))

/-- Where a load, store or atomic of n bytes on paths 0x3 to 0x6, within one granule, stops: a miss of the TLB walks; a
walk without a leaf, and a write to a page that denies it, are answered by the hub; CMP, TGT and GS may refuse the path;
PSN = 1 is data poison; a host that is off is the global access error (R85, R92, R96, R99, R103, R104, R115, R137,
R390). -/
def State.GlobalStops (s : State) (k : AKind) (a : Word) (n : Nat) (o : Host.Outcome State Fault Refusal) : Prop :=
  let off := a.toNat % 2 ^ 52
  let asid := s.me.asidcur
  let missed : Prop := s.tlbFind s.cur.cog asid off = none
  let done : Prop := s.ctx.walked = some (asid, off / 65536)
  let hub (cause : Nat) (owner : Option Nat) : Prop :=
    o = .next (s.stopped (.hub cause asid (BitVec.ofNat 52 off) owner a))
  (missed → ¬ done → o = .next (s.stopped (.walk asid (BitVec.ofNat 52 off)))) ∧
  (missed → done → (∀ x ∈ s.walked asid off, s.retState x = .active) →
    (s.walk asid off = .notPresent → hub 0x30 none) ∧ (s.walk asid off = .malformed → hub 0x32 none)) ∧
  ∀ e, s.Translates off e →
    let bit (i : Nat) : Bool := e.w1.getLsbD i
    let path := a.toNat / 2 ^ 60
    let cmp := e.w1.toNat / 2 ^ 15 % 4
    let refused : Prop := (path = 3 ∧ cmp ≠ 0) ∨ (path = 5 ∧ cmp = 0) ∨ (path = 4 ∧ bit 3 = false) ∨
      (k ≠ .load ∧ bit 17 = true)
    let denied : Prop := k ≠ .load ∧ (bit 4 = false ∨ bit 14 = true)
    (refused → s.Traps o 0x16 a) ∧
    (¬ refused → denied → hub 0x31 (if bit 14 && bit 4 then some (e.w1.toNat / 2 ^ 20 % 4096) else none)) ∧
    (¬ refused → ¬ denied →
      (bit 18 = true → o = .next (s.trapped { cause := 0x18, val := a, psn := some (e.place off) })) ∧
      (bit 18 = false →
        let (pkg, host, x) := e.target off
        let g : Seg := { pkg := pkg, host := host, addr := x, len := n, cls := ordOf e.w1,
                         view := if bit 17 then .groupset else if path = 5 then .packed else .plain }
        (host = true → (s.hub.busMaster && s.hub.hostUp) = false →
          o = .next (s.trapped { cause := 0x1A, sub := Config.hostCause.toNat, val := a })) ∧
        (s.here g = true → g.view ≠ .groupset →
          (s.retState x = .retained → o = .next (s.stopped (.hub 0x33 0 (BitVec.ofNat 52 x) none a))) ∧
          (s.retState x = .entering ∨ s.retState x = .exiting → o = .next (s.stopped .stall))) ∧
        (k = .load → (host = true → (s.hub.busMaster && s.hub.hostUp) = true) →
          (s.here g = true → s.checkRets a g = .ok ()) → s.LoadMeets o a g)))

/-- Where a load or store of n bytes stops: the address error before alignment before the path, then what its path meets
(R84 to R86, R104, R215, R226). -/
def State.AccessStops (s : State) (k : AKind) (glob : Bool) (a : Word) (n : Nat) (o : Host.Outcome State Fault Refusal) :
    Prop :=
  let path := a.toNat / 2 ^ 60
  let bad : Prop := BadAddress s.me.hmode path (a.toNat % 2 ^ 60) n
  let mine : Prop := (if glob then 3 ≤ path ∧ path ≤ 6 else path ≤ 2 ∨ path = 7) ∧ (k = .store → path ≠ 5)
  (bad → s.Traps o 0x14 a) ∧ (¬ bad → a.toNat % n ≠ 0 → s.Traps o 0x15 a) ∧
  (¬ bad → a.toNat % n = 0 → (¬ mine → s.Traps o 0x16 a) ∧ (mine → path ≤ 2 → s.LocalStops k a n o) ∧
    (mine → 3 ≤ path → path ≤ 6 → s.GlobalStops k a n o))

/-- Where an atomic of n bytes stops: the faults of R104 in its order, a path that it does not take among them, and the data
poison of a line that it reads (R84 to R86, R104, R112, R228, R230). -/
def State.AtomicStops (s : State) (op : AtomicOp) (a : Word) (n : Nat) (o : Host.Outcome State Fault Refusal) : Prop :=
  let path := a.toNat / 2 ^ 60
  let bad : Prop := BadAddress s.me.hmode path (a.toNat % 2 ^ 60) n
  let mine : Prop := path ≤ 3 ∨ (path = 4 ∧ (op = .add ∨ op = .swap ∨ op = .cas))
  (bad → s.Traps o 0x14 a) ∧ (¬ bad → a.toNat % n ≠ 0 → s.Traps o 0x15 a) ∧
  (¬ bad → a.toNat % n = 0 → (¬ mine → s.Traps o 0x16 a) ∧ (mine → path ≤ 2 → s.LocalStops (.atomic op) a n o) ∧
    (mine → 3 ≤ path → s.GlobalStops (.atomic op) a n o)) ∧
  ∀ g, s.access s.ctx (.atomic op) a n n = .ok [g] → s.here g = true → g.addr < devBase → g.view = .plain →
    poisoned s g.addr g.len = true ∨ (∃ e ∈ s.ecc, 2 ≤ e.bits ∧ e.meets g.addr g.len = true) →
    o = .next (s.trapped { cause := 0x18, val := a, reads := [(g.addr, g.len)] })

/-- The entry of a level that a walk reads: at level 0 in the table that PTROOT names, and below in the table that a valid
and well-formed table entry of the level above names (R93, R114). -/
def State.EntryAt (s : State) (asid : BitVec 12) (off : Nat) : Nat → Nat → Prop
  | 0, a => s.ptroot.getLsbD 0 = true ∧ a = granuleAddr s.ptroot + 16 * asid.toNat
  | l + 1, a => ∃ b, s.EntryAt asid off l b ∧
      let (w0, w1) := s.entry b
      w1.getLsbD 0 = true ∧ entryBad s l (walkIndex asid off l) w0 w1 = false ∧ w1.toNat / 2 % 4 = 0 ∧
      a = granuleAddr w0 + 16 * (off / 2 ^ (40 - 12 * l) % 4096)

/-- The page walk: without PTROOT.V, or at an entry without V, the page is not present; an entry with a reserved kind,
ordering class or format, a leaf above level 2 or a table at level 3, CONT above level 3, a pending or reserved bit, is
malformed; a leaf gives its page of 256 MiB at level 2, of 2 MiB with CONT or of 64 KiB (R92 to R96). -/
def PageWalk : Prop :=
  ∀ (s : State) (asid : BitVec 12) (off : Nat),
    (s.ptroot.getLsbD 0 = false → s.walk asid off = .notPresent) ∧
    ∀ l a, l ≤ 3 → s.EntryAt asid off l a →
      let (w0, w1) := s.entry a
      let kind := w1.toNat / 2 % 4
      (w1.getLsbD 0 = false → s.walk asid off = .notPresent) ∧
      (w1.getLsbD 0 = true →
        (2 ≤ kind ∨ (kind = 1 ∧ l < 2) ∨ (kind = 0 ∧ l = 3) ∨ w1.toNat / 64 % 4 = 3 ∨ 2 ≤ cmpOf w1 ∨ 10 ≤ fmtOf w1 ∨
            (w1.getLsbD 19 = true ∧ l < 3) ∨ w1.toNat / 2 ^ 32 ≠ 0 ∨ w1.getLsbD 5 = true ∨
            entryBad s l (walkIndex asid off l) w0 w1 = true → s.walk asid off = .malformed) ∧
        (kind = 1 → entryBad s l (walkIndex asid off l) w0 w1 = false → ∃ e : TlbEntry, s.walk asid off = .leaf e ∧
          e.asid = asid ∧ e.w1 = w1 ∧ e.page = off / 2 ^ e.bits ∧
          e.bits = (if l = 2 then 28 else if w1.getLsbD 19 then 21 else 16) ∧
          (e.bits ≠ 21 → e.w0 = w0) ∧
          (e.bits = 21 → e.w0 = if w1.getLsbD 3 then BitVec.ofNat 64 (w0.toNat - off / 65536 % 32 * 65536)
            else BitVec.ofNat 64 (w0.toNat - off / 65536 % 32 * 2 ^ 33))))

/-- A fault that the hub answers: the bank sleeps at its bundle with the fault's cause, address and slot, no register and
no byte of memory changed, and the hub holds the fault (R103). -/
def HubFaultHeld : Prop :=
  ∀ (s : State) (cause : Nat) (asid : BitVec 12) (goff : BitVec 52) (owner : Option Nat) (val : Word),
    let t := s.stopped (.hub cause asid goff owner val)
    t.me.mode = .waitHub cause val s.slot ∧ t.me.regs = s.me.regs ∧ t.me.pc = s.me.pc ∧ t.mem = s.mem ∧
      (∀ b, b ≠ s.cur → t.bank b = s.bank b) ∧ (FaultParty.bank s.cur, asid, goff, cause) ∈ t.hub.held ∧
      (s.draining s.cur = false → t.holds s.cur = false)

/-- R245: where a copy instruction stops at issue. Each range is an address, its length where that is known at issue, the
paths it may lie on, and its alignment; the address error of every range comes before the alignment of any, that before the
paths, then the groupset fault, then the operand trap, and a stall at 16 incomplete copies. Within one of the first three
checks the ranges are taken in the order of the list, which is the model's choice (notes/assumptions/63.md). -/
def State.CopyStops (s : State) (o : Host.Outcome State Fault Refusal) (rs : List (Word × Option Nat × (Nat → Prop) × Nat))
    (gs : Option HReg) (operand : Option Word) : Prop :=
  let bad (r : Word × Option Nat × (Nat → Prop) × Nat) : Prop := match r.2.1 with
    | some n => addrError s.me.hmode r.1 n = true
    | none => addrError s.me.hmode r.1 (if pathOf r.1 = 7 then 8 else 1) = true
  let skew (r : Word × Option Nat × (Nat → Prop) × Nat) : Prop := r.1.toNat % r.2.2.2 ≠ 0
  let off (r : Word × Option Nat × (Nat → Prop) × Nat) : Prop := ¬ r.2.2.1 (pathOf r.1)
  let first (p : Word × Option Nat × (Nat → Prop) × Nat → Prop) (cause : Nat) : Prop :=
    ∀ (i : Nat) r, rs[i]? = some r → p r → (∀ (j : Nat) q, j < i → rs[j]? = some q → ¬ p q) → s.Traps o cause r.1
  first bad 0x14 ∧ ((∀ r ∈ rs, ¬ bad r) → first skew 0x15) ∧
  ((∀ r ∈ rs, ¬ bad r ∧ ¬ skew r) → first off 0x16) ∧
  ((∀ r ∈ rs, ¬ bad r ∧ ¬ skew r ∧ ¬ off r) →
    (∀ h, gs = some h → s.Traps o 0x1B (BitVec.ofNat 64 h.val)) ∧
    (gs = none → (∀ w, operand = some w → s.Traps o 0x1D w) ∧
      (operand = none → 16 ≤ (s.copies.filter (·.bank = s.cur)).length →
        o = .next { s.again with stop := some .stall })))

/-- The current bank has asked for something: the registers of rs wait for the answer, and no register, no byte of memory
and no other bank has changed. -/
def Waits (s u : State) (rs : List BusyReg) : Prop :=
  u.stop = none ∧ u.cur = s.cur ∧ u.mem = s.mem ∧ u.poison = s.poison ∧ u.me.regs = s.me.regs ∧
    (∀ b, b ≠ s.cur → u.bank b = s.bank b) ∧ ∀ r ∈ rs, r ≠ .s 0 → r ≠ .p 0 → u.me.isBusy r = true

/-- An access of the current bank with its operations, at an address, is the last of those not yet performed; it is
performed after those of a list. -/
def Asks (s u : State) (rs : List BusyReg) (kind : AccKind) (ops : List GOp) (after : List Nat) (a : Word) (dst : Dst) :
    Prop :=
  Waits s u rs ∧ u.accesses.length = s.accesses.length + 1 ∧
    ∃ x, u.accesses.getLast? = some x ∧ x.bank = s.cur ∧ x.owner = .bank ∧ x.kind = kind ∧ x.todo = ops ∧
      x.addr = a ∧ x.dst = dst ∧ x.sent = false ∧ s.clk ≤ x.due ∧ ∀ n ∈ after, n ∈ x.after

/-- An interlocked access of a syllable that issues at s, its operands read at v: once all that its bundle has to ask first
is answered it stands in the list, its registers waiting; with nothing to ask, its operations are those of its places;
and until then the bundle stops for what it has to ask (R103, R104, R225). -/
def State.Interlocks (s v : State) (o : Host.Outcome State Fault Refusal) (k : Ask) (op : GOp) (rs : List BusyReg) :
    Prop :=
  let after := v.after k (gopSegs op)
  (∀ ops, v.preOps k op after = .ok ops → ∃ u, o = .next u ∧ Asks v u rs k.kind ops after k.addr k.dst) ∧
  (∀ e, v.preOps k op after = .error e → o = .next (s.stopped e))

/-- How a load of checked places ends its issue: on paths 0x0 and 0x1, with nothing that it is performed after, its bytes
are read now and written 4 or 10 cycles on; behind an access on its way it is held and its registers wait; elsewhere it is
interlocked, its operations its places when they do not lie in host memory (R105, R121, R143, R225, R235). -/
def State.LoadEnds (s v : State) (o : Host.Outcome State Fault Refusal) (k : Ask) (gs : List Seg) (rs : List BusyReg)
    (res : List Byte → List Res) (cs : List Byte → Causes) : Prop :=
  let after := v.after k gs
  (pathOf k.addr ≤ 1 → after = [] → let r := v.serve 0 (some v.cur.num) k.addr (.load gs)
    o = .next (r.2.wrote (if pathOf k.addr = 0 then 4 else 10) (res r.1.data) (cs r.1.data))) ∧
  (pathOf k.addr ≤ 1 → after ≠ [] → ∃ u, o = .next u ∧ Asks v u rs k.kind [.load gs] after k.addr k.dst) ∧
  (1 < pathOf k.addr → s.Interlocks v o k (.load gs) rs ∧
    ((∀ g ∈ gs, g.host = false) →
      ∃ u, o = .next u ∧ Asks v u rs k.kind (gs.map fun g => .load [g]) after k.addr k.dst))

/-- How a store to checked places ends its issue: on paths 0x0 and 0x1 it waits to be performed at the end of the window of
2 or 4 cycles; elsewhere it is performed a free time later, place by place (R105, R121). -/
def State.StoreEnds (v : State) (o : Host.Outcome State Fault Refusal) (k : Ask) (gs : List Seg) (bs : List Byte) :
    Prop :=
  let after := v.after k gs
  (pathOf k.addr ≤ 1 → ∃ u, o = .next u ∧ Asks v u [] k.kind [.store gs bs []] after k.addr k.dst ∧
    ∀ w, u.accesses.getLast? = some w → w.due = v.clk + if pathOf k.addr = 0 then 2 else 4) ∧
  (1 < pathOf k.addr →
    ∃ u, o = .next u ∧ Asks v u [] k.kind (gopSplit (.store gs bs [])) after k.addr k.dst)

/-- An interlocked result that needs no message is in flight: it appears a free time later. -/
def Soon (s u : State) (rs : List BusyReg) (res : List Res) : Prop :=
  Waits s u rs ∧ ∃ due id, s.clk < due ∧
    u.me.inflight = s.me.inflight ++ [{ due := due, res := res, causes := {}, seq := id, req := some id }]

/-- A groupset request of the current bank stands in the list. -/
def State.Requested (s u : State) (kind : Nat) (d : SReg) (hr : Option HReg) (h : Handle) (sent : Bool) : Prop :=
  ∃ r ∈ u.gsreqs, r.kind = kind ∧ r.h = h ∧ r.dst = some (s.cur, .s (s.me.physS d), hr) ∧ r.sent = sent ∧
    r.party = .bank s.hub.pkg.toNat s.cur.val

/-- A copy of the current bank has been accepted with these operands: its destination register waits for the promise, at
least 8 cycles after TIME, and a copy with units to move has joined the engine's list. -/
def State.Accepted (s u : State) (d : SReg) (kind : CopyKind) (dst src : Word) (len count : Nat) (tbl : Word) : Prop :=
  Waits s u [.s (s.me.physS d)] ∧ ∃ (c : Copy) (n due id : Nat), 8 ≤ n ∧ s.clk < due ∧
    c.promise = s.time + BitVec.ofNat 64 n ∧ c.bank = s.cur ∧ c.iter = s.me.iter ∧ c.kind = kind ∧ c.dst = dst ∧
    c.src = src ∧ c.len = len ∧ c.count = count ∧ c.tbl = tbl ∧ c.asid = s.me.asidcur ∧ c.windows = s.me.windows ∧
    u.me.inflight = s.me.inflight ++
      [{ due := due, res := [s.dS d c.promise], causes := {}, seq := id, req := some id }] ∧
    u.copies = (if c.units = 0 then s.copies else s.copies ++ [c]) ∧ (c.units ≠ 0 → c.todo = [(0, c.units)])

/-- The places that a class A or class V syllable writes, as its operands name them at issue. -/
def State.dests (s : State) (i : Instr) : List Res :=
  match i with
  | .add d _ _ | .addImm d _ _ | .sub d _ _ | .mul d _ _ | .mulImm d _ _ | .mulh _ d _ _ | .div _ d _ _ | .rem _ d _ _
  | .and d _ _ | .andImm d _ _ | .or d _ _ | .orImm d _ _ | .xor d _ _ | .xorImm d _ _ | .andn d _ _ | .shl d _ _
  | .shlImm d _ _ | .shr d _ _ | .shrImm d _ _ | .sar d _ _ | .sarImm d _ _ | .rol d _ _ | .ror d _ _ | .rorImm d _ _
  | .min _ d _ _ | .minImm _ d _ _ | .max _ d _ _ | .maxImm _ d _ _ | .abs d _ | .clz d _ | .ctz d _ | .popc d _
  | .bswap d _ | .brev d _ | .clmul _ d _ _ | .bmatch _ d _ _ | .bfx _ d _ _ _ | .bfxImm _ d _ _ _ | .bfi d _ _ _
  | .bfiImm d _ _ _ | .sext _ d _ | .zext _ d _ | .sel d _ _ _ | .movi _ d _ => [s.dA d 0]
  | .addc d pe _ _ _ | .subb d pe _ _ _ => [s.dA d 0, s.dP pe false]
  | .cmp _ pd pe _ _ => [s.dP pd false, s.dP pe false]
  | .cmpImm _ pd _ _ | .plog _ pd _ _ => [s.dP pd false]
  | .pmov (.pp d _) | .pmov (.ps d _) => [s.dP d false]
  | .pmov (.sp d _) => [s.dA d 0]
  | .vadd _ _ _ d _ _ _ | .vsub _ _ _ d _ _ _ | .vmul _ _ _ d _ _ _ | .vfma _ _ d _ _ _ _ | .vfms _ _ d _ _ _ _
  | .vfnma _ _ d _ _ _ _ | .vfnms _ _ d _ _ _ _ | .vmin _ d _ _ _ | .vmax _ d _ _ _ | .vabs _ _ d _ _
  | .vneg _ _ d _ _ | .vabsd _ _ _ d _ _ _ | .vcpysgn _ d _ _ _ | .vround _ _ d _ _ | .vmulh _ d _ _ _
  | .vmad _ _ d _ _ _ _ | .vand _ d _ _ _ | .vor _ d _ _ _ | .vxor _ d _ _ _ | .vandn _ d _ _ _ | .vshl _ d _ _ _
  | .vshr _ d _ _ _ | .vsar _ d _ _ _ | .vclz _ d _ _ | .vpopc _ d _ _ | .vdot4 _ _ _ d _ _ _ _ | .vclass _ d _ _
  | .vsel _ d _ _ _ _ | .vrsum _ _ d _ _ | .vrmax _ d _ _ | .vrmin _ d _ _ | .vrargmax _ d _ _ | .vscan _ _ _ _ d _ _
  | .vperm _ _ d _ _ _ | .vperm2 _ d _ _ _ _ | .vbcast _ d _ _ _ | .vsplat _ d _ _ | .vslide _ _ d _ _ _ _
  | .vins _ d _ _ _ | .vrev _ d _ _ | .vzip _ _ d _ _ _ | .vunzip _ _ d _ _ _ | .vcompress _ d _ _ | .vexpand _ d _ _
  | .vmov _ (.v d) _ _ | .vrcpe d _ _ | .vrsqe d _ _ | .vexp2 d _ _ | .vlog2 d _ _ | .vsin d _ _ | .vcos d _ _
  | .vtanh d _ _ => [s.dV d 0 0]
  | .vcvt _ _ _ _ _ _ d _ b _ => [s.dV d 0 0, s.dV b 0 0]
  | .vcmp _ _ (.v d) _ _ _ => [s.dV d 0 0]
  | .vcmp _ _ (.q d) _ _ _ => [.q d 0 0]
  | .vmov _ (.cv d) _ _ => [.cv d 0 0]
  | .vext _ d _ _ => [s.dS d 0]
  | .qlog _ d _ _ => [.q d 0 0]
  | .qmov (.qq d _) | .qmov (.qv d _) | .qmov (.msb d _) | .qmov (.set d _ _) => [.q d 0 0]
  | .qmov (.vq d _) => [s.dV d 0 0]
  | .qmov (.cnt d _) | .qmov (.first d _) | .qmov (.lo d _) | .qmov (.hi d _) => [s.dS d 0]
  | _ => []

/-! ## The matrix array and the tiles (R70 to R76, R303 to R318) -/

/-- The rows and poison bits of a tile, row by row. -/
def Tile.Is (x : Tile) (row : Nat → Vec) (bad : Nat → Bool) : Prop := ∀ r, r < 128 → x.row r = row r ∧ x.bad r = bad r

/-- The elements and poison bits of a tile, one by one. -/
def Tile.Has (x : Tile) (elem : Nat → Nat → Nat) (bad : Nat → Bool) : Prop :=
  ∀ r, r < 128 → x.bad r = bad r ∧ ∀ n, n < 128 → x.elem r n = elem r n % 2 ^ 32

/-- The causes of every element of a tile together. -/
def elemCauses (f : Nat → Nat → Causes) : Causes :=
  ((List.range 128).map fun r => ((List.range 128).map (f r)).foldl Causes.plus {}).foldl Causes.plus {}

/-- The tiles after an entry's effect, with no other register of its bank, no other bank and no byte of memory changed. -/
def State.Tiles (s u : State) (e : MEntry) (tiles : Vector Tile 4) : Prop :=
  (u.bank e.bank).regs = { (s.bank e.bank).regs with t := tiles } ∧ (∀ b, b ≠ e.bank → u.bank b = s.bank b) ∧
    u.mem = s.mem ∧ u.poison = s.poison

/-- An entry whose effect ends n cycles on, after those before it in the queue: its results and causes are in flight until
then (R290, R291). -/
def State.Ends (s u : State) (c : CogIx) (e : MEntry) (n : Nat) (res : List Res) (cs : Causes) : Prop :=
  let due := Nat.max (s.clk + n) (s.cog c).mOrder
  (u.cog c).mOrder = due ∧ (u.bank e.bank).mDone = Nat.max (s.bank e.bank).mDone due ∧
    (u.bank e.bank).inflight = (s.bank e.bank).inflight ++
      if res = [] ∧ cs = {} then []
      else [{ due := due, res := res, causes := cs, seq := e.ticket, req := some e.ticket }]

/-- TST or TCST in its turn: f gives the bytes and causes of each row from row0 on. The bytes go to their places in order,
here and now where they lie in plain memory of this package that is active, else by an access under the entry's ticket;
lines of a poisoned row are written poisoned (R304, R306, R307). -/
def State.TileStores (s u : State) (c : CogIx) (e : MEntry) (tile : Tile) (row0 bytes : Nat)
    (f : Vec → List Byte × Causes) : Prop :=
  let n := e.b.toNat
  let rs := (List.range n).map fun j => f (tile.row (row0 + j))
  let op : GOp := .store e.segs (rs.map Prod.fst).flatten (rowPoison tile row0 bytes e.segs)
  let near (o : GOp) : Bool := (gopSegs o).all s.here && (s.regionShut o).isNone
  s.Ends u c e (Nat.max n 1) [] ((rs.map Prod.snd).foldl Causes.plus {}) ∧
  ((∀ g ∈ e.segs, g.addr < devBase) → (u.bank e.bank).regs = (s.bank e.bank).regs ∧
    (∀ b, b ≠ e.bank → u.bank b = s.bank b) ∧
    u.mem = (((gopSplit op).filter near).foldl (fun s o => (s.serve 0 none e.a o).2) s).mem ∧
    u.poison = (((gopSplit op).filter near).foldl (fun s o => (s.serve 0 none e.a o).2) s).poison ∧
    ((∀ o ∈ gopSplit op, near o = true) → u.accesses = s.accesses) ∧
    (∀ o ∈ gopSplit op, near o = false → ∃ x, u.accesses = s.accesses ++ [x] ∧ x.id = e.ticket ∧
      x.owner = .munit e.ticket ∧ x.kind = .store ∧ x.todo = (gopSplit op).filter fun o => !near o))

/-- A product of the array: a finite value, an infinity, or none where it is invalid. -/
def finite (p : Bool × Nat × Int) : Option FVal := some (.num p.1 p.2.1 p.2.2)

/-- The value of a finite product in units of 2^q, q not above its exponent. -/
def atExp (q : Int) (p : Bool × Nat × Int) : Int := signedAt p.1 p.2.1 p.2.2 q

/-- The arithmetic of a matrix product. A group's products are summed exactly, in BF16 mode each cut toward zero at 48
fraction bits below the greatest; an invalid product or infinities of both signs give none, else an infinity stands. A
promotion gives the canonical NaN for none, for 0 x inf or for a NaN, and else rounds once the exact sum of the accumulator
and the scaled group. A row of activations takes its groups in ascending order. The check entry of a row of weights is its
exact sum in units of 2^-16, or the marker where it holds a NaN or an infinity; a compared group mismatches exactly when
the sum of its group sums differs from that of the activations times the check entries (R70 to R75, R77). -/
def MatrixArithmetic : Prop :=
  (∀ ps : List (Bool × Nat × Int), ∃ n m e, groupSum false (ps.map finite) = some (.num n m e) ∧
    ∀ q : Int, q ≤ e → (∀ p ∈ ps, q ≤ p.2.2) → signedAt n m e q = (ps.map (atExp q)).sum) ∧
  (∀ (bf : Bool) (ps : List (Option FVal)), (∀ p ∈ ps, ∀ b, p ≠ some (.nan b)) →
    (none ∈ ps → groupSum bf ps = none) ∧
    (some (.inf true) ∈ ps → some (.inf false) ∈ ps → groupSum bf ps = none) ∧
    ∀ n, none ∉ ps → some (.inf n) ∈ ps → some (.inf !n) ∉ ps → groupSum bf ps = some (.inf n)) ∧
  (∀ ps : List (Bool × Nat × Int),
    ((∀ p ∈ ps, p.2.1 = 0) → groupSum true (ps.map finite) = groupSum false (ps.map finite)) ∧
    ∀ t : Int, (∃ p ∈ ps, p.2.1 ≠ 0 ∧ (FVal.num p.1 p.2.1 p.2.2).logb = t) →
      (∀ p ∈ ps, p.2.1 ≠ 0 → (FVal.num p.1 p.2.1 p.2.2).logb ≤ t) →
      groupSum true (ps.map finite) = groupSum false (ps.map fun p =>
        if t - 48 ≤ p.2.2 then finite p else finite (p.1, p.2.1 / 2 ^ (t - 48 - p.2.2).toNat, t - 48))) ∧
  (∀ (acc : Nat) (sa sw : FVal), let a := decodeF .fp32 acc
    promote acc none sa sw = (canonNan .fp32, invalid) ∧
    (∀ g : FVal, sa.isNan = true ∨ sw.isNan = true → promote acc (some g) sa sw = (canonNan .fp32, invalid)) ∧
    (∀ n, sa.isZero = true ∨ sw.isZero = true → promote acc (some (.inf n)) sa sw = (canonNan .fp32, invalid)) ∧
    ∀ n m e na ma ea nw mw ew, sa = .num na ma ea → sw = .num nw mw ew →
      (∀ sig, a = .nan sig →
        promote acc (some (.num n m e)) sa sw = (canonNan .fp32, if sig then invalid else {})) ∧
      (∀ k, a = .inf k → promote acc (some (.num n m e)) sa sw = (withSign .fp32 k (infBits .fp32), {})) ∧
      (∀ k l x, a = .num k l x → promote acc (some (.num n m e)) sa sw =
        if m * ma * mw = 0 then finiteSum .fp32 .rne k l x false 0 0
        else finiteSum .fp32 .rne k l x ((n != na) != nw) (m * ma * mw) (e + ea + ew)) ∧
      (ma ≠ 0 → mw ≠ 0 →
        let v := (n != na) != nw
        (∀ k l x, a = .num k l x → promote acc (some (.inf n)) sa sw = (withSign .fp32 v (infBits .fp32), {})) ∧
        ∀ k, a = .inf k → promote acc (some (.inf n)) sa sw =
          if k = v then (withSign .fp32 v (infBits .fp32), {}) else (canonNan .fp32, invalid))) ∧
  (∀ (w : WBuf) (t : EType) (a : List Nat) (sa : Nat → FVal) (row : Vec) (n : Nat), n < 128 →
    let g (lo len : Nat) : Option FVal := groupSum (t = .bf16) ((List.range len).map fun k =>
      exactMul (elemVal t (a.getD (lo + k) 0)) (elemVal w.fmt (w.elem (lo + k) n)))
    let sw (h : Nat) : FVal := e8Val (w.e8m0.extractLsb' (8 * (2 * n + h)) 8).toNat
    lane 32 (mmulRow w t a sa row).1 n = if t = .mxfp4 then
        (promote ((promote (lane 32 row n) (g 0 64) (sa 0) (sw 0)).1 % 2 ^ 32) (g 64 64) (sa 1) (sw 1)).1 % 2 ^ 32
      else (promote (lane 32 row n) (g 0 128) (sa 0) (decodeF .fp32 w.scale.toNat)).1 % 2 ^ 32) ∧
  (∀ (t : EType) (row : List Nat), ((∃ x ∈ row, ∀ n m e, elemVal t x ≠ .num n m e) → checkOf t row = 0x8000000000000000) ∧
    ∀ ps : List (Bool × Nat × Int), (row.map fun x => some (elemVal t x)) = ps.map finite →
      checkOf t row = BitVec.ofInt 64 (ps.map (atExp (-16))).sum) ∧
  ∀ (av : List FVal) (ck : List Word) (gs : List (Option FVal)), av.length = ck.length →
    ((∃ a ∈ av, ∀ n m e, a ≠ .num n m e) ∨ 0x8000000000000000 ∈ ck → mismatch av ck gs = false) ∧
    ∀ ps : List (Bool × Nat × Int), av.map some = ps.map finite → 0x8000000000000000 ∉ ck →
      ((∃ g ∈ gs, ∀ n m e, g ≠ some (.num n m e)) → mismatch av ck gs = true) ∧
      ∀ ls : List (Bool × Nat × Int), gs = ls.map finite → ∀ q : Int, q ≤ 0 → (∀ l ∈ ls, q ≤ l.2.2) →
        (∀ p ∈ ps, q ≤ p.2.2 - 16) → (mismatch av ck gs = true ↔
          (ls.map (atExp q)).sum ≠ (List.zipWith (fun p (c : Word) => atExp (q + 16) p * c.toInt) ps ck).sum)

/-- The arithmetic of a reservoir. A weight is the exact value of a finite fp32 of zero or above, and else zero with INV;
a chunk of sum S > 0 updates the mass to the rounding of mass + rounding of S and takes its winner, the lowest index whose
prefix sum exceeds u_win S, where u_rep M' is below Wc, a rounding raising SAT beyond the largest finite value and nothing
else; FEED weighs p, FEED2 max(p - q, 0) and p and captures p and q at the
draft token in its chunk; a row with 2^24 chunks stays, with SAT; RSV.INIT sets the row; RSV.DRAW compares exactly (R313 to
R318, R404). -/
def ReservoirArithmetic : Prop :=
  (∀ x n m e, decodeF .fp32 x = .num n m e →
    (n = false ∨ m = 0 → (weight x).2 = {} ∧ (weight x).1 = m * 2 ^ (e + 149).toNat) ∧
    (n = true → m ≠ 0 → weight x = (0, invalid))) ∧
  (∀ x, (∀ n m e, decodeF .fp32 x ≠ .num n m e) → weight x = (0, invalid)) ∧
  (∀ x : Nat, let r := encodeF .fp32 .rne (.num false x (-149))
    roundMass x = if r.2.ovf = 0 then (r.1, {}) else (maxFinite .fp32, { sat := 1 })) ∧
  (∀ (row : Vec) (cc mc c : Nat) (ws : List Nat) (uw ur : Nat), cc < 128 → mc < 128 → cc ≠ mc → uw < 2 ^ 32 →
    let r := weigh row cc mc c ws uw ur
    let wc := roundMass ws.sum
    let m := roundMass ((weight (col row mc)).1 + (weight wc.1).1)
    (ws.sum = 0 → r = (row, {})) ∧
    (ws.sum ≠ 0 → col r.1 mc = m.1 % 2 ^ 32 ∧ r.2 = ((weight (col row mc)).2.plus wc.2).plus m.2 ∧
      (∀ k, k < 128 → k ≠ cc → k ≠ mc → col r.1 k = col row k) ∧
      (∀ i, i < ws.length → uw * ws.sum < (ws.take (i + 1)).sum * 2 ^ 32 →
        (∀ j, j < i → (ws.take (j + 1)).sum * 2 ^ 32 ≤ uw * ws.sum) →
        col r.1 cc = if ur * (weight m.1).1 < (weight wc.1).1 * 2 ^ 32 then (c * 128 + i) % 2 ^ 32 else col row cc))) ∧
  (∀ (row p q : Vec), let c := col row 2
    let blk (i : Nat) : Nat := (w32 (chacha8 ([5, 6, 7, 8].map (fun n => BitVec.ofNat 32 (col row n)) ++ [0, 0, 0, 0])
      (BitVec.ofNat 32 c) 0) i).toNat
    let w (v : Vec) (i : Nat) : Nat × Causes := weight (lane 32 v i)
    let l (f : Nat → Nat) : List Nat := (List.range 128).map f
    let bad (v : Vec) : Causes := ((List.range 128).map fun i => (w v i).2).foldl Causes.plus {}
    let a := weigh row 0 1 c (l fun i => (w p i).1) (blk 0) (blk 1)
    let b := weigh row 0 1 c (l fun i => (w p i).1 - (w q i).1) (blk 0) (blk 1)
    let f := weigh b.1 3 4 c (l fun i => (w p i).1) (blk 2) (blk 3)
    (2 ^ 24 ≤ c → rsvFeed row p none = (row, { sat := 1 }) ∧ rsvFeed row p (some q) = (row, { sat := 1 })) ∧
    (c < 2 ^ 24 →
      (rsvFeed row p none).2 = (bad p).plus a.2 ∧ col (rsvFeed row p none).1 2 = c + 1 ∧
      (∀ k, k < 128 → k ≠ 2 → col (rsvFeed row p none).1 k = col a.1 k) ∧
      (rsvFeed row p (some q)).2 = (((bad p).plus (bad q)).plus b.2).plus f.2 ∧ col (rsvFeed row p (some q)).1 2 = c + 1 ∧
      (let d := col row 9
       let at_ (v : Vec) : Nat := if (w v (d % 128)).1 = 0 then 0 else lane 32 v (d % 128)
       ∀ k, k < 128 → k ≠ 2 → col (rsvFeed row p (some q)).1 k =
         if d / 128 = c ∧ k = 10 then at_ p else if d / 128 = c ∧ k = 11 then at_ q else col f.1 k))) ∧
  (∀ (a b c : Word) (k : Nat), k < 128 → col (rsvInit a b c) k = match k with
    | 0 | 3 => 0xFFFFFFFF
    | 5 => a.toNat % 2 ^ 32
    | 6 => a.toNat / 2 ^ 32
    | 7 => b.toNat % 4096
    | 8 => c.toNat % 2 ^ 32
    | 9 => c.toNat / 2 ^ 32
    | 12 => b.toNat / 2 ^ 16 % 2
    | _ => 0) ∧
  (∀ row : Vec, rsvDraw row true = (BitVec.ofNat 64 (0xFFFFFFFF + 2 ^ 34 + 2 ^ 35), {}) ∧
    let none32 : Nat := 0xFFFFFFFF
    let d := col row 9
    let px := weight (col row 10)
    let qx := weight (col row 11)
    let m := weight (col row 1)
    let u := (w32 (chacha8 ([5, 6, 7, 8].map (fun n => BitVec.ofNat 32 (col row n)) ++ [0, 0, 0, 0]) 0 1) 0).toNat
    let none (t : Nat) : Nat := if t = none32 then 2 ^ 34 else 0
    let cand (t : Nat) : Word := BitVec.ofNat 64 (t + none t)
    let fb (t : Nat) : Word := BitVec.ofNat 64 (t + 2 ^ 33 + none t)
    let accept (t : Nat) : Word := BitVec.ofNat 64 (t + 2 ^ 32 + none t)
    (col row 12 % 2 = 0 → rsvDraw row false =
      (if d ≠ none32 ∧ col row 0 = d then accept d else cand (col row 0), {})) ∧
    (col row 12 % 2 = 1 → d = none32 → rsvDraw row false = (fb (col row 3), {})) ∧
    (col row 12 % 2 = 1 → d ≠ none32 →
      (u * qx.1 < px.1 * 2 ^ 32 → rsvDraw row false = (accept d, px.2.plus qx.2)) ∧
      (px.1 * 2 ^ 32 ≤ u * qx.1 → rsvDraw row false =
        (if m.1 ≠ 0 then cand (col row 0) else fb (col row 3), (px.2.plus qx.2).plus m.2))))

/-! ## Events (R103, R138, R343) -/

/-- An event is scheduled for a core cycle later than the current one. -/
def State.Later (s t : State) (ev : Instr) : Prop := ∃ d, s.clk < d ∧ (d, ev) ∈ t.agenda

/-- A home's answer about a record has left: to a party of this package a free time later, to another package's at once;
with a mirror it waits until the mirror has acknowledged the record. -/
def State.Answers (s t : State) (asid : BitVec 12) (name : BitVec 16) (who : Party) (a : GsAns) : Prop :=
  match s.mirrorPkg with
  | none => if partyPkg who = s.hub.pkg.toNat then s.Later t (.gsAnswer a) else Out.gsans (partyPkg who) who a ∈ t.outbox
  | some m => (asid, name, who, a) ∈ t.hub.mirrorWait ∧
      Out.hub m (.mirror s.hub.pkg.toNat (t.sealRec asid name)) ∈ t.outbox

/-- A trap record of a bank has entered the fault queue, and nothing else has left (R330). -/
def State.TrapRecorded (s t : State) (b : BankIx) (epc val : Word) (action sub cause : Nat) : Prop :=
  let r := s.record 0x02 (bytesOf 8 s.time.toNat ++ bytesOf 8 epc.toNat ++ bytesOf 8 val.toNat ++
    bytesOf 8 ((s.bank b).stage.id.toNat * 2 ^ 32 + action * 2 ^ 16 + sub * 256 + cause))
  t.hub = r.hub ∧ t.outbox = r.outbox

/-- A bank's registers, its pc and its mode. -/
def Bank.view (b : Bank) : Regs × Word × BankMode := (b.regs, b.pc, b.mode)

/-- A message to a hub has left, or arrives at this one a free time later. -/
def State.Tells (s t : State) (pkg : Nat) (m : HubMsg) : Prop :=
  if pkg = s.hub.pkg.toNat then s.Later t (.hubMessage pkg m) else Out.hub pkg m ∈ t.outbox

/-- An exchange of the time discipline has completed with an offset, in 1/256 cycle (R381, R391). -/
def State.Exchanged (s t : State) (theta : Int) : Prop :=
  let row := if theta.natAbs ≤ 1024 then s.td.goodRow + 1 else 0
  t.td.theta = theta ∧ t.td.exch = s.td.exch + 1 ∧ t.td.lastExch = s.clk ∧ t.td.stepped = true ∧
  t.td.step = (if s.td.stepped = false ∧ s.td.state = .locking ∧ theta < 0 then theta.natAbs / 512 * 2 else 0) ∧
  t.td.state = (match s.td.state with
    | .locking => if 3 ≤ row then .disciplined else .locking
    | .holdover => .locking
    | st => st) ∧
  t.time = s.time ∧ t.mem = s.mem

/-- A time-transfer packet of a type waits at a port (R383). -/
def State.SendsTime (s t : State) (p : ChainPort) (type : Nat) (payload : List Byte) : Prop :=
  ∃ k : Packet, (t.ports[p]).waiting = (s.ports[p]).waiting ++ [k] ∧ k.kind = 6 ∧ k.vc = 3 ∧
    k.w1 = BitVec.ofNat 64 (type * 2 ^ 62) ∧ k.payload = payload

/-- A command that a hub runs, the head of its queue; the commands behind it are known ones (R392). -/
def State.Running (s : State) (opc : Nat) (mb : MBox) (buf : List Byte) : Prop :=
  ∃ rest, s.hub.queue = ⟨mb, opc, buf, false⟩ :: rest ∧ ∀ c ∈ rest, 1 ≤ c.opc ∧ c.opc ≤ 0x0B

/-- The running command has completed: STATUS, RESULT zero, DONE, GO clear and vector 0, or the answer to management
(R392, R395). -/
def State.Completes (s t : State) (mb : MBox) (status : Nat) (resp : List Byte) : Prop :=
  t.hub.queue = s.hub.queue.tail ∧ t.mem = s.mem ∧
  match mb with
  | .host => t.hub.mbstatus = BitVec.ofNat 8 status ∧ t.hub.mbresult = 0 ∧ t.hub.mbdone = true ∧ t.hub.mbgo = false ∧
      t.hub.mbbuf = resp ++ s.hub.mbbuf.drop resp.length ∧ Out.msix 0 ∈ t.outbox
  | .mgmt => Out.mgmt (BitVec.ofNat 8 status) 0 resp ∈ t.outbox

/-! ## A bank at activation (R19, R21, R22, R184, R185) -/

/-- What a shape record makes of an iterator: base, dimensions, counts and strides, at position zero; a dimension that is
not used counts 1 with stride 0 (R185). -/
def ShapeGives (r : List Byte) (g : Iter) : Prop :=
  let w (k : Nat) : Nat := natOf ((r.drop k).take 8)
  let nd := w 8 % 4
  w 8 / 4 = 0 → (∀ d ≤ nd, w (16 + 8 * d) % 2 ^ 32 ≠ 0) →
    g.base.toNat = w 0 % 2 ^ 64 ∧ g.ndim.val = nd ∧
    ∀ d : Fin 4, g.idx[d] = 0 ∧
      (d.val ≤ nd → g.count[d] = BitVec.ofNat 32 (w (16 + 8 * d.val)) ∧
        g.stride[d] = BitVec.ofNat 32 (w (16 + 8 * d.val) / 2 ^ 32)) ∧
      (nd < d.val → g.count[d] = 1 ∧ g.stride[d] = 0)

/-- A port of a stage at activation: its declared count, its ring, and the initial packets as the only ones produced or
sent (R21, R22, R184). -/
def PortActivated (l : List Stage) (st : Stage) (k : Fin 16) (q : PortState) : Prop :=
  let r := st.port k.val
  let zero : Prop := q.reserved = 0 ∧ q.freed = 0 ∧ q.puts = 0
  (r.bound = false → q.peer = .none) ∧
  (r.bound = true → q.peer ≠ .none ∨ r.endpoint = false ∧ stageById l r.peer = none) ∧
  (r.bound = true → q.rate = r.rate ∧ zero ∧
    (k.val < 8 → q.depth = r.depth ∧ q.capacity = r.capacity ∧ q.stride = (32 + r.capacity + 63) / 64 * 64 ∧
      q.ring = r.ringBase ∧ q.cum = BitVec.ofNat 16 r.init ∧ q.slot = 0) ∧
    (8 ≤ k.val → r.endpoint = false → ∀ c, stageById l r.peer = some c →
      let i := c.port r.peerPort
      q.depth = i.depth ∧ q.capacity = i.capacity ∧ q.stride = (32 + i.capacity + 63) / 64 * 64 ∧
      q.cum = BitVec.ofNat 16 i.init ∧ (0 < i.depth → q.slot = i.init % i.depth)))

/-- The bank of a stage at activation: the stage's entry, every register zero and every predicate false, the iterators and
carries that the image gives, the windows of the bank's section, and its ports (R19, R21, R22, R184, R185). -/
def BankActivated (im : Image) (st : Stage) (y : Bank) : Prop :=
  let bytes (type : Nat) : List Byte := bankBytes im.chunks type st.pkg st.cog st.bank
  y.active = true ∧ y.stage = st ∧ y.mode = .idle ∧ y.live = false ∧ y.pc = st.entry ∧ y.rstpt = st.entry ∧
  y.s = Vector.replicate 64 0 ∧ y.v = Vector.replicate 64 0 ∧ y.q = Vector.replicate 16 0 ∧ y.k = Vector.replicate 16 0 ∧
  y.p = Vector.replicate 128 false ∧ y.t = Vector.replicate 4 Tile.reset ∧ y.c = Vector.replicate 32 0 ∧
  y.cWork = Vector.replicate 32 0 ∧ y.cvWork = y.cv ∧
  (∀ n : Fin 16, if st.gmask.getLsbD n.val then ShapeGives (((bytes 4).drop (48 * n.val)).take 48) y.g[n]
    else y.g[n] = Iter.reset) ∧
  (∀ n : Fin 8, y.cv[n] = if st.cvmask.getLsbD n.val then BitVec.ofNat 4096 (natOf (((bytes 5).drop (512 * n.val)).take 512))
    else 0) ∧
  (∀ x, bankSection im.chunks 3 st.pkg st.cog st.bank = some x →
    ∀ n : Fin 64, let w (j : Nat) : Word := BitVec.ofNat 64 (natOf (((x.bytes im.chunks).drop (32 * n.val + 8 * j)).take 8))
      y.windows[n].w0 = w 0 ∧ y.windows[n].w1 = w 1 ∧ y.windows[n].w2 = w 2 ∧ y.windows[n].w3 = w 3) ∧
  (bankSection im.chunks 3 st.pkg st.cog st.bank = none → y.windows = Vector.replicate 64 Win.reset) ∧
  ∀ k : Fin 16, PortActivated im.stages st k y.ports[k]

end Sys2Proof.Machine
end

