-- ==== Sys2Proof/Certificates/Slice0/Obligations.lean ====
section
/-! DEFINITION. The statements for the provers. Each docstring says which rules it formalises; where a clause rests on a
choice of the model, it names the log entry. -/

open Sys2Proof Sys2Proof.Machine

/-! ## Encoding (R149, R153, R159) -/

/-- Words written out from the encodings of R149, R150, R159 and the opcode tables of their classes (R168, R169, R171,
R172), read back as the instructions they stand for. -/
def Obligations.DecodedWords : Prop :=
  decodeTableWord 64 0x8830000000000000 = some (.loop 0 false false false 0) ∧
  decodeTableWord 64 0x88300077FFFFFFFC = some (.loop 7 true true true (-4)) ∧
  decodeTableWord 64 0x8838000000000000 = some .stageEnd ∧
  decodeTableWord 64 0x8848002000000000 = some (.waitTime 2 0) ∧
  (decodeSyllable 0x4004683020800000).toOption =
    some ⟨false, true, 70, true, .add (.s 3) (.s 1) (.s 2)⟩ ∧
  decodeTableWord 64 0xA188000900000200 = some (.ringPut (.o 1) 0 512 false) ∧
  decodeTableWord 64 0xA088000000002803 = some (.fence .ss .hop) ∧
  decodeTableWord 64 0xA0C8006000000002 = some (.gsSeal 6 2) ∧
  decodeTableWord 64 0xA0C0005001838000 = some (.gsOpen 5 0 6 7) ∧
  decodeTableWord 64 0x991800001A000000 = some (.rsvDraw 13 0 0)

/-- Decoding the word of any well-formed syllable gives the syllable back, with every operand, guard and bit (R149,
R159, R168 to R173). -/
def Obligations.DecodeOfEncode : Prop :=
  ∀ y : Syllable, y.wf = true → ∃ w, encode y = some w ∧ decodeSyllable w = .ok y

/-- A word that decodes is the word of its syllable: no two words stand for one, and no bit of a word is dropped (R153,
R154). -/
def Obligations.EncodeOfDecode : Prop :=
  ∀ (w : Word) (y : Syllable), decodeSyllable w = .ok y → y.wf = true ∧ encode y = some w

/-- A reserved CLASS comes before a malformed bundle and before any other fault of decoding: the illegal-instruction
trap, with the bundle's address (R153 items 2 to 4, R326). -/
def Obligations.ReservedClassFirst : Prop :=
  ∀ (pc : Word) (ws : List Word) (w : Word), w ∈ ws → 6 ≤ bitsAt w.toNat 59 3 →
    ∃ t, decodeBundle pc ws = .error t ∧ t.cause = 0x12 ∧ t.val = pc ∧ t.slot < ws.length

/-! ## The step, the memory, reset -/

/-- When nothing else is due before it, a step at a running bank issues the bundle at its pc: its syllables take effect in
order and the bank moves to the next bundle, or the first that stops decides alone; and a bundle of one syllable is exec
of the decoded instruction where its guard holds, and nothing where it does not (R40, R151, R155, R156, R325, R333).
What the manual leaves open here is as log entry 50 says. -/
def Obligations.StepRunsDecoded : Prop :=
  ∀ (s : State) (b : BankIx),
    s.inbox = [] → s.powered = true → takeDue s.clk s.agenda = none → s.eventDue s.liveBanks = none →
    s.issuing s.liveBanks = some b → s.boundary (s.bank b) = none →
    let u : State := { s with cur := b, epc := (s.bank b).pc, slot := 0, stop := none }
    let f := u.fetchEcc u.epc 6
    (∀ ys t, u.readBundle u.epc = .ok ys → runSyllables exec ys 0 (f.prepare ys) = .next t →
      (t.stop = none → step s = .next t.bundleDone) ∧ (t.stop = some .taken → step s = .next t.bundleLeft) ∧
      ∀ e, t.stop = some e → e ≠ .taken → step s = .next (f.haltAt t.slot e)) ∧
    (∀ y, u.readBundle u.epc = .ok [y] →
      let v := f.prepare [y]
      (v.guardHolds y = .ok false → step s = .next v.bundleDone) ∧
      (v.guardHolds y = .ok true → v.unitBusy y = false →
        ∀ t, exec y.instr v = .next t →
          (t.stop = none → step s = .next t.bundleDone) ∧ (t.stop = some .taken → step s = .next t.bundleLeft) ∧
          ∀ e, t.stop = some e → e ≠ .taken → step s = .next (f.haltAt t.slot e))) ∧
    (∀ t, u.readBundle u.epc = .error t → step s = .next (f.haltAt t.slot (.trap t))) ∧
    (s.ecc = [] → f = u)


/-- Every step from a memory in canonical form, addresses rising strictly and no zero byte listed, leaves it in that
form.
What the manual leaves open here is as log entry 3 says. -/
def Obligations.MemoryFormKept : Prop := ∀ s t : State, s.Inv → step s = .next t → t.Inv

/-- What reset leaves, of the values the manual gives: the resets of R391, R401 and R403 (memory in canonical form and zero,
regions active, TLBs empty, PTROOT.V = 0, time state LOCKING, STATE IDLE), no iteration in progress, counters and trap
registers zero (R328).
What the manual leaves open here is as log entries 2 and 46 say. -/
def Obligations.ResetLeaves : Prop :=
  (let s := State.reset
   s.time = 0 ∧ s.ptroot = 0 ∧ s.hub.imgState = .idle ∧ s.td.state = .locking ∧ s.hub.powercap = 2400 ∧
   s.hub.pkgv = false ∧ s.hub.fqbase = 0 ∧ s.hub.fqtail = 0 ∧ s.hub.fqlost = 0 ∧ s.td.root = false ∧
   (∀ c, (s.cog c).tlb = [] ∧ (s.cog c).retreq = 0 ∧ (s.cog c).memue = 0 ∧ ∀ r : Fin 9, (s.cog c).regions[r] = .active) ∧
   (∀ b, (s.bank b).live = false ∧ (s.bank b).active = false ∧ (s.bank b).tvec = 0 ∧ (s.bank b).tcause = 0 ∧
     (s.bank b).tepc = 0 ∧ (s.bank b).tval = 0 ∧ s.tstat b = 0 ∧ (s.bank b).tscr0 = 0 ∧ (s.bank b).tscr1 = 0) ∧
   (∀ p : ChainPort, (s.ports[p]).badpkt = 0 ∧ (s.ports[p]).badret = 0 ∧ (s.ports[p]).hopdrop = 0)) ∧
  (State.reset.Inv ∧ ∀ a, memByte State.reset.mem a = 0)

/-- s0 reads zero and p0 reads true whatever the files hold, and a result for either is discarded; a result of any kind
is written when its cycle has come and not before, with its flag and counter events, and its request's registers are
then free: a scalar, a predicate, the masked bits of a vector or lane mask, a carry word or carry vector of the working
copy, a scale, an iterator, a handle, a window of this bank or of the cog's other one, and nothing else of the register
files changes; of two results that are written together for one register the later-issued one is kept, and a CSR write
comes before the events written with it (R69, R156, R157, R161, R188, R225, R254). -/
def Obligations.ResultsArrive : Prop :=
  ((∀ (b : Bank) (n : SReg), b.physS n = 0 → b.readS n = 0) ∧ (∀ (b : Bank) (n : PReg), b.physP n = 0 → b.readP n = true) ∧
   (∀ (b : Bank) (v : Word), b.writeRes (.s 0 v) = b) ∧ (∀ (b : Bank) (v : Bool), b.writeRes (.p 0 v) = b) ∧
   (∀ (b : Bank) (n : SReg) (v : Word), b.physS n ≠ 0 → (b.writeRes (.s (b.physS n) v)).readS n = v) ∧
   (∀ (b : Bank) (n : PReg) (v : Bool), b.physP n ≠ 0 → (b.writeRes (.p (b.physP n) v)).readP n = v)) ∧
  (∀ (b : Bank) (clk : Nat) (p : Pending),
     let x := { b with inflight := [p] }.retire clk
     (clk < p.due → x = { b with inflight := [p] }) ∧
     (p.due ≤ clk → x.inflight = [] ∧ x.pc = b.pc ∧ x.mode = b.mode ∧ x.ports = b.ports ∧
       x.regs = ((p.res.foldl Bank.writeRes b).addCauses p.causes).regs ∧
       (p.req = none → x.busy = b.busy) ∧ ∀ id, p.req = some id → x.busy = b.busy.filter (·.2 ≠ id))) ∧
  (∀ b : Bank, let r := b.regs
     let puts (x : Res) (y : Regs) : Prop := (b.writeRes x).regs = y
     (∀ n v, n ≠ 0 → puts (.s n v) { r with s := r.s.set n v }) ∧ (∀ n v, n ≠ 0 → puts (.p n v) { r with p := r.p.set n v }) ∧
     (∀ n v m, puts (.v n v m) { r with v := r.v.set n ((v &&& m) ||| (r.v[n] &&& ~~~m)) }) ∧
     (∀ n v m, puts (.q n v m) { r with q := r.q.set n ((v &&& m) ||| (r.q[n] &&& ~~~m)) }) ∧
     (∀ n v, puts (.c n v) { r with cWork := r.cWork.set n v }) ∧
     (∀ n v m, puts (.cv n v m) { r with cvWork := r.cvWork.set n ((v &&& m) ||| (r.cvWork[n] &&& ~~~m)) }) ∧
     (∀ n v, puts (.k n v) { r with k := r.k.set n v }) ∧ (∀ n v, puts (.g n v) { r with g := r.g.set n v }) ∧
     (∀ n v, puts (.h n v) { r with h := r.h.set n v }) ∧
     (∀ n v, puts (.win false n v) { r with windows := r.windows.set n v }) ∧ (∀ n v, puts (.win true n v) r) ∧
     (∀ n v, b.writeRes (.csr n v) = b.writeCsr n v)) ∧
  (∀ (b : Bank) (clk : Nat) (p q : Pending) (n : Fin 64) (v w : Word), n ≠ 0 → p.res = [.s n v] → q.res = [.s n w] →
     p.due ≤ clk → q.due ≤ clk → p.seq < q.seq →
     ({ b with inflight := [p, q] }.retire clk).s[n] = w ∧ ({ b with inflight := [q, p] }.retire clk).s[n] = w) ∧
  (∀ (b : Bank) (clk : Nat) (p q : Pending) (n : Fin 64) (v w : Word), p.res = [.csr 0x10 v] → q.res = [.s n w] →
     p.due ≤ clk → q.due ≤ clk → q.causes.inv = 1 → p.causes = {} →
     (({ b with inflight := [p, q] }.retire clk).arflags.getLsbD 0 = true) ∧
       ({ b with inflight := [q, p] }.retire clk).arflags.getLsbD 0 = true) ∧
  (∀ (s : State) (b : BankIx) (p : Pending) (n : Fin 64) (w : Win), (s.bank b).inflight = [p] → p.due ≤ s.clk →
     p.res = [.win true n w] → let t := s.retireBank b
     (t.bank b.other).windows = (s.bank b.other).windows.set n w ∧ (t.bank b).windows = (s.bank b).windows ∧
       (t.bank b).inflight = [] ∧ (∀ c, c ≠ b → c ≠ b.other → t.bank c = s.bank c) ∧ t.mem = s.mem)

/-! ## Class A (R187 to R202) -/

/-- ADD, SUB, MUL and MULH, AND, OR, XOR, ANDN, shifts and rotates, register and immediate forms: results modulo 2^64, bits
127 to 64 of the product, shift amounts of bits 5:0 of the source or the immediate, with the latencies of R188 (R190,
R191). -/
def Obligations.ScalarArithmetic : Prop :=
  Binary .add 1 (· + ·) ∧ Binary .sub 1 (· - ·) ∧ Binary .mul 3 (· * ·) ∧
  (∀ i : BitVec 24, Unary (fun d a => .addImm d a i) 1 fun x => x + i.signExtend 64) ∧
  (∀ i : BitVec 24, Unary (fun d a => .mulImm d a i) 3 fun x => x * i.signExtend 64) ∧
  Binary (.mulh true) 3 (fun x y => BitVec.ofNat 64 (x.toNat * y.toNat / 2 ^ 64)) ∧
  Binary (.mulh false) 3 (fun x y => BitVec.ofInt 64 (x.toInt * y.toInt / 2 ^ 64)) ∧
  Binary .and 1 (· &&& ·) ∧ Binary .or 1 (· ||| ·) ∧ Binary .xor 1 (· ^^^ ·) ∧
  Binary .andn 1 (fun x y => x &&& ~~~ y) ∧
  (∀ i : BitVec 24, Unary (fun d a => .andImm d a i) 1 fun x => x &&& i.signExtend 64) ∧
  (∀ i : BitVec 24, Unary (fun d a => .orImm d a i) 1 fun x => x ||| i.signExtend 64) ∧
  (∀ i : BitVec 24, Unary (fun d a => .xorImm d a i) 1 fun x => x ^^^ i.signExtend 64) ∧
  Binary .shl 1 (fun x y => x <<< (y.toNat % 64)) ∧ Binary .shr 1 (fun x y => x >>> (y.toNat % 64)) ∧
  Binary .sar 1 (fun x y => x.sshiftRight (y.toNat % 64)) ∧ Binary .rol 1 (fun x y => x.rotateLeft (y.toNat % 64)) ∧
  Binary .ror 1 (fun x y => x.rotateRight (y.toNat % 64)) ∧
  (∀ k : BitVec 6, Unary (fun d a => .shlImm d a k) 1 fun x => x <<< k.toNat) ∧
  (∀ k : BitVec 6, Unary (fun d a => .shrImm d a k) 1 fun x => x >>> k.toNat) ∧
  (∀ k : BitVec 6, Unary (fun d a => .sarImm d a k) 1 fun x => x.sshiftRight k.toNat) ∧
  (∀ k : BitVec 6, Unary (fun d a => .rorImm d a k) 1 fun x => x.rotateRight k.toNat)

/-- DIV and REM: opcodes 0x04 and 0x05 with the fields d, a, b and the bit of .U; quotient and remainder with the corners of
R192, signed and unsigned. -/
def Obligations.Division : Prop :=
  (∀ u, Binary (.div u) 20 fun a b =>
    if b = 0 then 0xFFFFFFFFFFFFFFFF
    else if u = false ∧ a = 0x8000000000000000 ∧ b = -1 then 0x8000000000000000
    else if u then BitVec.ofNat 64 (a.toNat / b.toNat)
    else BitVec.ofInt 64 (Int.tdiv a.toInt b.toInt)) ∧
  (∀ u, Binary (.rem u) 20 fun a b =>
    if b = 0 then a
    else if u = false ∧ a = 0x8000000000000000 ∧ b = -1 then 0
    else if u then BitVec.ofNat 64 (a.toNat - a.toNat / b.toNat * b.toNat)
    else BitVec.ofInt 64 (a.toInt - Int.tdiv a.toInt b.toInt * b.toInt)) ∧
  ∀ u d a b, ∃ fn, fn.testBit 0 = u ∧ encodeFields (.div u d a b) = some (.a, 0x04, .a3 d.num a.num b.num 0 0 fn) ∧
    encodeFields (.rem u d a b) = some (.a, 0x05, .a3 d.num a.num b.num 0 0 fn)

/-- ADDC and SUBB: opcodes 0x0F and 0x10 with the carry-out in e and the carry-in in c; the exact sum or difference with
a carry-in predicate, its low 64 bits, and the carry or borrow; a carry-out in p0 is discarded (R193). -/
def Obligations.CarryChains : Prop :=
  ∀ (s : State) (d a b : SOp) (pe pc : PReg) (x y : Word) (c : Bool),
    s.rdA a = .ok x → s.rdA b = .ok y → s.rdP pc = .ok c →
    exec (.addc d pe a b pc) s =
      .next (s.wrote 1 [s.dA d (BitVec.ofNat 64 (x.toNat + y.toNat + c.toNat)),
        s.dP pe (2 ^ 64 ≤ x.toNat + y.toNat + c.toNat)]) ∧
    exec (.subb d pe a b pc) s =
      .next (s.wrote 1 [s.dA d (x - y - BitVec.ofNat 64 c.toNat), s.dP pe (x.toNat < y.toNat + c.toNat)]) ∧
    (∃ fn, encodeFields (.addc d pe a b pc) = some (.a, 0x0F, .a3 d.num a.num b.num pc.val pe.val fn) ∧
      encodeFields (.subb d pe a b pc) = some (.a, 0x10, .a3 d.num a.num b.num pc.val pe.val fn)) ∧
    ∀ (k : Bank) (v : Bool), k.writeRes (.p 0 v) = k

/-- MIN, MAX, ABS, CMP and SEL: orders signed or unsigned, every condition of CMP with its negation in the second predicate,
the selected source; PLOG's truth table and the three forms of PMOV (R191, R198 to R201). -/
def Obligations.ScalarOrder : Prop :=
  (Binary (.min true) 1 (fun x y => if x.toNat ≤ y.toNat then x else y) ∧
   Binary (.min false) 1 (fun x y => if x.toInt ≤ y.toInt then x else y) ∧
   Binary (.max true) 1 (fun x y => if x.toNat ≤ y.toNat then y else x) ∧
   Binary (.max false) 1 (fun x y => if x.toInt ≤ y.toInt then y else x) ∧
   (∀ i : BitVec 24, Unary (fun d a => .minImm true d a i) 1
     fun x => if x.toNat ≤ (i.signExtend 64).toNat then x else i.signExtend 64) ∧
   (∀ i : BitVec 24, Unary (fun d a => .minImm false d a i) 1 fun x => if x.toInt ≤ i.toInt then x else i.signExtend 64) ∧
   (∀ i : BitVec 24, Unary (fun d a => .maxImm true d a i) 1
     fun x => if x.toNat ≤ (i.signExtend 64).toNat then i.signExtend 64 else x) ∧
   (∀ i : BitVec 24, Unary (fun d a => .maxImm false d a i) 1 fun x => if x.toInt ≤ i.toInt then i.signExtend 64 else x) ∧
   Unary .abs 1 (fun x => BitVec.ofNat 64 x.toInt.natAbs) ∧
   (∀ (s : State) (k : Cond) (pd pe : PReg) (a b : SOp) (x y : Word), s.rdA a = .ok x → s.rdA b = .ok y →
     ∃ c : Bool, exec (.cmp k pd pe a b) s = .next (s.wrote 1 [s.dP pd c, s.dP pe (!c)]) ∧
       c = (match k with
         | .eq => decide (x = y) | .ne => decide (x ≠ y)
         | .lt => decide (x.toInt < y.toInt) | .ge => decide (y.toInt ≤ x.toInt)
         | .le => decide (x.toInt ≤ y.toInt) | .gt => decide (y.toInt < x.toInt)
         | .ltu => decide (x.toNat < y.toNat) | .geu => decide (y.toNat ≤ x.toNat)
         | .leu => decide (x.toNat ≤ y.toNat) | .gtu => decide (y.toNat < x.toNat)
         | .tst => decide (x &&& y ≠ 0) | .tstz => decide (x &&& y = 0))) ∧
   (∀ (s : State) (k : Cond) (pd : PReg) (a : SOp) (i : BitVec 24) (x : Word), s.rdA a = .ok x →
     exec (.cmpImm k pd a i) s = .next (s.wrote 1 [s.dP pd (condHolds k x (i.signExtend 64))])) ∧
   (∀ (s : State) (d a b : SOp) (pc : PReg) (c : Bool) (x y : Word), s.rdP pc = .ok c → s.rdA a = .ok x →
     s.rdA b = .ok y → exec (.sel d pc a b) s = .next (s.wrote 1 [s.dA d (if c then x else y)]))) ∧
  (∀ (s : State) (tt : BitVec 4) (d a b : PReg) (sd sa : SOp) (x y : Bool) (w : Word),
     s.rdP a = .ok x → s.rdP b = .ok y → s.rdA sa = .ok w →
     exec (.plog tt d a b) s = .next (s.wrote 1 [s.dP d (tt.getLsbD ((if x then 2 else 0) + (if y then 1 else 0)))]) ∧
     exec (.pmov (.pp d a)) s = .next (s.wrote 1 [s.dP d x]) ∧
     exec (.pmov (.sp sd a)) s = .next (s.wrote 1 [s.dA sd (if x then 1 else 0)]) ∧
     exec (.pmov (.ps d sa)) s = .next (s.wrote 1 [s.dP d (decide (w ≠ 0))]))

/-- CLZ, CTZ, POPC, BSWAP, BREV, CLMUL and BMATCH, each by the bits of its result (R191, R194, R195). -/
def Obligations.ScalarBits : Prop :=
  ∀ (s : State) (d a b : SOp) (x y : Word), s.rdA a = .ok x → s.rdA b = .ok y →
    (∃ n, n ≤ 64 ∧ exec (.clz d a) s = .next (s.wrote 1 [s.dA d (BitVec.ofNat 64 n)]) ∧
      (∀ k < 64, 64 - n ≤ k → x.getLsbD k = false) ∧ (n < 64 → x.getLsbD (63 - n) = true)) ∧
    (∃ n, n ≤ 64 ∧ exec (.ctz d a) s = .next (s.wrote 1 [s.dA d (BitVec.ofNat 64 n)]) ∧
      (∀ k < n, x.getLsbD k = false) ∧ (n < 64 → x.getLsbD n = true)) ∧
    exec (.popc d a) s = .next (s.wrote 1 [s.dA d (BitVec.ofNat 64 ((List.range 64).countP fun k => x.getLsbD k))]) ∧
    (∃ v : Word, exec (.bswap d a) s = .next (s.wrote 1 [s.dA d v]) ∧
      ∀ k < 8, v.extractLsb' (8 * k) 8 = x.extractLsb' (8 * (7 - k)) 8) ∧
    (∃ v : Word, exec (.brev d a) s = .next (s.wrote 1 [s.dA d v]) ∧ ∀ k < 64, v.getLsbD k = x.getLsbD (63 - k)) ∧
    (∃ p : Nat, exec (.clmul false d a b) s = .next (s.wrote 3 [s.dA d (BitVec.ofNat 64 p)]) ∧
      exec (.clmul true d a b) s = .next (s.wrote 3 [s.dA d (BitVec.ofNat 64 (p / 2 ^ 64))]) ∧
      ∀ j < 128, p.testBit j = ((List.range 64).countP (fun k => y.getLsbD k && (k ≤ j) && x.getLsbD (j - k)) % 2 == 1)) ∧
    (∀ ne, ∃ v : Word, exec (.bmatch ne d a b) s = .next (s.wrote 1 [s.dA d v]) ∧
      (∀ j < 8, v.getLsbD j = ((x.extractLsb' (8 * j) 8 == y.extractLsb' 0 8) != ne)) ∧
      ∀ j, 8 ≤ j → v.getLsbD j = false)

/-- BFX, BFI, SEXT, ZEXT and MOVI: the field of min(width, 64 - pos) bits read or replaced, the extensions, and the three
modes of MOVI (R191, R196, R197). -/
def Obligations.ScalarFields : Prop :=
  (∀ (s : State) (d a b c : SOp) (o x p w : Word), s.rdA d = .ok o → s.rdA a = .ok x → s.rdA b = .ok p →
    s.rdA c = .ok w →
    let pos := p.toNat % 64
    let n := Nat.min w.toNat (64 - pos)
    (∃ v : Word, exec (.bfx false d a b c) s = .next (s.wrote 1 [s.dA d v]) ∧
      ∀ k < 64, v.getLsbD k = (decide (k < n) && x.getLsbD (pos + k))) ∧
    (∃ v : Word, exec (.bfx true d a b c) s = .next (s.wrote 1 [s.dA d v]) ∧
      ∀ k < 64, v.getLsbD k = (decide (0 < n) && x.getLsbD (pos + Nat.min k (n - 1)))) ∧
    (∃ v : Word, exec (.bfi d a b c) s = .next (s.wrote 1 [s.dA d v]) ∧
      ∀ k < 64, v.getLsbD k = if pos ≤ k ∧ k < pos + n then x.getLsbD (k - pos) else o.getLsbD k)) ∧
  (∀ (s : State) (d a : SOp) (o x : Word) (p : BitVec 6) (w : BitVec 7), s.rdA d = .ok o → s.rdA a = .ok x →
    let n := Nat.min w.toNat (64 - p.toNat)
    (∃ v : Word, exec (.bfxImm false d a p w) s = .next (s.wrote 1 [s.dA d v]) ∧
      ∀ k < 64, v.getLsbD k = (decide (k < n) && x.getLsbD (p.toNat + k))) ∧
    (∃ v : Word, exec (.bfxImm true d a p w) s = .next (s.wrote 1 [s.dA d v]) ∧
      ∀ k < 64, v.getLsbD k = (decide (0 < n) && x.getLsbD (p.toNat + Nat.min k (n - 1)))) ∧
    (∃ v : Word, exec (.bfiImm d a p w) s = .next (s.wrote 1 [s.dA d v]) ∧
      ∀ k < 64, v.getLsbD k = if p.toNat ≤ k ∧ k < p.toNat + n then x.getLsbD (k - p.toNat) else o.getLsbD k)) ∧
  Unary (.sext .w8) 1 (fun x => (x.setWidth 8).signExtend 64) ∧
  Unary (.sext .w16) 1 (fun x => (x.setWidth 16).signExtend 64) ∧
  Unary (.sext .w32) 1 (fun x => (x.setWidth 32).signExtend 64) ∧
  Unary (.zext .w8) 1 (fun x => (x.setWidth 8).setWidth 64) ∧
  Unary (.zext .w16) 1 (fun x => (x.setWidth 16).setWidth 64) ∧
  Unary (.zext .w32) 1 (fun x => (x.setWidth 32).setWidth 64) ∧
  (∀ (s : State) (d : SOp) (i : BitVec 32),
    exec (.movi .sext d i) s = .next (s.wrote 1 [s.dA d (i.signExtend 64)]) ∧
    exec (.movi .zext d i) s = .next (s.wrote 1 [s.dA d (i.setWidth 64)]) ∧
    ∀ o : Word, s.rdA d = .ok o → exec (.movi .hi d i) s = .next (s.wrote 1 [s.dA d (i ++ o.setWidth 32)]))

/-- A syllable of class A or V that goes through changes no register, no memory and no other bank at its issue: it adds
to the current bank's results in flight results for its destinations alone, and class A raises no cause (R156,
R189). -/
def Obligations.RegisterFormsFrame : Prop :=
  ∀ (i : Instr) (s t : State), i.unit = some .a ∨ i.unit = some .v → exec i s = .next t → t.stop = none →
    SameButIssue s t ∧
    ∃ ps : List Pending, t.me.inflight = s.me.inflight ++ ps ∧ ps.length ≤ 1 ∧
      ∀ p ∈ ps, (∀ r ∈ p.res, r.place ∈ (s.dests i).map Res.place) ∧ s.clk < p.due ∧
        (i.unit = some .a → p.causes = {})

/-! ## Class B (R203 to R212) -/

/-- NOP n makes the next bundle issue n cycles later than the next cycle, after a ring wait of its bundle too; BR goes to its
target, JR and RET to their register, CALL and CALLR as well with the next sequential address as their result, the register
read before; a taken one of these makes the next bundle issue two cycles on; an indirect target whose bits 2:0 are not zero
is the alignment fault at the branch bundle, whose value is the target (R203, R204, R209). -/
def Obligations.Branches : Prop :=
  ∀ (s : State) (d a : SReg) (x : Word) (disp : BitVec 32) (n : BitVec 16), s.rdS a = .ok x →
    let goto (s : State) (pc : Word) : State :=
      { s.modMe (fun b => { b with nextIssue := s.clk + 2 }) with nextPc := pc, stop := none }
    exec (.nop n) s = .next (s.modMe fun b => { b with nextIssue := s.clk + 1 + n.toNat, delay := n.toNat }).on ∧
    exec (.br disp) s = .next (goto s (s.epc + 8 * disp.signExtend 64)) ∧
    exec (.call d disp) s = .next (goto (s.wrote 1 [s.dS d s.nextPc]) (s.epc + 8 * disp.signExtend 64)) ∧
    (x.toNat % 8 = 0 →
      exec (.jr a) s = .next (goto s x) ∧ exec (.ret a) s = .next (goto s x) ∧
      exec (.callr d a) s = .next (goto (s.wrote 1 [s.dS d s.nextPc]) x)) ∧
    (x.toNat % 8 ≠ 0 →
      exec (.jr a) s = .next (s.trapped { cause := 0x15, val := x }) ∧
      exec (.ret a) s = .next (s.trapped { cause := 0x15, val := x }) ∧
      exec (.callr d a) s = .next (s.trapped { cause := 0x15, val := x }))

/-- LOOP: the counter less one modulo 2^64; with a counter other than one the bases of the named files go back by one and
control goes to the target with no idle cycle; with a counter of one neither happens (R205). -/
def Obligations.LoopStep : Prop :=
  ∀ (s : State) (a : SReg) (rs rv rp : Bool) (disp : BitVec 32) (x : Word), s.rdS a = .ok x →
    (x = 1 → exec (.loop a rs rv rp disp) s = .next (s.wrote 1 [s.dS a 0])) ∧
    (x ≠ 1 → ∃ t, exec (.loop a rs rv rp disp) s = .next t ∧ t.stop = none ∧
      t.nextPc = s.epc + 8 * disp.signExtend 64 ∧ t.me.nextIssue = s.me.nextIssue ∧
      t.me.inflight = s.me.inflight ++ [{ due := s.clk + 1, res := [s.dS a (x - 1)], causes := {}, seq := s.nextId }] ∧
      t.me.rotS = (if rs then s.me.rotS - 1 else s.me.rotS) ∧ t.me.rotV = (if rv then s.me.rotV - 1 else s.me.rotV) ∧
      t.me.rotP = (if rp then s.me.rotP - 1 else s.me.rotP) ∧ t.me.s = s.me.s ∧ t.mem = s.mem ∧
      ∀ b, b ≠ s.cur → t.bank b = s.bank b)

/-- STAGE.END with a bound output port short of its declared count is the rate trap at its bundle, whose TVAL is the
lowest-numbered short port, once no interlocked result of an earlier bundle is awaited; else it begins its waits, in a
ring wait of its bundle without the core. Once every result of the iteration is written it goes on: while a copy into a
slot that has been put, or out of a slot being freed, is incomplete the bank gives up the core and waits; afterwards it
waits for the core again (R25, R40, R128, R130, R207, R326).
What the manual leaves open here is as log entries 13 and 14 say. -/
def Obligations.StageEnd : Prop :=
  (∀ s : State,
    let short (i : Fin 16) : Prop := 8 ≤ i.val ∧ s.me.ports[i].peer ≠ .none ∧ s.me.ports[i].puts < s.me.ports[i].rate
    ((∀ i, ¬ short i) → exec .stageEnd s =
      .next (s.modMe fun b => { b with mode := if b.mode = .ringWait then .endWait else .ending }).on) ∧
    ∀ i, short i → (∀ j, j < i → ¬ short j) →
      ((∃ r ∈ s.me.busy, r.2 < s.ownFrom) → exec .stageEnd s = .next (s.stopped .stall)) ∧
      ((∀ r ∈ s.me.busy, s.ownFrom ≤ r.2) →
        exec .stageEnd s = .next (s.trapped { cause := 0x20, val := BitVec.ofNat 64 i.val }))) ∧
  (∀ (s : State) (b : BankIx), let x := s.bank b
    ((x.mode ≠ .ending ∧ x.mode ≠ .endWait ∧ x.mode ≠ .ended) ∨ (s.cog b.cog).failed = true →
      exec (.commit b) s = .next s) ∧
    (x.mode = .ending → s.written b = false → exec (.commit b) s = .next s) ∧
    (x.mode = .ending → s.written b = true → (s.cog b.cog).failed = false → (s.cog b.cog).heldFrom ≤ s.clk →
      (s.endCopies b = true → ∃ t, exec (.commit b) s = .next t ∧ (t.bank b).mode = .endWait ∧
        t.holds b = false ∧ (t.bank b).regs = x.regs ∧ t.mem = s.mem) ∧
      (s.endCopies b = false → x.puts ≠ [] → exec (.commit b) s = .next s)) ∧
    (x.mode = .endWait → (s.endCopies b = true → exec (.commit b) s = .next s) ∧
      (s.endCopies b = false → (s.cog b.cog).failed = false →
        exec (.commit b) s = .next (s.modBank b fun x => { x with mode := .endReady }))) ∧
    (s.written b = true ↔ x.inflight = [] ∧ x.busy = [] ∧ s.mBusy b = false ∧ ∀ y ∈ s.accesses, y.bank = b →
      (∀ t, y.owner ≠ .munit t) ∧ (y.owner = .bank → y.kind ≠ .load ∧
        (y.kind = .atomic → ∀ g ∈ y.segs, ∀ f ∈ s.freedSlots b, segOverlaps g f = false))))

/-- WAIT.TIME, SLEEP.UNTIL and TIME.READ: past the target, or with no incomplete copy, nothing happens; else the bank
gives up the core and sleeps until the target; TIME.READ gives TIME at issue (R210 to R212). -/
def Obligations.Sleeping : Prop :=
  ∀ (s : State) (a d : SReg) (disp : BitVec 32) (x : Word), s.rdS a = .ok x →
    let target := x + disp.signExtend 64
    (target.toNat ≤ s.time.toNat →
      exec (.waitTime a disp) s = .next s.on ∧ exec (.sleepUntil a disp) s = .next s.on) ∧
    ((∀ c ∈ s.copies, c.bank ≠ s.cur) → exec (.sleepUntil a disp) s = .next s.on) ∧
    (s.time.toNat < target.toNat →
      exec (.waitTime a disp) s = .next ((s.modMe fun b => { b with mode := .sleepTime target }).yield s.cur).on ∧
      ((∃ c ∈ s.copies, c.bank = s.cur) →
        exec (.sleepUntil a disp) s = .next ((s.modMe fun b => { b with mode := .sleepCopy target }).yield s.cur).on)) ∧
    exec (.timeRead d) s = .next (s.wrote 1 [s.dS d s.time])

/-! ## Traps (R323 to R331, R252) -/

/-- A trap taken in a drained bank with a handler: TCAUSE, TEPC and TVAL are written, HMODE is set, control goes to
TVEC, and registers, bases, memory and every other bank stay; the rate trap and the budget trap abandon the iteration
first. With TVEC zero the action of R326 runs: a machine check and the software trap are recorded and the bank goes on
at TEPC; the timing trap goes back to RSTPT, asleep until its promise while a copy is incomplete and the promise lies
ahead; the budget trap is recorded and the iteration abandoned, to be run again; every other cause stops the bank with
one record. The eighth budget trap in a row, and a second trap while a handler runs, stop the bank whatever TVEC holds
(R37, R326 to R328, R330, R335, R336).
What the manual leaves open here is as log entries 13 and 21 say. -/
def Obligations.TrapEntry : Prop :=
  (∀ (s : State) (b : BankIx) (t : Trap) (epc : Word), (s.bank b).hmode = false → (s.bank b).tvec ≠ 0 →
     t.cause ≠ 0x04 → t.cause ≠ 0x20 →
     let u := s.enterTrap b t epc
     let x := s.bank b
     let y := u.bank b
     y.hmode = true ∧ y.aband = x.aband ∧ y.pc = x.tvec ∧ y.tepc = epc ∧ y.tval = t.val ∧
     y.tcause = BitVec.ofNat 64 (t.cause + 256 * t.sub + (if t.fetch then 2 ^ 20 else 0) + 2 ^ 21 * t.slot) ∧
     y.s = x.s ∧ y.p = x.p ∧ y.v = x.v ∧ y.q = x.q ∧ y.t = x.t ∧ y.c = x.c ∧ y.cWork = x.cWork ∧ y.h = x.h ∧ y.g = x.g ∧
     y.rotS = x.rotS ∧ y.rotV = x.rotV ∧ y.rotP = x.rotP ∧ y.tvec = x.tvec ∧ y.tscr0 = x.tscr0 ∧ y.tscr1 = x.tscr1 ∧
     y.live = x.live ∧ u.mem = s.mem ∧ u.hub = s.hub ∧ ∀ c, c ≠ b → u.bank c = s.bank c) ∧
  (∀ (s : State) (b : BankIx) (t : Trap) (epc : Word), (s.bank b).hmode = false → (s.bank b).tvec ≠ 0 →
     t.cause = 0x20 ∨ (t.cause = 0x04 ∧ (s.bank b).budgetRow < 7) →
     let y := (s.enterTrap b t epc).bank b
     let x := s.bank b
     y.hmode = true ∧ y.aband = true ∧ y.live = false ∧ y.pc = x.tvec ∧ y.cWork = x.c ∧ y.cvWork = x.cv ∧ y.rotS = 0 ∧
     y.rotV = 0 ∧ y.rotP = 0 ∧ (∀ i : Fin 16, y.ports[i].reserved = 0) ∧ y.s = x.s ∧ y.v = x.v ∧ y.tepc = epc) ∧
  (∀ (s : State) (b : BankIx) (t : Trap) (epc : Word), (s.bank b).hmode = true →
     let u := s.enterTrap b t epc
     (u.bank b).mode = .stopped ∧ (u.bank b).hmode = false ∧ (u.bank b).live = false ∧ u.holds b = false ∧
     (u.bank b).tcause = t.tcause ∧ (u.bank b).tepc = epc ∧ (u.bank b).tval = t.val ∧ u.mem = s.mem ∧
     ((s.bank b).pend.copyErr = [] → s.TrapRecorded u b epc t.val 1 t.cause 0x3F)) ∧
  (∀ (s : State) (b : BankIx) (t : Trap) (epc : Word), (s.bank b).hmode = false →
     let u := s.enterTrap b t epc
     let x := s.bank b
     let y := u.bank b
     let once (action : Nat) : Prop := x.pend.copyErr = [] → s.TrapRecorded u b epc t.val action t.sub t.cause
     let stops : Prop := y.mode = .stopped ∧ y.live = false ∧ u.holds b = false ∧ once 1
     (t.cause = 0x04 → 7 ≤ x.budgetRow → stops) ∧
     (x.tvec = 0 →
       y.tcause = t.tcause ∧ y.tepc = epc ∧ y.tval = t.val ∧ y.hmode = false ∧ u.mem = s.mem ∧ y.s = x.s ∧ y.p = x.p ∧
       y.v = x.v ∧ y.q = x.q ∧ y.t = x.t ∧ (∀ c, c ≠ b → u.bank c = s.bank c) ∧
       (t.cause = 0x01 ∨ t.cause = 0x21 → y.pc = epc ∧ y.mode = .ready ∧ u.holds b = false ∧ y.live = x.live ∧
         y.regs.c = x.regs.c ∧ y.cWork = x.cWork ∧ y.regs.rot = x.regs.rot ∧
         s.TrapRecorded u b epc t.val 2 t.sub t.cause) ∧
       (t.cause = 0x03 → y.pc = x.rstpt ∧ y.regs.rot = x.rstRot ∧ y.live = x.live ∧ y.cWork = x.cWork ∧ u.hub = s.hub ∧
         (∀ i : Fin 16, y.ports[i].puts = x.ports[i].rstPuts) ∧
         (t.val.toNat ≤ s.time.toNat ∨ (∀ c ∈ s.copies, c.bank ≠ b) →
           u.holds b = s.holds b ∧ y.mode = if s.holds b then .running else .ready) ∧
         (s.time.toNat < t.val.toNat → (∃ c ∈ s.copies, c.bank = b) →
           u.holds b = false ∧ y.mode = .sleepTrap t.val)) ∧
       (t.cause = 0x04 → x.budgetRow < 7 → y.mode = .idle ∧ y.live = false ∧ y.rerun = true ∧ u.holds b = false ∧
         y.budgetRow = x.budgetRow + 1 ∧ y.cWork = x.c ∧ y.cvWork = x.cv ∧ y.regs.rot = (0, 0, 0) ∧
         (∀ i : Fin 16, y.ports[i].reserved = 0 ∧ y.ports[i].puts = 0) ∧ once 3) ∧
       (t.cause ≠ 0x01 → t.cause ≠ 0x03 → t.cause ≠ 0x04 → t.cause ≠ 0x21 → stops)))

/-- TRAP takes the software trap after the bundle: with nothing in flight the handler starts, TVAL holds the code and
TEPC the next sequential bundle; with something in flight the bank drains first; with a RING.PUT of its bundle in a ring
wait it is taken when that put's copy is complete (R208, R324, R326, R327). R208 says only that the trap is taken after
every syllable of the bundle has taken effect: what a bank that drains waits for, and that a put in a ring wait is part
of it, is the model's reading (log entry 13). -/
def Obligations.SoftwareTrap : Prop :=
  ∀ (s : State) (n : BitVec 16), let t0 : Trap := { cause := 0x21, slot := s.slot, val := n.setWidth 64 }
    (s.me.mode ≠ .ringWait → s.draining s.cur = false → s.me.hmode = false → s.me.tvec ≠ 0 →
      ∃ t, exec (.trap n) s = .next t ∧ t.stop = some .taken ∧ t.me.pc = s.me.tvec ∧ t.me.tepc = s.nextPc ∧
        t.me.tval = n.setWidth 64 ∧ t.me.tcause = BitVec.ofNat 64 (0x21 + 2 ^ 21 * s.slot) ∧ t.me.hmode = true ∧
        t.me.s = s.me.s ∧ t.mem = s.mem) ∧
    (s.me.mode ≠ .ringWait → s.draining s.cur = true → exec (.trap n) s =
      .next { s.modMe (fun b => { b with mode := .trapping t0 s.nextPc }) with stop := some .taken }) ∧
    (s.me.mode = .ringWait → exec (.trap n) s = .next (s.modMe fun b => { b with afterTrap := some (t0, s.nextPc) }).on) ∧
    (∀ b e, (s.bank b).mode = .ringWait → (s.bank b).puts = [] → (s.bank b).afterTrap = some (t0, e) →
      ∃ u : State, s.putsAct b = u.raise b t0 e ∧ (u.bank b).regs = (s.bank b).regs ∧ u.mem = s.mem)

/-- TRET in a handler: HMODE and ABAND clear; after an abandon the bank is idle, else control returns to TEPC, or with RST
to RSTPT with ROT and the put counts of the restart point, two cycles on (R256, R329, R333). -/
def Obligations.TrapReturn : Prop :=
  ∀ (s : State) (rst : Bool), s.me.hmode = true →
    ∃ t, exec (.tret rst) s = .next t ∧ t.stop = some .taken ∧ t.me.hmode = false ∧ t.me.aband = false ∧ t.mem = s.mem ∧
      t.me.s = s.me.s ∧ (s.me.aband = true → t.me.mode = .idle) ∧
      (s.me.aband = false → t.me.nextIssue = s.clk + 2 ∧
        (rst = false → t.me.pc = s.me.tepc ∧ t.me.rotS = s.me.rotS) ∧
        (rst = true → t.me.pc = s.me.rstpt ∧ t.me.rotS = s.me.rstRot.1 ∧ t.me.rotV = s.me.rstRot.2.1 ∧
          t.me.rotP = s.me.rstRot.2.2 ∧ ∀ i : Fin 16, t.me.ports[i].puts = s.me.ports[i].rstPuts))

/-- WIN.LD, TLB.INV and TRET outside a trap handler raise the illegal-instruction trap with the bundle's address (R252,
R326). -/
def Obligations.HandlerOnly : Prop :=
  ∀ (s : State) (d a : SReg) (e : Fin 64) (o rst : Bool) (form : TlbInvForm), s.me.hmode = false →
    exec (.winLd d e a o) s = .next (s.trapped { cause := 0x12, val := s.epc }) ∧
    exec (.tlbInv form) s = .next (s.trapped { cause := 0x12, val := s.epc }) ∧
    exec (.tret rst) s = .next (s.trapped { cause := 0x12, val := s.epc })

/-! ## Class V (R257 to R283) -/

/-- The arithmetic of class V, element by element under the mask: integers exact then wrapped or clamped, four-way dot
products; of floats a NaN operand gives the canonical NaN with INV if one is signalling, inf - inf and 0 x inf the canonical
NaN with INV, an infinity of the right sign otherwise, and finite operands their exact sum, difference, product, fused sum
or absolute difference, rounded once, a zero sum with the sign of R60; VROUND gives the integer of its direction (R58, R60,
R260, R262, R264, R265). -/
def Obligations.LaneArithmetic : Prop :=
  (∀ (t : EType) (rm : RMode) (sat : Bool), t.isInt = true →
    Lanes2 (.vadd t rm sat) 4 t (fun x y => intOut t sat (intVal t x + intVal t y)) ∧
    Lanes2 (.vsub t rm sat) 4 t (fun x y => intOut t sat (intVal t x - intVal t y)) ∧
    Lanes2 (.vmul t rm sat) 4 t (fun x y => intOut t sat (intVal t x * intVal t y)) ∧
    Lanes2 (.vabsd t rm sat) 4 t (fun x y => intOut t sat (intVal t x - intVal t y).natAbs)) ∧
  (∀ (t : EType) (rm : RMode), t.isFloat = true →
    Lanes2 (.vadd t rm false) 4 t (fAdd t rm) ∧ Lanes2 (.vsub t rm false) 4 t (fSub t rm) ∧
    Lanes2 (.vmul t rm false) 4 t (fMul t rm) ∧ Lanes2 (.vabsd t rm false) 4 t (fAbsDiff t rm)) ∧
  (∀ (t : EType) (rm : RMode) (np nc : Bool) (a b c : Nat), t.isFloat = true →
    let x := decodeF t a
    let y := decodeF t b
    let z := decodeF t c
    let nan (sig : Bool) : Nat × Causes := (canonNan t, if sig then invalid else {})
    let inf (neg : Bool) : Nat × Causes := (withSign t neg (infBits t), {})
    (x.isNan = true ∨ y.isNan = true → fAdd t rm a b = nan (x.isSig || y.isSig) ∧
      fSub t rm a b = nan (x.isSig || y.isSig) ∧ fMul t rm a b = nan (x.isSig || y.isSig) ∧
      fAbsDiff t rm a b = nan (x.isSig || y.isSig)) ∧
    (x.isNan = true ∨ y.isNan = true ∨ z.isNan = true →
      fFma t rm np nc a b c = nan (x.isSig || y.isSig || z.isSig)) ∧
    (x.isNan = true → fRound t rm a = nan x.isSig) ∧
    (∀ p, x = .inf p → fRound t rm a = (a, {}) ∧
      (∀ q, y = .inf q → fAdd t rm a b = (if p = q then inf p else nan true) ∧
        fSub t rm a b = (if p = q then nan true else inf p) ∧ fMul t rm a b = inf (p != q) ∧
        fAbsDiff t rm a b = if p = q then nan true else inf false) ∧
      (∀ n m e, y = .num n m e → fAdd t rm a b = inf p ∧ fAdd t rm b a = inf p ∧ fSub t rm a b = inf p ∧
        fSub t rm b a = inf (!p) ∧ fAbsDiff t rm a b = inf false ∧ fAbsDiff t rm b a = inf false ∧
        (m = 0 → fMul t rm a b = nan true ∧ fMul t rm b a = nan true ∧
          (z.isNan = false → fFma t rm np nc a b c = nan true ∧ fFma t rm np nc b a c = nan true)) ∧
        (m ≠ 0 → fMul t rm a b = inf (p != n) ∧ fMul t rm b a = inf (p != n) ∧
          (∀ q, z = .inf q → fFma t rm np nc a b c =
            if ((p != n) != np) = (q != nc) then inf (q != nc) else nan true) ∧
          ∀ k l r, z = .num k l r → fFma t rm np nc a b c = inf ((p != n) != np)))) ∧
    (∀ n m e n' m' e', x = .num n m e → y = .num n' m' e' →
      fAdd t rm a b = finiteSum t rm n m e n' m' e' ∧ fSub t rm a b = finiteSum t rm n m e (!n') m' e' ∧
      fMul t rm a b = encodeF t rm (.num (n != n') (m * m') (e + e')) ∧
      (let q := min e e'
       fAbsDiff t rm a b = encodeF t rm (.num false (signedAt n m e q - signedAt n' m' e' q).natAbs q)) ∧
      (∀ q, z = .inf q → fFma t rm np nc a b c = inf (q != nc)) ∧
      ∀ k l r, z = .num k l r →
        fFma t rm np nc a b c = finiteSum t rm ((n != n') != np) (m * m') (e + e') (k != nc) l r) ∧
    (∀ n m e, x = .num n m e → (m = 0 ∨ 0 ≤ e → fRound t rm a = (a, {})) ∧
      (m ≠ 0 → e < 0 → ∃ k : Nat, RoundsTo rm n m e k ∧ (fRound t rm a).1 = (encodeF t .rne (.num n k 0)).1 ∧
        (IsInteger m e k → (fRound t rm a).2 = {}) ∧ (¬ IsInteger m e k → (fRound t rm a).2 = { inx := 1 })))) ∧
  (∀ (t : EType) (rm : RMode),
    Lanes3 (.vfma t rm) 4 t (fFma t rm false false) ∧ Lanes3 (.vfms t rm) 4 t (fFma t rm false true) ∧
    Lanes3 (.vfnma t rm) 4 t (fFma t rm true false) ∧ Lanes3 (.vfnms t rm) 4 t (fFma t rm true true) ∧
    Lanes1 (.vround t rm) 4 t (fRound t rm)) ∧
  (∀ t : EType, Lanes2 (.vmulh t) 4 t fun x y =>
    (((intVal t x * intVal t y % 2 ^ (2 * t.width)).toNat / 2 ^ t.width), {})) ∧
  (∀ (t : EType) (sat : Bool), Lanes3 (.vmad t sat) 4 t fun x y z =>
    intOut t sat (intVal t x * intVal t y + intVal t z)) ∧
  (∀ (s : State) (t : EType) (bu sat : Bool) (d a b c : VReg) (m : VMask) (x y z : Vec), s.rdV a = .ok x →
    s.rdV b = .ok y → s.rdV c = .ok z →
    let bt := if bu then EType.uint8 else .int8
    let p (n j : Nat) : Int := intVal t (lane 8 x (4 * n + j)) * intVal bt (lane 8 y (4 * n + j))
    exec (.vdot4 t bu sat d a b c m) s = .next (s.lanes 4 32 d m fun n =>
      intOut .int32 sat (intVal .int32 (lane 32 z n) + p n 0 + p n 1 + p n 2 + p n 3)))

/-- Minimum, maximum, absolute value, negation, sign copy, class, counts and shifts of elements: of floats the smaller or
larger operand with -0 below +0, a NaN giving the canonical NaN and INV if signalling; the one class bit of each value; an
unsigned amount of the width or more gives zero, or the sign; a field shifted right arithmetically by n holds, read as a
signed number, the quotient by 2^n rounded down (R263, R264, R267, R269). -/
def Obligations.LaneSelect : Prop :=
  ((∀ t : EType, t.isInt = true →
     Lanes2 (.vmin t) 2 t (fun x y => (if intVal t x ≤ intVal t y then x else y, {})) ∧
     Lanes2 (.vmax t) 2 t (fun x y => (if intVal t y ≤ intVal t x then x else y, {})) ∧
     ∀ sat, Lanes1 (.vabs t sat) 2 t (fun x => intOut t sat (intVal t x).natAbs) ∧
       Lanes1 (.vneg t sat) 2 t (fun x => intOut t sat (-(intVal t x)))) ∧
   (∀ t : EType, t.isFloat = true →
     Lanes2 (.vmin t) 2 t (fMinMax t false) ∧ Lanes2 (.vmax t) 2 t (fMinMax t true) ∧
     ∀ sat, Lanes1 (.vabs t sat) 2 t (fun x => fSign t x (x % signBit t)) ∧
       Lanes1 (.vneg t sat) 2 t (fun x => fSign t x (x ^^^ signBit t))) ∧
   (∀ t : EType,
     Lanes2 (.vcpysgn t) 2 t (fun x y => fSign t x (withSign t (y / signBit t % 2 = 1) (x % signBit t))) ∧
     Lanes1 (.vclass t) 2 t (pure1 (classOf t)) ∧ Lanes1 (.vclz t) 2 t (pure1 fun x => t.width - bitLen x) ∧
     Lanes1 (.vpopc t) 2 t (pure1 fun x => (List.range t.width).countP fun k => x.testBit k)) ∧
   (∀ (t : EType) (n : Fin 64),
     Lanes1 (fun d a => .vshl t d a (.imm n)) 2 t (pure1 fun x => if t.width ≤ n.val then 0 else x * 2 ^ n.val % 2 ^ t.width) ∧
     Lanes1 (fun d a => .vshr t d a (.imm n)) 2 t (pure1 fun x => if t.width ≤ n.val then 0 else x / 2 ^ n.val) ∧
     Lanes1 (fun d a => .vsar t d a (.imm n)) 2 t (pure1 fun x => sarField t.width x n.val)) ∧
   (∀ t : EType,
     Lanes2 (fun d a b => .vshl t d a (.reg b)) 2 t (fun x n => (if t.width ≤ n then 0 else x * 2 ^ n % 2 ^ t.width, {})) ∧
     Lanes2 (fun d a b => .vshr t d a (.reg b)) 2 t (fun x n => (if t.width ≤ n then 0 else x / 2 ^ n, {})) ∧
     Lanes2 (fun d a b => .vsar t d a (.reg b)) 2 t (fun x n => (sarField t.width x n, {})))) ∧
  (∀ (t : EType) (x n : Nat), t.isInt = true → x < 2 ^ t.width →
     let v : Int := if x < 2 ^ (t.width - 1) then x else (x : Int) - 2 ^ t.width
     sarField t.width x n < 2 ^ t.width ∧ (sarField t.width x n : Int) % 2 ^ t.width = v / 2 ^ n % 2 ^ t.width) ∧
  (∀ (t : EType) (a b : Nat), t.isFloat = true → a < 2 ^ t.width → b < 2 ^ t.width →
     let x := decodeF t a
     let y := decodeF t b
     let nan (sig : Bool) : Nat × Causes := (canonNan t, if sig then invalid else {})
     signBit t = 2 ^ (t.width - 1) ∧
     (x.isNan = true ∨ y.isNan = true → ∀ mx, fMinMax t mx a b = nan (x.isSig || y.isSig)) ∧
     (FLess x y → fMinMax t false a b = (a, {}) ∧ fMinMax t false b a = (a, {}) ∧ fMinMax t true a b = (b, {}) ∧
       fMinMax t true b a = (b, {})) ∧
     (x.isNan = false → ∀ mx, fMinMax t mx a a = (a, {})) ∧
     (x.isNan = false → y.isNan = false → a ≠ b → FLess x y ∨ FLess y x) ∧
     (∀ r, (x.isNan = true → fSign t a r = nan x.isSig) ∧ (x.isNan = false → fSign t a r = (r, {}))) ∧
     classOf t a = 2 ^ (match x with
       | .inf true => 0
       | .num true m _ => if m = 0 then 3 else if m < 2 ^ fracBits t then 2 else 1
       | .num false m _ => if m = 0 then 4 else if m < 2 ^ fracBits t then 5 else 6
       | .inf false => 7
       | .nan true => 8
       | .nan false => 9))

/-- VAND, VOR, VXOR, VANDN on every bit of the active elements, VSEL by a lane mask or bit by bit, VCMP into a vector or
a lane mask, QLOG by its truth table, and every form of QMOV (R266, R268, R270 to R272). -/
def Obligations.VectorBits : Prop :=
  (∀ (s : State) (t : EType) (d a b c : VReg) (q : QReg) (m : VMask) (x y z : Vec), s.rdV a = .ok x → s.rdV b = .ok y →
     s.rdV c = .ok z →
     let into (v : Vec) : State := s.wrote 2 [s.dV d v (elemMask t.width (s.rdMask m))]
     exec (.vand t d a b m) s = .next (into (x &&& y)) ∧ exec (.vor t d a b m) s = .next (into (x ||| y)) ∧
     exec (.vxor t d a b m) s = .next (into (x ^^^ y)) ∧ exec (.vandn t d a b m) s = .next (into (x &&& ~~~ y)) ∧
     exec (.vsel t d a b (.bit c) m) s = .next (into ((x &&& z) ||| (y &&& ~~~ z))) ∧
     exec (.vsel t d a b (.q q) m) s =
       .next (into ((x &&& elemMask t.width (some (s.rdQ q))) ||| (y &&& ~~~ elemMask t.width (some (s.rdQ q)))))) ∧
  ((∀ (s : State) (t : EType) (k : VCond) (d a b : VReg) (q : QReg) (m : VMask) (x y : Vec), s.rdV a = .ok x →
     s.rdV b = .ok y →
     let w := t.width
     let f (i : Nat) := vcondHolds t k (lane w x i) (lane w y i)
     exec (.vcmp t k (.v d) a b m) s = .next (s.lanes 2 w d m fun i => (if (f i).1 then 2 ^ w - 1 else 0, (f i).2)) ∧
     (w = 32 ∨ w = 64 → ∃ v msk : Mask, ∃ cs,
       exec (.vcmp t k (.q q) a b m) s = .next (s.wrote 2 [.q q v msk] cs) ∧
       ∀ n < 128, msk.getLsbD n = active (s.rdMask m) w (n * 32 / w) ∧
         (msk.getLsbD n = true → v.getLsbD n = (f (n * 32 / w)).1))) ∧
   (∀ (s : State) (tt : BitVec 4) (d a b : QReg), ∃ v : Mask,
     exec (.qlog tt d a b) s = .next (s.wrote 2 [.q d v (BitVec.allOnes 128)]) ∧
     ∀ n < 128, v.getLsbD n =
       tt.getLsbD ((if (s.rdQ a).getLsbD n then 2 else 0) + (if (s.rdQ b).getLsbD n then 1 else 0))) ∧
   (∀ (s : State) (d a : QReg) (vd va : VReg) (sd sa sb : SReg) (x : Vec) (y z : Word), s.rdV va = .ok x →
     s.rdS sa = .ok y → s.rdS sb = .ok z →
     let q := s.rdQ a
     let into (v : Mask) : State := s.wrote 2 [.q d v (BitVec.allOnes 128)]
     exec (.qmov (.qq d a)) s = .next (into q) ∧ exec (.qmov (.qv d va)) s = .next (into (x.setWidth 128)) ∧
     exec (.qmov (.vq vd a)) s = .next (s.wrote 2 [s.dV vd (q.setWidth 4096) (BitVec.allOnes 4096)]) ∧
     (∃ v : Mask, exec (.qmov (.msb d va)) s = .next (into v) ∧ ∀ n < 128, v.getLsbD n = x.getLsbD (32 * n + 31)) ∧
     exec (.qmov (.cnt sd a)) s =
       .next (s.wrote 2 [s.dS sd (BitVec.ofNat 64 ((List.range 128).countP fun n => q.getLsbD n))]) ∧
     (∃ n, n ≤ 128 ∧ exec (.qmov (.first sd a)) s = .next (s.wrote 2 [s.dS sd (BitVec.ofNat 64 n)]) ∧
       (∀ k < n, q.getLsbD k = false) ∧ (n < 128 → q.getLsbD n = true)) ∧
     exec (.qmov (.set d sa sb)) s = .next (into (z ++ y)) ∧
     exec (.qmov (.lo sd a)) s = .next (s.wrote 2 [s.dS sd (q.setWidth 64)]) ∧
     exec (.qmov (.hi sd a)) s = .next (s.wrote 2 [s.dS sd ((q >>> 64).setWidth 64)])))

/-- What a vector result does to its register: an active element takes its value, an inactive one and every other
register stay (R157, R259). -/
def Obligations.ActiveLanes : Prop :=
  ∀ (b : Bank) (t : EType) (m : Option Mask) (f : Nat → Nat × Causes) (n k : Fin 64) (i : Nat), i < t.lanes → k ≠ n →
    let c := b.writeRes (.v n (vecMap t.width m f).1 (elemMask t.width m))
    lane t.width c.v[n] i = (if active m t.width i then (f i).1 % 2 ^ t.width else lane t.width b.v[n] i) ∧
    c.v[k] = b.v[k] ∧ c.q = b.q ∧ c.s = b.s

/-- An exact integer within its type is delivered as it is, with no cause; outside it, it is clamped to the nearer end with
SAT, or wrapped modulo 2^w with no cause (R264). -/
def Obligations.IntegerDelivery : Prop :=
  ∀ (t : EType) (sat : Bool) (x : Int), t.isInt = true →
    (intMin t ≤ x → x ≤ intMax t → intVal t (intOut t sat x).1 = x ∧ (intOut t sat x).2 = {}) ∧
    (x < intMin t → intVal t (intOut t true x).1 = intMin t ∧ (intOut t true x).2 = { sat := 1 }) ∧
    (intMax t < x → intVal t (intOut t true x).1 = intMax t ∧ (intOut t true x).2 = { sat := 1 }) ∧
    (2 ^ t.width : Int) ∣ intVal t (intOut t false x).1 - x ∧ (intOut t false x).2 = {}

/-- The floating formats: the value of every pattern; every pattern whose value is not a NaN is what its value rounds
to, under every rounding mode, with no cause; and any finite value is rounded once, between neighbours, into the
subnormal range, or beyond the greatest finite value, with the causes of the rule; a NaN gives the canonical NaN of a
format that has one, an infinity the infinity, or in a format without one the greatest finite value with saturation
(R54, R55, R58 to R61, R64, R66). -/
def Obligations.FormatsRoundTrip : Prop :=
  FormatValue .fp32 23 8 127 ∧ FormatValue .bf16 7 8 127 ∧ FormatValue .fp8e4 3 4 7 ∧ FormatValue .fp8e5 2 5 15 ∧
  FormatValue .mxfp4 1 2 1 ∧
  ∀ (t : EType) (rm : RMode), t ∈ [EType.fp32, .bf16, .fp8e4, .fp8e5, .mxfp4] →
    (∀ a, a < 2 * signBit t → (decodeF t a).isNan = false → encodeF t rm (decodeF t a) = (a, {})) ∧
    Rounding t rm ∧
    (∀ n e, encodeF t rm (.num n 0 e) = (withSign t n 0, {})) ∧
    (t ≠ .mxfp4 → ∀ sig, encodeF t rm (.nan sig) = (canonNan t, if sig then invalid else {})) ∧
    ∀ n, encodeF t rm (.inf n) =
      if t = .fp8e4 ∨ t = .mxfp4 then (withSign t n (maxFinite t), { sat := 1 }) else (withSign t n (infBits t), {})

/-- VCVT between formats, reductions in their tree, scans in their steps, seeds and special functions, each through the
element function of its rule. A conversion widens exactly, rounds once, or clamps an integer, with the causes of its rule; a
seed is the table's entry at its exponent; a special function gives the results of its special operands. An integer sum is
exact modulo 2^64; VRARGMAX gives the lowest index of greatest rank with its value, the empty result when nothing is active,
and INV exactly when an active element is a signalling NaN (R61 to R63, R78, R79, R82, R273 to R278, R283).
What the manual leaves open here is as log entries 8, 24 and 59 say. -/
def Obligations.CrossLane : Prop :=
  (∀ (s : State) (dt st : EType) (rm : RMode) (part : Fin 8) (ocp toocp : Bool) (d a b : VReg) (m : VMask) (x y : Vec),
    s.rdV a = .ok x → s.rdV b = .ok y →
    let e := exec (.vcvt dt st rm part ocp toocp d a b m) s
    let q := s.rdMask m
    (dt ≠ .mxfp4 → st ≠ .mxfp4 →
      e = .next (s.cvtEach dt st part.val d q fun k => convert dt st rm (lane st.width x k)).on) ∧
    (dt ≠ .mxfp4 → st = .mxfp4 →
      e = .next (s.cvtEach dt st part.val d q fun k =>
        encodeF dt rm (mxVal (lane 4 x k) (lane 8 y (k / (if ocp then 32 else 64))))).on) ∧
    (dt = .mxfp4 → st ≠ .mxfp4 → e = .next (s.cvtToMx st rm part.val d b x).on) ∧
    (dt = .mxfp4 → st = .mxfp4 → toocp = false → e = .next (s.cvtOcp rm d b x y).on) ∧
    (dt = .mxfp4 → st = .mxfp4 → toocp = true → e = .next (s.cvtToOcp d b x y).on)) ∧
  (∀ (s : State) (t : EType) (rm : RMode) (op : ScanOp) (excl : Bool) (d a : VReg) (m : VMask) (x : Vec),
    s.rdV a = .ok x →
    let xs := actives t (s.rdMask m) x
    let low (n : Nat) (r : Nat × Causes) : Host.Outcome State Fault Refusal :=
      .next (s.wrote 8 [s.dV d (BitVec.ofNat 4096 r.1) (BitVec.ofNat 4096 (2 ^ n - 1))] r.2)
    (t = .fp32 → exec (.vrsum t rm d a m) s = low 32 (reduceTree .fp32 rm .sum xs)) ∧
    (t = .bf16 → exec (.vrsum t rm d a m) s = low 32 (reduceTree .fp32 rm .sum (xs.map fun (y : Option Nat) => y.map (· * 65536)))) ∧
    (t.isFloat = false → exec (.vrsum t rm d a m) s =
      low 64 (((xs.map fun (y : Option Nat) => (y.map (intVal t)).getD 0).sum % 2 ^ 64).toNat, {})) ∧
    exec (.vrmax t d a m) s = low t.width (reduceTree t .rne .max xs) ∧
    exec (.vrmin t d a m) s = low t.width (reduceTree t .rne .min xs) ∧
    (∃ cs : Causes, exec (.vrargmax t d a m) s = low 64 (match argMax t xs with
        | some (i, v) => wide32 t v * 2 ^ 32 + i
        | none => wide32 t (redEmpty t .max) * 2 ^ 32 + 0xFFFFFFFF, cs) ∧
      let sig : Prop := t.isFloat = true ∧ ∃ v, some v ∈ xs ∧ (decodeF t v).isSig = true
      (sig → cs = invalid) ∧ (¬ sig → cs = {})) ∧
    exec (.vscan t rm op excl d a m) s = .next (s.lanes 10 t.width d m fun i =>
      let y := scanFrom (redOp t rm op) t.lanes 1 (xs.map fun e => (e, {})) 9
      let e := (if excl then ((none, {}) : Option Nat × Causes) :: y else y).getD i (none, {})
      match e.1 with
      | some v => ((quiet t v).1, e.2.once)
      | none => (redEmpty t op, {}))) ∧
  (∀ (t : EType) (xs : List (Option Nat)),
    (argMax t xs = none ↔ ∀ x ∈ xs, x = none) ∧
    ∀ i v, argMax t xs = some (i, v) → xs[i]? = some (some v) ∧ ∀ j u, xs[j]? = some (some u) →
      argRank t u < argRank t v ∨ (argRank t u = argRank t v ∧ i ≤ j)) ∧
  (∀ (dt st : EType) (rm : RMode) (a : Nat),
    let x := decodeF st a
    let r := convert dt st rm a
    let floats : List EType := [.fp32, .bf16, .fp8e4, .fp8e5]
    (st ∈ floats → dt ∈ floats → r = encodeF dt rm x ∧
      ((st = .bf16 ∧ dt = .fp32) ∨ (st = .fp8e4 ∨ st = .fp8e5) ∧ (dt = .fp32 ∨ dt = .bf16) → x.isNan = false →
        r.2 = {} ∧ (∀ n, x = .inf n → decodeF dt r.1 = .inf n) ∧
        ∀ n m e, x = .num n m e → ∃ k l, decodeF dt r.1 = .num n k l ∧ ∀ q, q ≤ e → q ≤ l →
          signedAt n m e q = signedAt n k l q)) ∧
    (st ∈ floats → dt.isInt = true →
      (x.isNan = true → r = (0, invalid)) ∧
      (∀ n, x = .inf n → intVal dt r.1 = (if n then intMin dt else intMax dt) ∧ r.2 = invalid) ∧
      (∀ n m e, x = .num n m e → ∃ k : Nat, RoundsTo rm n m e k ∧
        let v : Int := if n then -(k : Int) else k
        (v < intMin dt → intVal dt r.1 = intMin dt ∧ r.2 = invalid) ∧
        (intMax dt < v → intVal dt r.1 = intMax dt ∧ r.2 = invalid) ∧
        (intMin dt ≤ v → v ≤ intMax dt → intVal dt r.1 = v ∧ (IsInteger m e k → r.2 = {}) ∧
          (¬ IsInteger m e k → r.2 = { inx := 1 })))) ∧
    (st.isInt = true → dt ∈ floats → r = encodeF dt rm (.num (decide (intVal st a < 0)) (intVal st a).natAbs 0)) ∧
    (st.isInt = true → dt.isInt = true → r = intOut dt true (intVal st a))) ∧
  Seeds ∧ SpecialOperands ∧
  Lanes1 .vrcpe 4 .fp32 rcpe ∧ Lanes1 .vrsqe 4 .fp32 rsqe ∧ Lanes1 .vexp2 14 .fp32 exp2F ∧ Lanes1 .vlog2 14 .fp32 log2F ∧
  Lanes1 .vsin 14 .fp32 sinF ∧ Lanes1 .vcos 14 .fp32 cosF ∧ Lanes1 .vtanh 14 .fp32 tanhF

/-- An integer prefix sum: every active element of VSCAN is the sum, modulo 2^w, of the active elements up to it, or below
it in the exclusive form (R278). -/
def Obligations.IntegerScan : Prop :=
  ∀ (s : State) (t : EType) (excl : Bool) (d a : VReg) (m : VMask) (x : Vec), t.isInt = true → s.rdV a = .ok x →
    exec (.vscan t .rne .sum excl d a m) s = .next (s.lanes 10 t.width d m fun i =>
      (((List.range (if excl then i else i + 1)).map fun j =>
        if active (s.rdMask m) t.width j then lane t.width x j else 0).sum % 2 ^ t.width, {}))

/-- The moves of elements: permutations, broadcast, splat, slides, insertion, extraction, reversal, zips, compression,
expansion and VMOV (R279 to R282). -/
def Obligations.ElementMoves : Prop :=
  (∀ (t : EType) (hi : Bool), Moves2 (.vperm t hi) t fun x y i =>
    lane t.width x ((lane t.width y i + if hi then 256 else 0) % t.lanes)) ∧
  (∀ t : EType, Moves1 (.vrev t) t fun x i => lane t.width x (t.lanes - 1 - i)) ∧
  (∀ (t : EType) (hi : Bool), Moves2 (.vzip t hi) t fun x z i =>
    lane t.width (if i % 2 = 0 then x else z) ((if hi then t.lanes / 2 else 0) + i / 2)) ∧
  (∀ (t : EType) (odd : Bool), Moves2 (.vunzip t odd) t fun x z i =>
    if i < t.lanes / 2 then lane t.width x (2 * i + odd.toNat)
    else lane t.width z (2 * (i - t.lanes / 2) + odd.toNat)) ∧
  ∀ (s : State) (t : EType) (d a c vb : VReg) (sd sa sb : SReg) (q : QReg) (cd ca : Fin 8) (m : VMask) (up : Bool)
    (x y z : Vec) (u k : Word), s.rdV a = .ok x → s.rdV vb = .ok y → s.rdV c = .ok z → s.rdS sa = .ok u → s.rdS sb = .ok k →
    let w := t.width
    let n := t.lanes
    let j := k.toNat % n
    let msk := elemMask w (s.rdMask m)
    exec (.vperm2 t d a vb c m) s = .next (s.lanes 2 w d m fun i =>
      (if lane w y i % (2 * n) < n then lane w x (lane w y i % (2 * n)) else lane w z (lane w y i % (2 * n) - n), {})) ∧
    exec (.vbcast t d a sb m) s = .next (s.lanes 2 w d m fun _ => (lane w x j, {})) ∧
    exec (.vsplat t d sa m) s = .next (s.lanes 2 w d m fun _ => (u.toNat % 2 ^ w, {})) ∧
    exec (.vslide t up d a sb c m) s = .next (s.lanes 2 w d m fun i =>
      let g := Nat.min k.toNat n
      (if up then (if g ≤ i then lane w x (i - g) else lane w z (n + i - g))
       else if i + g < n then lane w x (i + g) else lane w z (i + g - n), {})) ∧
    (active (s.rdMask m) w j = true → exec (.vins t d sa sb m) s =
      .next (s.wrote 2 [s.dV d (BitVec.ofNat 4096 (u.toNat % 2 ^ w * 2 ^ (w * j)))
        (BitVec.ofNat 4096 ((2 ^ w - 1) * 2 ^ (w * j)))])) ∧
    (active (s.rdMask m) w j = false → exec (.vins t d sa sb m) s = .next s.on) ∧
    (t = .int8 ∨ t = .int32 → exec (.vext t sd a sb) s = .next (s.wrote 2 [s.dS sd (sext64 w (lane w x j))])) ∧
    (t ≠ .int8 → t ≠ .int32 → exec (.vext t sd a sb) s = .next (s.wrote 2 [s.dS sd (BitVec.ofNat 64 (lane w x j))])) ∧
    exec (.vcompress t d a q) s = .next (s.wrote 2
      [s.dV d (pack w (((List.range n).filter (active (some (s.rdQ q)) w)).map (lane w x))) (BitVec.allOnes 4096)]) ∧
    exec (.vexpand t d a q) s = .next (s.lanes 2 w d (some q) fun i =>
      (lane w x ((List.range i).countP (active (some (s.rdQ q)) w)), {})) ∧
    exec (.vmov t (.v d) (.v a) m) s = .next (s.wrote 2 [s.dV d x msk]) ∧
    exec (.vmov t (.v d) (.cv ca) m) s = .next (s.wrote 2 [s.dV d s.me.cvWork[ca] msk]) ∧
    exec (.vmov t (.cv cd) (.v a) m) s = .next (s.wrote 2 [.cv cd x msk]) ∧
    exec (.vmov t (.cv cd) (.cv ca) m) s = .next (s.wrote 2 [.cv cd s.me.cvWork[ca] msk])

/-! ## Class M (R290 to R320) -/

/-- With room in the queue of 8, an M instruction whose operands can be read captures them at issue and joins the queue; KSET
alone writes its k registers one cycle on and is not queued (R290, R291, R305 to R318).
What the manual leaves open here is as log entry 23 says. -/
def Obligations.MatrixQueued : Prop :=
  ∀ (s : State) (t src : TReg) (row : Fin 128) (ro : Option (Fin 128)) (dir : Dir) (d va vb : VReg) (sd sa sb sc : SReg)
    (k : KReg) (tr : Bool) (rm : RMode) (form : MchkForm),
    let e (i : Instr) : MEntry := MEntry.blank s i
    (s.queueRoom = .ok () →
      exec (.mchk sd form) s = .next (s.queued { e (.mchk sd form) with
        dst := some (.s (s.me.physS sd)), buf := s.mycog.phys true }) ∧
      exec (.tzero t ro) s = .next (s.queued (e (.tzero t ro))) ∧
      exec (.trd d t dir row) s = .next (s.queued { e (.trd d t dir row) with dst := some (.v (s.me.physV d)) }) ∧
      exec (.tscale t rm (.k k)) s = .next (s.queued { e (.tscale t rm (.k k)) with kv := s.me.k[k] }) ∧
      exec (.tmov t src tr) s = .next (s.queued (e (.tmov t src tr))) ∧
      exec (.tadd t src rm) s = .next (s.queued (e (.tadd t src rm))) ∧
      exec (.rsvDraw sd t row) s = .next (s.queued { e (.rsvDraw sd t row) with dst := some (.s (s.me.physS sd)) })) ∧
    (∀ x y : Vec, s.rdV va = .ok x → s.rdV vb = .ok y →
      exec (.kset (.vec va)) s =
        .next (s.wrote 1 ((List.finRange 16).map fun n => .k n (x.extractLsb' (n.val * 32) 32))) ∧
      (s.queueRoom = .ok () →
        exec (.twr t dir row va) s = .next (s.queued { e (.twr t dir row va) with va := x }) ∧
        exec (.tscale t rm (.v va)) s = .next (s.queued { e (.tscale t rm (.v va)) with va := x }) ∧
        exec (.rsvFeed t row va) s = .next (s.queued { e (.rsvFeed t row va) with va := x }) ∧
        exec (.rsvFeed2 t row va vb) s = .next (s.queued { e (.rsvFeed2 t row va vb) with va := x, vb := y }))) ∧
    (∀ u v w : Word, s.rdS sa = .ok u → s.rdS sb = .ok v → s.rdS sc = .ok w →
      exec (.kset (.one k sa)) s = .next (s.wrote 1 [.k k (u.setWidth 32)]) ∧
      (s.queueRoom = .ok () → exec (.rsvInit t row sa sb sc) s =
        .next (s.queued { e (.rsvInit t row sa sb sc) with a := u, b := v, c := w })))

/-- The M instructions that name memory or a weight buffer: with their rows' places found they join the queue; MWLOAD tags
its buffer, MWSWAP exchanges the names, MMUL with .ADV advances its iterator; sources in host memory are asked for first,
and what the host refuses traps at the bundle. The rows are checked in ascending order and the first that fails stops the
bundle: a bad address before alignment before the path, then what its page or window gives. A tile row beyond 127, a weight
buffer without a fitting tag of this bank, or MWSWAP while the other bank's tag stands raises the matrix operand trap, and
every class M instruction but KSET waits at a full queue (R84 to R86, R290, R292, R295 to R301, R306, R307, R320).
What the manual leaves open here is as log entries 11, 23 and 62 say. -/
def Obligations.MatrixRows : Prop :=
  (∀ (s : State) (t : TReg) (row0 : Fin 128) (sa sb : SReg) (g : GReg) (fmt : EType) (buf cvt adv : Bool)
     (k : Option KReg) (rm : RMode) (x y : Word) (it : Iter), s.queueRoom = .ok () → s.rdS sa = .ok x →
     s.rdS sb = .ok y → s.rdG g = .ok it →
     let w := s.mycog.phys buf
     (∀ gs, s.tileSegs (if cvt then .bf16 else fmt) x (if fmt = .mxfp4 then y else 0) = .ok gs →
       s.QueuesRead (s.modCog s.cur.cog fun c => c.setBuffer w fun q => { q with tag := some (s.half, fmt) })
         (exec (.mwload fmt cvt buf sa sb) s)
         { MEntry.blank s (.mwload fmt cvt buf sa sb) with a := x, segs := gs, addrs := gs.map fun _ => x, buf := w }) ∧
     ((∀ b : Bool, ∀ tag, (s.mycog.buffer b).tag = some tag → tag.1 = s.half) →
       exec .mwswap s = .next ((s.modCog s.cur.cog fun c => { c with wswap := !c.wswap }).queued (MEntry.blank s .mwswap))) ∧
     (∀ f l, (s.mycog.buffer w).tag = some (s.half, f) → modePairs fmt f = true → row0.val + y.toNat ≤ 128 →
       ((List.range y.toNat).mapM fun j => do
         let gs ← s.actRow fmt k.isSome (it.rowAddr j)
         pure (gs.map fun g => (g, it.rowAddr j))) = .ok l →
       s.QueuesRead (if adv then s.result 1 [.g g (it.advance y.toNat).1] else s)
         (exec (.mmul t row0 g sb fmt buf k adv) s)
         { MEntry.blank s (.mmul t row0 g sb fmt buf k adv) with
           b := y, kv := (match k with | some r => s.me.k[r] | none => 0), buf := w,
           segs := l.flatten.map Prod.fst, addrs := l.flatten.map Prod.snd }) ∧
     (row0.val + y.toNat ≤ 128 → ∀ l, ((List.range y.toNat).mapM fun j => do
         let b := x + BitVec.ofNat 64 (512 * j)
         checkAddr s.me.hmode .load b 512 64
         check (pathOf b ≤ 6) (.trap { cause := 0x16, val := b })
         let gs ← s.xlateWith s.ctx .load b 512 s.hostPart
         pure (gs.map fun g => (g, b))) = .ok l →
       s.QueuesRead s (exec (.tld t row0 sa sb) s) { MEntry.blank s (.tld t row0 sa sb) with
         a := x, b := y, segs := l.flatten.map Prod.fst, addrs := l.flatten.map Prod.snd }) ∧
     (∀ (n : Nat) (kv : F32) (i : Instr),
       (i = .tst t row0 sa sb ∧ n = 512 ∧ kv = 0) ∨
       (i = .tcst t row0 sa sb fmt rm k ∧ n = 16 * fmt.width ∧
         kv = (match k with | some r => s.me.k[r] | none => 0x3F800000)) →
       row0.val + y.toNat ≤ 128 → ∀ l, ((List.range y.toNat).mapM fun j => do
         let b := x + BitVec.ofNat 64 (n * j)
         checkAddr s.me.hmode .store b n 64
         check (pathOf b ≤ 6) (.trap { cause := 0x16, val := b })
         let gs ← s.xlate s.ctx .store b n
         pure (gs.map fun g => (g, b))) = .ok l →
       exec i s = .next (s.queued { MEntry.blank s i with
         a := x, b := y, kv := kv, segs := l.flatten.map Prod.fst, addrs := l.flatten.map Prod.snd }))) ∧
  (∀ (s : State) (t : TReg) (row0 : Fin 128) (sa sb : SReg) (g : GReg) (fmt : EType) (buf adv : Bool) (k : Option KReg)
     (rm : RMode) (x y : Word) (it : Iter), s.rdS sa = .ok x → s.rdS sb = .ok y → s.rdG g = .ok it →
     let trap : Host.Outcome State Fault Refusal := .next (s.trapped { cause := 0x1F, val := s.epc })
     (s.queueRoom = .ok () → 128 < row0.val + y.toNat →
       exec (.mmul t row0 g sb fmt buf k adv) s = trap ∧ exec (.tld t row0 sa sb) s = trap ∧
       exec (.tst t row0 sa sb) s = trap ∧ exec (.tcst t row0 sa sb fmt rm k) s = trap) ∧
     (s.queueRoom = .ok () → (∀ f, (s.mycog.buffer (s.mycog.phys buf)).tag = some (s.half, f) → modePairs fmt f = false) →
       exec (.mmul t row0 g sb fmt buf k adv) s = trap) ∧
     (s.queueRoom = .ok () → (∃ b : Bool, ∃ f, (s.mycog.buffer b).tag = some (!s.half, f)) → exec .mwswap s = trap) ∧
     (s.queueRoom = .ok () → row0.val + y.toNat ≤ 128 →
       (∀ (f : EType) (j : Nat), (s.mycog.buffer (s.mycog.phys buf)).tag = some (s.half, f) → modePairs fmt f = true →
         j < y.toNat → (∀ i < j, ∃ gs, s.actRow fmt k.isSome (it.rowAddr i) = .ok gs) →
         let o := exec (.mmul t row0 g sb fmt buf k adv) s
         let row := if fmt = .mxfp4 ∧ k = none then 32 else 16 * fmt.width
         s.RowStops o (it.rowAddr j) row (if fmt = .mxfp4 ∧ k = none then 32 else 64) 0 (5 < ·) ∧
         ∀ e, s.actRow fmt k.isSome (it.rowAddr j) = .error e → o = .next (s.stopped e)) ∧
       (∀ (j : Nat) (i : Instr) (kind : AKind) (n : Nat) (more : Word → Seg → Except Stop Unit),
         (i = .tld t row0 sa sb ∧ kind = .load ∧ n = 512 ∧ more = s.hostPart) ∨
         (i = .tst t row0 sa sb ∧ kind = .store ∧ n = 512 ∧ more = (fun _ _ => .ok ())) ∨
         (i = .tcst t row0 sa sb fmt rm k ∧ kind = .store ∧ n = 16 * fmt.width ∧ more = (fun _ _ => .ok ())) →
         let at_ (j : Nat) : Word := x + BitVec.ofNat 64 (n * j)
         let far (p : Nat) : Prop := 6 < p ∨ (kind = .store ∧ p = 5)
         let found (j : Nat) : Except Stop (List Seg) := s.xlateWith s.ctx kind (at_ j) n more
         let fits (j : Nat) : Prop := ¬ BadAddress s.me.hmode ((at_ j).toNat / 2 ^ 60) ((at_ j).toNat % 2 ^ 60) n ∧
           (at_ j).toNat % 64 = 0 ∧ ¬ far ((at_ j).toNat / 2 ^ 60)
         j < y.toNat → (∀ i < j, fits i ∧ ∃ gs, found i = .ok gs) →
         s.RowStops (exec i s) (at_ j) n 64 0 far ∧
         (fits j → ∀ e, found j = .error e → exec i s = .next (s.stopped e)))) ∧
     (s.queueRoom = .ok () → ∀ cvt : Bool,
       let f := if cvt then EType.bf16 else fmt
       let o := exec (.mwload fmt cvt buf sa sb) s
       s.RowStops o x (if f = .mxfp4 then 32 else 16 * f.width) (if f = .mxfp4 then 32 else 64) 5 (5 < ·) ∧
       ∀ e, s.tileSegs f x (if fmt = .mxfp4 then y else 0) = .error e →
         o = .next (s.stopped (match e with | .trap r => .trap { r with src := 5 } | r => r)))) ∧
  (∀ (s : State) (i : Instr), i.unit = some .m → (∀ src, i ≠ .kset src) → 8 ≤ s.mycog.mq.length →
    exec i s = .next (s.stopped .stall))

/-- M_UNIT_START takes the head of the queue and does its effect in queue order, its results and causes in flight behind
those before it: a load sets its buffer LOADING; MMUL promotes each row it names and poisons the rows that mismatch, whose
source was poisoned or whose buffer is, a mismatch being a machine check; tiles are zeroed, loaded, stored, read, written,
scaled, moved and added element by element; MCHK reads the poison bits or the buffers; the reservoir instructions do what
their rules say. MWLOAD_DONE makes the buffer FULL with the elements, scales and check entries of the tile (R70 to R77,
R290, R291, R297, R303 to R318, R331, R404).
What the manual leaves open here is as log entries 22, 23 and 52 say. -/
def Obligations.MUnitWorks : Prop :=
  (∀ (s : State) (c : CogIx),
    ((s.cog c).mq = [] → exec (.mUnitStart c) s = .next s) ∧
    (∀ e r, (s.cog c).mq = e :: r → s.mayStart c e = false → exec (.mUnitStart c) s = .next s) ∧
    (∀ e r, (s.cog c).mq = e :: r → s.mayStart c e = true →
      ∃ u, exec (.mUnitStart c) s = .next u ∧ (u.cog c).mq = r ∧ (u.cog c).mLast = s.clk ∧
        let b := s.bank e.bank
        let old (t : TReg) : Tile := b.t[t]
        let word (w : Word) : List Res := match e.dst with
          | some x => [x.res w]
          | none => []
        let row (t : TReg) (k : Fin 128) (v : Vec) (n : Nat) (res : List Res) (cs : Causes) : Prop :=
          ∃ x : Tile, x.Is (fun r => if r = k.val then v else (old t).row r) (old t).bad ∧
            s.Tiles u e (b.t.set t x) ∧ s.Ends u c e n res cs
        match e.instr with
        | .mwload fmt cvt _ _ _ => ∃ due, s.Tiles u e b.t ∧
            due = Nat.max (s.clk + loadCycles fmt cvt ((e.segs.map fun g => physStk g.addr).headD true)) (s.cog c).mOrder ∧
            (u.cog c).mLoads = (s.cog c).mLoads ++ [(e, due)] ∧ (u.cog c).loadFree = due ∧
            (due, .mwloadDone c e.buf) ∈ u.agenda ∧
            (u.cog c).buffer e.buf =
              { (s.cog c).buffer e.buf with state := .loading, own := decide (e.bank.num = 1), fmt := fmt } ∧
            (u.cog c).buffer (!e.buf) = (s.cog c).buffer (!e.buf)
        | .mwswap => s.Tiles u e b.t ∧ s.Ends u c e 4 [] {}
        | .mmul t row0 _ _ fmt _ k _ => ∃ x : Tile,
            let n := e.b.toNat
            let w := (s.cog c).buffer e.buf
            let len := actBytes fmt k.isSome
            let bs (r : Nat) : List Byte := e.rowBytes len (r - row0.val)
            let f (r : Nat) : Vec × Causes × Nat := mmulRow w fmt (elemsOf fmt.width 128 (bs r))
              (fun g => if fmt = .mxfp4 then e8Val (natOf (((bs r).drop (64 + g)).take 1))
                else if k.isSome then decodeF .fp32 e.kv.toNat
                else decodeF .fp32 (natOf (((bs r).drop (16 * fmt.width)).take 4))) ((old t).row r)
            let mine (r : Nat) : Prop := row0.val ≤ r ∧ r < row0.val + n
            let per := if fmt = .bf16 then 2 else 1
            let due (j : Nat) : Nat := Nat.max (s.clk + j * per + 14) (s.cog c).mOrder
            let miss := ((List.range n).map (row0.val + ·)).filter fun r => 0 < (f r).2.2
            x.Is (fun r => if mine r then (f r).1 else (old t).row r)
              (fun r => (old t).bad r || (decide (mine r) && (0 < (f r).2.2 || w.psn || e.rowBad len (r - row0.val)))) ∧
            s.Tiles u e (b.t.set t x) ∧ (u.cog c).arrayFree = s.clk + n * per ∧
            (u.cog c).mOrder = Nat.max (s.clk + ((n - 1) * per + if n = 0 then 1 else 14)) (s.cog c).mOrder ∧
            (u.bank e.bank).inflight = b.inflight ++ (((List.range n).filter fun j => (f (row0.val + j)).2.1 ≠ {}).map
              fun j => { due := due j, res := [], causes := (f (row0.val + j)).2.1, seq := e.ticket }) ∧
            (miss = [] → u.hub = s.hub ∧ u.outbox = s.outbox ∧ (u.cog c).mchecks = (s.cog c).mchecks ∧
              (u.bank e.bank).pend = b.pend) ∧
            (∀ r rs, miss = r :: rs →
              let v := s.record 3 (bytesOf 8 s.time.toNat ++ bytesOf 8 (s.bankId e.bank).toNat ++
                bytesOf 8 (miss.length * 2 ^ 24 + r * 2 ^ 8 + t.val * 2 ^ 6 + 1) ++ bytesOf 8 e.epc.toNat)
              let times := ((s.cog c).mchecks.filter fun y => s.clk < y + 2 ^ 32) ++ [s.clk]
              u.hub = v.hub ∧ u.outbox = v.outbox ∧ (u.cog c).mchecks = times ∧
              (4 ≤ times.length → (s.clk, .cogFailure c) ∈ u.agenda) ∧
              (u.bank e.bank).pend.mcheck = b.pend.mcheck ++ if b.live && b.iter = e.iter then [e.epc] else [])
        | .mchk _ form =>
            let half (q : WBuf) : Nat := (match q.state with | .empty => 0 | .loading => 1 | .full => 2) +
              (if q.state ≠ .empty ∧ q.own = true then 4 else 0) + (if q.psn then 8 else 0) + 16 * q.fmt.code
            s.Tiles u e b.t ∧ s.Ends u c e 4 (word (match form with
              | .lo t => (old t).psn.extractLsb' 0 64
              | .hi t => (old t).psn.extractLsb' 64 64
              | .buf => BitVec.ofNat 64 (half ((s.cog c).buffer (!e.buf)) + half ((s.cog c).buffer e.buf) * 2 ^ 16))) {}
        | .tzero t none => ∃ x : Tile, x.Is (fun _ => 0) (fun _ => false) ∧ s.Tiles u e (b.t.set t x) ∧ s.Ends u c e 16 [] {}
        | .tzero t (some k) => ∃ x : Tile,
            x.Is (fun r => if r = k.val then 0 else (old t).row r) (fun r => r ≠ k.val && (old t).bad r) ∧
            s.Tiles u e (b.t.set t x) ∧ s.Ends u c e 4 [] {}
        | .tld t row0 _ _ => ∃ x : Tile,
            let mine (r : Nat) : Prop := row0.val ≤ r ∧ r < row0.val + e.b.toNat
            x.Is (fun r => if mine r then BitVec.ofNat 4096 (natOf (e.rowBytes 512 (r - row0.val))) else (old t).row r)
              (fun r => if mine r then e.rowBad 512 (r - row0.val) else (old t).bad r) ∧
            s.Tiles u e (b.t.set t x) ∧ s.Ends u c e (e.b.toNat + 3) [] {}
        | .tst t row0 _ _ => s.TileStores u c e (old t) row0.val 512 fun v => (bytesOf 512 v.toNat, {})
        | .tcst t row0 _ _ fmt rm _ => s.TileStores u c e (old t) row0.val (16 * fmt.width) fun v =>
            let y := (List.range 128).map fun n => tcstElem fmt rm (lane 32 v n) e.kv.toNat
            ((y.map fun z => bytesOf (fmt.width / 8) z.1).flatten, (y.map Prod.snd).foldl Causes.plus {})
        | .trd _ t dir k => s.Tiles u e b.t ∧ ∀ n, e.dst = some (.v n) →
            ∃ v : Vec, s.Ends u c e 4 [.v n v (BitVec.allOnes 4096)] {} ∧ ∀ i, i < 128 →
              let p := cellOf dir k.val i
              p = (match dir with
                | .row => (k.val, i)
                | .col => (i, k.val)
                | .dia => (i, (i + k.val) % 128)
                | .adi => (i, (k.val + 128 - i) % 128)) ∧
              lane 32 v i = if (old t).bad p.1 then 0x7FC00000 else (old t).elem p.1 p.2
        | .twr t dir k _ => ∃ x : Tile, s.Tiles u e (b.t.set t x) ∧ s.Ends u c e 4 [] {} ∧
            ∀ r, r < 128 → x.bad r = (old t).bad r ∧ ∀ n, n < 128 →
              (∀ i, i < 128 → cellOf dir k.val i = (r, n) → x.elem r n = lane 32 e.va i) ∧
              ((∀ i, i < 128 → cellOf dir k.val i ≠ (r, n)) → x.elem r n = (old t).elem r n)
        | .tscale t rm src => ∃ x : Tile,
            let f (r n : Nat) : Nat × Causes := fMul .fp32 rm ((old t).elem r n) (match src with
              | .v _ => lane 32 e.va r
              | .k _ => e.kv.toNat)
            x.Has (fun r n => (f r n).1) (old t).bad ∧ s.Tiles u e (b.t.set t x) ∧
            s.Ends u c e 16 [] (elemCauses fun r n => (f r n).2)
        | .tmov t src tr => ∃ x : Tile,
            x.Has (fun r n => if tr then (old src).elem n r else (old src).elem r n)
              (fun r => (old t).bad r || if tr then (old src).psn ≠ 0 else (old src).bad r) ∧
            s.Tiles u e (b.t.set t x) ∧ s.Ends u c e 16 [] {}
        | .tadd t src rm => ∃ x : Tile,
            let f (r n : Nat) : Nat × Causes := fAdd .fp32 rm ((old t).elem r n) ((old src).elem r n)
            x.Has (fun r n => (f r n).1) (fun r => (old t).bad r || (old src).bad r) ∧ s.Tiles u e (b.t.set t x) ∧
            s.Ends u c e 16 [] (elemCauses fun r n => (f r n).2)
        | .rsvInit t k _ _ _ => row t k (rsvInit e.a e.b e.c) 8 [] {}
        | .rsvFeed t k _ =>
            let f := rsvFeed ((old t).row k.val) e.va none
            row t k f.1 12 [] f.2
        | .rsvFeed2 t k _ _ =>
            let f := rsvFeed ((old t).row k.val) e.va (some e.vb)
            row t k f.1 12 [] f.2
        | .rsvDraw _ t k =>
            let f := rsvDraw ((old t).row k.val) ((old t).bad k.val)
            s.Tiles u e b.t ∧ s.Ends u c e 8 (word f.1) f.2
        | _ => True) ∧
    (∀ e due buf fmt cvt w a a', (s.cog c).mLoads.find? (fun x => x.1.buf = buf && x.2 ≤ s.clk && !(s.cog c).failed) =
        some (e, due) → e.instr = .mwload fmt cvt w a a' →
      ∃ u, exec (.mwloadDone c buf) s = .next u ∧
        let q := (u.cog c).buffer buf
        let bs (o n : Nat) : Nat := natOf ((e.bytes.drop o).take n)
        let wd := if cvt then 16 else fmt.width
        let raw (k n : Nat) : Nat := bs (16 * wd * k) (16 * wd) / 2 ^ (wd * n) % 2 ^ wd
        let conv (k n : Nat) : Nat × Causes := convert fmt .bf16 .rne (raw k n)
        let check (k : Nat) : Word := q.check.toList.getD k 0
        q.state = .full ∧ q.fmt = fmt ∧ q.psn = e.anyBad ∧ q.tag = ((s.cog c).buffer buf).tag ∧
        (u.cog c).buffer (!buf) = (s.cog c).buffer (!buf) ∧ u.mem = s.mem ∧
        (u.cog c).mLoads = (s.cog c).mLoads.filter (fun y => y.1.ticket ≠ e.ticket) ∧
        (fmt = .mxfp4 → u.bank e.bank = s.bank e.bank ∧
          (∀ k n, k < 128 → n < 128 →
            q.elem k n = bs (32 * (2 * n + k / 64)) 32 / 2 ^ (4 * (k % 64)) % 16) ∧
          q.e8m0 = BitVec.ofNat 2048 (bs 8192 256) ∧
          ∀ k, k < 128 → check k = BitVec.ofNat 64 (bs (8448 + 8 * k) 8)) ∧
        (fmt ≠ .mxfp4 → q.scale = BitVec.ofNat 32 (bs (128 * (16 * wd)) 4)) ∧
        (fmt ≠ .mxfp4 → cvt = false → wd ≤ 16 → u.bank e.bank = s.bank e.bank ∧
          (∀ k n, k < 128 → n < 128 → q.elem k n = raw k n) ∧
          ∀ k, k < 128 → check k = BitVec.ofNat 64 (bs (128 * (16 * wd) + 4 + 8 * k) 8)) ∧
        (fmt ≠ .mxfp4 → cvt = true → u.bank e.bank = (s.bank e.bank).addCauses (elemCauses fun k n => (conv k n).2) ∧
          ∀ k, k < 128 → (∀ n, n < 128 → q.elem k n = (conv k n).1 % 2 ^ 16) ∧
            check k = checkOf fmt ((List.range 128).map fun n => (conv k n).1)))) ∧
  (∀ (fmt : EType) (rm : RMode) (x m : Nat), fmt ≠ .mxfp4 → let p := decodeF .fp32 x
    let q := decodeF .fp32 m
    (∀ n l e n' l' e', p = .num n l e → q = .num n' l' e' →
      let v := FVal.num (n != n') (l * l') (e + e')
      tcstElem fmt rm x m = if fmt.isInt then floatToInt fmt rm v else encodeF fmt rm v) ∧
    (fmt.isInt = false → p.isNan = true ∨ q.isNan = true →
      tcstElem fmt rm x m = (canonNan fmt, if p.isSig || q.isSig then invalid else {})) ∧
    (fmt.isInt = true → p.isNan = true ∨ q.isNan = true → tcstElem fmt rm x m = (0, invalid))) ∧
  MatrixArithmetic ∧ ReservoirArithmetic

/-! ## Memory (R105, R112, R214 to R231) -/

/-- Loads. Those that R104 finds nothing wrong with: on paths 0x0 and 0x1 the bytes are read at issue and appear 4 or 10
cycles on, or behind an access that orders it the load is held; elsewhere the load is asked for and its registers wait.
Those that stop, for each fault of R104 in its order: address, alignment, path, window, permission, walk, write
protection, poison and pending word, one of another package or of the host asking first; the entry of the window table and
of the page tables that decide; and a fault that the hub answers (R84 to R89, R92 to R96, R103 to R105, R107, R121, R214,
R215, R225, R226).
What the manual leaves open here is as log entries 11 and 12 say. -/
def Obligations.Loads : Prop :=
  (∀ (s : State) (i : Instr) (glob : Bool) (t : SOp) (base : SReg) (off : BitVec 18) (size : Size) (sx : Bool) (ord : MOrd)
     (scope : Scope) (b : Word) (gs : List Seg),
     (glob = false ∧ i = .ld t base off size sx ord scope) ∨
       (glob = false ∧ size = .b128 ∧ sx = false ∧ i = .ldp t base off ord scope) ∨
       (glob = true ∧ i = .ldg t base off size sx ord scope) →
     s.rdS base = .ok b →
     let a := b + off.signExtend 64
     s.Grants .load glob a (sizeBytes size) gs →
     let pair : Bool := size = .b128
     let rs := if pair then [s.busyA t, s.busyA (sopNext t)] else [s.busyA t]
     let dst : Dst := if pair then .pair (s.busyA t) (s.busyA (sopNext t)) else .scalar (s.busyA t) (sizeBytes size) sx
     let res (bs : List Byte) : List Res :=
       if pair then [s.dA t (wordAt bs 0), s.dA (sopNext t) (wordAt bs 1)] else [s.dA t (extend sx bs)]
     s.LoadEnds s (exec i s) { kind := .load, acq := acqOf ord scope, addr := a, dst := dst } gs rs res fun _ => {}) ∧
  (∀ (s : State) (i : Instr) (glob : Bool) (t : SOp) (base : SReg) (off : BitVec 18) (size : Size) (sx : Bool) (ord : MOrd)
     (scope : Scope) (b : Word),
     (glob = false ∧ i = .ld t base off size sx ord scope) ∨
       (glob = false ∧ size = .b128 ∧ sx = false ∧ i = .ldp t base off ord scope) ∨
       (glob = true ∧ i = .ldg t base off size sx ord scope) →
     s.rdS base = .ok b → s.AccessStops .load glob (b + off.signExtend 64) (sizeBytes size) (exec i s)) ∧
  PageWalk ∧ HubFaultHeld ∧
  (∀ (s : State) (kind : AccKind) (op : GOp) (a : Word) (after : List Nat), (∀ x ∈ s.me.pre, x.op ≠ op) →
     ∃ x p, (s.stopped (.ask kind op a after)).accesses = s.accesses ++ [x] ∧ x.owner = .pre ∧ x.todo = [op] ∧
       x.addr = a ∧ x.after = after ∧ (s.stopped (.ask kind op a after)).me.pre = s.me.pre ++ [p] ∧ p.id = x.id ∧
       p.op = op ∧ p.done = false ∧ (s.stopped (.ask kind op a after)).me.regs = s.me.regs ∧
       (s.stopped (.ask kind op a after)).me.pc = s.me.pc ∧ (s.stopped (.ask kind op a after)).mem = s.mem)

/-- Stores. Those that R104 finds nothing wrong with: the bytes of the register, or of the even pair, least significant
first, wait to be performed at the end of the window of 2 or 4 cycles on paths 0x0 and 0x1, elsewhere a free time later; no
register and no byte of memory changes at issue. Those that stop, for each fault of R104 in its order: address, alignment,
path, window, permission, walk, write protection and a poisoned page (R84 to R89, R92, R96, R103 to R105, R121, R214, R215,
R226).
What the manual leaves open here is as log entries 11 and 12 say. -/
def Obligations.Stores : Prop :=
  ∀ (s : State) (i : Instr) (glob : Bool) (t : SOp) (base : SReg) (off : BitVec 18) (size : Size) (ord : MOrd)
    (scope : Scope) (b x y : Word),
    (glob = false ∧ i = .st t base off size ord scope) ∨
      (glob = false ∧ size = .b128 ∧ i = .stp t base off ord scope) ∨
      (glob = true ∧ i = .stg t base off size ord scope) →
    s.rdS base = .ok b → s.rdA t = .ok x → (size = .b128 → s.rdA (sopNext t) = .ok y) →
    let a := b + off.signExtend 64
    let bs := if size = .b128 then bytesOf 8 x.toNat ++ bytesOf 8 y.toNat else bytesOf (sizeBytes size) x.toNat
    (∀ gs, s.Grants .store glob a (sizeBytes size) gs →
      s.StoreEnds (exec i s) { kind := .store, rel := relOf ord scope, addr := a } gs bs) ∧
    s.AccessStops .store glob a (sizeBytes size) (exec i s)

/-- The atomics. Those whose checks pass: the operation with its operands waits to be performed at its place, and the
destination waits for the old value. Those that stop, for each fault of R104 in its order: address, alignment, path, window,
permission, walk, write protection and poison. FENCE goes on when nothing of its kind within its scope is outstanding, at
bank scope no near store of the bank either, and else tries again next cycle (R84 to R89, R92, R96, R103, R104, R112, R125,
R228 to R231).
What the manual leaves open here is as log entries 11 and 12 say. -/
def Obligations.Atomics : Prop :=
  (∀ (s : State) (i : Instr) (op : AtomicOp) (size : Size) (ord : AOrd) (sc : Scope) (d base ra rb : SReg)
     (a x y : Word) (g : Seg) (gs : List Seg),
     (y = 0 ∧ ((op = .add ∧ i = .aadd size ord sc d base ra) ∨ (op = .swap ∧ i = .aswap size ord sc d base ra) ∨
       (op = .and ∧ i = .aand size ord sc d base ra) ∨ (op = .or ∧ i = .aor size ord sc d base ra) ∨
       (op = .xor ∧ i = .axor size ord sc d base ra) ∨ (∃ u, op = .min u ∧ i = .amin u size ord sc d base ra) ∨
       (∃ u, op = .max u ∧ i = .amax u size ord sc d base ra) ∨
       (op = .fadd ∧ size = .b32 ∧ i = .afadd ord sc d base ra))) ∨
       (op = .cas ∧ s.rdS rb = .ok y ∧ i = .acas size ord sc d base ra rb) →
     s.rdS base = .ok a → s.rdS ra = .ok x →
     s.AtomicStops op a (sizeBytes size) (exec i s) ∧
     (s.access s.ctx (.atomic op) a (sizeBytes size) (sizeBytes size) = .ok (g :: gs) →
     s.checkPoison a (g :: gs) = .ok () →
     let r : BusyReg := .s (s.me.physS d)
     let k : Ask := { kind := .atomic, addr := a, acq := if ord = .acq ∨ ord = .ar then some sc else none,
                      rel := if ord = .rel ∨ ord = .ar then some sc else none,
                      dst := .old (some r) (sizeBytes size) (op = .fadd) (x.setWidth 32) }
     s.Interlocks s (exec i s) k (.atomic g op x y) [r] ∧
     (s.here g = true → ∃ u, exec i s = .next u ∧
       Asks s u [r] .atomic [.atomic g op x y] (s.after k [g]) a k.dst))) ∧
  (∀ (s : State) (k : FenceKind) (sc : Scope),
     (s.fenceOpen k sc = true → exec (.fence k sc) s = .next s.on) ∧
     (s.fenceOpen k sc = false → exec (.fence k sc) s = .next (s.stopped .stall)) ∧
     (s.stopped .stall = { s.again with stop := some .stall }) ∧
     (s.accesses = [] → s.copies = [] → s.mycog.mq = [] → exec (.fence k sc) s = .next s.on) ∧
     (∀ x ∈ s.accesses, x.bank = s.cur → x.owner = .bank → x.kind = .store → pathOf x.addr ≤ 1 → x.id < s.ownFrom →
       exec (.fence k .bank) s = .next (s.stopped .stall)))

/-! ## Groupsets (R227, R232 to R237) -/

/-- What a request does at its memory: an atomic answers the old value and stores the new one in its place, with nothing
stored where a compare fails; a store writes its bytes where its parts say, byte 0 at the lowest address; neither changes
another byte, and a store to a device register changes no byte at all (R101, R105, R114, R229).
What the manual leaves open here is as log entry 19 says. -/
def Obligations.MemoryTurns : Prop :=
  (∀ (s : State) (g : Seg) (op : AtomicOp) (x y : Word) (src : Nat) (bank : Option Nat) (addr : Word), s.Inv →
     g.view = .plain → g.addr + g.len ≤ devBase → g.len = 4 ∨ g.len = 8 → poisoned s g.addr g.len = false → s.ecc = [] →
     let r := s.serve src bank addr (.atomic g op x y)
     let old := natOf (memBytes s.mem g.addr g.len)
     r.1.data = memBytes s.mem g.addr g.len ∧
     (∀ a, a < g.addr ∨ g.addr + g.len ≤ a → memByte r.2.mem a = memByte s.mem a) ∧
     natOf (memBytes r.2.mem g.addr g.len) = (match op with
       | .add => (old + x.toNat) % 2 ^ (8 * g.len)
       | .swap => x.toNat % 2 ^ (8 * g.len)
       | .cas => if old = x.toNat % 2 ^ (8 * g.len) then y.toNat % 2 ^ (8 * g.len) else old
       | .and => old &&& (x.toNat % 2 ^ (8 * g.len))
       | .or => old ||| (x.toNat % 2 ^ (8 * g.len))
       | .xor => old ^^^ (x.toNat % 2 ^ (8 * g.len))
       | .min true => Nat.min old (x.toNat % 2 ^ (8 * g.len))
       | .max true => Nat.max old (x.toNat % 2 ^ (8 * g.len))
       | .min false => if (sext64 (8 * g.len) x.toNat).slt (sext64 (8 * g.len) old) then x.toNat % 2 ^ (8 * g.len) else old
       | .max false => if (sext64 (8 * g.len) old).slt (sext64 (8 * g.len) x.toNat) then x.toNat % 2 ^ (8 * g.len) else old
       | .fadd => (fAdd .fp32 .rne old (x.toNat % 2 ^ (8 * g.len))).1 % 2 ^ (8 * g.len))) ∧
  (∀ (s : State) (src : Nat) (bank : Option Nat) (addr : Word), s.Inv →
     (∀ (gs : List Seg) (data : List Byte) (psn : List Bool) (a : Nat),
       (∀ g ∈ gs, a < g.addr ∨ g.addr + g.len ≤ a) →
       memByte (s.serve src bank addr (.store gs data psn)).2.mem a = memByte s.mem a) ∧
     (∀ (g : Seg) (data : List Byte) (psn : List Bool), g.addr < devBase → data.length = g.len →
       memBytes (s.serve src bank addr (.store [g] data psn)).2.mem g.addr g.len = data) ∧
     (∀ (g : Seg) (data : List Byte) (psn : List Bool), devBase ≤ g.addr →
       (s.serve src bank addr (.store [g] data psn)).2.mem = s.mem))

/-- The groupset instructions of a bank, where their handles and operands allow them: a request to the home with its
registers waiting, the answers known at once, the spent handle of an abort, the snapshot load in its three forms, whose
lines are read before its bundle takes effect, and STG.GS, discarded when its epoch is known to abort and a groupset fault
when the write lists have no room (R134, R140 to R147, R227, R233 to R237).
What the manual leaves open here is as log entries 11 and 28 say. -/
def Obligations.GroupsetsIssue : Prop :=
  ∀ (s : State) (d name sc base : SReg) (hr : HReg) (nm cnt : Word) (w : BitVec 128), s.rdS name = .ok nm →
    s.rdS sc = .ok cnt → s.rdH hr = .ok w →
    let h := handleOf w
    let n := nm.setWidth 16
    let rd : BusyReg := .s (s.me.physS d)
    let asid := s.me.asidcur
    (0 < cnt.toNat → cnt.toNat ≤ 4095 →
      (h.v = false → s.homeOf n = none →
        ∃ u, exec (.gsOpen d hr name sc) s = .next u ∧ Soon s u [rd, .h hr] [s.dS d 6, .h hr 0]) ∧
      (∀ home, h.v = false → s.homeOf n = some home → ∃ u, exec (.gsOpen d hr name sc) s = .next u ∧
        Waits s u [rd, .h hr] ∧ s.Requested u 0 d (some hr)
          { v := false, snap := false, asid := asid, name := n, home := BitVec.ofNat 12 home,
            pcnt := BitVec.ofNat 12 cnt.toNat, epoch := 0 } true) ∧
      (h.v = true → h.snap = false → h.asid = asid → h.name = n →
        ∃ u, exec (.gsOpen d hr name sc) s = .next u ∧ Soon s u [rd] [s.dS d 0]) ∧
      (h.v = true → h.snap = true ∨ h.asid ≠ asid ∨ h.name ≠ n →
        exec (.gsOpen d hr name sc) s = .next (s.trapped { cause := 0x1B, val := BitVec.ofNat 64 hr.val }))) ∧
    (cnt.toNat = 0 ∨ 4095 < cnt.toNat →
      exec (.gsOpen d hr name sc) s = .next (s.trapped { cause := 0x1B, val := BitVec.ofNat 64 hr.val })) ∧
    (∀ gd p a, s.rdS base = .ok a → h.v = false ∨ h.snap = false →
      exec (.gsLoad gd p hr base) s = .next (s.trapped { cause := 0x1B, val := BitVec.ofNat 64 hr.val })) ∧
    (h.v = true → h.snap = false →
      (∃ u, exec (.gsSeal d hr) s = .next u ∧ Waits s u [rd, .h hr] ∧ s.Requested u 1 d (some hr) h false) ∧
      (∃ u id, exec (.gsAbort d hr) s = .next u ∧ Waits s u [rd, .h hr] ∧ s.Requested u 2 d (some hr) h true ∧
        u.me.inflight = s.me.inflight ++ [{ due := s.clk, res := [.h hr (handleBits { h with v := false })], causes := {},
                                            seq := id, req := some id }])) ∧
    (h.v = false ∨ h.snap = true →
      exec (.gsSeal d hr) s = .next (s.trapped { cause := 0x1B, val := BitVec.ofNat 64 hr.val }) ∧
      exec (.gsAbort d hr) s = .next (s.trapped { cause := 0x1B, val := BitVec.ofNat 64 hr.val }) ∧
      (s.homeOf n = none → ∃ u, exec (.gsSnap d hr name) s = .next u ∧ Soon s u [rd, .h hr] [s.dS d 6, .h hr 0]) ∧
      (∀ home, s.homeOf n = some home → ∃ u, exec (.gsSnap d hr name) s = .next u ∧ Waits s u [rd, .h hr] ∧
        s.Requested u 3 d (some hr) { v := true, snap := true, asid := asid, name := n, home := BitVec.ofNat 12 home,
                                      pcnt := 0, epoch := 0 } true)) ∧
    (h.epoch = 0 → ∃ u, exec (.gsStat d hr) s = .next u ∧ Soon s u [rd] [s.dS d 0]) ∧
    (h.epoch ≠ 0 → ∃ u, exec (.gsStat d hr) s = .next u ∧ Waits s u [rd] ∧ s.Requested u 4 d none h true) ∧
    (∀ gd p a gs, s.rdS base = .ok a → h.v = true → h.snap = true →
      let nrs : Nat × List BusyReg := match gd with
        | .s64 r => (8, [.s (s.me.physS r)])
        | .s128 r => (16, [.s (s.me.physS r), .s (s.me.physS (r + 1))])
        | .v r => (512, [.v (s.me.physV r)])
      let k : Ask := { kind := .load, addr := a, dst := .snap nrs.2 (s.me.physP p) }
      s.RowStops (exec (.gsLoad gd p hr base) s) a nrs.1 (Nat.min 64 nrs.1) 0 (· ≠ 3) ∧
      (checkAddr s.me.hmode .gsLoad a nrs.1 (alignOf nrs.1) = .ok () → pathOf a = 3 →
      let run := s.xlateWith s.ctx .gsLoad a nrs.1 (s.checkSnap h)
      let after (g : Seg) : List Nat := s.after { kind := .load, addr := a } [g]
      (∀ e, run = .error e → exec (.gsLoad gd p hr base) s = .next (s.stopped e)) ∧
      (run = .ok gs →
        s.Interlocks s (exec (.gsLoad gd p hr base) s) k (.gsLoad gs h) (nrs.2 ++ [.p (s.me.physP p)])) ∧
      (∀ g, gs = [g] → (∀ x ∈ s.me.pre, x.op ≠ .gsLoad [g] h) →
        s.checkSnap h a g = .error (.ask .load (.gsLoad [g] h) a (after g))) ∧
      (∀ g x, gs = [g] → s.me.pre.find? (fun e => e.op = .gsLoad [g] h && e.done) = some x →
        (x.psn = true → s.checkSnap h a g = .error (.trap { cause := 0x18, val := a })) ∧
        (x.psn = false → s.me.memdbg = false → s.checkSnap h a g = .ok ()) ∧
        (run = .ok gs → ∃ u, exec (.gsLoad gd p hr base) s = .next u ∧
          Asks s u (nrs.2 ++ [.p (s.me.physP p)]) .load [.given x.data x.lost] (s.after k gs) a k.dst)))) ∧
    (∀ t off size b bs, s.rdS base = .ok b → s.storeData t size = .ok bs →
      let a := b + off.signExtend 64
      let i : Instr := .stgGs t base off size hr
      (h.v = false ∨ h.snap = true ∨ h.asid ≠ asid →
        exec i s = .next (s.trapped { cause := 0x1B, val := BitVec.ofNat 64 hr.val })) ∧
      (h.v = true → h.snap = false → h.asid = asid → s.gsAborting h = false →
        s.RowStops (exec i s) a (sizeBytes size) (sizeBytes size) 0 (· ≠ 3) ∧
        ∀ e, s.access s.ctx .gsStore a (sizeBytes size) (sizeBytes size) = .error e → exec i s = .next (s.stopped e))) ∧
    (∀ t off size b bs g gs, s.rdS base = .ok b → s.storeData t size = .ok bs → h.v = true → h.snap = false →
      h.asid = asid →
      let a := b + off.signExtend 64
      let i : Instr := .stgGs t base off size hr
      (s.gsAborting h = true → exec i s = .next s.on) ∧
      (s.gsAborting h = false → s.access s.ctx .gsStore a (sizeBytes size) (sizeBytes size) = .ok (g :: gs) →
        (∀ e, s.listRoom hr h a (g :: gs) = .error e → exec i s = .next (s.stopped e)) ∧
        (∀ lines, s.listFits h (g :: gs) = false → s.flying = [] → gs = [] → s.here g = true →
          (s.serve 0 none a (.gsProbe g h)).1.data = lines → lines.contains 1 = true → 1048575 < s.listed + lines.count 1 →
          exec i s = .next (s.trapped { cause := 0x1B, val := BitVec.ofNat 64 hr.val })) ∧
        (s.listRoom hr h a (g :: gs) = .ok () →
          let k : Ask := { kind := .store, addr := a, gs := some h }
          s.Interlocks s (exec i s) k (.gsStore g bs h false) [] ∧
          (g.host = false → ∃ u, exec i s = .next u ∧
            Asks s u [] .store [.gsStore g bs h false] (s.after k [g]) a .none))))

/-! ## Iterators (R238 to R243) -/

/-- ITLD, ITSET, ITADV and ITRD: the record's iterator, behind an access or a snapshot that orders it only when the record
has been read; the fields set, the position moved, the values read; a count of zero raises the iterator fault; with every
count at least one, positions and indices correspond one to one, and advancing wraps modulo the product of the counts
(R121, R143, R235, R238 to R243).
What the manual leaves open here is as log entry 12 says. -/
def Obligations.Iterators : Prop :=
  (∀ (s : State) (g g' : GReg) (a d : SReg) (e : Fin 4) (p : PReg) (x : Word) (it it' : Iter), s.rdS a = .ok x →
     s.rdG g = .ok it → s.rdG g' = .ok it' →
     exec (.itset (.base g a)) s = .next (s.wrote 1 [.g g { it with base := x }]) ∧
     exec (.itset (.lin g a)) s = .next (s.wrote 1 [.g g { it with idx := it.decompose (x.toNat % it.total) }]) ∧
     (x.toNat % 2 ^ 32 ≠ 0 → ∃ j : Iter, exec (.itset (.dim g a e)) s = .next (s.wrote 1 [.g g j]) ∧ j.base = it.base ∧
       j.count[e].toNat = x.toNat % 2 ^ 32 ∧ j.stride[e].toNat = x.toNat / 2 ^ 32 ∧
       j.ndim.val = Nat.max it.ndim.val e.val ∧ (∀ k : Fin 4, j.idx[k] = 0) ∧
       ∀ k : Fin 4, k ≠ e → j.count[k] = it.count[k] ∧ j.stride[k] = it.stride[k]) ∧
     (x.toNat % 2 ^ 32 = 0 → exec (.itset (.dim g a e)) s = .next (s.trapped { cause := 0x1C, val := 0 })) ∧
     exec (.itset (.copy g g')) s = .next (s.wrote 1 [.g g it']) ∧
     exec (.itadv g a p) s = .next (s.wrote 1
       [.g g { it with idx := it.decompose ((it.linear + x.toNat) % it.total) },
        s.dP p (it.total ≤ it.linear + x.toNat)]) ∧
     exec (.itrd d g .addr) s = .next (s.wrote 1 [s.dS d (it.base +
       it.idx[0].setWidth 64 * it.stride[0].signExtend 64 + it.idx[1].setWidth 64 * it.stride[1].signExtend 64 +
       it.idx[2].setWidth 64 * it.stride[2].signExtend 64 + it.idx[3].setWidth 64 * it.stride[3].signExtend 64)]) ∧
     exec (.itrd d g .lin) s = .next (s.wrote 1 [s.dS d (BitVec.ofNat 64 it.linear)]) ∧
     exec (.itrd d g (.idx e)) s = .next (s.wrote 1 [s.dS d (it.idx[e].setWidth 64)]) ∧
     exec (.itrd d g .base) s = .next (s.wrote 1 [s.dS d it.base]) ∧
     s.NearStops x 64 (exec (.itld g a) s) ∧
     (∀ gs, checkAddr s.me.hmode .load x 64 64 = .ok () → pathOf x ≤ 2 → s.xlateLoad .load x 64 = .ok gs →
       let r := s.serve 0 (some s.cur.num) x (.load gs)
       let after := s.after { kind := .load, addr := x } gs
       let answer := s.me.pre.find? fun e => e.op = .load gs && e.done
       let ends (bs : List Byte) : Prop :=
         (∀ j, iterOf bs = some j → ∃ u due id, exec (.itld g a) s = .next u ∧ u.stop = none ∧
           u.me.inflight = s.me.inflight ++
             [{ due := due, res := [.g g j], causes := {}, seq := id, req := some id }] ∧
           s.clk < due ∧ u.me.isBusy (.g g) = true ∧ u.me.regs = s.me.regs ∧ u.mem = s.mem) ∧
         (iterOf bs = none → exec (.itld g a) s = .next (s.trapped { cause := 0x1C, val := x }))
       (after ≠ [] → answer = none → exec (.itld g a) s = .next (s.stopped (.ask .load (.load gs) x after))) ∧
       (after = [] → answer = none → ends r.1.data) ∧
       (∀ y, answer = some y → (y.psn = true → exec (.itld g a) s = .next (s.trapped { cause := 0x18, val := x })) ∧
         (y.psn = false → ends y.data)))) ∧
  (∀ (g : Iter) (n x : Nat), (∀ d : Fin 4, 0 < g.count[d].toNat) → x < g.total →
     let at_ : Iter := { g with idx := g.decompose x }
     at_.linear = x ∧ (∀ d : Fin 4, at_.idx[d].toNat < g.count[d].toNat) ∧
     (g.advance n).1.linear = (g.linear + n) % g.total ∧ ((g.advance n).2 = true ↔ g.total ≤ g.linear + n) ∧
     ∀ j : Iter, j.count = g.count → (∀ d : Fin 4, j.idx[d].toNat < g.count[d].toNat) → j.linear = x →
       j.idx = at_.idx)

/-! ## Copies, rings and vector memory -/

/-- A copy whose checks pass, of a bank with fewer than 16 incomplete copies, is accepted: its destination register waits for
the promise, at least 8 cycles on, and the engine holds what it captured; a copy of no units completes at once; PRM.RD
gives the latest promise, TIME with no copy, or in the timing trap's handler the promise of that copy (R109, R245 to
R251).
What the manual leaves open here is as log entries 1 and 15 say. -/
def Obligations.Copies : Prop :=
  ∀ (s : State) (d dst src len tbl : SReg) (hr : HReg) (k : Fin 10) (n : BitVec 8) (a b l t : Word),
    s.rdS dst = .ok a → s.rdS src = .ok b → s.rdS len = .ok l → s.rdS tbl = .ok t →
    (s.copies.filter (·.bank = s.cur)).length < 16 →
    let al := copyAlign l.toNat
    let ss : Word × Option Nat × Bool × Nat := (b, some l.toNat, kindPath .copySrc (pathOf b), al)
    let r := 32 * 2 ^ k.val
    let ra := copyAlign r
    let ix : Word × Option Nat × Bool × Nat := (t, some (4 * l.toNat), decide (pathOf t ≤ 2), 64)
    let big : Option Word := if 65536 < l.toNat ∨ 16777216 < l.toNat * r then some l else none
    (copyChecks s.me.hmode [ss, (a, some l.toNat, kindPath .copyDst (pathOf a), al)] none (lenTrap l) = .ok () →
      ∃ u, exec (.cpy d dst src len) s = .next u ∧ s.Accepted u d .plain a b l.toNat 0 0) ∧
    (∀ w, s.rdH hr = .ok w →
      copyChecks s.me.hmode [ss, (a, some l.toNat, kindPath .copyGs (pathOf a), al)] none (lenTrap l) = .ok () →
      (handleOf w).v = true → (handleOf w).snap = false → (handleOf w).asid = s.me.asidcur →
      ∃ u, exec (.cpyGs d dst src len hr) s = .next u ∧ s.Accepted u d (.gs (handleOf w)) a b l.toNat 0 0) ∧
    (copyChecks s.me.hmode [(a, some (l.toNat * r), kindPath .copyDst (pathOf a), ra), (b, none, kindPath .copySrc (pathOf b), ra), ix]
        none big = .ok () →
      ∃ u, exec (.cpyga d dst src tbl len k) s = .next u ∧ s.Accepted u d (.gather k.val) a b 0 l.toNat t) ∧
    (copyChecks s.me.hmode [(b, some (l.toNat * r), kindPath .copySrc (pathOf b), ra), (a, none, kindPath .copyDst (pathOf a), ra), ix]
        none big = .ok () →
      ∃ u, exec (.cpysc d dst src tbl len k) s = .next u ∧ s.Accepted u d (.scatter k.val) a b 0 l.toNat t) ∧
    (copyChecks s.me.hmode [ss, (a, some l.toNat, decide (pathOf a = 2), al),
        (t, some (2 * (n.toNat + 1)), decide (pathOf t ≤ 2), 64)] none (lenTrap l) = .ok () →
      ∃ u, exec (.cpybc d dst src len tbl n) s = .next u ∧ s.Accepted u d (.bcast (n.toNat + 1)) a b l.toNat 0 t) ∧
    (∀ trap : Bool, ∃ p, exec (.prmRd d trap) s = .next (s.wrote 1 [s.dS d p]) ∧
      (trap = true → s.me.hmode = true → s.me.tcause.toNat % 256 = 3 → p = s.me.trapPromise) ∧
      (trap = false ∨ s.me.hmode = false ∨ s.me.tcause.toNat % 256 ≠ 3 →
        ((∀ c ∈ s.copies, c.bank ≠ s.cur) → p = s.time) ∧
        ((∃ c ∈ s.copies, c.bank = s.cur) → (∃ c ∈ s.copies, c.bank = s.cur ∧ c.promise = p) ∧
          ∀ c ∈ s.copies, c.bank = s.cur → c.promise.toNat ≤ p.toNat)))

/-- The traps and the wait of a copy at issue, for CPY, CPY.GS, CPYGA, CPYSC and CPYBC: the address error of any range
before a misalignment before the path fault, then the groupset fault of a handle that may not write, then the operand trap
with the length or count, and a stall at 16 incomplete copies (R245, R246, R326).
Of two ranges that fail one check, which TVAL names is the model's choice, as log entry 63 says. -/
def Obligations.CopyStops : Prop :=
  ∀ (s : State) (d dst src len tbl : SReg) (hr : HReg) (k : Fin 10) (n : BitVec 8) (a b l t : Word),
    s.rdS dst = .ok a → s.rdS src = .ok b → s.rdS len = .ok l → s.rdS tbl = .ok t →
    let al (x : Nat) : Nat := if x = 32 then 32 else 64
    let r := 32 * 2 ^ k.val
    let source (p : Nat) : Prop := p ≤ 6
    let dest (p : Nat) : Prop := p ≤ 6 ∧ p ≠ 5
    let near (p : Nat) : Prop := p ≤ 2
    let length : Option Word := if l.toNat % 32 ≠ 0 ∨ 16777216 < l.toNat then some l else none
    let count : Option Word := if 65536 < l.toNat ∨ 16777216 < l.toNat * r then some l else none
    s.CopyStops (exec (.cpy d dst src len) s)
      [(b, some l.toNat, source, al l.toNat), (a, some l.toNat, dest, al l.toNat)] none length ∧
    (∀ w, s.rdH hr = .ok w → let h := handleOf w
      s.CopyStops (exec (.cpyGs d dst src len hr) s)
        [(b, some l.toNat, source, al l.toNat), (a, some l.toNat, (· = 3), al l.toNat)]
        (if h.v = false ∨ h.snap = true ∨ h.asid ≠ s.me.asidcur then some hr else none) length) ∧
    s.CopyStops (exec (.cpyga d dst src tbl len k) s)
      [(a, some (l.toNat * r), dest, al r), (b, none, source, al r), (t, some (4 * l.toNat), near, 64)] none count ∧
    s.CopyStops (exec (.cpysc d dst src tbl len k) s)
      [(b, some (l.toNat * r), source, al r), (a, none, dest, al r), (t, some (4 * l.toNat), near, 64)] none count ∧
    s.CopyStops (exec (.cpybc d dst src len tbl n) s)
      [(b, some l.toNat, source, al l.toNat), (a, some l.toNat, (· = 2), al l.toNat),
       (t, some (2 * (n.toNat + 1)), near, 64)] none length

/-- The ring instructions on a bound port with the slot within the declared count: the address of the slot or its header,
the figure of the snapshot, a header word, and a put that counts at once and whose header is written later; else the
rate trap or the ring operand trap with the port, bound or not; a put on an input or a peek on an output is a ring operand
trap (R21, R25, R128, R217 to R223).
What the manual leaves open here is as log entries 16 and 62 say. -/
def Obligations.Rings : Prop :=
  ∀ (s : State) (d b : SReg) (port : Port) (imm : BitVec 13) (x : Word), s.rdS b = .ok x →
    let q := s.me.ports[portIx port]
    let j := x.toNat + imm.toNat
    let slot := q.ring + BitVec.ofNat 64 ((q.slot + j) % q.depth * q.stride)
    let trap (c : Nat) : Host.Outcome State Fault Refusal := .next (s.trapped { cause := c, val := portVal port })
    (∀ p nul, port = .i p → exec (.ringPut port b imm nul) s = trap 0x1E) ∧
    (∀ p f, port = .o p → exec (.ringPeek d port b imm f) s = trap 0x1E) ∧
    (q.peer = .none → (∀ hdr, exec (.ringAddr d port b imm hdr) s = trap 0x1E) ∧ exec (.ringAvail d port) s = trap 0x1E ∧
      (∀ f, exec (.ringPeek d port b imm f) s = trap 0x1E) ∧ ∀ nul, exec (.ringPut port b imm nul) s = trap 0x1E) ∧
    (q.peer ≠ .none →
      exec (.ringAvail d port) s = .next (s.wrote 1 [s.dS d (BitVec.ofNat 64 q.snap)]) ∧
      (q.rate ≤ j → ∀ hdr, exec (.ringAddr d port b imm hdr) s = trap 0x20) ∧
      (j < q.rate → exec (.ringAddr d port b imm true) s = .next (s.wrote 1 [s.dS d slot]) ∧
        exec (.ringAddr d port b imm false) s = .next (s.wrote 1 [s.dS d (slot + 32)])) ∧
      (∀ p f, port = .i p → q.rate ≤ j → exec (.ringPeek d port b imm f) s = trap 0x20) ∧
      (∀ p f gs, port = .i p → j < q.rate →
        let a := slot + (if f = .h1 then 8 else 0)
        checkAddr s.me.hmode .ringPeek a 8 8 = .ok () → s.xlateLoad .ringPeek a 8 = .ok gs →
        let r : BusyReg := .s (s.me.physS d)
        s.LoadEnds s (exec (.ringPeek d port b imm f) s)
          { kind := .load, addr := a, dst := if f = .len then .peek r else .scalar r 8 false } gs [r]
          (fun bs => [s.dS d (BitVec.ofNat 64 (if f = .len then natOf bs / 2 ^ 14 % 256 * 32 else natOf bs))])
          fun _ => {}) ∧
      (∀ p nul g gs, port = .o p →
        let len := if nul then 0 else j
        (q.rate ≤ q.puts → exec (.ringPut port b imm nul) s = trap 0x20) ∧
        (q.puts < q.rate → len % 32 ≠ 0 ∨ q.capacity < len → exec (.ringPut port b imm nul) s = trap 0x1E) ∧
        (q.puts < q.rate → len % 32 = 0 → len ≤ q.capacity → s.access s.ctx .ringPut (q.slotAddr q.puts) 32 32 = .ok (g :: gs) →
          ∃ u w, exec (.ringPut port b imm nul) s = .next u ∧ u.stop = none ∧ u.mem = s.mem ∧ u.me.regs = s.me.regs ∧
            u.me.puts = s.me.puts ++ [w] ∧ w.port = portIx port ∧ w.at_ = g ∧ w.slot = { g with len := q.stride } ∧
            u.me.putSlots = s.me.putSlots ++ [(portIx port, q.puts, w.slot)] ∧ s.clk < w.due ∧
            w.head = bytesOf 8 (s.putHeader s.cur q len (q.cum + BitVec.ofNat 16 q.puts)).1.toNat ++
              bytesOf 8 (s.putHeader s.cur q len (q.cum + BitVec.ofNat 16 q.puts)).2.toNat ++ List.replicate 16 0 ∧
            u.me.ports[portIx port] = { q with puts := q.puts + 1 } ∧
            (s.copies = [] → u.me.mode = s.me.mode) ∧
            (u.me.mode ≠ s.me.mode → u.me.mode = .ringWait ∧ u.holds s.cur = false))))

/-- Vector loads and stores. Those that R104 finds nothing wrong with: the runs of active bytes, or the converted lanes
with their scales, are read at issue on paths 0x0 and 0x1 and asked for elsewhere; with no active byte nothing happens,
.ADV advances the iterator either way, and a converting store raises its lanes' events. Those that stop, for each fault
of R104 in its order, with no register and no byte of memory changed (R84 to R89, R104, R123, R284 to R288).
What the manual leaves open here is as log entries 11, 12 and 24 say. -/
def Obligations.VectorMemory : Prop :=
  ∀ (s v : State) (t : EType) (d : VReg) (addr : VAddr) (m : VMask) (a : Word), s.vaddr addr = .ok (a, v) →
    let q := s.rdMask m
    let act := q.getD (BitVec.allOnes 128)
    let n := s.me.physV d
    (match addr with
      | .s r => s.rdS r = .ok a ∧ v = s
      | .it g adv => ∃ it, s.rdG g = .ok it ∧ a = it.address ∧
          v = if adv then s.result 1 [.g g (it.advance 1).1] else s) ∧
    (let runs := runsOf 512 (byteOn q t.width)
     let i : Instr := .vld t none d addr m
     (runs = [] → exec i s = .next v.on) ∧
     s.SpanStops (exec i s) .load a runs (fun _ => False) ∧
     (∀ e, v.runCheck .load a runs = .ok () → v.runSegs .load a runs v.checkParts = .error e →
       exec i s = .next (s.stopped e)) ∧
     (∀ gp, runs ≠ [] → v.runCheck .load a runs = .ok () → v.runSegs .load a runs v.checkParts = .ok gp →
       let place := gp.map Prod.snd
       s.LoadEnds v (exec i s) { kind := .load, addr := a, dst := .vec n place } (gp.map Prod.fst) [.v n]
         (fun bs => [placedRes n place bs]) fun _ => {})) ∧
    (∀ geo rm, let runs := runsOf (16 * t.width) (laneByteOn q t.width)
     let i : Instr := .vld t (some (geo, rm)) d addr m
     let k := AKind.fmt t geo
     let segs := v.runSegs k a runs (v.elemChecks geo) fun o => (scaleAt geo t.width o).isSome
     (runs = [] → exec i s = .next v.on) ∧
     s.SpanStops (exec i s) .load a runs (· = 6) ∧
     (∀ e, v.runCheck k a runs = .ok () → segs = .error e → exec i s = .next (s.stopped e)) ∧
     (∀ gp sc e, runs ≠ [] → v.runCheck k a runs = .ok () → segs = .ok gp → scaleAt geo t.width (granOff a gp) = some sc →
       v.scaleSegs k geo q a (granOff a gp) sc = .error e → exec i s = .next (s.stopped e)) ∧
     (∀ gp sc sp e, runs ≠ [] → v.runCheck k a runs = .ok () → segs = .ok gp →
       scaleAt geo t.width (granOff a gp) = some sc → v.scaleSegs k geo q a (granOff a gp) sc = .ok sp →
       v.checkParts ((gp.map fun x => (a + BitVec.ofNat 64 x.2.1, x.1)) ++ sp.map fun x => (x.1, x.2.1)) = .error e →
       exec i s = .next (s.stopped e)) ∧
     (∀ gp sc sp, runs ≠ [] → v.runCheck k a runs = .ok () → segs = .ok gp →
       scaleAt geo t.width (granOff a gp) = some sc → v.scaleSegs k geo q a (granOff a gp) sc = .ok sp →
       v.checkParts ((gp.map fun x => (a + BitVec.ofNat 64 x.2.1, x.1)) ++ sp.map fun x => (x.1, x.2.1)) = .ok () →
       let all := gp ++ sp.map Prod.snd
       let place := all.map Prod.snd
       s.LoadEnds v (exec i s) { kind := .load, addr := a, dst := .cvt n t geo rm act place } (all.map Prod.fst)
         [.v n] (fun bs => [.v n (cvtLanes t geo rm act place bs).1 (elemMask 32 (some act))])
         fun bs => (cvtLanes t geo rm act place bs).2)) ∧
    (∀ x cvt, s.rdV d = .ok x →
     let runs := match cvt with
       | none => runsOf 512 (byteOn q t.width)
       | some _ => runsOf (16 * t.width) (laneByteOn q t.width)
     let lanes (rm : RMode) : List (Nat × Causes) := (List.range 128).map fun k =>
       if active q 32 k then convert t .fp32 rm (lane 32 x k) else (0, {})
     let data : Nat := match cvt with
       | none => x.toNat
       | some rm => (pack t.width ((lanes rm).map Prod.fst)).toNat
     let i : Instr := .vst t cvt addr d m
     (runs = [] → exec i s = .next v.on) ∧
     s.SpanStops (exec i s) .store a runs (· = 5) ∧
     (∀ e, v.runCheck .store a runs = .ok () → v.runSegs .store a runs (fun _ => .ok ()) = .error e →
       exec i s = .next (s.stopped e)) ∧
     (∀ gp, runs ≠ [] → v.runCheck .store a runs = .ok () → v.runSegs .store a runs (fun _ => .ok ()) = .ok gp →
       v.StoreEnds (exec i s) { kind := .store, addr := a } (gp.map Prod.fst) (runBytes data runs)) ∧
     (∀ rm u, cvt = some rm → runs ≠ [] → exec i s = .next u → u.stop = none →
       ∃ p, u.me.inflight = v.me.inflight ++ [p] ∧ p.res = [] ∧ p.due = s.clk + 1 ∧
         p.causes = ((lanes rm).map Prod.snd).foldl Causes.plus {}))

/-- VGATHER and VSCATTER. The lowest active element that faults stops the whole instruction, by its own fault of R104,
with no element read or stored. When every element's checks pass, every active element is read, a near one with nothing
before it at issue and any other when its access is performed, or is stored by an access of its own, of two that share
bytes the higher-numbered one last; the memory unit is occupied a cycle for every 16 (R84 to R86, R104 to R106, R117,
R120, R289).
What the manual leaves open here is as log entries 11 and 12 say. -/
def Obligations.GatherScatter : Prop :=
  ∀ (s : State) (t : EType) (d c : VReg) (a : SReg) (b : VReg) (m : VMask) (base : Word) (off x : Vec),
    s.rdS a = .ok base → s.rdV b = .ok off → s.rdV c = .ok x →
    let n := t.width / 8
    let es := elemAddrs (s.rdMask m) t.width base off
    let busy := s.clk + (es.length + 15) / 16
    (∀ i e, (i, e) ∈ es ↔ i < 4096 / t.width ∧ active (s.rdMask m) t.width i = true ∧
      e = base + sext64 32 (lane 32 off (i * t.width / 32))) ∧
    (es = [] → exec (.vgather t d a b m) s = .next s.on ∧ exec (.vscatter t a b c m) s = .next s.on) ∧
    (∀ l y r, es = l ++ y :: r → (∀ z ∈ l, ∃ gs, s.elemSeg .load 5 z.2 n = .ok gs) →
      s.RowStops (exec (.vgather t d a b m) s) y.2 n n 0 (5 < ·) ∧
      ∀ e, s.elemSeg .load 5 y.2 n = .error e → exec (.vgather t d a b m) s = .next (s.stopped e)) ∧
    (∀ l y r, es = l ++ y :: r → (∀ z ∈ l, ∃ gs, s.elemSeg .store 4 z.2 n = .ok gs) →
      s.RowStops (exec (.vscatter t a b c m) s) y.2 n n 0 (4 < ·) ∧
      ∀ e, s.elemSeg .store 4 y.2 n = .error e → exec (.vscatter t a b c m) s = .next (s.stopped e)) ∧
    (∀ gs, es ≠ [] → (es.mapM fun e => s.elemSeg .load 5 e.2 n) = .ok gs →
      let l := (es.map (·.2)).zip gs
      let dst : Dst := .vec (s.me.physV d) (es.map fun e => (e.1 * n, n))
      (∀ ops after todo v, s.gatherOps [] l = .ok ((ops, after, todo), v) →
        ∃ u, exec (.vgather t d a b m) s = .next u ∧ u.me.xBusy = busy ∧
          Asks v u [.v (s.me.physV d)] .load ops after base dst) ∧
      (∀ e, s.gatherOps [] l = .error e → exec (.vgather t d a b m) s = .next (s.stopped e)) ∧
      ((∀ e ∈ es, 1 < pathOf e.2) → (∀ g ∈ gs.flatten, s.here g = true) →
        ∃ u, exec (.vgather t d a b m) s = .next u ∧ u.me.xBusy = busy ∧
          Asks s u [.v (s.me.physV d)] .load (gs.flatten.map fun g => .load [g])
            ((l.map fun e => s.after { kind := .load, addr := e.1, gather := true } e.2).flatten) base dst) ∧
      ((∀ e ∈ es, pathOf e.2 ≤ 1) → s.ecc = [] →
        (∀ e ∈ l, s.after { kind := .load, addr := e.1, gather := true } e.2 = []) →
        ∃ u, exec (.vgather t d a b m) s = .next u ∧ u.me.xBusy = busy ∧ Asks s u [.v (s.me.physV d)] .load
            (l.map fun e => .given (s.serve 0 (some s.cur.num) e.1 (.load e.2)).1.data false) [] base dst)) ∧
    (∀ l, es ≠ [] → (es.mapM fun e => do
        let gs ← s.elemSeg .store 4 e.2 n
        pure (gs.map fun g => (⟨e.1, e.2, g, bytesOf n (lane t.width x e.1)⟩ : ScatterElem))) = .ok l →
      let k := l.flatten
      (∀ e, s.scatterTo k = .error e → exec (.vscatter t a b c m) s = .next (s.stopped e)) ∧
      ((∀ e ∈ k, pathOf e.addr ≤ 1 ∨ e.seg.host = false) →
        ∃ u new, exec (.vscatter t a b c m) s = .next u ∧ u.me.xBusy = busy ∧ Waits s u [] ∧
          u.accesses = s.accesses ++ new ∧ new.length = k.length ∧
          ∀ (i : Nat) (e : ScatterElem) (y : Access), k[i]? = some e → new[i]? = some y →
            y.bank = s.cur ∧ y.owner = .bank ∧ y.kind = .store ∧ y.addr = e.addr ∧ y.sent = false ∧ s.clk < y.due ∧
            (∃ bs psn, y.todo = [.store [e.seg] bs psn] ∧ bs = e.data.take (if pathOf e.addr ≤ 1 then n else e.seg.len)) ∧
            ∀ (j : Nat) (f : ScatterElem) (z : Access), j < i → k[j]? = some f → new[j]? = some z →
              segOverlaps e.seg f.seg = true → z.id ∈ y.after))

/-! ## Class Y (R164 to R166, R252 to R256) -/

/-- The system registers: CSR_RD reads, CSR_WR writes one cycle on, WIN.LD in a handler loads an entry that its status
accepts, behind an access or a snapshot that orders it only when the record has been read, WIN.RD reads one, TLB.INV drops
what it names, TLB.PROBE tells what the TLB holds (R121, R143, R164 to R166, R235, R252 to R255).
What the manual leaves open here is as log entries 12 and 25 say. -/
def Obligations.SystemRegisters : Prop :=
  ∀ (s : State) (d a b : SReg) (n : BitVec 16) (e : Fin 64) (k : Fin 4) (o : Bool) (x y : Word), s.rdS a = .ok x →
    s.rdS b = .ok y →
    let drop (p : TlbEntry → Bool) : State := (s.modCog s.cur.cog fun c => { c with tlb := c.tlb.filter (! p ·) }).on
    exec (.csrRd d n) s = .next (s.wrote 1 [s.dS d (s.readCsr n)]) ∧
    exec (.csrWr n a) s = .next (s.wrote 1 [.csr n x]) ∧
    exec (.winRd d e k o) s =
      .next (s.wrote 1 [s.dS d (((if o then s.bank s.cur.other else s.me).windows[e]).word k)]) ∧
    (∃ v, exec (.tlbProbe d a b) s = .next (s.wrote 2 [s.dS d v]) ∧
      (s.tlbFind s.cur.cog (x.setWidth 12) (y.toNat % 2 ^ 52) = none → v = 0) ∧
      (∀ t, s.tlbFind s.cur.cog (x.setWidth 12) (y.toNat % 2 ^ 52) = some t → v = t.probe)) ∧
    (s.me.hmode = true →
      exec (.tlbInv .all) s = .next (drop fun _ => true) ∧
      exec (.tlbInv (.asid a)) s = .next (drop fun t => t.asid = x.setWidth 12) ∧
      exec (.tlbInv (.va a b)) s = .next (drop fun t => t.covers (x.setWidth 12) (y.toNat % 2 ^ 52)) ∧
      exec (.tlbInv (.vaany b)) s = .next (drop fun t => t.covers t.asid (y.toNat % 2 ^ 52)) ∧
      s.NearStops x 32 (exec (.winLd d e a o) s) ∧
      (∀ gs, checkAddr true .load x 32 32 = .ok () → pathOf x ≤ 2 → s.xlateLoad .load x 32 = .ok gs →
        let after := s.after { kind := .load, addr := x } gs
        let answer := s.me.pre.find? fun e => e.op = .load gs && e.done
        let r := s.serve 0 (some s.cur.num) x (.load gs)
        let loads (v : State) (bs : List Byte) : Prop :=
          let w : Win := ⟨loadedWord bs 0, loadedWord bs 8, loadedWord bs 16, loadedWord bs 24⟩
          exec (.winLd d e a o) s = .next (v.wrote 2
            (v.dS d (BitVec.ofNat 64 (winStatus w)) :: (if winStatus w = 0 then [.win o e w] else [])))
        (after = [] → answer = none → loads r.2 r.1.data) ∧
        (after ≠ [] → answer = none → exec (.winLd d e a o) s = .next (s.stopped (.ask .load (.load gs) x after))) ∧
        (∀ y, answer = some y →
          (y.psn = true → exec (.winLd d e a o) s = .next (s.trapped { cause := 0x18, val := x })) ∧
          (y.psn = false → loads s y.data))))

/-- What a CSR write leaves to read: the fields that R166 and R253 make writable, a flag cleared where a one is written,
the handler's address without its low three bits; the read-only registers and every other register stay (R68, R166,
R253, R328). -/
def Obligations.CsrWrites : Prop :=
  ∀ (s : State) (n k : BitVec 16) (w : Word),
    let t := s.modMe fun b => b.writeRes (.csr n w)
    (n = 0x02 → t.readCsr n = w &&& 0x3F1F1F) ∧ (n = 0x10 → t.readCsr n = s.readCsr n &&& ~~~ w) ∧
    (n ∈ [0x11, 0x12, 0x13, 0x14, 0x15, 0x35, 0x36] → t.readCsr n = w) ∧ (n = 0x20 → t.readCsr n = w &&& 0xFFF) ∧
    (n = 0x21 → t.readCsr n = w &&& 1) ∧ (n = 0x30 → t.readCsr n = w &&& ~~~ 7#64) ∧
    (n ∈ [0x00, 0x03, 0x04, 0x31, 0x32, 0x33, 0x34] → t.readCsr n = s.readCsr n) ∧
    (k ≠ n → t.readCsr k = s.readCsr k) ∧ t.me.s = s.me.s ∧ t.me.v = s.me.v ∧ t.me.p = s.me.p ∧ t.mem = s.mem

/-! ## Steps of the package: time, firing, core, commit, traps (R9, R10, R28 to R42, R327, R336) -/

/-- A core cycle advances the core clock by one and TIME by one, with the one step of TIME at a fabric-cycle boundary; a
bank with every bound port supplied fires at its entry with zero bases and copied carries, its iteration-private windows as
they were unless the iteration is run again; a free core goes to the ready bank, and when both are to the one passed over,
else to the one whose fullest input ring is fuller, else to the one that did not hold it last, for an even TIME at least two
cycles after the yield; a commit makes the working carries the committed ones and counts the ports; a
STAGE.END that completes at an even TIME gives up the core there and commits in the next cycle (R9, R10, R28 to R35, R39 to
R41, R207, R381; the fault without power is R397 and R401).
What the manual leaves open here is as log entries 5, 14, 47 and 56 say. -/
def Obligations.TimeAndFiring : Prop :=
  (∀ s : State, (s.powered = false → exec .timeAdvance s = .fault .railsOff) ∧
    (s.powered = true → ∃ t, exec .timeAdvance s = .next t ∧ t.clk = s.clk + 1 ∧
      t.time = s.time + 1 + (if s.time.toNat % 2 = 1 then BitVec.ofNat 64 s.td.step else 0))) ∧
  (∀ (s : State) (b : BankIx), let x := s.bank b
    ((x.active = false ∨ x.freewheel = true ∨ x.mode ≠ .idle ∨ x.live = true ∨ (s.cog b.cog).failed = true ∨
        s.time.toNat % 2 = 1 ∨ ∃ i : Fin 16, x.ports[i].peer ≠ .none ∧ x.ports[i].snap < x.ports[i].rate) →
      exec (.firingEvaluation b) s = .next { s with evalNext := b.val + 1 }) ∧
    (x.active = true → x.freewheel = false → x.mode = .idle → x.live = false → x.settled = true →
      (∀ i : Fin 16, x.ports[i].peer = .none ∨ x.ports[i].rate ≤ x.ports[i].snap) → (s.cog b.cog).failed = false →
      s.time.toNat % 2 = 0 →
      ∃ t, exec (.firingEvaluation b) s = .next t ∧ (∀ c, c ≠ b → t.bank c = s.bank c) ∧
        (x.rerun = false → t.mem = s.mem) ∧
        (∀ a, (∀ w ∈ x.windows.toList, w.bit 0 = true → w.bit 5 = true →
            a < w.target b.cog.val w.base ∨ w.target b.cog.val w.base + w.size ≤ a) →
          memByte t.mem a = memByte s.mem a) ∧
        let y := t.bank b
        y.mode = .fired s.time ∧ y.live = true ∧ y.pc = x.stage.entry ∧ y.rstpt = x.stage.entry ∧ y.cWork = x.c ∧
        y.cvWork = x.cv ∧ y.c = x.c ∧ y.rotS = 0 ∧ y.rotV = 0 ∧ y.rotP = 0 ∧ y.asidcur = 0 ∧ y.budcnt = 0 ∧ y.s = x.s ∧
        y.p = x.p ∧ y.v = x.v ∧ y.rerun = false ∧
        ∀ i : Fin 16, x.ports[i].peer ≠ .none → y.ports[i].reserved = x.ports[i].rate)) ∧
  (∀ (s : State) (c : CogIx) (h : Bool), (s.cog c).holder = none → (s.cog c).failed = false →
    (s.bank (c.bank h)).isReady s.time = true →
    let input (k : Bool) (i : Fin 16) : Prop := i.val < 8 ∧ (s.bank (c.bank k)).ports[i].peer ≠ .none
    let occ (k : Bool) (i : Fin 16) : Nat := (s.bank (c.bank k)).ports[i].snapOcc
    let depth (k : Bool) (i : Fin 16) : Nat := (s.bank (c.bank k)).ports[i].depth
    let fuller (k : Bool) : Prop := ∃ i, input k i ∧ 0 < occ k i ∧
      ∀ j, input (!k) j → occ (!k) j * depth k i < occ k i * depth (!k) j
    ((s.bank (c.bank !h)).isReady s.time = false ∨ (s.cog c).passed = some h ∨
      ((s.cog c).passed = none ∧ (∀ k i, input k i → 0 < depth k i) ∧
        (fuller h ∨ (¬ fuller (!h) ∧
          h = match (s.cog c).lastHolder with
            | some l => !l
            | none => false)))) →
    ∃ t, exec (.coreHandover c) s = .next t ∧ (t.cog c).holder = some h ∧
      (t.bank (c.bank h)).mode = (if (s.bank (c.bank h)).mode = .endReady then .ending else .running) ∧
      (t.bank (c.bank h)).nextIssue = (t.cog c).heldFrom + (s.bank (c.bank h)).delay ∧
      s.clk ≤ (t.cog c).heldFrom ∧ (s.time.toNat + ((t.cog c).heldFrom - s.clk)) % 2 = 0 ∧
      (∀ l, (s.cog c).lastHolder = some l → (s.bank (c.bank l)).yieldClk + 2 ≤ (t.cog c).heldFrom) ∧
      ((t.cog c).passed = if (s.bank (c.bank !h)).isReady s.time then some !h else none) ∧
      t.bank (c.bank !h) = s.bank (c.bank !h) ∧ t.mem = s.mem) ∧
  (∀ (s : State) (b : BankIx), (s.cog b.cog).failed = false → let x := s.bank b
    let commits : Prop := ∃ t, exec (.commit b) s = .next t ∧ t.mem = s.mem ∧ (x.mode = .ending → t.holds b = false) ∧
      let y := t.bank b
      y.mode = .idle ∧ y.live = false ∧ y.c = x.cWork ∧ y.cv = x.cvWork ∧ y.rotS = 0 ∧ y.rotV = 0 ∧ y.rotP = 0 ∧ y.budcnt = 0 ∧
      y.s = x.s ∧ y.p = x.p ∧ y.v = x.v ∧ y.g = x.g ∧ y.h = x.h ∧ y.firings = x.firings + 1 ∧
      (∀ i : Fin 16, x.ports[i].peer ≠ .none → y.ports[i].reserved = 0) ∧
      (∀ i : Fin 16, 8 ≤ i.val → x.ports[i].peer ≠ .none →
        y.ports[i].cum = x.ports[i].cum + BitVec.ofNat 16 x.ports[i].rate ∧ y.ports[i].puts = 0) ∧
      ((∀ i : Fin 16, x.ports[i].discard = 0) → ∀ i : Fin 16, i.val < 8 → x.ports[i].peer ≠ .none →
        y.ports[i].freed = x.ports[i].freed + BitVec.ofNat 16 x.ports[i].rate)
    (x.mode = .ending → s.commitReady b = true → (s.cog b.cog).heldFrom ≤ s.clk →
      (s.time.toNat % 2 = 1 → commits) ∧
      (s.time.toNat % 2 = 0 → ∃ t, exec (.commit b) s = .next t ∧ (t.bank b).mode = .ended ∧ t.holds b = false ∧
        (t.bank b).regs = x.regs ∧ (t.bank b).ports = x.ports ∧ t.mem = s.mem)) ∧
    (x.mode = .ended → (s.time.toNat % 2 = 0 → exec (.commit b) s = .next s) ∧ (s.time.toNat % 2 = 1 → commits)))

/-- The budget trap waits for the next boundary once the counter has passed the declared budget; a trap that waited for its
bank to drain is taken; a handler of an abandoned iteration that runs for 65,536 cycles is stopped (R42, R324, R327,
R330, R336).
What the manual leaves open here is as log entries 13 and 21 say. -/
def Obligations.WaitingTraps : Prop :=
  ∀ (s : State) (b : BankIx), let x := s.bank b
    (x.live = true → x.stage.budget < x.budcnt → x.budgetDone = false →
      ∃ t, exec (.budgetExceeded b) s = .next t ∧ (t.bank b).pend.budget = true ∧ (t.bank b).budgetDone = true ∧
        (t.bank b).regs = x.regs ∧ (t.bank b).pc = x.pc ∧ t.mem = s.mem ∧ ∀ c, c ≠ b → t.bank c = s.bank c) ∧
    (x.budcnt ≤ x.stage.budget → exec (.budgetExceeded b) s = .next s) ∧
    (∀ t epc, x.mode = .trapping t epc →
      (s.draining b = false → s.dead b = false → exec (.trapTake b) s = .next (s.enterTrap b t epc)) ∧
      (s.draining b = true ∨ s.dead b = true → exec (.trapTake b) s = .next s)) ∧
    (∀ n, x.handlerAt = some n → (s.clk < n + 65536 ∨ s.dead b = true → exec (.handlerTimeout b) s = .next s) ∧
      (n + 65536 ≤ s.clk → s.dead b = false → ∃ t, exec (.handlerTimeout b) s = .next t ∧ (t.bank b).mode = .stopped ∧
        (t.bank b).hmode = false ∧ (t.bank b).aband = false ∧ (t.bank b).live = false ∧ (t.bank b).handlerAt = none ∧
        t.holds b = false ∧ t.mem = s.mem ∧ (t.bank b).s = x.s ∧ (t.bank b).tcause = x.tcause))

/-- The hub's part in memory: an answered fault makes the bank ready, a refused one is the global access error at its
bundle; a collapse closes the granule at every mapper, then every entry names OWNER's frame without DUP; RETREQ begins the
lowest transition it asks for, one at a time; scrub and retention correct and count errors; accesses of the host are
performed and completed, refused, or made again once their region may be active (R99, R102, R103, R111 to R115, R390).
What the manual leaves open here is as log entries 17, 20, 26, 27 and 60 say. -/
def Obligations.HubAtMemory : Prop :=
  (∀ (s : State) (b : BankIx) (cause slot : Nat) (val : Word), (s.bank b).mode = .waitHub cause val slot → s.holds b = false →
    s.dead b = false → (∃ t, exec (.faultAnswer (.bank b) false) s = .next t ∧ (t.bank b).mode = .ready ∧
      (t.bank b).regs = (s.bank b).regs ∧
      (t.bank b).pc = (s.bank b).pc ∧ t.mem = s.mem ∧ ∀ h ∈ t.hub.held, h.1 ≠ .bank b) ∧
    exec (.faultAnswer (.bank b) true) s =
      .next ((s.release (.bank b)).enterTrap b { cause := 0x1A, sub := cause, slot := slot, val := val } (s.bank b).pc)) ∧
  (∀ (s : State) (id : Nat) (refused : Bool), ∃ t, exec (.faultAnswer (.copy id) refused) s = .next t ∧
    t.copies = s.copies.map (fun c => if c.id = id ∧ s.dead c.bank = false then
      (if refused = false then { c with held := false }
       else if s.copyAborted c = true then { c with held := false, todo := [] }
       else { c with held := false, failed := true }) else c) ∧
    t.banks = s.banks ∧ t.mem = s.mem) ∧
  (∀ (s : State) (r : CollapseReq) (c : Collapse) (cs : List Collapse) (lv a : Nat), s.hub.collapses = c :: cs →
    c.req = r → s.leafPlace r.asid r.goff.toNat = some (lv, a) →
    let tables := s.shut (s.walkRuns r.asid r.goff.toNat)
    (tables ≠ none → ∃ t, exec (.collapse r) s = .next t ∧ s.Later t (.collapse r) ∧ t.mem = s.mem ∧ t.hub = s.hub) ∧
    (tables = none → c.opened = false → (s.entry a).2.getLsbD 14 = true → s.splitPage r.asid r.goff.toNat ≠ none →
      ∃ t, exec (.collapse r) s = .next t ∧ s.Later t (.collapse r) ∧
        (∀ k, ∀ e ∈ (t.cog k).tlb, e.covers r.asid r.goff.toNat = false) ∧
        (∀ p ∈ s.otherPkgs, Out.hub p (.entryUpdate r.asid r.goff 0 0) ∈ t.outbox) ∧
        (r.asid, r.goff.toNat / 65536) ∈ t.hub.closed ∧
        ∃ x ∈ t.hub.collapses, x.req = r ∧ x.opened = true ∧ x.awaiting = s.otherPkgs) ∧
    (tables = none → c.opened = true → c.awaiting = [] → s.granuleBusy r.asid r.goff.toNat = false →
      let w1 := ((s.entry a).2 &&& ~~~ 0x84000#64) ||| 1
      ∃ t, exec (.collapse r) s = .next t ∧
        (∀ p ∈ s.otherPkgs, Out.hub p (.entryUpdate r.asid r.goff (s.entry a).1 w1) ∈ t.outbox) ∧
        (lv = 3 → s.Inv → t.entry a = ((s.entry a).1, w1)) ∧ (∀ x ∈ t.hub.collapses, x.req ≠ r) ∧
        (r.asid, r.goff.toNat / 65536) ∉ t.hub.closed ∧
        (∀ h ∈ s.hub.held, h.2.1 = r.asid → h.2.2.1.toNat / 65536 = r.goff.toNat / 65536 → h.2.2.2 ≠ 0x33 →
          h.1 ≠ r.party → s.Later t (.faultAnswer h.1 false)) ∧
        (r.src = s.hub.pkg.toNat → s.Later t (.faultAnswer r.party false)) ∧
        (r.src ≠ s.hub.pkg.toNat → Out.hub r.src (.collapseAnswer r.party false) ∈ t.outbox))) ∧
  (∀ (s : State) (c : CogIx) (req : BitVec 9), let x := s.cog c
    let asks (k : Fin 9) : Bool := if req.getLsbD k.val then x.regions[k] = .active else x.regions[k] = .retained
    ∃ t, exec (.retreqWrite c req) s = .next t ∧ (t.cog c).retreq = req ∧ t.mem = s.mem ∧ t.banks = s.banks ∧
      ((∃ k : Fin 9, x.regions[k] = .entering ∨ x.regions[k] = .exiting) ∨ (∀ k, asks k = false) →
        (t.cog c).regions = x.regions) ∧
      ∀ k : Fin 9, (∀ j : Fin 9, x.regions[j] ≠ .entering ∧ x.regions[j] ≠ .exiting) → asks k = true →
        (∀ j < k, asks j = false) →
        (t.cog c).regions = x.regions.set k (if x.regions[k] = .active then .entering else .exiting) ∧
        s.Later t (.retentionTransitionDone c)) ∧
  (∀ (s : State) (c : CogIx) (k : Fin 9), let x := s.cog c
    (∀ j : Fin 9, j ≠ k → x.regions[j] ≠ .entering ∧ x.regions[j] ≠ .exiting) → x.retEnd ≤ s.clk →
    (x.regions[k] = .entering → x.retreq.getLsbD k.val = true →
      ∃ t, exec (.retentionTransitionDone c) s = .next t ∧ (t.cog c).regions[k] = .retained ∧ t.mem = s.mem) ∧
    (x.regions[k] = .exiting → x.retreq.getLsbD k.val = false →
      ∃ t, exec (.retentionTransitionDone c) s = .next t ∧ (t.cog c).regions[k] = .active ∧
        ((∀ l, s.bchBits l ≤ 5) → t.mem = s.mem) ∧
        (∀ h ∈ s.hub.held, h.2.2.2 = 0x33 → inRegion c k h.2.2.1.toNat = true → s.Later t (.faultAnswer h.1 false)) ∧
        ∀ e, (s.ecc.filter fun y => inRegion c k y.addr) = [e] →
          (e.bits ≤ 4 → t.poison = s.poison ∧ (t.cog c).memceStk = satAdd x.memceStk e.bits) ∧
          (e.bits = 5 → s.poison.contains (e.addr / 64) = true → t.poison = s.poison ∧ (t.cog c).memue = x.memue) ∧
          (e.bits = 5 → s.poison.contains (e.addr / 64) = false →
            t.poison = lineInsert (e.addr / 64) s.poison ∧ (t.cog c).memue = satAdd x.memue 1))) ∧
  (∀ (s : State) (c : CogIx) (l : Nat), ∃ t, exec (.scrub c l) s = .next t ∧ t.mem = s.mem ∧ t.banks = s.banks ∧
    ((∀ e ∈ t.ecc, t.scrubbed c e.addr = false) →
      s.clk < (t.cog c).scrubDue ∧ (t.cog c).scrubDue ≤ s.clk + 2 ^ 27) ∧
    (s.scrubbed c (l * 64) = false → t.ecc = s.ecc ∧ t.poison = s.poison) ∧
    (∀ e, s.scrubbed c (l * 64) = true → s.scrubbed c e.addr = true → s.ecc.filter (·.meets (l * 64) 64) = [e] →
      t.ecc = s.ecc.filter (· ≠ e) ∧
      (e.bits ≤ 1 → t.poison = s.poison ∧ (t.cog c).memceStk = satAdd (s.cog c).memceStk 1) ∧
      (2 ≤ e.bits → s.poison.contains (e.addr / 64) = true → t.poison = s.poison ∧ (t.cog c).memue = (s.cog c).memue) ∧
      (2 ≤ e.bits → s.poison.contains (e.addr / 64) = false →
        t.poison = lineInsert (e.addr / 64) s.poison ∧ (t.cog c).memue = satAdd (s.cog c).memue 1))) ∧
  (∀ (s : State) (id : Nat) (asid : BitVec 12) (goff : BitVec 52) (n : Nat) (data : List Byte) (posted : Bool),
    let at_ : Word := goff.setWidth 64
    let v := s.eccWalk none at_ asid goff.toNat
    let rd := v.hostSegs .load asid goff n
    let wr := v.hostSegs .store asid goff data.length
    let waits (i : Instr) : Prop := ∃ t, exec i s = .next t ∧ v.Later t i ∧ t.mem = v.mem ∧ t.banks = v.banks ∧
      t.outbox = v.outbox
    let told (p : Option Word) : State := match p with
      | some loc => v.memRecord 4 4 none loc at_ 0
      | none => v
    (s.ecc = [] → v = s) ∧
    (∀ p, rd = .refused p → exec (.hostMemoryRead id asid goff n) s = .next ((told p).emit (.completion id false []))) ∧
    (∀ gs, rd = .go gs → let r := v.serve 4 none at_ (.load gs)
      exec (.hostMemoryRead id asid goff n) s = .next (r.2.emit (.completion id (!r.1.psn && !r.1.lost) r.1.data))) ∧
    (rd = .wait ∨ (∃ a, rd = .retained a) → waits (.hostMemoryRead id asid goff n)) ∧
    (∀ p, wr = .refused p → exec (.hostMemoryWrite posted asid goff data) s =
      .next ((told p).emit (if posted then .aerAbort else .completion 0 false []))) ∧
    (∀ gs, wr = .go gs → let u := (v.serve 4 none at_ (.store gs data [])).2
      exec (.hostMemoryWrite posted asid goff data) s = .next (if posted then u else u.emit (.completion 0 true []))) ∧
    (wr = .wait ∨ (∃ a, wr = .retained a) → waits (.hostMemoryWrite posted asid goff data)))

/-- The ends of a copy: complete, it leaves the engine; failed, its error waits for a boundary of the iteration that issued
it, or, when that has ended, a trap record is written with ACTION 0x04, CAUSE 0x02 and TVAL its destination; a promise that
TIME has reached is replaced by one at least 8 cycles on, and the live iteration gets the timing trap (R108 to R110, R246,
R250, R330).
What the manual leaves open here is as log entries 15 and 51 say; the TEPC of the record, the bundle of the copy, is the
model's choice, log entry 51. -/
def Obligations.CopyEvents : Prop :=
  ∀ (s : State) (id : Nat) (c : Copy), s.copies.find? (·.id = id) = some c →
    (s.copies.filter (·.id = id) = [c] → c.done = true → ∃ t, exec (.copyComplete id) s = .next t ∧
      t.copies = s.copies.filter (·.id ≠ id) ∧ t.banks = s.banks ∧ t.mem = s.mem) ∧
    (∃ t, exec (.copyFailure id) s = .next t ∧ t.copies = s.copies.filter (·.id ≠ id) ∧ t.mem = s.mem ∧
      (∀ k, (t.bank k).view = (s.bank k).view) ∧
      ((s.bank c.bank).live = true → (s.bank c.bank).iter = c.iter →
        (t.bank c.bank).pend.copyErr = (s.bank c.bank).pend.copyErr ++ [(c.dst, c.iter)]) ∧
      ((s.bank c.bank).live = false ∨ (s.bank c.bank).iter ≠ c.iter →
        t.banks = s.banks ∧ s.TrapRecorded t c.bank c.epc c.dst 4 0 2)) ∧
    (s.time.toNat < c.promise.toNat ∨ c.done = true → exec (.promiseMissed id) s = .next s) ∧
    (c.promise.toNat ≤ s.time.toNat → c.done = false → c.failed = false →
      ∃ t n, exec (.promiseMissed id) s = .next t ∧ 8 ≤ n ∧ t.mem = s.mem ∧ t.copies.length = s.copies.length ∧
        (∀ x ∈ t.copies, x.id = id → x.promise = s.time + BitVec.ofNat 64 n) ∧
        (∀ k, (t.bank k).view = (s.bank k).view) ∧
        ((s.bank c.bank).live = true → (s.bank c.bank).iter = c.iter → (t.bank c.bank).pend.timing =
          (s.bank c.bank).pend.timing ++ [(s.time + BitVec.ofNat 64 n, id)]) ∧
        ((s.bank c.bank).live = false → t.banks = s.banks))

/-- A groupset's home and the packages that serve it: the answers to an open, a seal, an abort, a snapshot and a status; an
abort completes, with status 0 and its epoch closed and kept as aborted, once every package has reverted; a revert clears
VALID of the epoch's version in each line of this package's list and sets NEWEST of the other one, or poisons both; the
answer at the bank that asked; a request of another package, a load served at once and a write after a free time, each
once its region is active; and the bytes of a response (R89, R107, R113, R133, R138, R141 to R143, R146, R147, R233 to R237,
R343, R374).
What the manual leaves open here is as log entry 28 says; that a load of another package is served at once and its write
after a free time is the model's timing (log entries 1 and 12). -/
def Obligations.HomesAnswer : Prop :=
  (∀ (s : State) (m : GsMsg), let r := s.sealRec m.asid m.name
    let opens (status epoch : Nat) (r' : SealRec) : Prop := ∃ t, exec (.gsHomeOpen m) s = .next t ∧
      s.Answers t m.asid m.name m.party ⟨m.id, status, epoch, 0⟩ ∧ t.sealRec m.asid m.name = r' ∧ t.mem = s.mem ∧
      t.banks = s.banks
    (r.aborting = true → opens 5 0 r) ∧
    (r.aborting = false → r.open_ = none →
      (r.next = 2 ^ 40 - 1 → opens 4 0 r) ∧
      (r.next ≠ 2 ^ 40 - 1 → 0 < m.count → ∃ h, opens 0 r.next { r with
        open_ := some r.next, next := r.next + 1, pcnt := m.count, joined := [m.party], sealcnt := 0, history := h })) ∧
    (∀ e, r.aborting = false → r.open_ = some e →
      (m.count ≠ r.pcnt → opens 1 0 r) ∧ (m.count = r.pcnt → m.party ∈ r.joined → opens 3 0 r) ∧
      (m.count = r.pcnt → m.party ∉ r.joined → r.joined.length = r.pcnt → opens 2 0 r) ∧
      (m.count = r.pcnt → m.party ∉ r.joined → r.joined.length ≠ r.pcnt →
        opens 0 e { r with joined := r.joined ++ [m.party] }))) ∧
  (∀ (s : State) (m : GsMsg), let r := s.sealRec m.asid m.name
    let seals (status : Nat) (p : SealRec → Prop) : Prop := ∃ t, exec (.gsHomeSeal m) s = .next t ∧
      s.Answers t m.asid m.name m.party ⟨m.id, status, m.epoch, 0⟩ ∧ p (t.sealRec m.asid m.name) ∧ t.mem = s.mem
    (r.open_ ≠ some m.epoch ∨ r.aborting = true → seals 2 (· = r)) ∧
    (r.open_ = some m.epoch → r.aborting = false →
      (r.sealcnt + 1 = r.pcnt → seals 1 fun x => x.sealed = m.epoch ∧ x.open_ = none ∧ x.next = r.next ∧ x.pcnt = 0 ∧
        x.joined = [] ∧ (m.epoch < r.next → r.next ≤ m.epoch + 1024 → (m.epoch, false) ∈ x.history)) ∧
      (r.sealcnt + 1 ≠ r.pcnt → seals 0 (· = { r with sealcnt := r.sealcnt + 1 })))) ∧
  (∀ (s : State) (m : GsMsg), let r := s.sealRec m.asid m.name
    let closed : Prop := m.epoch ≤ r.sealed ∧ (m.epoch, true) ∉ r.history
    let ends (status : Nat) : Prop := ∃ t, exec (.gsHomeAbort m) s = .next t ∧
      s.Answers t m.asid m.name m.party ⟨m.id, status, m.epoch, 0⟩ ∧ t.sealRec m.asid m.name = r ∧ t.mem = s.mem
    (closed → ends 1) ∧ (¬ closed → r.open_ ≠ some m.epoch ∨ r.aborting = true → ends 2) ∧
    (¬ closed → r.open_ = some m.epoch → r.aborting = false → ∃ t, exec (.gsHomeAbort m) s = .next t ∧
      t.sealRec m.asid m.name = { r with aborting := true, awaiting := s.livePkgs, asker := some m } ∧ t.mem = s.mem ∧
      (∀ p ∈ s.livePkgs, p ≠ s.hub.pkg.toNat → Out.hub p (.revert m.asid m.name m.epoch) ∈ t.outbox) ∧
      (s.hub.pkg.toNat ∈ s.livePkgs → s.Later t (.gsRevert m.asid m.name m.epoch s.hub.pkg.toNat)))) ∧
  (∀ (s : State) (m : GsMsg), let r := s.sealRec m.asid m.name
    exec (.gsHomeSnap m) s = .next (s.sendAns m.party ⟨m.id, 0, r.sealed, 0⟩) ∧
    ∃ w, exec (.gsHomeStat m) s = .next (s.sendAns m.party ⟨m.id, 0, m.epoch, w⟩) ∧
      (r.next ≤ m.epoch → r.open_ ≠ some m.epoch → w = 0) ∧
      (r.open_ = some m.epoch → m.epoch < r.next → w = BitVec.ofNat 64 ((if r.aborting then 3 else 1) * 2 ^ 62 +
        r.pcnt * 2 ^ 50 + r.joined.length * 2 ^ 38 + r.sealcnt * 2 ^ 26)) ∧
      (∀ o, m.epoch < r.next → r.open_ ≠ some m.epoch → (∀ x ∈ r.history, x.1 = m.epoch → x.2 = o) →
        (m.epoch, o) ∈ r.history → w = BitVec.ofNat 64 ((if o then 3 else 2) * 2 ^ 62))) ∧
  (∀ (s : State) (asid : BitVec 12) (name : BitVec 16) (e home : Nat), e < 2 ^ 40 →
    ∃ t, exec (.gsRevert asid name e home) s = .next t ∧
      (∀ h : Handle, h.asid = asid → h.name = name → h.epoch.toNat = e → t.gsAborting h = true) ∧
      (s.gsFlight asid name e = true → s.Later t (.gsRevert asid name e home) ∧ t.mem = s.mem) ∧
      let h : Handle := { v := true, snap := false, asid := asid, name := name, home := BitVec.ofNat 12 home, pcnt := 0,
                          epoch := BitVec.ofNat 40 e }
      let ls := (((s.wlist? h).map (·.lines)).getD []).filter fun l => (lineSeg l).pkg = s.hub.pkg.toNat
      let lines := s.shut (ls.map fun l => groupsetRuns (lineSeg l)).flatten
      (lines ≠ none → s.Later t (.gsRevert asid name e home) ∧ t.mem = s.mem) ∧
      (s.gsFlight asid name e = false → lines = none → home ≠ s.hub.pkg.toNat →
        (∀ w ∈ s.wlists, w.asid = asid → w.name = name → w.epoch = e → ∀ l ∈ w.lines, (lineSeg l).pkg = s.hub.pkg.toNat) →
        Out.hub home (.revertDone s.hub.pkg.toNat asid name e) ∈ t.outbox) ∧
      (s.gsFlight asid name e = false → lines = none → ∃ v : State, v.mem = s.mem ∧ v.poison = s.poison ∧ v.ecc = s.ecc ∧
        let w := ls.foldl (fun v l => v.gsRevertLine (lineSeg l).addr h) v
        t.mem = w.mem ∧ t.poison = w.poison)) ∧
  (∀ (s : State) (a : Nat) (h : Handle) (b : Bool), s.Inv → s.ecc = [] →
    let frame := gsFrame a
    let i := gsLine a
    let r := s.slotRec frame i b
    let o := s.slotRec frame i !b
    let t := s.gsRevertLine a h
    (recIs r h = false ∨ recValid r = false → recIs o h = false ∨ recValid o = false → t = s) ∧
    (recValid r = true → recIs r h = true → (recValid o = true → recIs o h = false) →
      t.slotRec frame i b = r - 1 ∧ recValid (t.slotRec frame i b) = false ∧
      (recValid o = true → recNewest (t.slotRec frame i !b) = true ∧ recValid (t.slotRec frame i !b) = true ∧
        recKey (t.slotRec frame i !b) = recKey o ∧ recEpoch (t.slotRec frame i !b) = recEpoch o ∧ t.poison = s.poison) ∧
      (recValid o = false → poisoned t (slotAddr frame i b) 64 = true ∧ poisoned t (slotAddr frame i !b) 64 = true) ∧
      ∀ x, x < slotRecAddr frame i false ∨ slotRecAddr frame i false + 32 ≤ x → memByte t.mem x = memByte s.mem x)) ∧
  (∀ (s : State) (src p : Nat) (asid : BitVec 12) (name : BitVec 16) (e : Nat), let r := s.sealRec asid name
    r.aborting = true → r.open_ = some e → ∃ t, exec (.hubMessage src (.revertDone p asid name e)) s = .next t ∧
      t.mem = s.mem ∧ t.banks = s.banks ∧
      let c := t.sealRec asid name
      ((∃ q ∈ r.awaiting, q ≠ p) → c = { r with awaiting := r.awaiting.filter (· ≠ p) } ∧ t.outbox = s.outbox) ∧
      ((∀ q ∈ r.awaiting, q = p) → c.open_ = none ∧ c.aborting = false ∧ c.sealed = r.sealed ∧ c.next = r.next ∧
        c.pcnt = 0 ∧ c.joined = [] ∧ c.sealcnt = 0 ∧ (e < r.next → r.next ≤ e + 1024 → (e, true) ∈ c.history) ∧
        ∀ m, r.asker = some m → s.Answers t asid name m.party ⟨m.id, 0, e, 0⟩)) ∧
  (∀ (s : State) (a : GsAns) (r : GsReq) (p k : Nat) (b : BankIx) (d : BusyReg) (hr : Option HReg),
    s.gsreqs.find? (·.id = a.id) = some r → r.party = .bank p k → r.dst = some (b, d, hr) →
    let code := a.word.toNat / 2 ^ 62
    (r.kind = 5 → code ≠ 2 → code ≠ 3 → exec (.gsAnswer a) s = .next (s.askHome r)) ∧
    ∀ st, (r.kind ≠ 5 ∧ st = a.status) ∨ (r.kind = 5 ∧ (code = 2 ∧ st = 1 ∨ code = 3 ∧ st = 2)) →
    ∃ t q, exec (.gsAnswer a) s = .next t ∧ t.mem = s.mem ∧ (∀ c, c ≠ b → t.bank c = s.bank c) ∧
      (∀ x ∈ t.gsreqs, x.id ≠ r.id) ∧ (t.bank b).view = (s.bank b).view ∧
      (t.bank b).inflight = (s.bank b).inflight ++ [q] ∧ q.due = s.clk ∧ q.req = some r.id ∧ q.seq = r.id ∧
      (r.kind ≠ 4 → q.res.head? = some (d.res (BitVec.ofNat 64 st))) ∧
      (r.kind = 4 → q.res.head? = some (d.res (a.word ||| s.statLines r.h))) ∧ (hr = none → q.res.length = 1) ∧
      ∀ m, hr = some m →
        (r.kind = 0 → a.status = 0 → q.res.tail = [.h m (handleBits { r.h with v := true, epoch := BitVec.ofNat 40 a.epoch })]) ∧
        (r.kind = 0 → a.status ≠ 0 → q.res.tail = [.h m 0]) ∧
        (r.kind = 3 → q.res.tail = [.h m (handleBits { r.h with epoch := BitVec.ofNat 40 a.epoch })])) ∧
  (∀ (s : State) (a : GsAns) (x : Access) (id : Nat) (asid : BitVec 12) (name : BitVec 16),
    (∀ r ∈ s.gsreqs, r.id ≠ a.id) → x ∈ s.accesses → x.sealReq = some (id, asid, name) → id = a.id →
    ∃ t, exec (.gsAnswer a) s = .next t ∧ t.mem = s.mem ∧ t.banks = s.banks ∧
      ({ x with sealReq := none, seals := x.seals ++ [(asid, name, a.epoch)] } : Access) ∈ t.accesses) ∧
  (∀ (s : State) (q : GReq), gopSegs q.op ≠ [] → (∀ g ∈ gopSegs q.op, s.here g = true) →
    let waits (t : State) (x : Access) : Prop := t.mem = s.mem ∧ t.banks = s.banks ∧ t.outbox = s.outbox ∧ x ∈ t.accesses ∧
      x.owner = .remote q.src q.id q.ring ∧ x.todo = [q.op] ∧ x.addr = q.addr ∧ x.after = [] ∧ x.sent = false
    (gopKind q.op = .load →
      (s.regionShut q.op ≠ none → ∃ t x, exec (.globalRequest q) s = .next t ∧ waits t x) ∧
      (s.regionShut q.op = none → s.sealNeed [] q.op = none →
        ∃ (t u : State), exec (.globalRequest q) s = .next t ∧ u.mem = s.mem ∧ u.poison = s.poison ∧ u.ecc = s.ecc ∧
          u.homes = s.homes ∧ u.cogs = s.cogs ∧ u.hub = s.hub ∧ t.banks = s.banks ∧
          let r := u.serve 4 none q.addr q.op
          t.mem = r.2.mem ∧ t.poison = r.2.poison ∧
            Out.gresp q.src ⟨q.id, r.1.data, r.1.psn, r.1.lost, false⟩ ∈ t.outbox)) ∧
    (gopKind q.op ≠ .load → ∃ t x, exec (.globalRequest q) s = .next t ∧ waits t x ∧ s.clk < x.due ∧
      ∀ g bs psn, q.op = .store [g] bs psn → ∀ w, g.addr / 8 ≤ w → w ≤ (g.addr + g.len - 1) / 8 →
        pendingWord t w = true)) ∧
  (∀ (s : State) (x : Access) (op : GOp) (src id : Nat) (ring : Bool), x.owner = .remote src id ring → gopSegs op ≠ [] →
    (∀ g ∈ gopSegs op, s.here g = true) → s.regionShut op = none → s.sealNeed x.seals op = none →
    let writes : Prop := match op with | .store .. | .gsStore .. => True | _ => False
    let t := s.runOps x [op]
    (∀ y ∈ t.accesses, y.id ≠ x.id) ∧ t.banks = s.banks ∧
    (ring = true ∨ ¬ writes ∨ (∀ g ∈ gopSegs op, s.inRing g = false) →
      let r := s.serve 4 none x.addr op x.seals
      t.mem = r.2.mem ∧ t.poison = r.2.poison ∧
        Out.gresp src ⟨id, x.got ++ r.1.data, x.psn || r.1.psn, x.lost || r.1.lost, false⟩ ∈ t.outbox) ∧
    (ring = false → writes → (∃ g ∈ gopSegs op, s.inRing g = true) →
      t.mem = s.mem ∧ Out.gresp src ⟨id, [], false, false, true⟩ ∈ t.outbox)) ∧
  (∀ (s : State) (q : GReq), gopSegs q.op = [] ∨ (∃ g ∈ gopSegs q.op, s.here g = false) →
    exec (.globalRequest q) s = .next s) ∧
  (∀ (s : State) (r : GResp) (x : Access),
    s.accesses.find? (fun x => x.id = r.id && x.sent) = some x →
    (∀ (gs : List Seg) (d : BusyReg) (bytes : Nat) (sx : Bool), x.todo = [.load gs] → (∀ g ∈ gs, g.host = false) →
      x.owner = .bank → x.dst = .scalar d bytes sx → r.bad = false →
      ∃ t, exec (.globalResponse r) s = .next t ∧ t.mem = s.mem ∧ (∀ c, c ≠ x.bank → t.bank c = s.bank c) ∧
        (∀ y ∈ t.accesses, y.id ≠ x.id) ∧ (t.bank x.bank).view = (s.bank x.bank).view ∧
        (t.bank x.bank).inflight = (s.bank x.bank).inflight ++
          [{ due := s.clk, res := [d.res (extend sx ((x.got ++ r.data).take bytes))], causes := {}, seq := x.id,
             req := some x.id }]) ∧
    (∀ id u w, x.owner = .copy id u w → r.bad = true → ∃ t, exec (.globalResponse r) s = .next t ∧ t.mem = s.mem ∧
      t.banks = s.banks ∧ (∀ y ∈ t.accesses, y.id ≠ x.id) ∧ ∀ c ∈ t.copies, c.id = id → c.failed = true))

/-! ## Steps of the package: links, time, the front door, recovery, boot, commands, the host -/

/-- The links: a block with a wrong CRC, or out of sequence, is answered with NAK, and one in sequence is taken; a link
that fails gives its flits to the first surviving one, without returns; training and rejoining; the idle block of a
silent link; stream packets into the ring, their header as it was sent; returns accepted in their window, and counted
when discarded (R34, R341, R368 to R370, R374, R376, R378 to R380, R405).
What the manual leaves open here is as log entries 9, 30, 31, 57 and 61 say. -/
def Obligations.Links : Prop :=
  (∀ (s : State) (p : ChainPort) (l : LinkIx) (block : List Byte), let x := (s.ports[p]).links[l]
    x.up = true →
    let ctl := (block.drop 480).take 24
    let good : Prop := block.length = 512 ∧ crc64 (ctl ++ block.take 480) = natOf (block.drop 504)
    let seq : BitVec 16 := BitVec.ofNat 16 (natOf (ctl.take 2))
    ∃ t, exec (.linkBlock p l block) s = .next t ∧ t.mem = s.mem ∧
      (∀ b, (t.bank b).view = (s.bank b).view ∧ (t.bank b).inflight = (s.bank b).inflight) ∧
      let y := (t.ports[p]).links[l]
      y.up = true ∧ y.lastRx = s.clk ∧ (¬ good → y = { x with lastRx := s.clk, nak := true } ∧ t.outbox = s.outbox) ∧
      (good → seq = x.rxSeq + 1 → y.rxSeq = seq) ∧
      (good → seq ≠ x.rxSeq + 1 → y.rxSeq = x.rxSeq ∧ (seqAfter seq x.rxSeq = true → y.nak = true))) ∧
  (∀ (s : State) (p : ChainPort) (l : LinkIx), let x := (s.ports[p]).links[l]
    (x.up = true → ∃ t, exec (.linkFailure p l) s = .next t ∧ ((t.ports[p]).links[l]).up = false ∧ t.mem = s.mem ∧
      ((∀ k : LinkIx, k ≠ l → ((s.ports[p]).links[k]).up = false) → (s.clk, Instr.portDead p) ∈ t.agenda) ∧
      ∀ k : LinkIx, k ≠ l → ((s.ports[p]).links[k]).up = true →
        (∀ j : LinkIx, j < k → j ≠ l → ((s.ports[p]).links[j]).up = false) →
        ((t.ports[p]).links[k]).txq = ((s.ports[p]).links[k]).txq ++
          ((withoutReturns (x.retry.map Prod.snd).flatten).filter (fun f => f.kind ≠ .idle) ++
            x.txq.filter fun f => !(s.ports[p]).stale l f).map
            fun f => f.onLink k) ∧
    (x.up = false → exec (.linkFailure p l) s = .next s ∧ ∃ t, exec (.linkRejoin p l) s = .next t ∧ t.mem = s.mem ∧
      (t.ports[p]).links[l] = { Link.reset with up := true, lastTx := s.clk, lastRx := s.clk }) ∧
    (x.up = true → exec (.linkRejoin p l) s = .next s) ∧
    (∀ o reach, ∃ t, exec (.linkTraining p l o reach) s = .next t ∧ (t.ports[p]).neighbour = some o.pkg ∧
      (t.ports[p]).peer = some o.port ∧
      (t.ports[p]).dead = false ∧ ((t.ports[p]).links[l]).up = true ∧ (t.ports[p]).badpkt = (s.ports[p]).badpkt ∧
      (s.hub.pkg.toNat, o.pkg) ∈ t.topo ∧ (∀ e ∈ reach, e ∈ t.topo) ∧ t.mem = s.mem) ∧
    (x.up = true → x.txq = [] → ∃ t bytes, exec (.livenessBeat p l) s = .next t ∧
      t.outbox = s.outbox ++ [.block p l bytes] ∧ bytes.length = 512 ∧ ((t.ports[p]).links[l]).lastTx = s.clk ∧
      ((t.ports[p]).links[l]).txSeq = x.txSeq + 1 ∧ t.mem = s.mem)) ∧
  (∀ (s : State) (b : BankIx) (port : Fin 8) (n : Nat), let i : Fin 16 := port.castLE (by decide)
    ((s.bank b).ports[i]).discard = 0 → ∃ t, exec (.streamPacket (.localCommit b port n)) s = .next t ∧ t.mem = s.mem ∧
      ((t.bank b).ports[i]).cum = ((s.bank b).ports[i]).cum + BitVec.ofNat 16 n ∧
      ((t.bank b).ports[i]).freed = ((s.bank b).ports[i]).freed ∧ ∀ c, c ≠ b → t.bank c = s.bank c) ∧
  (∀ (s : State) (w0 w1 : Word) (body : List Byte) (b : BankIx) (i : Fin 16) (g : Seg), s.Inv →
    s.streamPlace w0 w1 = some (b, i) → ((s.bank b).ports[i]).discard = 0 → s.ringSeg b i = some g →
    let q := (s.bank b).ports[i]
    let a := g.addr + q.nextSlot * q.stride
    let bs := bytesOf 8 (w0 &&& ~~~ 192).toNat ++ bytesOf 8 w1.toNat ++ List.replicate 16 0 ++ body
    ∃ t, exec (.streamPacket (.packet w0 w1 body)) s = .next t ∧ ((t.bank b).ports[i]).cum = q.cum + 1 ∧
      ((t.bank b).ports[i]).freed = q.freed ∧ memBytes t.mem a bs.length = bs ∧
      ∀ c, c < a ∨ a + bs.length ≤ c → memByte t.mem c = memByte s.mem c) ∧
  (∀ (s : State) (port : Option ChainPort) (w0 w1 : Word), let c : BitVec 16 := w1.extractLsb' 0 16
    let discards : Prop := exec (.freeSlotReturn port w0 w1) s = .next (s.badReturn port)
    (returnOk w0 w1 = false → discards) ∧
    (∀ b i, returnOk w0 w1 = true → s.producerOf (wfld w1 32 32) (wfld w0 0 4) = some (b, i) →
      let q := (s.bank b).ports[i]
      ((q.cum - q.freed).toNat < (c - q.freed).toNat → discards) ∧
      ((c - q.freed).toNat ≤ (q.cum - q.freed).toNat → ∃ t, exec (.freeSlotReturn port w0 w1) s = .next t ∧
        (t.bank b).ports[i] = { q with freed := c } ∧ t.mem = s.mem ∧ ∀ k, k ≠ b → t.bank k = s.bank k)) ∧
    (∀ p, port = some p → ((s.badReturn port).ports[p]).badret =
      if (s.ports[p]).badret = BitVec.allOnes 32 then BitVec.allOnes 32 else (s.ports[p]).badret + 1)) ∧
  (∀ (s : State) (b : BankIx) (port : Fin 8), let i : Fin 16 := port.castLE (by decide)
    let q := (s.bank b).ports[i]
    (s.bank b).active = true → q.peer ≠ .none → ∃ t, exec (.periodicReturn b port) s = .next t ∧
      (t.bank b).ports[i] = { q with retDue := s.clk + 1024 } ∧ t.mem = s.mem ∧
      ∀ k pt id, q.peer = .stage s.hub.pkg.toNat k pt id → ∃ w : Word × Word, s.Later t (.freeSlotReturn none w.1 w.2) ∧
        w.2.extractLsb' 0 16 = q.freed ∧ wfld w.2 32 32 = (s.bank b).stage.id.toNat)

/-- The time discipline: SYNC to a child, the child's DELREQ, t1 and t3 noted when the packet leaves, the parent's
DELRESP with t1 and t4, and the exchange that its arrival completes; the grandmaster's two forms; HOLDOVER after 4 *
2^22 fabric cycles (R381 to R383, R391; what the payloads of R383 hold beyond t1 and t4, and the rounding of the offset,
are the model's: log entry 32). -/
def Obligations.TimeDiscipline : Prop :=
  ∀ (s : State) (p : ChainPort), let linked : Prop := (s.ports[p]).neighbour ≠ none
    (p ∈ s.childPorts → linked → ∃ t, exec (.timeExchange p) s = .next t ∧ (∀ e ∈ t.td.syncs, e.1 ≠ p) ∧ s.SendsTime t p 0 [] ∧
      t.mem = s.mem ∧ t.time = s.time ∧ (s.syncDue = true → t.td.nextSync = s.clk + 8388608 ∧
        ∀ q ∈ s.childPorts, q ≠ p → (s.clk, Instr.timeExchange q) ∈ t.agenda)) ∧
    (s.timePort = some p → linked → ∃ t, exec (.sync p) s = .next t ∧ t.td.t2 = some (s.time.toNat * 256) ∧
      t.td.t3 = none ∧ s.SendsTime t p 1 [] ∧ t.mem = s.mem ∧ t.time = s.time) ∧
    (∀ (l : LinkIx) (k : Packet) (pseq : BitVec 16) (f : Flit), k.kind = 6 → wfld k.w0 31 12 = s.hub.pkg.toNat →
      (k.flits pseq l).head? = some f → ((s.ports[p]).links[l]).txq.take 15 = [f] → let t := s.sendBlock p l
        (wfld k.w1 62 2 = 0 → (p, s.time.toNat) ∈ t.td.syncs) ∧
        (wfld k.w1 62 2 = 1 → t.td.t3 = some (s.time.toNat * 256)) ∧ t.time = s.time ∧ t.mem = s.mem) ∧
    (s.timePort ≠ some p → exec (.sync p) s = .next s ∧ ∀ a b, exec (.delresp p a b) s = .next s) ∧
    (∀ t1, linked → s.td.syncs.find? (·.1 = p) = some (p, t1) → ∃ t, exec (.delreq p) s = .next t ∧
      s.SendsTime t p 2 (bytesOf 8 t1 ++ bytesOf 8 s.time.toNat ++ List.replicate 16 0) ∧ (∀ e ∈ t.td.syncs, e.1 ≠ p) ∧
      t.mem = s.mem) ∧
    (∀ (t1 t4 : Word) (t2 t3 : Nat), s.timePort = some p → s.td.t2 = some t2 → s.td.t3 = some t3 →
      ∃ t, exec (.delresp p t1 t4) s = .next t ∧
        s.Exchanged t ((((t2 : Int) - t1.toNat * 256) - ((t4.toNat : Int) * 256 - t3)) / 2) ∧
        t.td.delay = (((t2 : Int) - t1.toNat * 256) + ((t4.toNat : Int) * 256 - t3)) / 2) ∧
    (s.td.root = false → ∀ m, exec (.ptpMessage m) s = .next s) ∧
    (s.td.root = true →
      (∀ t1, ∃ t, exec (.ptpMessage (.sync false t1)) s = .next t ∧ t.td.t1 = some t1 ∧
        t.td.t2 = some (s.time.toNat * 256) ∧ t.td.t3 = some (s.time.toNat * 256) ∧
        Out.ptpDelayReq (s.time.toNat * 256) ∈ t.outbox) ∧
      (∀ t1, ∃ t, exec (.ptpMessage (.sync true t1)) s = .next t ∧ t.td.t1 = none ∧
        t.td.t2 = some (s.time.toNat * 256) ∧ t.outbox = s.outbox) ∧
      (∀ t1 t2, s.td.t2 = some t2 → s.td.t1 = none → ∃ t, exec (.ptpMessage (.followUp t1)) s = .next t ∧
        t.td.t1 = some t1 ∧ t.td.t2 = some t2 ∧ t.td.t3 = some (s.time.toNat * 256) ∧
        Out.ptpDelayReq (s.time.toNat * 256) ∈ t.outbox) ∧
      (∀ t1 t2 t3 t4, s.td.t1 = some t1 → s.td.t2 = some t2 → s.td.t3 = some t3 →
        ∃ t, exec (.ptpMessage (.delayResp t4)) s = .next t ∧
          s.Exchanged t ((((t2 : Int) - t1) - ((t4 : Int) - t3)) / 2) ∧
          t.td.delay = (((t2 : Int) - t1) + ((t4 : Int) - t3)) / 2)) ∧
    (s.td.state = .disciplined → s.td.lastExch + 33554432 ≤ s.clk → ∃ t, exec .holdoverTimeout s = .next t ∧
      t.td.state = .holdover ∧ t.td.goodRow = 0 ∧ Out.msix 3 ∈ t.outbox ∧ t.time = s.time ∧ t.mem = s.mem) ∧
    (s.td.state ≠ .disciplined ∨ s.clk < s.td.lastExch + 33554432 → exec .holdoverTimeout s = .next s)

/-- The front door: a request is refused with the lowest code that applies or goes to tokenization; a tokenized one joins
the queue of 1,024; admission gives it a group and an ASID and tells every hub; a cancel ends it at once, or after its
step; a group's step is put on every start edge when its names are open; a done packet that answers a step seals its
names, one that does not is a protocol error (R349, R352, R357 to R363, R366, R367).
What the manual leaves open here is as log entries 38, 40 and 41 say. -/
def Obligations.FrontDoor : Prop :=
  (∀ (s : State) (conn : Nat) (r : List Byte),
    (∀ c, s.fd.requestCode r = some c → exec (.requestRecord conn r) s =
      .next (s.emit (.reply conn (replyBytes (BitVec.ofNat 64 (le r 8 8)) (some 6) 0 0 c [])))) ∧
    (r.length < 352 → s.fd.requestCode r = some 1) ∧
    (s.fd.requestCode r = none → ∃ t, exec (.requestRecord conn r) s = .next t ∧
      t.fd.tokenizing = s.fd.tokenizing ++ [requestOf conn r] ∧ t.outbox = s.outbox ∧
      s.Later t (.tokenizationComplete (requestOf conn r).reqid))) ∧
  (∀ (s : State) (id : Word) (q : Request) (c : FdConf) (v : Vocab), s.fd.tokenizing.find? (·.reqid = id) = some q →
    s.fd.conf = some c → s.fd.vocab = some v →
    let toks := v.tokenize q.prompt
    ∃ t, exec (.tokenizationComplete id) s = .next t ∧ (∀ x ∈ t.fd.tokenizing, x.reqid ≠ id) ∧ t.mem = s.mem ∧
      (toks.length < c.maxpos → s.fd.queue.length < 1024 →
        t.fd.queue = s.fd.queue ++ [(q, toks)] ∧ t.outbox = s.outbox) ∧
      (c.maxpos ≤ toks.length → t.fd.queue = s.fd.queue ∧
        t.outbox = s.outbox ++ [.reply q.conn (replyBytes id (some 6) 0 0 0x0A [])]) ∧
      (toks.length < c.maxpos → 1024 ≤ s.fd.queue.length → t.fd.queue = s.fd.queue ∧
        t.outbox = s.outbox ++ [.reply q.conn (replyBytes id (some 6) 0 0 0x0B [])])) ∧
  (∀ (s : State), (s.fd.admits = none → exec .admission s = .next s) ∧
    ∀ a g r toks rest, s.fd.admits = some (a, g) → s.fd.queue = (r, toks) :: rest →
      ∃ t, exec .admission s = .next t ∧ t.fd.queue = rest ∧ t.banks = s.banks ∧
        (∃ q ∈ t.fd.seqs, q.asid = a ∧ q.group = g ∧ q.req = r ∧ q.hist = toks ∧ q.fed = toks.length - 1 ∧
          q.done = false) ∧
        ∀ p ∈ s.otherPkgs, Out.hub p (.enter a) ∈ t.outbox) ∧
  (∀ (s : State) (conn : Nat) (r : List Byte), r.length = 16 → le r 0 1 = 2 → zeros r 1 7 = true →
    let id : Word := BitVec.ofNat 64 (le r 8 8)
    (s.fd.liveId id = false → exec (.cancelRecord conn r) s = .next s) ∧
    (∀ q, s.fd.tokenizing.find? (·.reqid = id) = some q → ∃ t, exec (.cancelRecord conn r) s = .next t ∧
      (∀ x ∈ t.fd.tokenizing, x.reqid ≠ id) ∧
      t.outbox = s.outbox ++ [.reply q.conn (replyBytes id (some 5) 0 0 0 [])]) ∧
    (∀ q, (∀ x ∈ s.fd.tokenizing, x.reqid ≠ id) → s.fd.queue.find? (·.1.reqid = id) = some q →
      ∃ t, exec (.cancelRecord conn r) s = .next t ∧ (∀ x ∈ t.fd.queue, x.1.reqid ≠ id) ∧
        t.outbox = s.outbox ++ [.reply q.1.conn (replyBytes id (some 5) 0 0 0 [])]) ∧
    (∀ q, (∀ x ∈ s.fd.tokenizing, x.reqid ≠ id) → (∀ x ∈ s.fd.queue, x.1.reqid ≠ id) →
      s.fd.seqs.find? (fun q => q.req.reqid = id && !q.done) = some q → s.fd.inStep q.asid = true →
      ∃ t, exec (.cancelRecord conn r) s = .next t ∧ t.outbox = s.outbox ∧
        t.fd.seqs = s.fd.seqs.map fun x => if x.asid = q.asid then { x with cancel := true } else x)) ∧
  (∀ (s : State) (g : Nat), (s.injectDue g = false → exec (.stepInject g) s = .next s) ∧
    (∀ u, s.injectStopped = false → s.fd.edges ≠ [] → s.fd.steps.find? (·.group = g) = some u → u.put = false →
      u.done = none → (∀ n ∈ u.names, n.state = .opened) → s.fd.startFree = true →
      ∃ t, exec (.stepInject g) s = .next t ∧ t.fd.nextStep = s.fd.nextStep + 1 ∧ t.mem = s.mem ∧
        (∃ x ∈ t.fd.steps, x.group = g ∧ x.index = s.fd.nextStep ∧ x.put = true ∧
          x.start = s.startBytes u s.fd.nextStep) ∧
        t.fd.edges.length = s.fd.edges.length)) ∧
  (∀ (s : State) (w0 w1 : Word) (body : List Byte),
    ((∀ e ∈ s.fd.edges, e.done = false) → exec (.donePacket w0 w1 body) s = .next s) ∧
    (∀ u c, s.fd.conf = some c → (∃ e ∈ s.fd.edges, e.done = true) → wfld w1 32 32 = 0x20000 + s.hub.pkg.toNat →
      wfld w0 14 8 ≠ 0 → s.fd.oldest = some u → (∀ x ∈ s.fd.steps, x.group = u.group → x = u) →
      (u.matches body = true → u.names ≠ [] → ∃ t, exec (.donePacket w0 w1 body) s = .next t ∧ t.mem = s.mem ∧
        ∃ x ∈ t.fd.steps, x.group = u.group ∧ x.done = some body ∧
          ∀ n ∈ x.names, n.state = if n.j < Nat.max (naccOf body n.entry) 1 then .sealing else .aborting) ∧
      (u.matches body = false → ∃ t, exec (.donePacket w0 w1 body) s = .next t ∧ t.fd.stopError = true ∧
        t.fd.tokenizing = [] ∧ t.fd.queue = [])))

/-- Failures: a cog stops and its hub reports it; every dead port is reported, with how many are left; a silent hub is
declared failed, and every hub hears of it; a recovery aborts the open epochs but those of steps not yet put, and moves
the unit's stages; freewheel saves every active bank, and its time limit ends it; the messages between hubs (R99, R142,
R148, R331, R337 to R344, R364, R383, R401).
What the manual leaves open here is as log entries 42 and 43 say. That hubs send each other these messages is the
model's choice: writeFault and collapseAnswer by log entry 27, epochClosed by 28, timeRoot by 32. -/
def Obligations.Recovery : Prop :=
  (∀ (s : State) (c : CogIx), let me := s.hub.pkg.toNat
    ((s.cog c).failed = true → exec (.cogFailure c) s = .next s) ∧
    ((s.cog c).failed = false → ∃ t, exec (.cogFailure c) s = .next t ∧ (t.cog c).failed = true ∧
      (t.cog c).holder = none ∧ (∀ k, k ≠ c → t.cog k = s.cog k) ∧ t.banks = s.banks ∧ t.mem = s.mem ∧
      s.Tells t s.supervisor (.report me ⟨me, some c.val⟩))) ∧
  (∀ (s : State) (p : ChainPort) (n : Nat), (s.portSilent p = false → exec (.portDead p) s = .next s) ∧
    (s.portSilent p = true → (s.ports[p]).neighbour = some n → ∃ t, exec (.portDead p) s = .next t ∧
      (t.ports[p]).dead = true ∧ t.banks = s.banks ∧ t.mem = s.mem ∧
      (∀ o : ChainPort, o ≠ p → (t.ports[o]).dead = (s.ports[o]).dead ∧ (t.ports[o]).links = (s.ports[o]).links) ∧
      let left := ((List.finRange 32).filter fun o => decide (o ≠ p) && (s.ports[o]).live &&
        decide ((s.ports[o]).neighbour = some n)).length
      s.Tells t (s.superFor n) (.portDead s.hub.pkg.toNat n left) ∧ (0 < left → t.topo = s.topo) ∧
      (left = 0 → (s.hub.pkg.toNat, n) ∉ t.topo ∧ (n, s.hub.pkg.toNat) ∉ t.topo))) ∧
  (∀ (s : State) (pkg : Nat), (s.hubLate pkg = false → exec (.hubSilent pkg) s = .next s) ∧
    (s.hubLate pkg = true → pkg ∉ s.hub.failedPkgs → ∃ t, exec (.hubSilent pkg) s = .next t ∧ pkg ∈ t.hub.failedPkgs ∧
      (∀ e ∈ t.hub.polls, e.1 ≠ pkg) ∧ (∀ e ∈ t.topo, e.1 ≠ pkg ∧ e.2 ≠ pkg) ∧
      (∀ p ∈ s.otherPkgs, Out.hub p (.failed pkg) ∈ t.outbox) ∧ (pkg ≠ s.hub.pkg.toNat → t.mem = s.mem))) ∧
  (∀ (s : State) (x : FailedUnit) (n : Nat) (im : Image), s.hub.recov.find? (fun e => e.1 = x && !e.2.2) = some (x, n, false) →
    s.image = some im → ∃ t, exec (.recovery x) s = .next t ∧
      (s.resentHeld im x = true → (∀ (c : CogIx) (k : Fin 9), (s.cog c).regions[k] = .active) →
        ∃ j, t.image = some j ∧ j.stages = im.stages.map (im.moved x))) ∧
  (∀ s : State, s.isSuper = false →
    (s.quietDue = false → exec .freewheelQuiet s = .next s) ∧
    (∀ l, s.quietDue = true → s.hub.fw = .quieting l false → ∃ t, exec .freewheelQuiet s = .next t ∧
      Out.hub s.supervisor (.freewheelReady s.hub.pkg.toNat) ∈ t.outbox ∧ t.banks = s.banks) ∧
    (∀ l, s.quietDue = true → s.hub.fw = .quieting l true → ∃ t, exec .freewheelQuiet s = .next t ∧ t.hub.fw = .saved ∧
      Out.hub s.supervisor (.freewheelReady s.hub.pkg.toNat) ∈ t.outbox ∧
      ∀ b, (s.bank b).active = true → (t.bank b).freewheel = true ∧ ∃ c ∈ t.hub.ctx, c.bank = b)) ∧
  (∀ s : State, (s.limitPassed = false → exec .freewheelTimeLimit s = .next s) ∧
    (s.limitPassed = true → ∃ t, exec .freewheelTimeLimit s = .next t ∧ t.hub.fw = .failed ∧ t.hub.ctx = [] ∧
      t.fd.stopFreewheel = false ∧ (∀ b, (t.bank b).freewheel = false) ∧
      ∀ p ∈ s.otherPkgs, Out.hub p .freewheelFail ∈ t.outbox)) ∧
  (∀ (s : State) (src p : Nat), let me := s.hub.pkg.toNat
    (∀ m, ∃ t, exec (.hubMessage src m) s = .next t) ∧
    (p ≠ me → exec (.hubMessage src (.poll p)) s = .next (s.emit (.hub p (.pollAnswer me)))) ∧
    (∃ t, exec (.hubMessage src (.pollAnswer p)) s = .next t ∧ t.hub.polls = s.hub.polls.filter (·.1 ≠ p)) ∧
    (∀ r : CollapseReq, ∃ t c, exec (.hubMessage src (.writeFault r)) s = .next t ∧ s.Later t (.collapse r) ∧
      t.hub.collapses = s.hub.collapses ++ [c] ∧ c.req = r ∧ c.opened = false) ∧
    (∀ party refused, ∃ t, exec (.hubMessage src (.collapseAnswer party refused)) s = .next t ∧
      s.Later t (.faultAnswer party refused)) ∧
    (∀ asid name e, ∃ t, exec (.hubMessage src (.revert asid name e)) s = .next t ∧
      s.Later t (.gsRevert asid name e src)) ∧
    (∀ r : SealRec, ∃ t, exec (.hubMessage src (.mirror p r)) s = .next t ∧ (p, r) ∈ t.hub.mirrors ∧
      Out.hub p (.mirrorAck r.asid r.name) ∈ t.outbox) ∧
    (∀ hold, ∃ t, exec (.hubMessage src (.holdInjection p hold)) s = .next t ∧ (p ∈ t.fd.holders ↔ hold = true)) ∧
    (∀ root, ∃ t, exec (.hubMessage src (.timeRoot p root)) s = .next t ∧ (p ∈ t.td.roots ↔ root = true)) ∧
    (∀ x n keep, ∃ t, exec (.hubMessage src (.recoverFrom x n keep)) s = .next t ∧ (x, n, false) ∈ t.hub.recov ∧
      (s.clk + 1, Instr.recovery x) ∈ t.agenda ∧ t.fd.recovB = n ∧
      ∀ r ∈ t.homes, r.open_ ≠ none → r.aborting = true ∨ (r.asid, r.name) ∈ keep) ∧
    (p ∉ s.hub.failedPkgs → ∃ t, exec (.hubMessage src (.failed p)) s = .next t ∧ p ∈ t.hub.failedPkgs ∧
      (∀ e ∈ t.topo, e.1 ≠ p ∧ e.2 ≠ p) ∧
      ∀ r ∈ t.homes, r.open_ ≠ none → (∃ q ∈ r.joined, partyPkg q = p) → r.aborting = true) ∧
    (∀ asid name e, ∃ t, exec (.hubMessage src (.epochClosed asid name e)) s = .next t ∧ t.mem = s.mem ∧
      t.banks = s.banks ∧ ∀ w ∈ t.wlists, w.asid = asid → w.name = name → w.epoch ≤ e → w.aborting = true) ∧
    (∀ x, s.serves = true → ∃ t, exec (.hubMessage src (.recover x)) s = .next t ∧ t.fd.stopRecovery = true ∧
      t.fd.recovB = s.fd.nextStep))

/-- Broadcast boot: a piece sent again in a recovery is held for it, the first piece of an image begins its reception, a
piece that disagrees with one held refuses it with the lowest reason, a late duplicate of the active image begins
nothing; reports and outcomes of the children; ACTIVATE and ABANDON; the activation itself, with the registers,
iterators, carries, windows and ports of every bank; and the load from the host (R19, R21, R22, R184, R185, R386 to
R389, R393).
What the manual leaves open here is as log entries 33, 34 and 35 say. -/
def Obligations.Boot : Prop :=
  (∀ (s : State) (root off : Nat) (data : List Byte), s.resends root = true →
    exec (.bootChunk root off data) s = .next (s.extraPiece off data)) ∧
  (∀ (s : State) (root off : Nat) (data : List Byte), s.resends root = false →
    ((s.hub.imgState = .idle ∨ s.hub.imgState = .abandoned) → s.boot.again = [] → data ≠ [] → off ≠ 0 ∨ data.length < 64 →
      ∃ t, exec (.bootChunk root off data) s = .next t ∧ t.hub.imgState = .receiving ∧ t.boot.root = some root ∧
        t.boot.chunks = [(off, data)] ∧ t.mem = s.mem ∧ t.banks = s.banks ∧ Out.msix 2 ∈ t.outbox) ∧
    ((s.hub.imgState = .receiving ∨ s.hub.imgState = .checking ∨ s.hub.imgState = .ready) →
      (heldClash s.boot.chunks off data = true → ∃ t, exec (.bootChunk root off data) s = .next t ∧
        t.hub.imgState = .refused ∧ t.hub.imgFailPkg = s.hub.pkg ∧ Out.msix 2 ∈ t.outbox ∧
        (keptHeld s.boot.chunks s.hub.pkg.toNat = false → t.hub.imgReason = 0x12) ∧
        (keptHeld s.boot.chunks s.hub.pkg.toNat = true → t.hub.imgReason =
          BitVec.ofNat 8 ((s.imageReasons s.boot.chunks s.boot.size).foldl Nat.min 0x12))) ∧
      (heldClash s.boot.chunks off data = false → heldAll s.boot.chunks off data.length = true →
        exec (.bootChunk root off data) s = .next s)) ∧
    (∀ im, s.hub.imgState = .active → s.image = some im →
      heldAll im.chunks off data.length = true → heldClash im.chunks off data = false →
      keptHeld (s.boot.again ++ [(off, data)]) s.hub.pkg.toNat = false →
      ∃ t, exec (.bootChunk root off data) s = .next t ∧ t.boot.again = s.boot.again ++ [(off, data)] ∧ t.hub = s.hub ∧
        t.image = s.image ∧ t.outbox = s.outbox)) ∧
  (∀ (s : State) (msg : List Byte), (msg.length < 16 ∨ le msg 0 1 ≠ 0x10 → exec (.bootMessage msg) s = .next s) ∧
    (16 < msg.length → le msg 0 1 = 0x10 → zeros msg 1 7 = true → s.hub.imgState.idleLike = true → s.boot.again = [] →
      (s.hub.imgState = .active → ∀ im, s.image = some im →
        heldAll im.chunks (le msg 8 8) (msg.length - 16) = false ∨ heldClash im.chunks (le msg 8 8) (msg.drop 16) = true) →
      le msg 8 8 ≠ 0 ∨ msg.length < 80 → ∃ t, exec (.bootMessage msg) s = .next t ∧ t.hub.imgState = .receiving ∧
        t.boot.root = some s.hub.pkg.toNat ∧ t.boot.chunks = [(le msg 8 8, msg.drop 16)])) ∧
  (∀ (s : State) (src : Nat) (id : List Byte) (reason : BitVec 8),
    (s.hub.imgState = .receiving ∨ s.hub.imgState = .checking → s.boot.mayBe id = true →
      ∃ t, exec (.readyReport src id) s = .next t ∧ (src, id) ∈ t.boot.reports ∧ t.banks = s.banks ∧ t.mem = s.mem) ∧
    (s.boot.mayBe id = false → exec (.readyReport src id) s = .next s ∧
      (s.boot.root ≠ some s.hub.pkg.toNat ∨ s.hub.imgState ≠ .refused → exec (.failReport src id reason) s = .next s)) ∧
    (s.boot.mayBe id = true ↔ (id = [] ∨ s.boot.imageId? = [] ∨ id = s.boot.imageId?)) ∧
    (s.boot.root = some s.hub.pkg.toNat → s.boot.mayBe id = true →
      s.hub.imgState = .receiving ∨ s.hub.imgState = .checking ∨ s.hub.imgState = .ready →
      (id = [] ∨ s.boot.imageId? ≠ [] → ∃ t, exec (.failReport src id reason) s = .next t ∧
        t.hub.imgState = .refused ∧ t.hub.imgReason = reason ∧
        t.hub.imgFailPkg = BitVec.ofNat 12 src ∧ Out.msix 2 ∈ t.outbox ∧
        ∀ c ∈ s.bootKids, Out.abandon c reason src ∈ t.outbox) ∧
      (id ≠ [] → s.boot.imageId? = [] → exec (.failReport src id reason) s =
        .next { s with boot := { s.boot with fails := s.boot.fails ++ [(src, id, reason)] } })) ∧
    (s.boot.root = some s.hub.pkg.toNat → s.hub.imgState = .refused →
      let lower : Prop := (id = [] ∨ id = s.boot.failedId) ∧ reason.toNat < s.hub.imgReason.toNat
      (lower → ∃ t, exec (.failReport src id reason) s = .next t ∧ t.hub.imgState = .refused ∧ t.hub.imgReason = reason ∧
        t.hub.imgFailPkg = BitVec.ofNat 12 src ∧ t.boot = s.boot ∧ t.outbox = s.outbox) ∧
      (¬ lower → exec (.failReport src id reason) s = .next s)) ∧
    (∀ p, s.boot.mayBe id = true → s.boot.root ≠ some s.hub.pkg.toNat → s.bootParent = some p →
      exec (.failReport src id reason) s = .next (s.emit (.fail p src id reason)))) ∧
  (∀ (s : State) (t0 : Word) (reason : BitVec 8) (pkg : Nat),
    (s.hub.imgState = .checking → s.boot.reported = true → ∃ t, exec (.activate t0) s = .next t ∧
      t.hub.imgState = .ready ∧ t.boot.actAt = some t0 ∧ Out.msix 2 ∈ t.outbox ∧
      ∀ c ∈ s.bootKids, Out.activate c t0 ∈ t.outbox) ∧
    (s.hub.imgState = .receiving ∨ s.hub.imgState = .checking ∨ s.hub.imgState = .ready →
      ∃ t, exec (.abandon reason pkg) s = .next t ∧ t.hub.imgState = .abandoned ∧ t.hub.imgReason = reason ∧
        Out.msix 2 ∈ t.outbox ∧ t.banks = s.banks ∧ t.mem = s.mem ∧
        ∀ c ∈ s.bootKids, Out.abandon c reason pkg ∈ t.outbox)) ∧
  (∀ (s : State) (im : Image), s.boot.image = some im →
    (s.activateDue = false → exec .imageActivate s = .next s) ∧
    let regions := s.shut ((imageFrames im s.hub.pkg.toNat).map fun f => (f, 65536))
    (∀ a, s.activateDue = true → regions = some a → exec .imageActivate s = .next (s.askExit a)) ∧
    (s.activateDue = true → regions = none → ∃ t, exec .imageActivate s = .next t ∧ t.hub.imgState = .active ∧
      t.hub.imgReason = 0 ∧
      t.image = some im ∧ t.fd.seqs = [] ∧ t.fd.steps = [] ∧ t.accesses = [] ∧ t.copies = [] ∧ t.homes = [] ∧
      t.td.stepped = true ∧ Out.msix 2 ∈ t.outbox ∧
      (∀ b : BankIx, (∀ st ∈ im.stages, st.pkg = s.hub.pkg.toNat → st.bankNo ≠ b.val) → (t.bank b).active = false) ∧
      ∀ st ∈ im.stages, st.pkg = s.hub.pkg.toNat → ∀ b : BankIx, b.val = st.bankNo →
        (∀ u ∈ im.stages, u.pkg = st.pkg → u.bankNo = st.bankNo → u = st) → BankActivated im st (t.bank b))) ∧
  (∀ s : State, (s.hub.imgState.idleLike = false → exec .imageLoadStart s = .next s) ∧
    (s.hub.imgState.idleLike = true → s.hub.imglen ≠ 0 → s.hub.busMaster = true → s.hub.hostUp = true →
      ∃ t id, exec .imageLoadStart s = .next t ∧ t.hub.imgState = .receiving ∧ t.boot.root = some s.hub.pkg.toNat ∧
        t.boot.fromHost = true ∧ t.boot.size = some s.hub.imglen.toNat ∧ (id, HostRead.image 0) ∈ t.hub.reads ∧
        t.outbox = s.outbox ++ [.msix 2, .pcieRead id s.hub.imgaddr.toNat (Nat.min 4096 s.hub.imglen.toNat)]) ∧
    (s.hub.imgState.idleLike = true → s.hub.imglen = 0 → ∃ t, exec .imageLoadStart s = .next t ∧
      t.hub.imgState = .refused ∧ t.hub.imgReason = 0x10))

/-- The hub's commands, each with the statuses that its rule gives: 2 for its arguments, 3 for its state, 4 for the mailbox,
0 when it is done; a command that comes to the management mailbox (R337, R340, R353 to R355, R386, R392, R395 to R401).
What the manual leaves open here is as log entries 36, 37 and 46 say. That FREEWHEEL ends with STATUS 3 at a package that is
not the supervisor or runs no image is the model's choice (log entry 42). -/
def Obligations.Commands : Prop :=
  ∀ (s : State) (mb : MBox) (bs : List Byte),
    let ends (i : Instr) (status : Nat) (resp : List Byte) (p : State → Prop) : Prop :=
      ∃ t, exec i s = .next t ∧ s.Completes t mb status resp ∧ p t
    let plain (i : Instr) (status : Nat) : Prop := ends i status [] fun t => t.banks = s.banks ∧ t.fd = s.fd
    (s.Running 0x01 mb bs → let c := fdConfOf bs
      (s.fd.live = true → plain (.fdconf mb) 3) ∧ (s.fd.live = false → s.fdConfOk bs c = false → plain (.fdconf mb) 2) ∧
      (s.fd.live = false → s.fdConfOk bs c = true → ends (.fdconf mb) 0 [] fun t => t.fd.conf = some c ∧
        ∀ f ∈ c.frames, f ∈ t.hub.frames)) ∧
    (s.Running 0x02 mb bs → (mb = .mgmt → plain (.vocab mb) 4) ∧
      (mb = .host → (s.fd.live = true → plain (.vocab mb) 3) ∧
        (s.fd.live = false → (∀ x ∈ s.hub.reads, x.2 ≠ .vocab) →
          (le bs 8 8 < 64 ∨ 2 ^ 26 < le bs 8 8 → plain (.vocab mb) 2) ∧
          (64 ≤ le bs 8 8 → le bs 8 8 ≤ 2 ^ 26 → s.hub.busMaster = true → s.hub.hostUp = true →
            ∃ t id, exec (.vocab mb) s = .next t ∧ (id, HostRead.vocab) ∈ t.hub.reads ∧ t.hub.queue = s.hub.queue ∧
              t.outbox = s.outbox ++ [.pcieRead id (le bs 0 8) (le bs 8 8)])))) ∧
    (s.Running 0x03 mb bs → s.hub.arenaWait = none →
      let (goff, size, attr) := arenaArgs bs
      let fits : Prop := le bs 0 8 % 65536 = 0 ∧ size % 65536 = 0 ∧ size ≠ 0 ∧ le bs 0 8 + size ≤ 2 ^ 52 ∧
        attr.getLsbD 3 = false ∧ attr.toNat / 2 % 4 ≠ 0 ∧ s.arenaFits size attr = true
      (s.fd.live = true → plain (.arenas mb) 3) ∧ (s.fd.live = false → ¬ fits → plain (.arenas mb) 2) ∧
      (s.fd.live = false → fits → s.otherPkgs = [] → s.shut (s.arenaTables goff size) = none →
        ends (.arenas mb) 0 [] fun t => (goff, size, attr) ∈ t.hub.arenas ∧ t.hub.arenaWait = none) ∧
      (s.fd.live = false → fits → s.otherPkgs ≠ [] → ∃ t, exec (.arenas mb) s = .next t ∧
        t.hub.arenaWait = some (s.otherPkgs, 0, false) ∧ t.hub.queue = s.hub.queue ∧
        ∀ p ∈ s.otherPkgs, Out.hub p (.arena s.hub.pkg.toNat goff size attr) ∈ t.outbox)) ∧
    (s.Running 0x04 mb bs → s.hub.fw = .running →
      (s.isSuper = false ∨ s.image = none → plain (.freewheel mb) 3) ∧
      (s.isSuper = true → s.image ≠ none → ∃ t, exec (.freewheel mb) s = .next t ∧
        t.hub.fw = .quieting (s.clk + le bs 0 8) false ∧ t.hub.queue = s.hub.queue ∧ t.banks = s.banks ∧
        ∀ p ∈ s.otherPkgs, Out.hub p (.freewheel (le bs 0 8)) ∈ t.outbox)) ∧
    (s.Running 0x05 mb bs → (s.hub.fw = .running → plain (.resume mb) 3) ∧
      (s.hub.fw = .complete → ∃ t, exec (.resume mb) s = .next t ∧ t.hub.ctx = [] ∧
        ∀ p ∈ s.otherPkgs, Out.hub p .resumeAll ∈ t.outbox)) ∧
    (s.Running 0x06 mb bs → let b := s.bankOfStage (BitVec.ofNat 32 (le bs 0 4))
      (b = none → plain (.reactivate mb) 2) ∧
      (∀ k, b = some k → ((s.bank k).mode ≠ .stopped → plain (.reactivate mb) 3) ∧
        ((s.bank k).mode = .stopped → ends (.reactivate mb) 0 [] fun t => (t.bank k).mode = .idle ∧
          (t.bank k).regs = (s.bank k).regs ∧ ∀ c, c ≠ k → t.bank c = s.bank c))) ∧
    (s.Running 0x07 mb bs →
      (zeros bs 0 32 = true → ends (.attest mb) 0 Config.identityCerts fun t => t.banks = s.banks) ∧
      (zeros bs 0 32 = false → ∃ e sig, ends (.attest mb) 0 (e ++ sig) (fun t => t.banks = s.banks) ∧
        bs.take 32 <+: e ∧ sig = Config.ed25519Sign (sha512 e) ++ Config.mlDsaSign (sha512 e))) ∧
    (s.Running 0x08 mb bs → (le bs 0 4 < 1200 ∨ 2400 < le bs 0 4 → plain (.powercap mb) 2) ∧
      (1200 ≤ le bs 0 4 → le bs 0 4 ≤ 2400 → ends (.powercap mb) 0 [] fun t => t.hub.powercap = le bs 0 4)) ∧
    (s.Running 0x09 mb bs → (mb = .host → plain (.keyslot mb) 4) ∧
      (mb = .mgmt → (7 < le bs 0 1 → plain (.keyslot mb) 2) ∧
        ∀ i : Fin 8, le bs 0 1 = i.val →
          ((le bs 1 1).testBit 0 = true → ends (.keyslot mb) 0 [] fun t => t.hub.keys[i] = .revoked) ∧
          ((le bs 1 1).testBit 0 = false → (s.hub.keys[i] = .empty → ends (.keyslot mb) 0 [] fun t =>
              t.hub.keys[i] = .keys ((bs.drop 8).take 32) ((bs.drop 40).take 1952)) ∧
            (s.hub.keys[i] ≠ .empty → plain (.keyslot mb) 3)))) ∧
    (s.Running 0x0A mb bs → let peer := le bs 2 2
      let bad : Prop := 1 < le bs 0 1 ∨ (le bs 0 1 = 1 ∧ (4095 < peer ∨ peer = s.hub.pkg.toNat))
      (bad → plain (.bootsrc mb) 2) ∧ (¬ bad → s.hub.imgState.idleLike = false → plain (.bootsrc mb) 3) ∧
      (¬ bad → s.hub.imgState.idleLike = true → ends (.bootsrc mb) 0 [] fun t => t.hub.imgState = .receiving ∧
        t.boot.root = some s.hub.pkg.toNat ∧
        (le bs 0 1 = 1 → Out.hub peer (.resendImage s.hub.pkg.toNat) ∈ t.outbox))) ∧
    (s.Running 0x0B mb bs → (mb = .host → plain (.rollback mb) 4) ∧
      (mb = .mgmt → let v := le bs 0 2
        let ok : Prop := s.hub.rollback < v ∧ v ≤ 64 ∧ ∀ f, s.hub.firmware = some f → v ≤ f.version
        (¬ ok → s.hub.firmware ≠ none → plain (.rollback mb) 2) ∧
        (ok → s.hub.firmware ≠ none → ends (.rollback mb) 0 [] fun t => t.hub.rollback = v))) ∧
    (∀ opc, (∀ c ∈ s.hub.queue, 1 ≤ c.opc ∧ c.opc ≤ 0x0B) → 1 ≤ opc → opc ≤ 0x0B →
      let msg := Instr.hubMessage s.hub.pkg.toNat (.command opc bs)
      (s.hub.mggo = true → exec msg s = .next s) ∧
      (s.hub.mggo = false → ∃ t b, exec msg s = .next t ∧ b = (bs ++ s.hub.mgbuf.drop bs.length).take 4096 ∧
        t.hub.queue = s.hub.queue ++ [⟨.mgmt, opc, b, false⟩] ∧ t.hub.mgbuf = b ∧ t.hub.mggo = true ∧ t.mem = s.mem))

/-- The host's side and management: registers of BAR 0 as written, and an access that is not a naturally aligned one of 64
bits answered as unsupported; completions of host reads; sensors, effecter and firmware slots; power and temperature; and
what each of the three resets leaves (R390, R391, R394 to R397, R401 to R403).
What the manual leaves open here is as log entries 44, 45 and 47 say. That a read of the host's memory is answered before its
bundle takes effect, and the completion found there, is the model's reading (log entries 11 and 20). -/
def Obligations.HostAndManagement : Prop :=
  (∀ (s : State) (off size : Nat) (v : Word),
    (size ≠ 8 ∨ off % 8 ≠ 0 ∨ 65536 ≤ off →
      exec (.hostRegisterWrite off size v) s = .next (s.emit (.completion 0 false []))) ∧
    (∃ t, exec (.hostRegisterWrite 0x100 8 v) s = .next t ∧ t.hostReg 0x100 = v &&& ~~~ 63#64 ∧ t.mem = s.mem) ∧
    (∃ t, exec (.hostRegisterWrite 0x108 8 v) s = .next t ∧ t.hostReg 0x108 = v &&& 0xFFFFFFFFFFFF ∧ t.mem = s.mem) ∧
    (∃ t, exec (.hostRegisterWrite 0x220 8 v) s = .next t ∧ t.hostReg 0x220 = v) ∧
    (∃ t, exec (.hostRegisterWrite 0x018 8 v) s = .next t ∧ t.hub.mbdone = (s.hub.mbdone && !v.getLsbD 0)) ∧
    (∃ t, exec (.hostRegisterWrite 0x300 8 v) s = .next t ∧ t.td.root = v.getLsbD 0) ∧
    (∃ t, exec (.hostRegisterWrite 0x210 8 v) s = .next t ∧ t.hub.fqhead = v.setWidth 16) ∧
    (∃ t, exec (.fqheadWrite v) s = .next t ∧ t.hub.fqhead = v.setWidth 16 ∧ t.mem = s.mem ∧ t.banks = s.banks) ∧
    (s.hub.mbgo = true → exec (.hostRegisterWrite 0x010 8 v) s = .next s) ∧
    (∀ k, s.hub.mbbuf.length = 4096 → k < 512 → ∃ t, exec (.hostRegisterWrite (0x1000 + 8 * k) 8 v) s = .next t ∧
      t.hostReg (0x1000 + 8 * k) = v ∧ t.hub.mbbuf.length = 4096) ∧
    (v.getLsbD 0 = true → s.hub.imgState.idleLike = true → ∃ t, exec (.hostRegisterWrite 0x110 8 v) s = .next t ∧
      (s.clk, Instr.imageLoadStart) ∈ t.agenda)) ∧
  (∀ (s : State) (off size : Nat),
    (size ≠ 8 ∨ off % 8 ≠ 0 ∨ 65536 ≤ off → s.hostRead off size = none) ∧
    (off % 8 = 0 → off < 65536 → s.hostRead off 8 = some (s.hostReg off))) ∧
  (∀ (s : State) (c : PcieCompletion) (x : Access) (g : Seg), (∀ r ∈ s.hub.reads, r.1 ≠ c.id) →
    s.accesses.find? (fun x => x.id = c.id && x.sent) = some x → x.owner = .pre → x.todo = [.load [g]] → g.host = true →
    ∃ t, exec (.pcieCompletion c) s = .next t ∧ (∀ y ∈ t.accesses, y.id ≠ x.id) ∧ t.mem = s.mem ∧
      (t.bank x.bank).view = (s.bank x.bank).view ∧ (∀ k, k ≠ x.bank → t.bank k = s.bank k) ∧
      (c.ok = true → (t.bank x.bank).pre = (s.bank x.bank).pre.map fun a =>
        if a.id = x.id then { a with
          done := true, psn := x.psn, lost := x.lost || (hostBytes g c.data).any (·.isNone),
          data := x.got ++ (hostBytes g c.data).map (·.getD 0) } else a) ∧
      (c.ok = false → (t.bank x.bank).pre = (s.bank x.bank).pre.map fun a =>
        if a.id = x.id then { a with done := true, fail := true } else a)) ∧
  (∀ (s : State) (at_ : Word) (k : Ask) (g : Seg) (after : List Nat) (a : PreAns), g.host = true →
    s.me.pre.find? (fun a => a.op = .load [g] && a.done) = some a →
    (a.fail = true → s.checkRead at_ g = .error (.trap { cause := 0x1A, val := at_, sub := Config.hostCause.toNat })) ∧
    (a.fail = false → a.lost = true → s.checkRead at_ g = .error (.trap { cause := 0x18, val := at_ })) ∧
    (a.fail = false → a.lost = false → s.checkRead at_ g = .ok () ∧
      s.preOps k (.load [g]) after = .ok [.given a.data false])) ∧
  (∀ (s : State) (k : Ask) (g : Seg) (op : AtomicOp) (x y : Word) (after : List Nat) (a : PreAns), g.host = true →
    s.me.pre.find? (fun e => e.op = .atomic g op x y && e.done) = some a →
    (a.fail = true → s.preOps k (.atomic g op x y) after =
      .error (.trap { cause := 0x1A, val := k.addr, sub := Config.hostCause.toNat })) ∧
    (a.fail = false → s.preOps k (.atomic g op x y) after = .ok [.given a.data false])) ∧
  (∀ (s : State) (up master : Bool) (x : Sensor) (id : BitVec 12) (f : Firmware) (r : PowerReading) (die : Fin 4),
    (∃ t, exec (.hostLinkLoss up master) s = .next t ∧ t.hub.hostUp = up ∧ t.hub.busMaster = (up && master) ∧
      t.mem = s.mem ∧ t.banks = s.banks) ∧
    (x ≠ .faultBuffer → exec (.pldmSensorRead x) s = .next (s.emit (.sensor x))) ∧
    exec (.pldmSensorRead .faultBuffer) s = .next (s.emit (.faults s.hub.fqown)) ∧
    (∃ t, exec (.packageIdEffecter id) s = .next t ∧ t.hub.pkg = id ∧ t.hub.pkgv = true ∧ t.mem = s.mem) ∧
    (∃ t, exec (.pldmFirmwareUpdate f) s = .next t ∧ t.hub.running = s.hub.running ∧
      (s.hub.running = some false → t.hub.slotB = some f ∧ t.hub.slotA = s.hub.slotA) ∧
      (s.hub.running = some true → t.hub.slotA = some f ∧ t.hub.slotB = s.hub.slotB) ∧
      (s.hub.running = none → t.hub.slotA = some f ∨ t.hub.slotB = some f)) ∧
    ((∃ d ∈ r.dies, 105 ≤ d) → ∃ t, exec (.powerOverCap r) s = .next t ∧ t.powered = false ∧ t.mem = s.mem) ∧
    ((∀ d ∈ r.dies, d < 105) → s.hub.powercap < r.watts ∨ (∃ d ∈ r.dies, 95 < d) →
      ∃ t, exec (.powerOverCap r) s = .next t ∧ t.hub.powerHold = true ∧ t.mem = s.mem ∧ t.banks = s.banks) ∧
    (r.watts ≤ s.hub.powercap → (∀ d ∈ r.dies, d ≤ 95) → let calm : Prop :=
        r.calm = true ∧ r.watts < s.hub.powercap ∧ ∀ d ∈ r.dies, d < 90
      (calm → ∃ t, exec (.powerOverCap r) s = .next t ∧ t.hub.powerHold = false ∧ t.banks = s.banks) ∧
      (¬ calm → exec (.powerOverCap r) s = .next s)) ∧
    (∃ t, exec (.thermalShutdown die) s = .next t ∧ t.powered = false ∧ t.mem = s.mem)) ∧
  (∀ s : State,
    (∃ t, exec .coldReset s = .next t ∧ t.mem = [] ∧ t.time = 0 ∧ t.hub.pkgv = false ∧ t.hub.powercap = 2400 ∧
      t.hub.slotA = s.hub.slotA ∧ t.hub.slotB = s.hub.slotB ∧ t.hub.rollback = s.hub.rollback ∧
      (∀ i : Fin 8, t.hub.keys[i] = if s.hub.keys[i] = .revoked then .revoked else .empty) ∧
      (∀ b, t.bank b = Bank.reset) ∧ t.hub.imgState = .idle) ∧
    (∃ t, exec .warmReset s = .next t ∧ t.mem = [] ∧ t.time = 0 ∧ t.hub.pkg = s.hub.pkg ∧ t.hub.pkgv = s.hub.pkgv ∧
      t.hub.keys = s.hub.keys ∧ t.hub.fqown = s.hub.fqown ∧ (∀ b, t.bank b = Bank.reset) ∧ t.hub.imgState = .idle) ∧
    (∃ t, exec .functionLevelReset s = .next t ∧ t.mem = s.mem ∧ t.banks = s.banks ∧ t.hub.mbgo = false ∧
      t.hub.mbdone = false ∧ t.hub.imgaddr = 0 ∧ t.hub.imglen = 0 ∧ t.hub.fqbase = 0 ∧ t.hub.fqtail = 0 ∧
      t.hub.fqlost = 0 ∧ t.td.root = false ∧ t.hub.busMaster = false ∧ t.td.theta = 0 ∧ t.td.exch = 0 ∧
      (∀ c ∈ t.hub.queue, c.mb = .host → c.drop = true) ∧ t.hub.queue.length = s.hub.queue.length ∧
      (∀ e ∈ t.agenda, e.2 ≠ .imageLoadStart) ∧
      (s.hub.imgState = .receiving → s.boot.fromHost = true → t.hub.imgState = .abandoned ∧ t.hub.imgReason = 0x16) ∧
      let started : Prop := ∃ e ∈ s.agenda, e.2 = .imageLoadStart
      (s.hub.imgState.idleLike = true → started → t.hub.imgState = .abandoned ∧ t.hub.imgReason = 0x16) ∧
      (¬ started → s.hub.imgState = .abandoned ∨ (s.hub.imgState = .refused ∧ s.boot.reported = false) →
        t.hub.imgReason = 0 ∧ t.hub.imgFailPkg = 0 ∧
        t.hub.imgState = if s.image.isSome then .active else .idle)))
end

