-- ==== Sys2Proof/Laws/State.lean ====
section
/-! SUPPORT. What each update of the state leaves as it was, field by field, and what it changes. -/

namespace Sys2Proof.Machine

variable (s : State)

/-! ## State.setBank -/

@[simp] theorem State.setBank_clk (b : BankIx) (x : Bank) : (s.setBank b x).clk = s.clk := rfl
@[simp] theorem State.setBank_time (b : BankIx) (x : Bank) : (s.setBank b x).time = s.time := rfl
@[simp] theorem State.setBank_cur (b : BankIx) (x : Bank) : (s.setBank b x).cur = s.cur := rfl
@[simp] theorem State.setBank_epc (b : BankIx) (x : Bank) : (s.setBank b x).epc = s.epc := rfl
@[simp] theorem State.setBank_nextPc (b : BankIx) (x : Bank) : (s.setBank b x).nextPc = s.nextPc := rfl
@[simp] theorem State.setBank_slot (b : BankIx) (x : Bank) : (s.setBank b x).slot = s.slot := rfl
@[simp] theorem State.setBank_ownFrom (b : BankIx) (x : Bank) : (s.setBank b x).ownFrom = s.ownFrom := rfl
@[simp] theorem State.setBank_stop (b : BankIx) (x : Bank) : (s.setBank b x).stop = s.stop := rfl
@[simp] theorem State.setBank_cogs (b : BankIx) (x : Bank) : (s.setBank b x).cogs = s.cogs := rfl
@[simp] theorem State.setBank_mem (b : BankIx) (x : Bank) : (s.setBank b x).mem = s.mem := rfl
@[simp] theorem State.setBank_poison (b : BankIx) (x : Bank) : (s.setBank b x).poison = s.poison := rfl
@[simp] theorem State.setBank_ecc (b : BankIx) (x : Bank) : (s.setBank b x).ecc = s.ecc := rfl
@[simp] theorem State.setBank_accesses (b : BankIx) (x : Bank) : (s.setBank b x).accesses = s.accesses := rfl
@[simp] theorem State.setBank_copies (b : BankIx) (x : Bank) : (s.setBank b x).copies = s.copies := rfl
@[simp] theorem State.setBank_gsreqs (b : BankIx) (x : Bank) : (s.setBank b x).gsreqs = s.gsreqs := rfl
@[simp] theorem State.setBank_nextId (b : BankIx) (x : Bank) : (s.setBank b x).nextId = s.nextId := rfl
@[simp] theorem State.setBank_free (b : BankIx) (x : Bank) : (s.setBank b x).free = s.free := rfl
@[simp] theorem State.setBank_agenda (b : BankIx) (x : Bank) : (s.setBank b x).agenda = s.agenda := rfl
@[simp] theorem State.setBank_inbox (b : BankIx) (x : Bank) : (s.setBank b x).inbox = s.inbox := rfl
@[simp] theorem State.setBank_outbox (b : BankIx) (x : Bank) : (s.setBank b x).outbox = s.outbox := rfl
@[simp] theorem State.setBank_evalNext (b : BankIx) (x : Bank) : (s.setBank b x).evalNext = s.evalNext := rfl
@[simp] theorem State.setBank_ptroot (b : BankIx) (x : Bank) : (s.setBank b x).ptroot = s.ptroot := rfl
@[simp] theorem State.setBank_repin (b : BankIx) (x : Bank) : (s.setBank b x).repin = s.repin := rfl
@[simp] theorem State.setBank_image (b : BankIx) (x : Bank) : (s.setBank b x).image = s.image := rfl
@[simp] theorem State.setBank_homes (b : BankIx) (x : Bank) : (s.setBank b x).homes = s.homes := rfl
@[simp] theorem State.setBank_wlists (b : BankIx) (x : Bank) : (s.setBank b x).wlists = s.wlists := rfl
@[simp] theorem State.setBank_hub (b : BankIx) (x : Bank) : (s.setBank b x).hub = s.hub := rfl
@[simp] theorem State.setBank_fd (b : BankIx) (x : Bank) : (s.setBank b x).fd = s.fd := rfl
@[simp] theorem State.setBank_ports (b : BankIx) (x : Bank) : (s.setBank b x).ports = s.ports := rfl
@[simp] theorem State.setBank_topo (b : BankIx) (x : Bank) : (s.setBank b x).topo = s.topo := rfl
@[simp] theorem State.setBank_oldTopo (b : BankIx) (x : Bank) : (s.setBank b x).oldTopo = s.oldTopo := rfl
@[simp] theorem State.setBank_td (b : BankIx) (x : Bank) : (s.setBank b x).td = s.td := rfl
@[simp] theorem State.setBank_boot (b : BankIx) (x : Bank) : (s.setBank b x).boot = s.boot := rfl
@[simp] theorem State.setBank_banks (b : BankIx) (x : Bank) : (s.setBank b x).banks = s.banks.set b x := rfl

/-! ## State.modBank -/

@[simp] theorem State.modBank_clk (b : BankIx) (f : Bank → Bank) : (s.modBank b f).clk = s.clk := rfl
@[simp] theorem State.modBank_time (b : BankIx) (f : Bank → Bank) : (s.modBank b f).time = s.time := rfl
@[simp] theorem State.modBank_cur (b : BankIx) (f : Bank → Bank) : (s.modBank b f).cur = s.cur := rfl
@[simp] theorem State.modBank_epc (b : BankIx) (f : Bank → Bank) : (s.modBank b f).epc = s.epc := rfl
@[simp] theorem State.modBank_nextPc (b : BankIx) (f : Bank → Bank) : (s.modBank b f).nextPc = s.nextPc := rfl
@[simp] theorem State.modBank_slot (b : BankIx) (f : Bank → Bank) : (s.modBank b f).slot = s.slot := rfl
@[simp] theorem State.modBank_ownFrom (b : BankIx) (f : Bank → Bank) : (s.modBank b f).ownFrom = s.ownFrom := rfl
@[simp] theorem State.modBank_stop (b : BankIx) (f : Bank → Bank) : (s.modBank b f).stop = s.stop := rfl
@[simp] theorem State.modBank_cogs (b : BankIx) (f : Bank → Bank) : (s.modBank b f).cogs = s.cogs := rfl
@[simp] theorem State.modBank_mem (b : BankIx) (f : Bank → Bank) : (s.modBank b f).mem = s.mem := rfl
@[simp] theorem State.modBank_poison (b : BankIx) (f : Bank → Bank) : (s.modBank b f).poison = s.poison := rfl
@[simp] theorem State.modBank_ecc (b : BankIx) (f : Bank → Bank) : (s.modBank b f).ecc = s.ecc := rfl
@[simp] theorem State.modBank_accesses (b : BankIx) (f : Bank → Bank) : (s.modBank b f).accesses = s.accesses := rfl
@[simp] theorem State.modBank_copies (b : BankIx) (f : Bank → Bank) : (s.modBank b f).copies = s.copies := rfl
@[simp] theorem State.modBank_gsreqs (b : BankIx) (f : Bank → Bank) : (s.modBank b f).gsreqs = s.gsreqs := rfl
@[simp] theorem State.modBank_nextId (b : BankIx) (f : Bank → Bank) : (s.modBank b f).nextId = s.nextId := rfl
@[simp] theorem State.modBank_free (b : BankIx) (f : Bank → Bank) : (s.modBank b f).free = s.free := rfl
@[simp] theorem State.modBank_agenda (b : BankIx) (f : Bank → Bank) : (s.modBank b f).agenda = s.agenda := rfl
@[simp] theorem State.modBank_inbox (b : BankIx) (f : Bank → Bank) : (s.modBank b f).inbox = s.inbox := rfl
@[simp] theorem State.modBank_outbox (b : BankIx) (f : Bank → Bank) : (s.modBank b f).outbox = s.outbox := rfl
@[simp] theorem State.modBank_evalNext (b : BankIx) (f : Bank → Bank) : (s.modBank b f).evalNext = s.evalNext := rfl
@[simp] theorem State.modBank_ptroot (b : BankIx) (f : Bank → Bank) : (s.modBank b f).ptroot = s.ptroot := rfl
@[simp] theorem State.modBank_repin (b : BankIx) (f : Bank → Bank) : (s.modBank b f).repin = s.repin := rfl
@[simp] theorem State.modBank_image (b : BankIx) (f : Bank → Bank) : (s.modBank b f).image = s.image := rfl
@[simp] theorem State.modBank_homes (b : BankIx) (f : Bank → Bank) : (s.modBank b f).homes = s.homes := rfl
@[simp] theorem State.modBank_wlists (b : BankIx) (f : Bank → Bank) : (s.modBank b f).wlists = s.wlists := rfl
@[simp] theorem State.modBank_hub (b : BankIx) (f : Bank → Bank) : (s.modBank b f).hub = s.hub := rfl
@[simp] theorem State.modBank_fd (b : BankIx) (f : Bank → Bank) : (s.modBank b f).fd = s.fd := rfl
@[simp] theorem State.modBank_ports (b : BankIx) (f : Bank → Bank) : (s.modBank b f).ports = s.ports := rfl
@[simp] theorem State.modBank_topo (b : BankIx) (f : Bank → Bank) : (s.modBank b f).topo = s.topo := rfl
@[simp] theorem State.modBank_oldTopo (b : BankIx) (f : Bank → Bank) : (s.modBank b f).oldTopo = s.oldTopo := rfl
@[simp] theorem State.modBank_td (b : BankIx) (f : Bank → Bank) : (s.modBank b f).td = s.td := rfl
@[simp] theorem State.modBank_boot (b : BankIx) (f : Bank → Bank) : (s.modBank b f).boot = s.boot := rfl
@[simp] theorem State.modBank_banks (b : BankIx) (f : Bank → Bank) : (s.modBank b f).banks = s.banks.set b (f (s.bank b)) := rfl

/-! ## State.modMe -/

@[simp] theorem State.modMe_clk (f : Bank → Bank) : (s.modMe f).clk = s.clk := rfl
@[simp] theorem State.modMe_time (f : Bank → Bank) : (s.modMe f).time = s.time := rfl
@[simp] theorem State.modMe_cur (f : Bank → Bank) : (s.modMe f).cur = s.cur := rfl
@[simp] theorem State.modMe_epc (f : Bank → Bank) : (s.modMe f).epc = s.epc := rfl
@[simp] theorem State.modMe_nextPc (f : Bank → Bank) : (s.modMe f).nextPc = s.nextPc := rfl
@[simp] theorem State.modMe_slot (f : Bank → Bank) : (s.modMe f).slot = s.slot := rfl
@[simp] theorem State.modMe_ownFrom (f : Bank → Bank) : (s.modMe f).ownFrom = s.ownFrom := rfl
@[simp] theorem State.modMe_stop (f : Bank → Bank) : (s.modMe f).stop = s.stop := rfl
@[simp] theorem State.modMe_cogs (f : Bank → Bank) : (s.modMe f).cogs = s.cogs := rfl
@[simp] theorem State.modMe_mem (f : Bank → Bank) : (s.modMe f).mem = s.mem := rfl
@[simp] theorem State.modMe_poison (f : Bank → Bank) : (s.modMe f).poison = s.poison := rfl
@[simp] theorem State.modMe_ecc (f : Bank → Bank) : (s.modMe f).ecc = s.ecc := rfl
@[simp] theorem State.modMe_accesses (f : Bank → Bank) : (s.modMe f).accesses = s.accesses := rfl
@[simp] theorem State.modMe_copies (f : Bank → Bank) : (s.modMe f).copies = s.copies := rfl
@[simp] theorem State.modMe_gsreqs (f : Bank → Bank) : (s.modMe f).gsreqs = s.gsreqs := rfl
@[simp] theorem State.modMe_nextId (f : Bank → Bank) : (s.modMe f).nextId = s.nextId := rfl
@[simp] theorem State.modMe_free (f : Bank → Bank) : (s.modMe f).free = s.free := rfl
@[simp] theorem State.modMe_agenda (f : Bank → Bank) : (s.modMe f).agenda = s.agenda := rfl
@[simp] theorem State.modMe_inbox (f : Bank → Bank) : (s.modMe f).inbox = s.inbox := rfl
@[simp] theorem State.modMe_outbox (f : Bank → Bank) : (s.modMe f).outbox = s.outbox := rfl
@[simp] theorem State.modMe_evalNext (f : Bank → Bank) : (s.modMe f).evalNext = s.evalNext := rfl
@[simp] theorem State.modMe_ptroot (f : Bank → Bank) : (s.modMe f).ptroot = s.ptroot := rfl
@[simp] theorem State.modMe_repin (f : Bank → Bank) : (s.modMe f).repin = s.repin := rfl
@[simp] theorem State.modMe_image (f : Bank → Bank) : (s.modMe f).image = s.image := rfl
@[simp] theorem State.modMe_homes (f : Bank → Bank) : (s.modMe f).homes = s.homes := rfl
@[simp] theorem State.modMe_wlists (f : Bank → Bank) : (s.modMe f).wlists = s.wlists := rfl
@[simp] theorem State.modMe_hub (f : Bank → Bank) : (s.modMe f).hub = s.hub := rfl
@[simp] theorem State.modMe_fd (f : Bank → Bank) : (s.modMe f).fd = s.fd := rfl
@[simp] theorem State.modMe_ports (f : Bank → Bank) : (s.modMe f).ports = s.ports := rfl
@[simp] theorem State.modMe_topo (f : Bank → Bank) : (s.modMe f).topo = s.topo := rfl
@[simp] theorem State.modMe_oldTopo (f : Bank → Bank) : (s.modMe f).oldTopo = s.oldTopo := rfl
@[simp] theorem State.modMe_td (f : Bank → Bank) : (s.modMe f).td = s.td := rfl
@[simp] theorem State.modMe_boot (f : Bank → Bank) : (s.modMe f).boot = s.boot := rfl
@[simp] theorem State.modMe_banks (f : Bank → Bank) : (s.modMe f).banks = s.banks.set s.cur (f s.me) := rfl

/-! ## State.modCog -/

@[simp] theorem State.modCog_clk (c : CogIx) (f : Cog → Cog) : (s.modCog c f).clk = s.clk := rfl
@[simp] theorem State.modCog_time (c : CogIx) (f : Cog → Cog) : (s.modCog c f).time = s.time := rfl
@[simp] theorem State.modCog_cur (c : CogIx) (f : Cog → Cog) : (s.modCog c f).cur = s.cur := rfl
@[simp] theorem State.modCog_epc (c : CogIx) (f : Cog → Cog) : (s.modCog c f).epc = s.epc := rfl
@[simp] theorem State.modCog_nextPc (c : CogIx) (f : Cog → Cog) : (s.modCog c f).nextPc = s.nextPc := rfl
@[simp] theorem State.modCog_slot (c : CogIx) (f : Cog → Cog) : (s.modCog c f).slot = s.slot := rfl
@[simp] theorem State.modCog_ownFrom (c : CogIx) (f : Cog → Cog) : (s.modCog c f).ownFrom = s.ownFrom := rfl
@[simp] theorem State.modCog_stop (c : CogIx) (f : Cog → Cog) : (s.modCog c f).stop = s.stop := rfl
@[simp] theorem State.modCog_banks (c : CogIx) (f : Cog → Cog) : (s.modCog c f).banks = s.banks := rfl
@[simp] theorem State.modCog_mem (c : CogIx) (f : Cog → Cog) : (s.modCog c f).mem = s.mem := rfl
@[simp] theorem State.modCog_poison (c : CogIx) (f : Cog → Cog) : (s.modCog c f).poison = s.poison := rfl
@[simp] theorem State.modCog_ecc (c : CogIx) (f : Cog → Cog) : (s.modCog c f).ecc = s.ecc := rfl
@[simp] theorem State.modCog_accesses (c : CogIx) (f : Cog → Cog) : (s.modCog c f).accesses = s.accesses := rfl
@[simp] theorem State.modCog_copies (c : CogIx) (f : Cog → Cog) : (s.modCog c f).copies = s.copies := rfl
@[simp] theorem State.modCog_gsreqs (c : CogIx) (f : Cog → Cog) : (s.modCog c f).gsreqs = s.gsreqs := rfl
@[simp] theorem State.modCog_nextId (c : CogIx) (f : Cog → Cog) : (s.modCog c f).nextId = s.nextId := rfl
@[simp] theorem State.modCog_free (c : CogIx) (f : Cog → Cog) : (s.modCog c f).free = s.free := rfl
@[simp] theorem State.modCog_agenda (c : CogIx) (f : Cog → Cog) : (s.modCog c f).agenda = s.agenda := rfl
@[simp] theorem State.modCog_inbox (c : CogIx) (f : Cog → Cog) : (s.modCog c f).inbox = s.inbox := rfl
@[simp] theorem State.modCog_outbox (c : CogIx) (f : Cog → Cog) : (s.modCog c f).outbox = s.outbox := rfl
@[simp] theorem State.modCog_evalNext (c : CogIx) (f : Cog → Cog) : (s.modCog c f).evalNext = s.evalNext := rfl
@[simp] theorem State.modCog_ptroot (c : CogIx) (f : Cog → Cog) : (s.modCog c f).ptroot = s.ptroot := rfl
@[simp] theorem State.modCog_repin (c : CogIx) (f : Cog → Cog) : (s.modCog c f).repin = s.repin := rfl
@[simp] theorem State.modCog_image (c : CogIx) (f : Cog → Cog) : (s.modCog c f).image = s.image := rfl
@[simp] theorem State.modCog_homes (c : CogIx) (f : Cog → Cog) : (s.modCog c f).homes = s.homes := rfl
@[simp] theorem State.modCog_wlists (c : CogIx) (f : Cog → Cog) : (s.modCog c f).wlists = s.wlists := rfl
@[simp] theorem State.modCog_hub (c : CogIx) (f : Cog → Cog) : (s.modCog c f).hub = s.hub := rfl
@[simp] theorem State.modCog_fd (c : CogIx) (f : Cog → Cog) : (s.modCog c f).fd = s.fd := rfl
@[simp] theorem State.modCog_ports (c : CogIx) (f : Cog → Cog) : (s.modCog c f).ports = s.ports := rfl
@[simp] theorem State.modCog_topo (c : CogIx) (f : Cog → Cog) : (s.modCog c f).topo = s.topo := rfl
@[simp] theorem State.modCog_oldTopo (c : CogIx) (f : Cog → Cog) : (s.modCog c f).oldTopo = s.oldTopo := rfl
@[simp] theorem State.modCog_td (c : CogIx) (f : Cog → Cog) : (s.modCog c f).td = s.td := rfl
@[simp] theorem State.modCog_boot (c : CogIx) (f : Cog → Cog) : (s.modCog c f).boot = s.boot := rfl
@[simp] theorem State.modCog_cogs (c : CogIx) (f : Cog → Cog) : (s.modCog c f).cogs = s.cogs.set c (f (s.cog c)) := rfl

/-! ## State.store -/

@[simp] theorem State.store_clk (a : Nat) (bs : List Byte) (psn : Bool) : (s.store a bs psn).clk = s.clk := rfl
@[simp] theorem State.store_time (a : Nat) (bs : List Byte) (psn : Bool) : (s.store a bs psn).time = s.time := rfl
@[simp] theorem State.store_cur (a : Nat) (bs : List Byte) (psn : Bool) : (s.store a bs psn).cur = s.cur := rfl
@[simp] theorem State.store_epc (a : Nat) (bs : List Byte) (psn : Bool) : (s.store a bs psn).epc = s.epc := rfl
@[simp] theorem State.store_nextPc (a : Nat) (bs : List Byte) (psn : Bool) : (s.store a bs psn).nextPc = s.nextPc := rfl
@[simp] theorem State.store_slot (a : Nat) (bs : List Byte) (psn : Bool) : (s.store a bs psn).slot = s.slot := rfl
@[simp] theorem State.store_ownFrom (a : Nat) (bs : List Byte) (psn : Bool) : (s.store a bs psn).ownFrom = s.ownFrom := rfl
@[simp] theorem State.store_stop (a : Nat) (bs : List Byte) (psn : Bool) : (s.store a bs psn).stop = s.stop := rfl
@[simp] theorem State.store_banks (a : Nat) (bs : List Byte) (psn : Bool) : (s.store a bs psn).banks = s.banks := rfl
@[simp] theorem State.store_cogs (a : Nat) (bs : List Byte) (psn : Bool) : (s.store a bs psn).cogs = s.cogs := rfl
@[simp] theorem State.store_ecc (a : Nat) (bs : List Byte) (psn : Bool) : (s.store a bs psn).ecc = s.ecc := rfl
@[simp] theorem State.store_accesses (a : Nat) (bs : List Byte) (psn : Bool) : (s.store a bs psn).accesses = s.accesses := rfl
@[simp] theorem State.store_copies (a : Nat) (bs : List Byte) (psn : Bool) : (s.store a bs psn).copies = s.copies := rfl
@[simp] theorem State.store_gsreqs (a : Nat) (bs : List Byte) (psn : Bool) : (s.store a bs psn).gsreqs = s.gsreqs := rfl
@[simp] theorem State.store_nextId (a : Nat) (bs : List Byte) (psn : Bool) : (s.store a bs psn).nextId = s.nextId := rfl
@[simp] theorem State.store_free (a : Nat) (bs : List Byte) (psn : Bool) : (s.store a bs psn).free = s.free := rfl
@[simp] theorem State.store_agenda (a : Nat) (bs : List Byte) (psn : Bool) : (s.store a bs psn).agenda = s.agenda := rfl
@[simp] theorem State.store_inbox (a : Nat) (bs : List Byte) (psn : Bool) : (s.store a bs psn).inbox = s.inbox := rfl
@[simp] theorem State.store_outbox (a : Nat) (bs : List Byte) (psn : Bool) : (s.store a bs psn).outbox = s.outbox := rfl
@[simp] theorem State.store_evalNext (a : Nat) (bs : List Byte) (psn : Bool) : (s.store a bs psn).evalNext = s.evalNext := rfl
@[simp] theorem State.store_ptroot (a : Nat) (bs : List Byte) (psn : Bool) : (s.store a bs psn).ptroot = s.ptroot := rfl
@[simp] theorem State.store_repin (a : Nat) (bs : List Byte) (psn : Bool) : (s.store a bs psn).repin = s.repin := rfl
@[simp] theorem State.store_image (a : Nat) (bs : List Byte) (psn : Bool) : (s.store a bs psn).image = s.image := rfl
@[simp] theorem State.store_homes (a : Nat) (bs : List Byte) (psn : Bool) : (s.store a bs psn).homes = s.homes := rfl
@[simp] theorem State.store_wlists (a : Nat) (bs : List Byte) (psn : Bool) : (s.store a bs psn).wlists = s.wlists := rfl
@[simp] theorem State.store_hub (a : Nat) (bs : List Byte) (psn : Bool) : (s.store a bs psn).hub = s.hub := rfl
@[simp] theorem State.store_fd (a : Nat) (bs : List Byte) (psn : Bool) : (s.store a bs psn).fd = s.fd := rfl
@[simp] theorem State.store_ports (a : Nat) (bs : List Byte) (psn : Bool) : (s.store a bs psn).ports = s.ports := rfl
@[simp] theorem State.store_topo (a : Nat) (bs : List Byte) (psn : Bool) : (s.store a bs psn).topo = s.topo := rfl
@[simp] theorem State.store_oldTopo (a : Nat) (bs : List Byte) (psn : Bool) : (s.store a bs psn).oldTopo = s.oldTopo := rfl
@[simp] theorem State.store_td (a : Nat) (bs : List Byte) (psn : Bool) : (s.store a bs psn).td = s.td := rfl
@[simp] theorem State.store_boot (a : Nat) (bs : List Byte) (psn : Bool) : (s.store a bs psn).boot = s.boot := rfl
@[simp] theorem State.store_mem (a : Nat) (bs : List Byte) (psn : Bool) : (s.store a bs psn).mem = memSets s.mem a bs := rfl

/-! ## State.emit -/

@[simp] theorem State.emit_clk (o : Out) : (s.emit o).clk = s.clk := rfl
@[simp] theorem State.emit_time (o : Out) : (s.emit o).time = s.time := rfl
@[simp] theorem State.emit_cur (o : Out) : (s.emit o).cur = s.cur := rfl
@[simp] theorem State.emit_epc (o : Out) : (s.emit o).epc = s.epc := rfl
@[simp] theorem State.emit_nextPc (o : Out) : (s.emit o).nextPc = s.nextPc := rfl
@[simp] theorem State.emit_slot (o : Out) : (s.emit o).slot = s.slot := rfl
@[simp] theorem State.emit_ownFrom (o : Out) : (s.emit o).ownFrom = s.ownFrom := rfl
@[simp] theorem State.emit_stop (o : Out) : (s.emit o).stop = s.stop := rfl
@[simp] theorem State.emit_banks (o : Out) : (s.emit o).banks = s.banks := rfl
@[simp] theorem State.emit_cogs (o : Out) : (s.emit o).cogs = s.cogs := rfl
@[simp] theorem State.emit_mem (o : Out) : (s.emit o).mem = s.mem := rfl
@[simp] theorem State.emit_poison (o : Out) : (s.emit o).poison = s.poison := rfl
@[simp] theorem State.emit_ecc (o : Out) : (s.emit o).ecc = s.ecc := rfl
@[simp] theorem State.emit_accesses (o : Out) : (s.emit o).accesses = s.accesses := rfl
@[simp] theorem State.emit_copies (o : Out) : (s.emit o).copies = s.copies := rfl
@[simp] theorem State.emit_gsreqs (o : Out) : (s.emit o).gsreqs = s.gsreqs := rfl
@[simp] theorem State.emit_nextId (o : Out) : (s.emit o).nextId = s.nextId := rfl
@[simp] theorem State.emit_free (o : Out) : (s.emit o).free = s.free := rfl
@[simp] theorem State.emit_agenda (o : Out) : (s.emit o).agenda = s.agenda := rfl
@[simp] theorem State.emit_inbox (o : Out) : (s.emit o).inbox = s.inbox := rfl
@[simp] theorem State.emit_evalNext (o : Out) : (s.emit o).evalNext = s.evalNext := rfl
@[simp] theorem State.emit_ptroot (o : Out) : (s.emit o).ptroot = s.ptroot := rfl
@[simp] theorem State.emit_repin (o : Out) : (s.emit o).repin = s.repin := rfl
@[simp] theorem State.emit_image (o : Out) : (s.emit o).image = s.image := rfl
@[simp] theorem State.emit_homes (o : Out) : (s.emit o).homes = s.homes := rfl
@[simp] theorem State.emit_wlists (o : Out) : (s.emit o).wlists = s.wlists := rfl
@[simp] theorem State.emit_hub (o : Out) : (s.emit o).hub = s.hub := rfl
@[simp] theorem State.emit_fd (o : Out) : (s.emit o).fd = s.fd := rfl
@[simp] theorem State.emit_ports (o : Out) : (s.emit o).ports = s.ports := rfl
@[simp] theorem State.emit_topo (o : Out) : (s.emit o).topo = s.topo := rfl
@[simp] theorem State.emit_oldTopo (o : Out) : (s.emit o).oldTopo = s.oldTopo := rfl
@[simp] theorem State.emit_td (o : Out) : (s.emit o).td = s.td := rfl
@[simp] theorem State.emit_boot (o : Out) : (s.emit o).boot = s.boot := rfl
@[simp] theorem State.emit_outbox (o : Out) : (s.emit o).outbox = s.outbox ++ [o] := rfl

/-! ## State.schedule -/

@[simp] theorem State.schedule_clk (due : Nat) (ev : Instr) : (s.schedule due ev).clk = s.clk := rfl
@[simp] theorem State.schedule_time (due : Nat) (ev : Instr) : (s.schedule due ev).time = s.time := rfl
@[simp] theorem State.schedule_cur (due : Nat) (ev : Instr) : (s.schedule due ev).cur = s.cur := rfl
@[simp] theorem State.schedule_epc (due : Nat) (ev : Instr) : (s.schedule due ev).epc = s.epc := rfl
@[simp] theorem State.schedule_nextPc (due : Nat) (ev : Instr) : (s.schedule due ev).nextPc = s.nextPc := rfl
@[simp] theorem State.schedule_slot (due : Nat) (ev : Instr) : (s.schedule due ev).slot = s.slot := rfl
@[simp] theorem State.schedule_ownFrom (due : Nat) (ev : Instr) : (s.schedule due ev).ownFrom = s.ownFrom := rfl
@[simp] theorem State.schedule_stop (due : Nat) (ev : Instr) : (s.schedule due ev).stop = s.stop := rfl
@[simp] theorem State.schedule_banks (due : Nat) (ev : Instr) : (s.schedule due ev).banks = s.banks := rfl
@[simp] theorem State.schedule_cogs (due : Nat) (ev : Instr) : (s.schedule due ev).cogs = s.cogs := rfl
@[simp] theorem State.schedule_mem (due : Nat) (ev : Instr) : (s.schedule due ev).mem = s.mem := rfl
@[simp] theorem State.schedule_poison (due : Nat) (ev : Instr) : (s.schedule due ev).poison = s.poison := rfl
@[simp] theorem State.schedule_ecc (due : Nat) (ev : Instr) : (s.schedule due ev).ecc = s.ecc := rfl
@[simp] theorem State.schedule_accesses (due : Nat) (ev : Instr) : (s.schedule due ev).accesses = s.accesses := rfl
@[simp] theorem State.schedule_copies (due : Nat) (ev : Instr) : (s.schedule due ev).copies = s.copies := rfl
@[simp] theorem State.schedule_gsreqs (due : Nat) (ev : Instr) : (s.schedule due ev).gsreqs = s.gsreqs := rfl
@[simp] theorem State.schedule_nextId (due : Nat) (ev : Instr) : (s.schedule due ev).nextId = s.nextId := rfl
@[simp] theorem State.schedule_free (due : Nat) (ev : Instr) : (s.schedule due ev).free = s.free := rfl
@[simp] theorem State.schedule_inbox (due : Nat) (ev : Instr) : (s.schedule due ev).inbox = s.inbox := rfl
@[simp] theorem State.schedule_outbox (due : Nat) (ev : Instr) : (s.schedule due ev).outbox = s.outbox := rfl
@[simp] theorem State.schedule_evalNext (due : Nat) (ev : Instr) : (s.schedule due ev).evalNext = s.evalNext := rfl
@[simp] theorem State.schedule_ptroot (due : Nat) (ev : Instr) : (s.schedule due ev).ptroot = s.ptroot := rfl
@[simp] theorem State.schedule_repin (due : Nat) (ev : Instr) : (s.schedule due ev).repin = s.repin := rfl
@[simp] theorem State.schedule_image (due : Nat) (ev : Instr) : (s.schedule due ev).image = s.image := rfl
@[simp] theorem State.schedule_homes (due : Nat) (ev : Instr) : (s.schedule due ev).homes = s.homes := rfl
@[simp] theorem State.schedule_wlists (due : Nat) (ev : Instr) : (s.schedule due ev).wlists = s.wlists := rfl
@[simp] theorem State.schedule_hub (due : Nat) (ev : Instr) : (s.schedule due ev).hub = s.hub := rfl
@[simp] theorem State.schedule_fd (due : Nat) (ev : Instr) : (s.schedule due ev).fd = s.fd := rfl
@[simp] theorem State.schedule_ports (due : Nat) (ev : Instr) : (s.schedule due ev).ports = s.ports := rfl
@[simp] theorem State.schedule_topo (due : Nat) (ev : Instr) : (s.schedule due ev).topo = s.topo := rfl
@[simp] theorem State.schedule_oldTopo (due : Nat) (ev : Instr) : (s.schedule due ev).oldTopo = s.oldTopo := rfl
@[simp] theorem State.schedule_td (due : Nat) (ev : Instr) : (s.schedule due ev).td = s.td := rfl
@[simp] theorem State.schedule_boot (due : Nat) (ev : Instr) : (s.schedule due ev).boot = s.boot := rfl
@[simp] theorem State.schedule_agenda (due : Nat) (ev : Instr) : (s.schedule due ev).agenda = s.agenda ++ [(due, ev)] := rfl

/-! ## State.result -/

@[simp] theorem State.result_clk (L : Nat) (res : List Res) (cs : Causes) : (s.result L res cs).clk = s.clk := rfl
@[simp] theorem State.result_time (L : Nat) (res : List Res) (cs : Causes) : (s.result L res cs).time = s.time := rfl
@[simp] theorem State.result_cur (L : Nat) (res : List Res) (cs : Causes) : (s.result L res cs).cur = s.cur := rfl
@[simp] theorem State.result_epc (L : Nat) (res : List Res) (cs : Causes) : (s.result L res cs).epc = s.epc := rfl
@[simp] theorem State.result_nextPc (L : Nat) (res : List Res) (cs : Causes) : (s.result L res cs).nextPc = s.nextPc := rfl
@[simp] theorem State.result_slot (L : Nat) (res : List Res) (cs : Causes) : (s.result L res cs).slot = s.slot := rfl
@[simp] theorem State.result_ownFrom (L : Nat) (res : List Res) (cs : Causes) : (s.result L res cs).ownFrom = s.ownFrom := rfl
@[simp] theorem State.result_stop (L : Nat) (res : List Res) (cs : Causes) : (s.result L res cs).stop = s.stop := rfl
@[simp] theorem State.result_cogs (L : Nat) (res : List Res) (cs : Causes) : (s.result L res cs).cogs = s.cogs := rfl
@[simp] theorem State.result_mem (L : Nat) (res : List Res) (cs : Causes) : (s.result L res cs).mem = s.mem := rfl
@[simp] theorem State.result_poison (L : Nat) (res : List Res) (cs : Causes) : (s.result L res cs).poison = s.poison := rfl
@[simp] theorem State.result_ecc (L : Nat) (res : List Res) (cs : Causes) : (s.result L res cs).ecc = s.ecc := rfl
@[simp] theorem State.result_accesses (L : Nat) (res : List Res) (cs : Causes) : (s.result L res cs).accesses = s.accesses := rfl
@[simp] theorem State.result_copies (L : Nat) (res : List Res) (cs : Causes) : (s.result L res cs).copies = s.copies := rfl
@[simp] theorem State.result_gsreqs (L : Nat) (res : List Res) (cs : Causes) : (s.result L res cs).gsreqs = s.gsreqs := rfl
@[simp] theorem State.result_nextId (L : Nat) (res : List Res) (cs : Causes) : (s.result L res cs).nextId = s.nextId := rfl
@[simp] theorem State.result_free (L : Nat) (res : List Res) (cs : Causes) : (s.result L res cs).free = s.free := rfl
@[simp] theorem State.result_agenda (L : Nat) (res : List Res) (cs : Causes) : (s.result L res cs).agenda = s.agenda := rfl
@[simp] theorem State.result_inbox (L : Nat) (res : List Res) (cs : Causes) : (s.result L res cs).inbox = s.inbox := rfl
@[simp] theorem State.result_outbox (L : Nat) (res : List Res) (cs : Causes) : (s.result L res cs).outbox = s.outbox := rfl
@[simp] theorem State.result_evalNext (L : Nat) (res : List Res) (cs : Causes) : (s.result L res cs).evalNext = s.evalNext := rfl
@[simp] theorem State.result_ptroot (L : Nat) (res : List Res) (cs : Causes) : (s.result L res cs).ptroot = s.ptroot := rfl
@[simp] theorem State.result_repin (L : Nat) (res : List Res) (cs : Causes) : (s.result L res cs).repin = s.repin := rfl
@[simp] theorem State.result_image (L : Nat) (res : List Res) (cs : Causes) : (s.result L res cs).image = s.image := rfl
@[simp] theorem State.result_homes (L : Nat) (res : List Res) (cs : Causes) : (s.result L res cs).homes = s.homes := rfl
@[simp] theorem State.result_wlists (L : Nat) (res : List Res) (cs : Causes) : (s.result L res cs).wlists = s.wlists := rfl
@[simp] theorem State.result_hub (L : Nat) (res : List Res) (cs : Causes) : (s.result L res cs).hub = s.hub := rfl
@[simp] theorem State.result_fd (L : Nat) (res : List Res) (cs : Causes) : (s.result L res cs).fd = s.fd := rfl
@[simp] theorem State.result_ports (L : Nat) (res : List Res) (cs : Causes) : (s.result L res cs).ports = s.ports := rfl
@[simp] theorem State.result_topo (L : Nat) (res : List Res) (cs : Causes) : (s.result L res cs).topo = s.topo := rfl
@[simp] theorem State.result_oldTopo (L : Nat) (res : List Res) (cs : Causes) : (s.result L res cs).oldTopo = s.oldTopo := rfl
@[simp] theorem State.result_td (L : Nat) (res : List Res) (cs : Causes) : (s.result L res cs).td = s.td := rfl
@[simp] theorem State.result_boot (L : Nat) (res : List Res) (cs : Causes) : (s.result L res cs).boot = s.boot := rfl

/-! ## State.again -/

@[simp] theorem State.again_clk : (s.again).clk = s.clk := rfl
@[simp] theorem State.again_time : (s.again).time = s.time := rfl
@[simp] theorem State.again_cur : (s.again).cur = s.cur := rfl
@[simp] theorem State.again_epc : (s.again).epc = s.epc := rfl
@[simp] theorem State.again_nextPc : (s.again).nextPc = s.nextPc := rfl
@[simp] theorem State.again_slot : (s.again).slot = s.slot := rfl
@[simp] theorem State.again_ownFrom : (s.again).ownFrom = s.ownFrom := rfl
@[simp] theorem State.again_stop : (s.again).stop = s.stop := rfl
@[simp] theorem State.again_cogs : (s.again).cogs = s.cogs := rfl
@[simp] theorem State.again_mem : (s.again).mem = s.mem := rfl
@[simp] theorem State.again_poison : (s.again).poison = s.poison := rfl
@[simp] theorem State.again_ecc : (s.again).ecc = s.ecc := rfl
@[simp] theorem State.again_accesses : (s.again).accesses = s.accesses := rfl
@[simp] theorem State.again_copies : (s.again).copies = s.copies := rfl
@[simp] theorem State.again_gsreqs : (s.again).gsreqs = s.gsreqs := rfl
@[simp] theorem State.again_nextId : (s.again).nextId = s.nextId := rfl
@[simp] theorem State.again_free : (s.again).free = s.free := rfl
@[simp] theorem State.again_agenda : (s.again).agenda = s.agenda := rfl
@[simp] theorem State.again_inbox : (s.again).inbox = s.inbox := rfl
@[simp] theorem State.again_outbox : (s.again).outbox = s.outbox := rfl
@[simp] theorem State.again_evalNext : (s.again).evalNext = s.evalNext := rfl
@[simp] theorem State.again_ptroot : (s.again).ptroot = s.ptroot := rfl
@[simp] theorem State.again_repin : (s.again).repin = s.repin := rfl
@[simp] theorem State.again_image : (s.again).image = s.image := rfl
@[simp] theorem State.again_homes : (s.again).homes = s.homes := rfl
@[simp] theorem State.again_wlists : (s.again).wlists = s.wlists := rfl
@[simp] theorem State.again_hub : (s.again).hub = s.hub := rfl
@[simp] theorem State.again_fd : (s.again).fd = s.fd := rfl
@[simp] theorem State.again_ports : (s.again).ports = s.ports := rfl
@[simp] theorem State.again_topo : (s.again).topo = s.topo := rfl
@[simp] theorem State.again_oldTopo : (s.again).oldTopo = s.oldTopo := rfl
@[simp] theorem State.again_td : (s.again).td = s.td := rfl
@[simp] theorem State.again_boot : (s.again).boot = s.boot := rfl

end Sys2Proof.Machine
end

