-- ==== Sys2Proof/Laws/Hub.lean ====
section
/-! SUPPORT. Work of the hub on memory: it is done where every region that it touches is active, and else waits (R113). -/

namespace Sys2Proof.Machine

/-- A transition that begins changes no byte and no bank. -/
@[simp] theorem State.retStart_mem (s : State) (c : CogIx) : (s.retStart c).mem = s.mem := by
  unfold State.retStart; split <;> rfl
@[simp] theorem State.retStart_banks (s : State) (c : CogIx) : (s.retStart c).banks = s.banks := by
  unfold State.retStart; split <;> rfl

/-- RETREQ changes no byte and no bank. -/
@[simp] theorem State.setRetreq_mem (s : State) (c : CogIx) (r : BitVec 9) : (s.setRetreq c r).mem = s.mem :=
  State.retStart_mem _ c
@[simp] theorem State.setRetreq_banks (s : State) (c : CogIx) (r : BitVec 9) : (s.setRetreq c r).banks = s.banks :=
  State.retStart_banks _ c

/-- Asking a region to leave retention changes no byte and no bank. -/
@[simp] theorem State.askExit_mem (s : State) (a : Nat) : (s.askExit a).mem = s.mem := by
  unfold State.askExit; split
  · exact State.setRetreq_mem ..
  · rfl
@[simp] theorem State.askExit_banks (s : State) (a : Nat) : (s.askExit a).banks = s.banks := by
  unfold State.askExit; split
  · exact State.setRetreq_banks ..
  · rfl

/-- Everything that a piece of the hub's work can do: it is done, or it is to be made again after a free time. -/
theorem State.hubWork_cases (s : State) (rs : List (Nat × Nat)) (again : Instr) (go : State → State) :
    (s.shut rs = none ∧ s.hubWork rs again go = go s) ∨
    ∃ a, s.shut rs = some a ∧
      s.hubWork rs again go = (s.askExit a).later.2.schedule (s.askExit a).later.1 again := by
  unfold State.hubWork
  cases h : s.shut rs with
  | none => exact .inl ⟨rfl, rfl⟩
  | some a => exact .inr ⟨a, rfl, rfl⟩

/-- Work that waits changes no byte and no bank. -/
theorem State.hubWork_waits (s : State) (rs : List (Nat × Nat)) (again : Instr) (go : State → State) {a : Nat}
    (h : s.shut rs = some a) : (s.hubWork rs again go).mem = s.mem ∧ (s.hubWork rs again go).banks = s.banks := by
  unfold State.hubWork
  simp only [h]
  exact ⟨State.askExit_mem s a, State.askExit_banks s a⟩

end Sys2Proof.Machine
end

