-- ==== Sys2Proof/Laws/Issue.lean ====
section
/-! SUPPORT. What issuing a syllable can do, once: a syllable that goes through leaves its effect and a bundle that goes on,
one that stops leaves what its stop does; and the two shapes of scalar arithmetic. -/

namespace Sys2Proof.Machine

/-- A syllable that goes through. -/
theorem issue_ok {f : Core} {s t : State} (h : f s = .ok t) : issue f s = .next t.on := by simp [issue, h, State.on]

/-- A syllable that stops its bundle. -/
theorem issue_error {f : Core} {s : State} {e : Stop} (h : f s = .error e) :
    issue f s = .next { s.halt e with stop := some e } := by simp [issue, h]

/-- A syllable that traps. -/
theorem issue_trap {f : Core} {s : State} {t : Trap} (h : f s = .error (.trap t)) : issue f s = .next (s.trapped t) :=
  issue_error h

/-- Issue never faults and never refuses; a next state with no stop is the effect of the syllable. -/
theorem issue_cases {f : Core} {s : State} :
    (∃ t, f s = .ok t ∧ issue f s = .next t.on) ∨
      (∃ e, f s = .error e ∧ issue f s = .next { s.halt e with stop := some e }) := by
  cases h : f s with
  | ok t => exact .inl ⟨t, rfl, issue_ok h⟩
  | error e => exact .inr ⟨e, rfl, issue_error h⟩

/-- A syllable that leaves its bundle going on went through. -/
theorem issue_next {f : Core} {s t : State} (h : issue f s = .next t) (hs : t.stop = none) :
    ∃ u, f s = .ok u ∧ t = u.on := by
  rcases issue_cases (f := f) (s := s) with ⟨u, hu, e⟩ | ⟨e, he, e'⟩
  · exact ⟨u, hu, by rw [e] at h; cases h; rfl⟩
  · rw [e'] at h; cases h; cases hs

@[simp] theorem check_ok {c : Bool} {e : Stop} (h : c = true) : check c e = .ok () := by simp [check, h]
@[simp] theorem check_error {c : Bool} {e : Stop} (h : c = false) : check c e = .error e := by simp [check, h]

@[simp] theorem ok_bind {α β : Type} (x : α) (f : α → Except Stop β) : ((.ok x : Except Stop α) >>= f) = f x := rfl
@[simp] theorem error_bind {α β : Type} (e : Stop) (f : α → Except Stop β) :
    ((.error e : Except Stop α) >>= f) = .error e := rfl

/-- One scalar source with a value. -/
theorem issue_alu1 {s : State} {L : Nat} {d a : SOp} {f : Word → Word} {x : Word} (h : s.rdA a = .ok x) :
    issue (alu1 L d a f) s = .next (s.wrote L [s.dA d (f x)]) :=
  issue_ok (by simp [alu1, h, pure, Except.pure])

/-- Two scalar sources with values. -/
theorem issue_alu2 {s : State} {L : Nat} {d a b : SOp} {f : Word → Word → Word} {x y : Word} (h : s.rdA a = .ok x)
    (h' : s.rdA b = .ok y) : issue (alu2 L d a b f) s = .next (s.wrote L [s.dA d (f x y)]) :=
  issue_ok (by simp [alu2, h, h', pure, Except.pure])

end Sys2Proof.Machine
end

