-- ==== Sys2Proof/Laws/Memory.lean ====
section
/-! SUPPORT. The memory list: every write keeps its canonical form, and a byte reads as what was last written there. -/

namespace Sys2Proof.Machine

/-- Every entry of a list lies above an address. -/
def Memory.above (a : Nat) (m : List Host.Cell) : Prop := ∀ e ∈ m, a < e.1

theorem Memory.above_nil (a : Nat) : Memory.above a [] := by simp [Memory.above]

theorem Memory.above_cons (a : Nat) (e : Host.Cell) (r : List Host.Cell) :
    Memory.above a (e :: r) ↔ a < e.1 ∧ Memory.above a r := by simp [Memory.above]

theorem Memory.above_mono {a a' : Nat} {m : List Host.Cell} (h : a ≤ a') (hm : Memory.above a' m) : Memory.above a m :=
  fun e he => Nat.lt_of_le_of_lt h (hm e he)

/-- The canonical form of a list with a first entry. -/
theorem Memory.wf_cons (k : Nat) (b : Byte) (r : List Host.Cell) :
    Memory.wf ((k, b) :: r) = true ↔ b ≠ 0 ∧ Memory.above k r ∧ Memory.wf r = true := by
  induction r generalizing k b with
  | nil => simp [Memory.wf, Memory.above_nil]
  | cons e r ih =>
    obtain ⟨k', b'⟩ := e
    rw [Memory.wf, Memory.above_cons]
    simp only [Bool.and_eq_true, decide_eq_true_eq, ih k' b']
    constructor
    · rintro ⟨⟨h1, h2⟩, h3, h4, h5⟩
      exact ⟨h2, ⟨h1, Memory.above_mono (Nat.le_of_lt h1) h4⟩, h3, h4, h5⟩
    · rintro ⟨h1, ⟨h2, _⟩, h4, h5, h6⟩
      exact ⟨⟨h2, h1⟩, h4, h5, h6⟩

/-- A byte below every entry reads 0. -/
theorem memByte_above {a : Nat} {m : List Host.Cell} (h : Memory.above a m) : memByte m a = 0 := by
  cases m with
  | nil => rfl
  | cons e r =>
    obtain ⟨k, b⟩ := e
    have hk := ((Memory.above_cons a (k, b) r).1 h).1
    simp only [memByte]
    rw [if_neg (by omega), if_pos hk]

/-- A write above an address leaves the rest above it. -/
theorem Memory.above_set {k a : Nat} (x : Byte) {m : List Host.Cell} (hk : k < a) (h : Memory.above k m) :
    Memory.above k (memSet m a x) := by
  induction m with
  | nil =>
    simp only [memSet]
    split <;> simp [Memory.above, hk]
  | cons e r ih =>
    obtain ⟨c, b⟩ := e
    rw [Memory.above_cons] at h
    simp only [memSet]
    split
    · split
      · exact h.2
      · exact (Memory.above_cons ..).2 ⟨hk, h.2⟩
    · split
      · split
        · exact (Memory.above_cons ..).2 h
        · exact (Memory.above_cons ..).2 ⟨hk, (Memory.above_cons ..).2 h⟩
      · exact (Memory.above_cons ..).2 ⟨h.1, ih h.2⟩

/-- A write keeps the canonical form. -/
theorem Memory.wf_set (a : Nat) (x : Byte) {m : List Host.Cell} (h : Memory.wf m = true) :
    Memory.wf (memSet m a x) = true := by
  induction m with
  | nil =>
    simp only [memSet]
    split
    · rfl
    · simpa [Memory.wf] using ‹¬x = 0›
  | cons e r ih =>
    obtain ⟨c, b⟩ := e
    rw [Memory.wf_cons] at h
    obtain ⟨hb, hr, hw⟩ := h
    simp only [memSet]
    split
    · rename_i hc
      split
      · exact hw
      · exact (Memory.wf_cons ..).2 ⟨by assumption, hc ▸ hr, hw⟩
    · split
      · split
        · exact (Memory.wf_cons ..).2 ⟨hb, hr, hw⟩
        · rename_i hlt hx
          exact (Memory.wf_cons ..).2 ⟨hx, (Memory.above_cons ..).2 ⟨hlt, Memory.above_mono (Nat.le_of_lt hlt) hr⟩,
            (Memory.wf_cons ..).2 ⟨hb, hr, hw⟩⟩
      · exact (Memory.wf_cons ..).2 ⟨hb, Memory.above_set x (by omega) hr, ih hw⟩

/-- A write of several bytes keeps the canonical form. -/
theorem Memory.wf_sets (a : Nat) (xs : List Byte) {m : List Host.Cell} (h : Memory.wf m = true) :
    Memory.wf (memSets m a xs) = true := by
  induction xs generalizing a m with
  | nil => exact h
  | cons x xs ih => exact ih (a + 1) (Memory.wf_set a x h)

/-- Every store of the package keeps the canonical form. -/
theorem State.store_wf (s : State) (a : Nat) (bs : List Byte) (psn : Bool) (h : Memory.wf s.mem = true) :
    Memory.wf (s.store a bs psn).mem = true := Memory.wf_sets a bs h

/-- After a write, its address reads the byte written and every other address reads as before. -/
theorem memByte_memSet (a a' : Nat) (x : Byte) {m : List Host.Cell} (h : Memory.wf m = true) :
    memByte (memSet m a x) a' = if a' = a then x else memByte m a' := by
  induction m with
  | nil =>
    simp only [memSet]
    by_cases hx : x = 0
    · simp [hx, memByte]
    · simp only [if_neg hx, memByte]
      by_cases h1 : a' = a
      · simp [h1]
      · rw [if_neg (Ne.symm h1), if_neg h1]; split <;> rfl
  | cons e r ih =>
    obtain ⟨k, b⟩ := e
    rw [Memory.wf_cons] at h
    obtain ⟨_, hr, hw⟩ := h
    simp only [memSet]
    by_cases h1 : k = a
    · subst h1
      rw [if_pos rfl]
      by_cases hx : x = 0
      · rw [if_pos hx]
        by_cases h2 : a' = k
        · rw [if_pos h2, h2, hx, memByte_above hr]
        · rw [if_neg h2]
          simp only [memByte]
          rw [if_neg (Ne.symm h2)]
          split
          · exact memByte_above (Memory.above_mono (Nat.le_of_lt ‹_›) hr)
          · rfl
      · rw [if_neg hx]
        simp only [memByte]
        by_cases h2 : a' = k
        · simp [h2]
        · rw [if_neg (Ne.symm h2), if_neg h2, if_neg (Ne.symm h2)]
    · rw [if_neg h1]
      by_cases h3 : a < k
      · rw [if_pos h3]
        have ha : Memory.above a ((k, b) :: r) :=
          (Memory.above_cons ..).2 ⟨h3, Memory.above_mono (Nat.le_of_lt h3) hr⟩
        by_cases hx : x = 0
        · rw [if_pos hx]
          by_cases h2 : a' = a
          · rw [if_pos h2, h2, hx, memByte_above ha]
          · rw [if_neg h2]
        · rw [if_neg hx]
          by_cases h2 : a' = a
          · simp [h2, memByte]
          · rw [if_neg h2, memByte, if_neg (Ne.symm h2)]
            split
            · exact (memByte_above (Memory.above_mono (Nat.le_of_lt ‹_›) ha)).symm
            · rfl
      · rw [if_neg h3]
        simp only [memByte]
        by_cases h2 : k = a'
        · rw [if_pos h2, if_neg (by omega), if_pos h2]
        · rw [if_neg h2, if_neg h2]
          by_cases h4 : a' < k
          · rw [if_pos h4, if_pos h4, if_neg (by omega)]
          · rw [if_neg h4, if_neg h4, ih hw]

/-- Bytes outside a run that is written read as before. -/
theorem memByte_memSets_other (a a' : Nat) (xs : List Byte) {m : List Host.Cell} (h : Memory.wf m = true)
    (ho : a' < a ∨ a + xs.length ≤ a') : memByte (memSets m a xs) a' = memByte m a' := by
  induction xs generalizing a m with
  | nil => rfl
  | cons x xs ih =>
    simp only [List.length_cons] at ho
    rw [memSets, ih (a + 1) (Memory.wf_set a x h) (by omega), memByte_memSet a a' x h, if_neg (by omega)]

/-- A run that is written reads as what was written. -/
theorem memBytes_memSets (a : Nat) (xs : List Byte) {m : List Host.Cell} (h : Memory.wf m = true) :
    memBytes (memSets m a xs) a xs.length = xs := by
  induction xs generalizing a m with
  | nil => rfl
  | cons x xs ih =>
    simp only [List.length_cons, memBytes, memSets]
    rw [ih (a + 1) (Memory.wf_set a x h), memByte_memSets_other (a + 1) a xs (Memory.wf_set a x h) (by omega),
      memByte_memSet a a x h, if_pos rfl]

/-- What a store writes is what a load of the same bytes reads. -/
theorem State.load_store (s : State) (a : Nat) (bs : List Byte) (psn : Bool) (h : Memory.wf s.mem = true) :
    (s.store a bs psn).load a bs.length = bs := memBytes_memSets a bs h

/-- The memory after reset has the canonical form. -/
theorem State.reset_memory_wf : Memory.wf State.reset.mem = true := rfl

end Sys2Proof.Machine
end

