-- ==== Sys2Proof/Tests/Slice0.lean ====
section
/-! SUPPORT. Tests: ill-formed terms that the checks refuse, words written out from the encodings of spec/, single steps with
results taken from the rules or worked out by hand, and for every statement with hypotheses a state and operands that meet
them. -/

namespace Sys2Proof.Tests

open Sys2Proof Sys2Proof.Machine

-- One test at a time: checked all at once they take too much memory.
set_option Elab.async false

/-! ## Ill-formed terms (R152 to R154, R160) -/

/-- A field of width 0 or above 64 (R196). -/
theorem test_wf_field : (Instr.bfxImm false (.s 1) (.s 2) 0 0).wf = false ∧ (Instr.bfiImm (.s 1) (.s 2) 0 65).wf = false ∧
    (Instr.bfiImm (.s 1) (.s 2) 0 64).wf = true := by decide
/-- CMP whose two predicates are one register other than p0 (R198). -/
theorem test_wf_cmp : (Instr.cmp .eq 3 3 (.s 1) (.s 2)).wf = false ∧ (Instr.cmp .eq 0 0 (.s 1) (.s 2)).wf = true := by decide
/-- A rounding mode or .SAT with a type it does not go with, and formats an operation does not take (R257, R262 to R269). -/
theorem test_wf_types : (Instr.vadd .int8 .rtz false 1 2 3 none).wf = false ∧
    (Instr.vadd .fp32 .rne true 1 2 3 none).wf = false ∧ (Instr.vadd .raw .rne false 1 2 3 none).wf = false ∧
    (Instr.vfma .int8 .rne 1 2 3 4 none).wf = false ∧ (Instr.vmin .mxfp4 1 2 3 none).wf = false ∧
    (Instr.vabs .uint8 false 1 2 none).wf = false ∧ (Instr.vmulh .fp32 1 2 3 none).wf = false ∧
    (Instr.vshl .int8 1 2 (.imm 8) none).wf = false ∧ (Instr.vdot4 .int32 false false 1 2 3 4 none).wf = false ∧
    (Instr.vcmp .int32 .un (.v 1) 2 3 none).wf = false ∧ (Instr.vcmp .bf16 .eq (.q 1) 2 3 none).wf = false := by decide
/-- Reserved conversions, reductions, scans and permutations (R273 to R279). -/
theorem test_wf_cross : (Instr.vcvt .fp32 .fp32 .rne 0 false false 1 2 0 none).wf = false ∧
    (Instr.vcvt .fp32 .bf16 .rtz 0 false false 1 2 0 none).wf = false ∧
    (Instr.vcvt .bf16 .fp32 .rne 2 false false 1 2 0 none).wf = false ∧
    (Instr.vrsum .int8 .rup 1 2 none).wf = false ∧ (Instr.vrargmax .int64 1 2 none).wf = false ∧
    (Instr.vscan .fp32 .rup .max false 1 2 none).wf = false ∧ (Instr.vperm .bf16 true 1 2 3 none).wf = false ∧
    (Instr.vperm2 .int8 1 2 3 4 none).wf = false := by decide
/-- Formats of class M, of converting loads and stores, and of gathers (R286, R287, R289, R296, R300, R306). -/
theorem test_wf_formats : (Instr.mwload .uint8 false true 1 0).wf = false ∧ (Instr.mwload .bf16 true true 1 0).wf = false ∧
    (Instr.mwload .bf16 false true 1 2).wf = false ∧ (Instr.mmul 0 0 1 2 .fp32 true none false).wf = false ∧
    (Instr.mmul 0 0 1 2 .mxfp4 true (some 3) false).wf = false ∧ (Instr.tcst 0 0 1 2 .mxfp4 .rne none).wf = false ∧
    (Instr.vld .fp32 (some (.plain, .rne)) 1 (.s 2) none).wf = false ∧
    (Instr.vst .mxfp4 (some .rne) (.s 2) 1 none).wf = false ∧ (Instr.vgather .bf16 1 2 3 none).wf = false := by decide
/-- Sizes, pairs, ordering forms and scopes of memory accesses (R160, R214, R226, R228, R236). -/
theorem test_wf_memory : (Instr.ld (.s 1) 2 0 .b128 false .plain .bank).wf = false ∧
    (Instr.ld (.s 1) 2 0 .b64 true .plain .bank).wf = false ∧ (Instr.ld (.s 1) 2 0 .b32 false .rel .cog).wf = false ∧
    (Instr.st (.s 1) 2 0 .b32 .acq .cog).wf = false ∧ (Instr.st (.s 1) 2 0 .b32 .plain .cog).wf = false ∧
    (Instr.ldp (.s 1) 2 0 .plain .bank).wf = false ∧ (Instr.stgGs (.s 1) 2 0 .b128 0).wf = false ∧
    (Instr.aadd .b16 .plain .bank 1 2 3).wf = false ∧ (Instr.gsLoad (.s128 3) 1 0 2).wf = false ∧
    (Instr.csrRd 1 0x16).wf = false := by decide
/-- A guard that negates p0, an event as a syllable, and bundles out of class order, too full, or with a late RST (R152,
R153). -/
theorem test_wf_syllable : (⟨true, false, 0, true, .stageEnd⟩ : Syllable).wf = false ∧
    (⟨true, false, 0, false, .timeAdvance⟩ : Syllable).wf = false ∧ bundleWf [(.b, false), (.a, false)] = false ∧
    bundleWf [(.a, false), (.a, false), (.a, false)] = false ∧ bundleWf [(.a, false), (.y, false)] = false ∧
    bundleWf [(.a, false), (.x, true)] = false ∧ bundleWf [] = false ∧
    bundleWf [(.a, true), (.v, false), (.m, false), (.x, false), (.b, false)] = true := by decide

/-! ## Words (R149, R150, R159 and the opcode tables) -/

/-- Class A: ADD (!p70) s3, s1, s2 with RST; XOR; REM.U; SHL by an immediate; CMP; MOVI.HI. -/
theorem test_decode_a : (decodeSyllable 0x4004683020800000).toOption =
      some ⟨false, true, 70, true, .add (.s 3) (.s 1) (.s 2)⟩ ∧
    (decodeSyllable 0x80400040A1800000).toOption = some ⟨true, false, 0, false, .xor (.s 4) (.s 5) (.s 6)⟩ := by decide +kernel
/-- Class B: STAGE.END, LOOP with a negative displacement, WAIT.TIME. -/
theorem test_decode_b : decodeTableWord 64 0x8838000000000000 = some .stageEnd ∧
    decodeTableWord 64 0x88300077FFFFFFFC = some (.loop 7 true true true (-4)) ∧
    decodeTableWord 64 0x8848002000000000 = some (.waitTime 2 0) := by decide +kernel
/-- Class V: VFMA toward +∞, VADD under a mask, VCVT, VLD from an iterator. -/
theorem test_decode_v : decodeTableWord 64 0x9018005020818070 = some (.vfma .fp32 .rup 5 1 2 3 none) ∧
    decodeTableWord 64 0x9000004020804C40 = some (.vadd .fp32 .rne false 4 1 2 (some 3)) ∧
    decodeTableWord 64 0x90F8004020008091 = some (.vcvt .bf16 .fp32 .rtz 1 false false 4 1 0 none) ∧
    decodeTableWord 64 0xA1C0002060000040 = some (.vld .fp32 none 2 (.it 3 false) none) := by decide +kernel
/-- Class M words of spec/18: MCHK.BUF, MWLOAD guarded by p1, MMUL.K, TCST.K. -/
theorem test_decode_tile : decodeTableWord 64 0x981800000C000002 = some (.mchk 6 .buf) ∧
    (decodeSyllable 0x9800100010000300).toOption = some ⟨true, false, 1, false, .mwload .int8 false false 8 0⟩ ∧
    decodeTableWord 64 0x9810000000140302 = some (.mmul 0 0 0 5 .int8 false (some 0) false) ∧
    decodeTableWord 64 0x9858000008140B04 = some (.tcst 0 0 4 5 .int8 .rne (some 1)) := by decide +kernel
/-- Class M: MWLOAD converting, MMUL with .ADV, RSV_FEED2, RSV_DRAW. -/
theorem test_decode_m : decodeTableWord 64 0x9800000010000181 = some (.mwload .fp8e4 false true 8 0) ∧
    decodeTableWord 64 0x9810022004140185 = some (.mmul 1 32 2 5 .fp8e4 true none true) ∧
    decodeTableWord 64 0x9910060708140080 = some (.rsvFeed2 3 7 4 5) ∧
    decodeTableWord 64 0x991800001A000000 = some (.rsvDraw 13 0 0) := by decide +kernel
/-- Class X: LDG, STG_GS, FENCE, RING_PUT, GS_SEAL, GS_OPEN, CPY, CPY_BC. -/
theorem test_decode_x : decodeTableWord 64 0xA02000310AC40010 = some (.ldg (.s 3) 8 0x10 .b64 false .acq .hop) ∧
    decodeTableWord 64 0xA03000A121000000 = some (.stgGs (.s 10) 9 0 .b128 0) ∧
    decodeTableWord 64 0xA088000000002803 = some (.fence .ss .hop) ∧
    decodeTableWord 64 0xA188000900000200 = some (.ringPut (.o 1) 0 512 false) ∧
    decodeTableWord 64 0xA0C8006000000002 = some (.gsSeal 6 2) ∧
    decodeTableWord 64 0xA0C0005001838000 = some (.gsOpen 5 0 6 7) ∧
    decodeTableWord 64 0xA14000C081430000 = some (.cpy 12 4 5 6) ∧
    decodeTableWord 64 0xA16000C081430703 = some (.cpybc 12 4 5 6 7 3) := by decide +kernel
/-- Class Y: CSR_RD s3, ARCNT.INV; a reserved CLASS is no instruction. -/
theorem test_decode_y : decodeTableWord 64 0xA800003000000011 = some (.csrRd 3 0x11) ∧
    decodeTableWord 64 0xB000000000000000 = none ∧ decodeTableWord 64 0xB800000000000000 = none := by decide +kernel

/-- A well-formed syllable, a word that decodes, a reserved CLASS in a bundle (DecodeOfEncode, EncodeOfDecode,
ReservedClassFirst). -/
theorem witness_encoding : (⟨true, false, 0, false, .xor (.s 4) (.s 5) (.s 6)⟩ : Syllable).wf = true ∧
    decodeSyllable 0x80400040A1800000 = .ok ⟨true, false, 0, false, .xor (.s 4) (.s 5) (.s 6)⟩ ∧
    (0x3000000000000000 : Word) ∈ [0x0000000000000000, (0x3000000000000000 : Word)] ∧
    6 ≤ bitsAt (0x3000000000000000 : Word).toNat 59 3 := by decide +kernel

/-! ## States -/

/-- The outcome is a next state of which p holds. -/
def gives (o : Host.Outcome State Fault Refusal) (p : State → Bool) : Bool :=
  match o with
  | .next t => p t
  | _ => false

/-- What gives says. -/
theorem gives_iff (o : Host.Outcome State Fault Refusal) (p : State → Bool) :
    gives o p = true ↔ ∃ t, o = .next t ∧ p t = true := by
  cases o <;> simp [gives]

/-- The state of an outcome. -/
def after (o : Host.Outcome State Fault Refusal) : State :=
  match o with
  | .next t => t
  | _ => State.reset

/-- The value of the last result in flight for a scalar. -/
def lastS (s : State) : Option Word :=
  match s.me.inflight.getLast? with
  | some ⟨_, .s _ v :: _, _, _, _⟩ => some v
  | _ => none

/-- The value of the last result in flight for a predicate. -/
def lastP (s : State) : Option Bool :=
  match s.me.inflight.getLast? with
  | some ⟨_, l, _, _, _⟩ => l.findSome? fun r => match r with
    | .p _ v => some v
    | _ => none
  | none => none

/-- Element i of w bits of the last result in flight for a vector, with its causes. -/
def lastV (s : State) (w i : Nat) : Option (Nat × Causes) :=
  match s.me.inflight.getLast? with
  | some ⟨_, .v _ v _ :: _, c, _, _⟩ => some (lane w v i, c)
  | _ => none

/-- A handle of name 7 at home 0, open for two parties at epoch 5. -/
def open7 : Handle := { v := true, snap := false, asid := 0, name := 7, home := 0, pcnt := 2, epoch := 5 }

/-- An input port with two packets a firing, and an output port with one, of depth 4. -/
def portIn : PortState := { PortState.reset with peer := .stage 0 1 0 9, rate := 2, depth := 4, stride := 64, capacity := 32, ring := 0x1000, snap := 2 }
def portOut : PortState := { portIn with rate := 1, ring := 0x2000, snap := 4 }

/-- Scalars of the tests: s1 and s2 small, s3 to s5 addresses on paths 0, 1 and 3, s6 a groupset address, s7 misaligned, s8
and s9 a name and a count, s10 a copy's length, s11 an address error, s12 zero bits with a one above, s13 path 2. -/
def scalars : List (Fin 64 × Word) :=
  [(1, 256), (2, 5), (3, 0x100), (4, 0x1000000000000040), (5, 0x3000000000000040), (6, 0x3000000000010000), (7, 0x103),
   (8, 7), (9, 2), (10, 64), (11, 0x0FFFFFFFFFFFFFC0), (12, 1), (13, 0x2008000000000100), (14, 0x3000000000000000),
   (15, 32), (16, 0x20000), (17, 0x10000), (18, 0x4000000000020000)]

/-- Windows of 64 KiB: near memory for data, code and rings; stacked memory; cog 1's near memory; near memory with bf16
data, a bf16 weight tile, mxfp4 data, and int8 segments. -/
def windowList : List (Fin 64 × Win) :=
  [(0, ⟨0, 0x10000, 0, 31⟩), (1, ⟨0x1000000000000000, 0x10000, 0, 7⟩), (2, ⟨0x2008000000000000, 0x10000, 0x8000000000000, 7⟩),
   (3, ⟨0x10000, 0x10000, 0x10000, 0x207⟩), (4, ⟨0x20000, 0x10000, 0x20000, 0x2207⟩),
   (5, ⟨0x30000, 0x10000, 0x30000, 0x1507⟩), (6, ⟨0x40000, 0x10000, 0x40000, 0x3607⟩)]

/-- A running bank of cog 0 with a handler, windows on paths 0 to 2, and two bound ports. -/
def bank0 : Bank :=
  { Bank.reset with
    active := true, live := true, mode := .running, tvec := 0x800, iter := 1,
    s := scalars.foldl (fun v x => v.set x.1 x.2) Bank.reset.s, p := Bank.reset.p.set 1 true,
    v := (Bank.reset.v.set 1 0x3F8000007F800000C0000000).set 2 0x0000000400000003000000020000000100000000,
    q := Bank.reset.q.set 1 5,
    h := (Bank.reset.h.set 0 (handleBits open7)).set 1 (handleBits { open7 with snap := true }),
    windows := windowList.foldl (fun v x => v.set x.1 x.2) Bank.reset.windows,
    ports := (Bank.reset.ports.set 0 portIn).set 8 portOut }

/-- A leaf for a page of ASID 0 in stacked memory of cog 0, plain, and one of a groupset page. -/
def plainLeaf : TlbEntry := ⟨0, 16, 0, 0x40000000000, 0x13⟩
def groupLeaf : TlbEntry := ⟨0, 16, 1, 0x40800000000, 0x20013⟩

/-- The package of the tests: bank 0 runs, cog 0's TLB holds two pages, the core cycle is 9. -/
def base : State :=
  { State.reset with
    clk := 9, time := 9, nextPc := 8, banks := State.reset.banks.set 0 bank0,
    cogs := State.reset.cogs.set 0 { Cog.reset with holder := some false, tlb := [plainLeaf, groupLeaf] } }

/-- The same in a trap handler. -/
def inHandler : State := base.modMe fun b => { b with hmode := true }

/-- The image of the tests: name 7 has its home here. -/
def image0 : Image :=
  { id := [], period := 0, npkg := 1, sections := [], stages := [], packages := [(0, 0)], groupsets := [(7, 0)],
    runs := [], super := none, fallback := [], keyslot := 0, chunks := [] }

/-! ## The step, results, class A -/

/-- The state in which the bundle of a one-syllable program issues. -/
def issuing (w : Nat) : State :=
  let s := State.reset.withFetchWord 64 w
  { s with cur := 0, epc := 0, slot := 0, stop := none }

/-- TIME_READ s3; TRAP 3; RING_PUT on a port that is not bound; the same guarded by a false p1; a reserved CLASS
(StepRunsDecoded, MemoryFormKept). -/
theorem witness_step :
    (∀ w ∈ [0x8858003000000000, 0x8840000000000003, 0xA188000900000200, 0xA188100900000200, 0xB000000000000000],
      let s := State.reset.withFetchWord 64 w
      s.inbox = [] ∧ s.powered = true ∧ takeDue s.clk s.agenda = none ∧ s.eventDue s.liveBanks = none ∧
      s.issuing s.liveBanks = some 0 ∧ s.boundary (s.bank 0) = none ∧ Memory.wf s.mem = true ∧ gives (step s) fun _ => true) ∧
    (let u := issuing 0x8858003000000000
     let y : Syllable := ⟨true, false, 0, false, .timeRead 3⟩
     u.readBundle u.epc = .ok [y] ∧ (u.prepare [y]).guardHolds y = .ok true ∧ (u.prepare [y]).unitBusy y = false ∧
     gives (exec y.instr (u.prepare [y])) (fun t => t.stop = none) ∧
     gives (runSyllables exec [y] 0 (u.prepare [y])) fun t => t.stop = none) ∧
    (let u := issuing 0x8840000000000003
     let y : Syllable := ⟨true, false, 0, false, .trap 3⟩
     u.readBundle u.epc = .ok [y] ∧ (u.prepare [y]).guardHolds y = .ok true ∧ (u.prepare [y]).unitBusy y = false ∧
     gives (exec y.instr (u.prepare [y])) (fun t => t.stop = some .taken) ∧
     gives (runSyllables exec [y] 0 (u.prepare [y])) fun t => t.stop = some .taken) ∧
    (let u := issuing 0xA188000900000200
     let y : Syllable := ⟨true, false, 0, false, .ringPut (.o 1) 0 512 false⟩
     let e : Stop := .trap { cause := 0x1E, val := 9 }
     u.readBundle u.epc = .ok [y] ∧ (u.prepare [y]).guardHolds y = .ok true ∧ (u.prepare [y]).unitBusy y = false ∧
     gives (exec y.instr (u.prepare [y])) (fun t => t.stop = some e) ∧
     gives (runSyllables exec [y] 0 (u.prepare [y])) fun t => t.stop = some e) ∧
    (let u := issuing 0xA188100900000200
     let y : Syllable := ⟨true, false, 1, false, .ringPut (.o 1) 0 512 false⟩
     u.readBundle u.epc = .ok [y] ∧ (u.prepare [y]).guardHolds y = .ok false) ∧
    (let u := issuing 0xB000000000000000
     u.readBundle u.epc = .error { cause := 0x12, slot := 0, fetch := false, val := 0 }) := by
  decide +kernel

/-- A step of the package moves the pc past the bundle. -/
theorem test_step : gives (step (State.reset.withFetchWord 64 0x8858003000000000)) (fun t => (t.bank 0).pc = 8) = true := by
  decide +kernel

/-- Every operand of class A and B is readable in the test state, with both truth values of a predicate; the corners of
the division and of the carries meet their clauses (ScalarArithmetic, Division, CarryChains, ScalarOrder, ScalarBits,
ScalarFields, Branches, LoopStep, Sleeping). -/
theorem witness_scalar :
    base.rdA (.s 1) = .ok 256 ∧ base.rdA (.s 0) = .ok 0 ∧ base.rdA (.c 31) = .ok 0 ∧ base.rdP 0 = .ok true ∧
    base.rdP 1 = .ok true ∧ base.rdP 2 = .ok false ∧ base.rdS 12 = .ok 1 ∧ base.rdS 7 = .ok 0x103 := by decide +kernel
/-- Latencies and results in flight: a file holds s0 and p0 at index 0, and a result is due at, before and after its cycle
(ResultsArrive). -/
theorem witness_results : Bank.reset.physS 0 = 0 ∧ Bank.reset.physP 0 = 0 ∧ Bank.reset.physS 63 ≠ 0 ∧ Bank.reset.physP 127 ≠ 0 ∧
    (7 : Nat) < 8 ∧ (8 : Nat) ≤ 8 ∧ (63 : Fin 64) ≠ 0 ∧ (1 : Fin 64) ≠ 63 ∧
    (let p : Pending := { due := 8, res := [.s 3 1], causes := invalid, seq := 2 }
     let q : Pending := { p with res := [.csr 0x10 1], causes := {} }
     let w : Pending := { p with res := [.win true 4 Win.reset] }
     p.res = [.s 3 1] ∧ p.causes.inv = 1 ∧ q.res = [.csr 0x10 1] ∧ q.causes = {} ∧ p.due = q.due ∧
     ({ p with seq := 1 } : Pending).seq < p.seq ∧
     let s := base.modMe fun b => { b with inflight := [w] }
     (s.bank 0).inflight = [w] ∧ w.due ≤ s.clk) := by decide +kernel

/-- ADD wraps; 5 - 256; the low half of a product of sums (R190). -/
theorem test_add : lastS (after (exec (.addImm (.s 20) (.s 0) 0xFFFFFF) base)) = some 0xFFFFFFFFFFFFFFFF ∧
    lastS (after (exec (.sub (.s 20) (.s 2) (.s 1)) base)) = some 0xFFFFFFFFFFFFFF05 ∧
    lastS (after (exec (.mul (.s 20) (.s 4) (.s 15)) base)) = some 0x800 := by decide +kernel
/-- MULH: 2^60 + 64 times 256 is 2^68 + 2^14, and 2^60 - 64 times 256 is 2^68 - 2^14
(R190). -/
theorem test_mulh : lastS (after (exec (.mulh true (.s 20) (.s 4) (.s 1)) base)) = some 0x10 ∧
    lastS (after (exec (.mulh false (.s 20) (.s 11) (.s 1)) base)) = some 0xF := by decide +kernel
/-- DIV by zero gives all ones and REM the dividend; 256 = 51 * 5 + 1; the signed overflow (R192). -/
theorem test_div : lastS (after (exec (.div false (.s 20) (.s 1) (.s 0)) base)) = some 0xFFFFFFFFFFFFFFFF ∧
    lastS (after (exec (.rem true (.s 20) (.s 1) (.s 0)) base)) = some 256 ∧
    lastS (after (exec (.div true (.s 20) (.s 1) (.s 2)) base)) = some 51 ∧
    lastS (after (exec (.rem true (.s 20) (.s 1) (.s 2)) base)) = some 1 := by decide +kernel
/-- SUBB of 5 and 256 borrows, with p0 as the borrow in it subtracts one more (R193). -/
theorem test_subb : lastS (after (exec (.subb (.s 20) 3 (.s 2) (.s 1) 0) base)) = some 0xFFFFFFFFFFFFFF04 ∧
    lastP (after (exec (.subb (.s 20) 3 (.s 2) (.s 1) 0) base)) = some true ∧
    lastP (after (exec (.addc (.s 20) 3 (.s 2) (.s 1) 0) base)) = some false := by decide +kernel
/-- A sign extension, a count of leading zeros, and a field (R191, R196, R197). -/
theorem test_bits : lastS (after (exec (.clz (.s 20) (.s 1)) base)) = some 55 ∧
    lastS (after (exec (.ctz (.s 20) (.s 0)) base)) = some 64 ∧
    lastS (after (exec (.bfxImm true (.s 20) (.s 7) 0 2) base)) = some 0xFFFFFFFFFFFFFFFF ∧
    lastS (after (exec (.bswap (.s 20) (.s 7)) base)) = some 0x0301000000000000 := by decide +kernel
/-- CMP LTU writes the condition and its negation; PLOG with the table of AND (R198, R200). -/
theorem test_cmp : lastP (after (exec (.cmp .ltu 3 4 (.s 2) (.s 1)) base)) = some true ∧
    lastP (after (exec (.plog 8 3 1 2) base)) = some false := by decide +kernel

/-- A syllable of class A or V that goes through (RegisterFormsFrame). -/
theorem witness_register_forms :
    (Instr.add (.s 20) (.s 1) (.s 2)).unit = some .a ∧ (Instr.vadd .fp32 .rne false 4 1 2 none).unit = some .v ∧
    gives (exec (.add (.s 20) (.s 1) (.s 2)) base) (fun t => t.stop = none) ∧
    gives (exec (.vadd .fp32 .rne false 4 1 2 none) base) (fun t => t.stop = none) := by decide +kernel

/-! ## Class B and traps -/

/-- JR's targets: aligned, and not; LOOP at a counter of one and above it; a WAIT_TIME target that TIME has reached, and one
that it has not, with and without an incomplete copy (Branches, LoopStep, Sleeping). -/
theorem witness_control : base.rdS 1 = .ok 256 ∧ 256 % 8 = 0 ∧ base.rdS 7 = .ok 0x103 ∧ 0x103 % 8 ≠ 0 ∧ base.rdS 12 = .ok 1 ∧
    base.rdS 2 = .ok 5 ∧ (5 : Word) ≠ 1 ∧ ((2 : Word) + BitVec.signExtend 64 (4 : BitVec 32)).toNat ≤ base.time.toNat ∧
    base.time.toNat < (5 + BitVec.signExtend 64 (5 : BitVec 32) : Word).toNat ∧ (∀ c ∈ base.copies, c.bank ≠ base.cur) ∧
    (∃ c ∈ (after (exec (.cpy 12 3 1 10) base)).copies, c.bank = base.cur) := by decide +kernel
/-- STAGE_END with the output port short of its count, and with no port short; the same with the results written and not,
with a copy out of a freed slot and with a put whose header is still to be written, and a bank that waits for its copies
(StageEnd). -/
theorem witness_stage_end : base.me.ports[(8 : Fin 16)].peer ≠ .none ∧
    base.me.ports[(8 : Fin 16)].puts < base.me.ports[(8 : Fin 16)].rate ∧
    (∀ j : Fin 16, 8 ≤ j.val → j < 8 → base.me.ports[j].peer = .none ∨ base.me.ports[j].rate ≤ base.me.ports[j].puts) ∧
    (∀ i : Fin 16, 8 ≤ i.val → State.reset.me.ports[i].peer ≠ .none →
      State.reset.me.ports[i].rate ≤ State.reset.me.ports[i].puts) ∧
    (let e (s : State) : State := s.modMe fun b => { b with mode := .ending }
     let put := after (exec (.ringPut (.o 0) 0 32 false) base)
     let copying := after (exec (.cpy 12 3 16 10) (base.modMe fun b => { b with s := b.s.set 16 0x1000 }))
     ((e base).bank 0).mode = .ending ∧ (e base).written 0 = true ∧ ((e base).cog 0).failed = false ∧
     ((e base).cog 0).heldFrom ≤ (e base).clk ∧ (e (after (exec (.addImm (.s 20) (.s 0) 1) base))).written 0 = false ∧
     ((e put).bank 0).puts ≠ [] ∧ (e put).endCopies 0 = false ∧
     (∀ i : Fin 16, 8 ≤ i.val → ((e put).bank 0).ports[i].peer ≠ .none →
       ((e put).bank 0).ports[i].rate ≤ ((e put).bank 0).ports[i].puts) ∧
     (e copying).endCopies 0 = true) := by decide +kernel
/-- A bank with a handler, one already in it, budget rows below seven, a drained bank; and the handler-only instructions
inside and outside a handler (TrapEntry, SoftwareTrap, TrapReturn, HandlerOnly, SystemRegisters). -/
theorem witness_traps : (base.bank 0).hmode = false ∧ (base.bank 0).tvec ≠ 0 ∧ (base.bank 0).budgetRow < 7 ∧
    base.draining base.cur = false ∧ base.me.hmode = false ∧ base.me.tvec ≠ 0 ∧ inHandler.me.hmode = true ∧
    inHandler.me.aband = false ∧ (inHandler.modMe fun b => { b with aband := true }).me.aband = true ∧
    (inHandler.bank 0).hmode = true ∧ (0x15 : Nat) ≠ 4 ∧ (0x15 : Nat) ≠ 0x20 ∧ base.me.mode ≠ .ringWait ∧
    (after (exec (.addImm (.s 20) (.s 0) 1) base)).draining 0 = true ∧
    (let s := base.modMe fun b => { b with mode := .ringWait, afterTrap := some ({ cause := 0x21 }, 8) }
     s.me.mode = .ringWait ∧ s.me.puts = [] ∧ s.me.afterTrap = some ({ cause := 0x21 }, 8)) := by decide +kernel
/-- BR goes back 8 bytes per unit of its displacement; CALL writes the next bundle's address (R203). -/
theorem test_branch : gives (exec (.br 0xFFFFFFFF) { base with epc := 0x100 }) (fun t => t.nextPc = 0xF8 ∧ t.me.nextIssue = 11) ∧
    lastS (after (exec (.call 20 4) base)) = some 8 := by decide +kernel
/-- TRAP 7 in the handler's own bank stops it (R330); TRET restores the pc (R256). -/
theorem test_trap : gives (exec (.trap 7) inHandler) (fun t => t.me.mode = .stopped ∧ t.me.hmode = false) ∧
    gives (exec (.tret false) inHandler) (fun t => t.me.pc = 0 ∧ t.me.hmode = false) := by decide +kernel

/-! ## Class V -/

/-- Vectors readable, types of both kinds, a lane mask with active and inactive elements, and the widths of VCMP into a lane
mask (LaneArithmetic, LaneSelect, VectorBits, CrossLane, ElementMoves). -/
theorem witness_vector : base.rdV 1 = .ok 0x3F8000007F800000C0000000 ∧ base.rdV 2 = .ok 0x0000000400000003000000020000000100000000 ∧
    base.rdQ 1 = 5 ∧ EType.isInt .int8 = true ∧ EType.isFloat .bf16 = true ∧ EType.width .fp32 = 32 ∧
    active (base.rdMask (some 1)) 32 0 = true ∧ active (base.rdMask (some 1)) 32 1 = false ∧ EType.isFloat .int64 = false ∧
    argMax .int32 (actives .int32 none 0) = some (0, 0) ∧ argMax .int32 (actives .int32 (some 0) 0) = none ∧
    argMax .fp32 (actives .fp32 none 0) = some (0, 0) := by decide +kernel
/-- An element in range, the signed ends of its type on both sides, and shift amounts at the width (ActiveLanes,
IntegerDelivery, LaneSelect). -/
theorem witness_integers : (127 : Nat) < EType.lanes .fp32 ∧ (3 : Fin 64) ≠ 2 ∧ intMin .int8 ≤ -128 ∧ (-128 : Int) ≤ intMax .int8 ∧
    (127 : Int) ≤ intMax .int8 ∧ (-129 : Int) < intMin .int8 ∧ intMax .int8 < 128 ∧ (255 : Nat) < 2 ^ EType.width .int8 ∧
    (255 : Int) ≤ intMax .uint8 ∧ (-1 : Int) < intMin .uint8 := by decide +kernel
/-- In each floating format the largest pattern that is no NaN, and zero (FormatsRoundTrip). -/
theorem witness_formats : ∀ x ∈ [(EType.fp32, 0xFF800000), (.bf16, 0xFF80), (.fp8e4, 0xFE), (.fp8e5, 0xFC), (.mxfp4, 0xF), (.fp32, 0)],
    x.1 ∈ [EType.fp32, .bf16, .fp8e4, .fp8e5, .mxfp4] ∧ x.2 < 2 * signBit x.1 ∧ (decodeF x.1 x.2).isNan = false := by
  decide +kernel

/-- VADD.F32 of -2 and +0, of infinity and a subnormal; 1 + 2^-148 rounds to 1 and is inexact (R54, R262). -/
theorem test_vadd : let t := after (exec (.vadd .fp32 .rne false 4 1 2 none) base)
    lastV t 32 0 = some (0xC0000000, { inx := 1 }) ∧ (lastV t 32 1).map (·.1) = some 0x7F800000 ∧
    (lastV t 32 2).map (·.1) = some 0x3F800000 := by decide +kernel
/-- VADD.I8.SAT clamps 127 + 1 and counts one event (R264). -/
theorem test_vsat : let s := base.modMe fun b => { b with v := (b.v.set 5 0x7F).set 6 1 }
    lastV (after (exec (.vadd .int8 .rne true 4 5 6 none) s)) 8 0 = some (0x7F, { sat := 1 }) ∧
    (lastV (after (exec (.vadd .int8 .rne false 4 5 6 none) s)) 8 0).map (·.1) = some 0x80 := by decide +kernel
/-- VSHL.I32 by a vector of amounts; VSPLAT; VEXT of an element (R267, R280). -/
theorem test_vmove : (lastV (after (exec (.vshl .int32 4 2 (.reg 2) none) base)) 32 3).map (·.1) = some 24 ∧
    (lastV (after (exec (.vsplat .int32 4 2 none) base)) 32 127).map (·.1) = some 5 ∧
    lastS (after (exec (.vext .int32 20 1 0) base)) = some 0xFFFFFFFFC0000000 := by decide +kernel
/-- VRSUM.I32 of 0 to 4 is 10; VSCAN.I32's third element is their first three's sum (R276, R278). -/
theorem test_vsum : (lastV (after (exec (.vrsum .int32 .rne 4 2 none) base)) 64 0).map (·.1) = some 10 ∧
    (lastV (after (exec (.vscan .int32 .rne .sum false 4 2 none) base)) 32 2).map (·.1) = some 3 := by decide +kernel
/-- The conversions at the edges of spec/04 (R60 to R63). -/
theorem test_convert :
    convert .fp8e4 .fp32 .rne 0x43E60000 = (0x7E, { inx := 1 }) ∧ convert .fp8e4 .fp32 .rne 0x43E80000 = (0x7E, { inx := 1 }) ∧
    convert .fp8e4 .fp32 .rne 0x43FA0000 = (0x7E, { sat := 1, inx := 1 }) ∧
    convert .fp8e4 .fp32 .rtz 0x7F800000 = (0x7E, { sat := 1 }) ∧
    convert .fp8e5 .fp32 .rne 0x47700000 = (0x7C, { ovf := 1, inx := 1 }) ∧
    convert .fp8e5 .fp32 .rtz 0x47700000 = (0x7B, { inx := 1 }) ∧ convert .bf16 .fp32 .rne 0x3F808000 = (0x3F80, { inx := 1 }) ∧
    convert .bf16 .fp32 .rup 0x3F808000 = (0x3F81, { inx := 1 }) ∧ convert .bf16 .fp32 .rup 1 = (1, { inx := 1 }) ∧
    convert .int8 .fp32 .rne 0x42FF0000 = (0x7F, { inv := 1 }) ∧ convert .int8 .fp32 .rne 0xC3008000 = (0x80, { inx := 1 }) ∧
    convert .int8 .fp32 .rne 0x7FC00000 = (0, { inv := 1 }) ∧ convert .int8 .int32 .rne 300 = (0x7F, { sat := 1 }) := by
  decide +kernel
/-- The seeds of 3 and 2, the Newton step's fma, and the promotion of the FP8 group of spec/04 (R71, R78 to R80). -/
theorem test_numbers : (rcpe 0x40400000).1 = 0x3EAA7000 ∧ (rsqe 0x40000000).1 = 0x3F34A800 ∧
    (fFma .fp32 .rne true false 0x40400000 0x3EAA7000 0x3F800000).1 = 0x3AB00000 ∧
    promote 0x3F800000 (some (.num false 1 (-18))) (.num false 1 (-1)) (.num false 3 0) = (0x3F800030, {}) := by decide +kernel
/-- The published check values of the two CRCs on the digits 1 to 9 (R369, R374). -/
theorem test_crc : crc16 [0x31, 0x32, 0x33, 0x34, 0x35, 0x36, 0x37, 0x38, 0x39] = 0x29B1 ∧
    crc64 [0x31, 0x32, 0x33, 0x34, 0x35, 0x36, 0x37, 0x38, 0x39] = 0x6C40DF5F0B497347 := by decide +kernel

/-! ## Class M -/

/-- An Except that answers a value of which p holds. -/
def okWith {α : Type} (e : Except Stop α) (p : α → Bool) : Bool :=
  match e with
  | .ok x => p x
  | .error _ => false

/-- The value of an Except, or d. -/
def valueOf {α : Type} (d : α) : Except Stop α → α
  | .ok x => x
  | .error _ => d

/-- The cog's weight buffer w0 holds this bank's bf16 tile. -/
def tagged : State := base.modCog 0 fun c => c.setBuffer false fun w => { w with tag := some (false, .bf16) }
/-- The same of the cog's other bank. -/
def taggedOther : State := base.modCog 0 fun c => c.setBuffer false fun w => { w with tag := some (true, .bf16) }
/-- Eight entries in the queue. -/
def full : State := base.modCog 0 fun c => { c with mq := List.replicate 8 (MEntry.blank base .mwswap) }

/-- A queue with room, and a full one; a bf16 tile's places; a tag that fits and one of the other bank; the rows of MMUL (128
and 129 of them), TLD, TST and TCST (MatrixQueued, MatrixRows). -/
theorem witness_matrix :
    base.queueRoom = .ok () ∧ full.mycog.mq.length = 8 ∧ base.rdG 0 = .ok Iter.reset ∧
    okWith (base.tileSegs .bf16 0x20000 0) (fun _ => true) ∧
    (∀ b : Bool, ∀ tag ∈ (tagged.mycog.buffer b).tag, tag.1 = tagged.half) ∧
    (tagged.mycog.buffer (tagged.mycog.phys false)).tag = some (tagged.half, .bf16) ∧ modePairs .bf16 .bf16 = true ∧
    okWith (base.actRow .bf16 true 0x10000) (fun _ => true) ∧ (127 : Nat) + 1 ≤ 128 ∧ 128 < (124 : Nat) + 5 ∧
    (taggedOther.mycog.buffer false).tag = some (!taggedOther.half, .bf16) ∧
    (∀ f ∈ [EType.bf16, .int8, .mxfp4, .fp8e4, .fp8e5], (base.mycog.buffer (base.mycog.phys false)).tag ≠ some (base.half, f)) ∧
    (∀ k ∈ [AKind.load, .store], checkAddr base.me.hmode k 0x100 512 64 = .ok () ∧
      okWith (base.xlate base.ctx k 0x100 512) fun _ => true) := by decide +kernel

/-- Sources in this package, and one in host memory that is asked for (MatrixRows). -/
theorem witness_host_rows :
    okWith (base.tileSegs .bf16 0x20000 0) (fun gs => gs.all fun g => !g.host) ∧
    (let e : MEntry := { MEntry.blank base (.tld 0 0 3 2) with segs := [⟨0, true, 0, 8, .strong, .plain⟩], addrs := [0x100] }
     okWith (base.hostReads e) (fun _ => false) = false ∧ okWith (base.hostReads (MEntry.blank base .mwswap)) fun l => l = []) := by
  decide +kernel

/-- The queue of cog 0 holds an entry of each kind that may start, and one whose buffer is not full; an MWLOAD has come
to its end (MUnitWorks). -/
theorem witness_munit :
    let e (i : Instr) : MEntry := { MEntry.blank base i with ticket := 1, fetching := true }
    let q (i : Instr) : State := base.modCog 0 fun c => { c with mq := [e i] }
    (∀ i ∈ [Instr.tzero 0 none, .tzero 0 (some 3), .twr 0 .row 5 1, .trd 4 0 .row 5, .tadd 0 1 .rne, .tmov 0 1 true,
        .tmov 0 1 false, .tscale 0 .rne (.v 1), .tscale 0 .rne (.k 2), .tld 0 0 3 2, .tst 0 0 3 2,
        .tcst 0 0 3 2 .bf16 .rne none, .mchk 6 .buf, .mchk 6 (.lo 0), .mchk 6 (.hi 0), .mwswap, .rsvInit 0 7 4 5 6,
        .rsvFeed 0 7 1, .rsvFeed2 0 7 1 2, .rsvDraw 9 0 7, .mwload .bf16 false false 16 0],
      ((q i).cog 0).mq = [e i] ∧ (q i).mayStart 0 (e i) = true) ∧
    (q (.mmul 0 0 0 2 .bf16 false none false)).mayStart 0 (e (.mmul 0 0 0 2 .bf16 false none false)) = false ∧
    (let m := e (.mmul 0 0 0 2 .bf16 false none false)
     ((q m.instr).modCog 0 fun c => c.setBuffer false fun w => { w with state := .full }).mayStart 0 m = true) ∧
    (base.cog 0).mq = [] ∧
    [(e (.mwload .bf16 false false 16 0), 9)].find? (fun x => x.1.buf = false && x.2 ≤ base.clk && !(base.cog 0).failed) =
      some (e (.mwload .bf16 false false 16 0), 9) := by decide +kernel
/-- Finite products and infinities; a check vector's values, and a row with a NaN and without (MUnitWorks). -/
theorem witness_products :
    (some (.num false 3 2) : Option FVal) = finite (false, 3, 2) ∧ (some (.inf true) : Option FVal) ≠ some (.nan false) ∧
    none ∉ [(some (.inf true) : Option FVal), finite (false, 3, 2)] ∧ (some (.inf !true) : Option FVal) ∉ [some (.inf true)] ∧
    (FVal.num false 3 2).logb = 3 ∧ elemVal .fp8e4 0x7F = .nan false ∧ elemVal .fp8e4 0x38 = .num false 8 (-3) ∧
    (0x8000000000000000 : Word) ∉ [(65536 : Word)] ∧ decodeF .fp32 0xBF800000 = .num true 8388608 (-23) := by decide +kernel
/-- The group of two products 2 * 3 and -1 * 1 is 5; a row of fp8 weights 1 and -2 has the check entry -1 in units of 2^-16;
with activations 3 and 4 its group sums 3 and -8 match the entries 1 and -2, and no others (R70, R74, R75). -/
theorem test_groups : groupSum false [some (.num false 6 0), some (.num true 1 0)] = some (.num false 5 0) ∧
    checkOf .fp8e4 [0x38, 0xC0] = -65536 ∧
    mismatch [.num false 3 0, .num false 4 0] [65536, 0xFFFFFFFFFFFE0000] [some (.num false 3 0), some (.num true 8 0)] = false ∧
    mismatch [.num false 3 0, .num false 4 0] [65536, 0xFFFFFFFFFFFF0000] [some (.num false 3 0), some (.num true 8 0)] = true := by
  decide +kernel
/-- The two chunks of R319's table, and its alternative (R316). -/
theorem test_reservoir :
    let one : Nat := 2 ^ 149
    let a := weigh (rsvInit 0 0 0) 0 1 0 ([one, 2 * one, one / 2, one / 2] ++ List.replicate 124 0) 0x80000000 0x40000000
    let b (ur : Nat) := weigh a.1 0 1 1 ([0, 0, 0, 0, 0, 4 * one] ++ List.replicate 122 0) 0x80000000 ur
    col a.1 0 = 1 ∧ col a.1 1 = 0x40800000 ∧ col (b 0xA0000000).1 0 = 1 ∧ col (b 0xA0000000).1 1 = 0x41000000 ∧
    col (b 0x60000000).1 0 = 133 := by decide +kernel
/-- KSET takes the low 32 bits; TZERO is queued (R290, R305). -/
theorem test_matrix : gives (exec (.kset (.one 3 4)) base) (fun t => t.me.inflight.getLast?.map (·.res) = some [.k 3 0x40]) ∧
    gives (exec (.tzero 2 none) base) (fun t => (t.cog 0).mq.map (·.instr) = [.tzero 2 none]) := by decide +kernel

/-! ## Memory -/

/-- An access is granted, its bytes are not poisoned, and nothing makes it wait. -/
def clear (k : AKind) (glob : Bool) (a : Word) (n : Nat) : Bool :=
  checkAddr base.me.hmode k a n n = .ok () && pathFits glob a && okWith (base.xlate base.ctx k a n) fun gs =>
    okWith (if k = .load then base.xlateLoad k a n else base.xlate base.ctx k a n) (fun hs => hs = gs) &&
    base.after { kind := .load, addr := a } gs = [] && gs.all base.here

/-- An acquire of the bank on its way. -/
def acquiring : State := after (exec (.ldg (.s 20) 5 0 .b64 false .acq .package) base)
/-- A place of package 5, whose poison has been asked for, and has come back clean. -/
def far8 : Seg := ⟨5, false, physAddr 0 true 0, 8, .unordered, .plain⟩
def probing : State :=
  { base with banks := base.banks.set 0 { base.me with pre := [⟨7, .probe [far8], true, false, false, false, []⟩] } }

/-- Loads and stores of every size on each path that a form may take: near, stacked, another cog's, global; a load behind an
acquire; a place of another package, before and after its probe (Loads, Stores). -/
theorem witness_memory :
    (∀ n ∈ [Size.b8, .b16, .b32, .b64, .b128], ∀ k ∈ [AKind.load, .store],
      clear k false 0x100 (sizeBytes n) = true ∧ clear k false 0x1000000000000040 (sizeBytes n) = true ∧
      clear k false 0x2008000000000100 (sizeBytes n) = true ∧ clear k true 0x3000000000000040 (sizeBytes n) = true) ∧
    base.rdS 3 = .ok 0x100 ∧ base.rdA (.s 20) = .ok 0 ∧ base.rdA (.s 21) = .ok 0 ∧
    acquiring.after { kind := .load, addr := 0x100 } [⟨0, false, 0x100, 8, .unordered, .plain⟩] ≠ [] ∧
    base.here far8 = false ∧ far8.host = false ∧
    base.me.pre.find? (fun a => a.op = .probe [far8] && a.done) = none ∧ (∀ x ∈ base.me.pre, x.op ≠ .probe [far8]) ∧
    (probing.me.pre.find? (fun a => a.op = .probe [far8] && a.done)).map (·.psn) = some false := by decide +kernel
/-- Atomics of both sizes at a plain page; a fence with nothing of its kind outstanding, and with a store (Atomics). -/
theorem witness_atomics :
    (∀ op ∈ [AtomicOp.add, .cas, .fadd], ∀ n ∈ [4, 8], okWith (base.access base.ctx (.atomic op) 0x3000000000000040 n n)
      (fun gs => !gs.isEmpty && base.checkPoison 0x3000000000000040 gs = .ok ()) = true) ∧
    base.fenceOpen .ss .package = true ∧ base.accesses = [] ∧ base.copies = [] ∧ base.mycog.mq = [] ∧
    { after (exec (.st (.s 1) 3 0 .b32 .plain .bank) base) with ownFrom := 1 }.fenceOpen .ss .package = false ∧
    (let s : State := { after (exec (.st (.s 1) 3 0 .b32 .plain .bank) base) with ownFrom := 1 }
     s.accesses.length = 1 ∧ ∀ x ∈ s.accesses, x.bank = s.cur ∧ x.owner = .bank ∧ x.kind = .store ∧ pathOf x.addr ≤ 1 ∧
       x.id < s.ownFrom) := by decide +kernel
/-- A part of 4 and of 8 bytes in plain memory, and one at the device registers (MemoryTurns). -/
theorem witness_turns : Memory.wf base.mem = true ∧ base.ecc = [] ∧
    (∀ n ∈ [4, 8], let g : Seg := ⟨0, false, devBase - n, n, .unordered, .plain⟩
      g.addr + g.len ≤ devBase ∧ poisoned base g.addr g.len = false) := by decide +kernel
/-- A near load gives what memory holds, least significant byte first, sign-extended; a store writes nothing yet (R105, R214,
R226). -/
theorem test_memory : let s := base.store 0x100 [0x01, 0x80] false
    lastS (after (exec (.ld (.s 20) 3 0 .b16 true .plain .bank) s)) = some 0xFFFFFFFFFFFF8001 ∧
    lastS (after (exec (.ld (.s 20) 3 0 .b16 false .plain .bank) s)) = some 0x8001 ∧
    gives (exec (.st (.s 1) 3 0 .b64 .plain .bank) s) (fun t => t.mem = s.mem ∧ t.accesses.length = 1) := by decide +kernel
/-- A misaligned load and an address error trap (R104). -/
theorem test_memory_traps : gives (exec (.ld (.s 20) 7 0 .b64 false .plain .bank) base)
      (fun t => t.stop = some (.trap { cause := 0x15, val := 0x103 })) ∧
    gives (exec (.ld (.s 20) 11 0 .b64 false .plain .bank) base)
      (fun t => t.stop = some (.trap { cause := 0x14, val := 0x0FFFFFFFFFFFFFC0 })) := by decide +kernel
/-- The atomics at their memory: an add in place, and the signed minimum of 4 bytes (R229). -/
theorem test_atomic : let s := base.store 0x100 [0xFF, 0xFF, 0xFF, 0xFF] false
    let g : Seg := ⟨0, false, 0x100, 4, .unordered, .plain⟩
    memBytes (s.serve 0 none 0 (.atomic g .add 2 0)).2.mem 0x100 5 = [1, 0, 0, 0, 0] ∧
    memBytes (s.serve 0 none 0 (.atomic g (.min false) 7 0)).2.mem 0x100 4 = [0xFF, 0xFF, 0xFF, 0xFF] := by decide +kernel

/-! ## Groupsets, iterators, copies, rings -/

/-- The package with an image, in which name 7 has its home here. -/
def homed : State := { base with image := some image0 }
/-- A handle of the bank's open epoch whose package list says that it aborts. -/
def aborting7 : State := { base with wlists := [⟨0, 7, 5, [], true⟩] }

/-- The registers of a groupset instruction; names without a home and with one; handles invalid, open, of another name, and
of a snapshot; counts at both ends; the snapshot load and STG_GS at a groupset page, with the epoch aborting and not
(GroupsetsIssue). -/
theorem witness_groupsets :
    base.rdS 8 = .ok 7 ∧ base.rdS 9 = .ok 2 ∧ 0 < (1 : Word).toNat ∧ (4095 : Word).toNat ≤ 4095 ∧
    base.homeOf 7 = none ∧ homed.homeOf 7 = some 0 ∧ base.rdH 2 = .ok 0 ∧ (handleOf 0).v = false ∧ (handleOf 0).epoch = 0 ∧
    base.rdH 0 = .ok (handleBits open7) ∧ handleOf (handleBits open7) = open7 ∧ open7.v = true ∧ open7.snap = false ∧
    open7.asid = base.me.asidcur ∧ open7.name = 7 ∧ open7.epoch ≠ 0 ∧ (handleOf (handleBits open7)).name ≠ 8 ∧
    base.rdH 1 = .ok (handleBits { open7 with snap := true }) ∧ (handleOf (handleBits { open7 with snap := true })).snap = true ∧
    checkAddr base.me.hmode .gsLoad 0x3000000000010000 8 8 = .ok () ∧ pathOf 0x3000000000010000 = 3 ∧
    okWith (base.xlate base.ctx .gsLoad 0x3000000000010000 8) (fun _ => true) ∧
    okWith (base.storeData (.s 1) .b64) (fun _ => true) ∧ base.listed < 1048575 ∧
    okWith (base.access base.ctx .gsStore 0x3000000000010000 8 8) (fun gs => gs ≠ [] ∧ base.listRoom 0 open7 0x3000000000000000 gs = .ok ()) ∧
    (let p : PreAns := ⟨7, .gsLoad [far8] open7, true, false, false, false, []⟩
     [p].find? (fun e => e.op = .gsLoad [far8] open7 && e.done) = some p ∧ p.psn = false) ∧
    base.gsAborting open7 = false ∧ aborting7.gsAborting open7 = true := by decide +kernel
/-- Another epoch's list is full, and a store would list one more line (GroupsetsIssue). -/
def listing (n : Nat) : State := { base with wlists := [⟨0, 8, 3, List.replicate n 0, false⟩] }
/-- The lines of that list are counted. -/
theorem listed_listing (n : Nat) : (listing n).listed = n := by simp [listing, State.listed]
/-- As full as R140 allows. -/
def full7 : State := listing 1048575
/-- The place of such a store. -/
def gsLine7 : Seg := ⟨0, false, physAddr 0 true 0x10000, 8, .strong, .groupset⟩
/-- The store does not fit, none is on its way, and its line would be a new version (GroupsetsIssue). -/
theorem witness_full_list : full7.listFits open7 [gsLine7] = false ∧ full7.flying = [] ∧ full7.here gsLine7 = true ∧
    ((full7.serve 0 none 0 (.gsProbe gsLine7 open7)).1.data).contains 1 = true ∧
    1048575 < full7.listed + ((full7.serve 0 none 0 (.gsProbe gsLine7 open7)).1.data).count 1 := by
  have h : full7.listed = 1048575 := listed_listing 1048575
  have n : (full7.unlisted open7 [gsLine7]).length = 1 := by decide +kernel
  have f : full7.flying = [] := by decide +kernel
  have c : ((full7.serve 0 none 0 (.gsProbe gsLine7 open7)).1.data).count 1 = 1 := by decide +kernel
  exact ⟨by simp [State.listFits, n, h, f], f, by decide +kernel, by decide +kernel, by omega⟩
/-- Counts of GS_OPEN that fault, an unset handle, and a store to a page that is no groupset (GroupsetsIssue). -/
theorem witness_groupset_stops : (0 : Word).toNat = 0 ∧ 4095 < (4096 : Word).toNat ∧ (handleOf 0).v = false ∧
    (handleOf (handleBits open7)).snap = false ∧ (handleOf (handleBits { open7 with asid := 3 })).asid ≠ base.me.asidcur ∧
    okWith (base.access base.ctx .gsStore 0x3000000000000040 8 8) (fun _ => true) = false ∧
    okWith (base.access base.ctx .gsStore 0x103 8 8) (fun _ => true) = false := by decide +kernel
/-- GS_ABORT clears the handle's V at issue; GS_SEAL of a spent handle is the groupset fault (R232, R236). -/
theorem test_groupsets : gives (exec (.gsAbort 20 0) base) (fun t =>
      t.me.inflight.map (·.res) = [[.h 0 (handleBits { open7 with v := false })]]) ∧
    gives (exec (.gsSeal 20 2) base) (fun t => t.stop = some (.trap { cause := 0x1B, val := 2 })) := by decide +kernel

/-- An iterator of 3 by 5 elements at its last position. -/
def iter35 : Iter :=
  { base := 0x100, ndim := 1, count := #v[3, 5, 1, 1], stride := #v[2, 0xFFFFFFFE, 0, 0], idx := #v[2, 4, 0, 0] }
/-- Counts of zero and above; a shape whose every count is at least one, and its last position; a record that a load can
reach, well formed and zero (Iterators). -/
theorem witness_iterators : base.rdS 4 = .ok 0x1000000000000040 ∧ (0x1000000000000040 : Word).toNat % 2 ^ 32 ≠ 0 ∧
    (0x1000000000000000 : Word).toNat % 2 ^ 32 = 0 ∧ base.rdG 0 = .ok Iter.reset ∧
    (∀ d : Fin 4, 0 < iter35.count[d].toNat) ∧ 14 < iter35.total ∧ (∀ d : Fin 4, iter35.idx[d].toNat < iter35.count[d].toNat) ∧
    iter35.linear = 14 ∧ checkAddr base.me.hmode .load 0x100 64 64 = .ok () ∧
    okWith (base.xlateLoad .load 0x100 64) (fun gs => base.after { kind := .load, addr := 0x100 } gs = [] ∧
      acquiring.after { kind := .load, addr := 0x100 } gs ≠ [] ∧
      iterOf (base.serve 0 (some base.cur.num) 0x100 (.load gs)).1.data = none) ∧
    okWith (base.xlate base.ctx .load 0x100 64) (fun gs =>
      let s := [16, 20, 24, 28].foldl (fun (s : State) a => s.store (0x100 + a) [1] false) base
      (iterOf (s.serve 0 (some s.cur.num) 0x100 (.load gs)).1.data).isSome) := by decide +kernel
/-- The address of position (2, 4) is 0x100 + 4 - 8; two steps on wrap to position 1 (R240, R241). -/
theorem test_iterator : let s := base.modMe fun b => { b with g := b.g.set 2 iter35 }
    lastS (after (exec (.itrd 20 2 .addr) s)) = some 0xFC ∧ lastS (after (exec (.itrd 20 2 .lin) s)) = some 14 ∧
    lastP (after (exec (.itadv 2 9 3) s)) = some true ∧ (iter35.advance 2).1.linear = 1 := by decide +kernel

/-- Operands of each copy that pass its checks, with fewer than 16 incomplete ones; the stops in their order, each reached by
one operand (Copies, CopyStops). -/
theorem witness_copies :
    base.rdS 3 = .ok 0x100 ∧ base.rdS 1 = .ok 256 ∧ base.rdS 10 = .ok 64 ∧ (base.copies.filter (·.bank = base.cur)).length < 16 ∧
    (let ss (b : Word) (n : Nat) : Word × Option Nat × Bool × Nat := (b, some n, kindPath .copySrc (pathOf b), copyAlign n)
     let dd (k : AKind) (a : Word) (n : Nat) : Word × Option Nat × Bool × Nat := (a, some n, kindPath k (pathOf a), copyAlign n)
     copyChecks false [ss 0x400 64, dd .copyDst 0x100 64] none (lenTrap 64) = .ok () ∧
     copyChecks false [ss 0x400 64, dd .copyGs 0x3000000000010000 64] none (lenTrap 64) = .ok () ∧
     copyChecks false [(0x100, some (2 * 32), kindPath .copyDst 0, copyAlign 32), (0x400, none, kindPath .copySrc 0, copyAlign 32),
       (0x800, some 8, true, 64)] none none = .ok () ∧
     copyChecks false [(0x100, some (2 * 32), kindPath .copySrc 0, copyAlign 32), (0x400, none, kindPath .copyDst 0, copyAlign 32),
       (0x800, some 8, true, 64)] none none = .ok () ∧
     copyChecks false [ss 0x400 64, (0x2008000000000100, some 64, true, copyAlign 64), (0x800, some 2, true, 64)] none (lenTrap 64) =
       .ok ()) ∧
    inHandler.me.hmode = true ∧ (inHandler.modMe fun b => { b with tcause := 3 }).me.tcause.toNat % 256 = 3 ∧
    addrError false 0x0FFFFFFFFFFFFFC0 64 = true ∧ addrError false 0x100 64 = false ∧ (0x103 : Word).toNat % copyAlign 64 ≠ 0 ∧
    (0x100 : Word).toNat % copyAlign 64 = 0 ∧ kindPath .copySrc (pathOf 0x7000000000000000) = false ∧
    kindPath .copyDst (pathOf 0x5000000000000000) = false ∧ kindPath .copySrc (pathOf 0x100) = true ∧ (33 : Nat) % 32 ≠ 0 ∧
    16777216 < (16777248 : Nat) ∧
    16 ≤ (List.replicate 16 (after (exec (.cpy 12 3 1 10) base)).copies).flatten.length := by decide +kernel
/-- A copy of 64 bytes is accepted with a promise; a length of 5 is the operand trap (R245, R246). -/
theorem test_copy : gives (exec (.cpy 20 3 1 10) base) (fun t => t.copies.length = 1 ∧ t.stop = none) ∧
    gives (exec (.cpy 20 3 1 2) base) (fun t => t.stop = some (.trap { cause := 0x1D, val := 5 })) := by decide +kernel

/-- A bound port and an unbound one; slots at the last index allowed and one past it; a put with its count reached and not,
and lengths at the capacity, above it and no multiple of 32 (Rings). -/
theorem witness_rings :
    base.rdS 0 = .ok 0 ∧ base.me.ports[portIx (.i 0)].peer ≠ .none ∧ base.me.ports[portIx (.o 0)].peer ≠ .none ∧
    base.me.ports[portIx (.i 7)].peer = .none ∧ base.me.ports[portIx (.i 0)].rate = 2 ∧ (1 : Nat) < 2 ∧ (2 : Nat) ≤ 2 ∧
    checkAddr base.me.hmode .ringPeek 0x1000 8 8 = .ok () ∧
    okWith (base.xlateLoad .ringPeek 0x1000 8) (fun gs => base.after { kind := .load, addr := 0x1000 } gs = []) ∧
    portOut.puts < portOut.rate ∧ portOut.rate ≤ 1 ∧ portOut.capacity = 32 ∧ portOut.capacity < 64 ∧ (5 : Nat) % 32 ≠ 0 ∧
    okWith (base.access base.ctx .ringPut (portOut.slotAddr 0) 32 32) (fun gs => gs ≠ []) ∧ base.copies = [] := by
  decide +kernel
/-- RING_ADDR gives the payload of slot 1 at 0x1000 + 64 + 32; RING_AVAIL the snapshot; a put counts at once (R217 to
R222). -/
theorem test_ring : lastS (after (exec (.ringAddr 20 (.i 0) 0 1 false) base)) = some 0x1060 ∧
    lastS (after (exec (.ringAvail 20 (.i 0)) base)) = some 2 ∧
    gives (exec (.ringPut (.o 0) 0 32 false) base) (fun t => t.me.ports[portIx (.o 0)].puts = 1 ∧ t.me.puts.length = 1) ∧
    gives (exec (.ringAddr 20 (.i 0) 0 2 false) base) (fun t => t.stop = some (.trap { cause := 0x20, val := 0 })) := by
  decide +kernel

/-! ## Vector memory -/

/-- All elements active and none; runs that pass their checks on paths 0, 1 and 3 (VectorMemory). -/
theorem witness_vector_memory :
    okWith (base.vaddr (.s 3)) (fun x => x.1 = 0x100) ∧ okWith (base.vaddr (.it 0 true)) (fun _ => true) ∧
    runsOf 512 (byteOn (some 0) 32) = [] ∧ runsOf 512 (byteOn (some 5) 32) = [(0, 4), (8, 4)] ∧
    runsOf 256 (laneByteOn (some 0) 16) = [] ∧ runsOf 256 (laneByteOn (some 5) 16) = [(0, 2), (4, 2)] := by decide +kernel
/-- The runs of two active lanes of 32 bits pass their checks at an address. -/
def clearRuns (k : AKind) (a : Word) : Bool :=
  base.runCheck k a [(0, 4), (8, 4)] = .ok () &&
    okWith (base.runSegs k a [(0, 4), (8, 4)] (if k = .load then base.checkParts else fun _ => .ok ())) fun gp =>
      base.after { kind := .load, addr := a } (gp.map Prod.fst) = []
/-- Such runs on paths 0, 1 and 3, loaded and stored (VectorMemory). -/
theorem witness_runs :
    clearRuns .load 0x100 = true ∧ clearRuns .load 0x1000000000000040 = true ∧ clearRuns .load 0x3000000000000040 = true ∧
    clearRuns .store 0x100 = true ∧ clearRuns .store 0x1000000000000040 = true ∧ clearRuns .store 0x3000000000000040 = true := by
  decide +kernel
/-- A bf16 window and int8 segments with their scales (VectorMemory). -/
theorem witness_converting :
    base.runCheck (.fmt .bf16 .plain) 0x10000 [(0, 256)] = .ok () ∧
    okWith (base.runSegs (.fmt .bf16 .plain) 0x10000 [(0, 256)] base.checkParts fun o => (scaleAt .plain 16 o).isSome)
      (fun _ => true) ∧
    base.runCheck (.fmt .int8 .segments) 0x40000 [(0, 128)] = .ok () ∧
    okWith (base.runSegs (.fmt .int8 .segments) 0x40000 [(0, 128)] base.checkParts fun o => (scaleAt .segments 8 o).isSome)
      (fun gp => granOff 0x40000 gp = 0) ∧
    (match scaleAt .segments 8 0 with
     | some sc => okWith (base.scaleSegs (.fmt .int8 .segments) .segments none 0x40000 0 sc) fun _ => true
     | none => false) = true := by decide +kernel
/-- Gathers and scatters with no active element, and with two that pass their checks, near with nothing before them and on
path 3; the scatter's elements, which share their bytes (GatherScatter). -/
theorem witness_gather : base.rdS 3 = .ok 0x100 ∧ base.rdV 3 = .ok 0 ∧ elemAddrs (some 0) 32 0x100 0 = [] ∧
    elemAddrs (some 5) 32 0x100 0 = [(0, 0x100), (2, 0x100)] ∧
    okWith (base.elemSeg .load 5 0x100 4) (fun gs => base.after { kind := .load, addr := 0x100, gather := true } gs = []) ∧
    base.ecc = [] ∧
    elemAddrs (some 5) 32 0x3000000000000040 0 = [(0, 0x3000000000000040), (2, 0x3000000000000040)] ∧
    okWith (base.elemSeg .load 5 0x3000000000000040 4) (fun gs => gs.all base.here ∧
      okWith (base.gatherOps [] [(0x3000000000000040, gs)]) fun x => x.1.1 = [.load gs]) ∧
    okWith (base.elemSeg .store 4 0x100 4) (fun gs => gs.all (fun g => !g.host && segOverlaps g g)) := by
  decide +kernel
/-- VLD.F32 of two active lanes reads the second one's bytes 8 to 11 (R285). -/
theorem test_vld : let s := base.store 0x100 [1, 0, 0, 0, 2, 0, 0, 0, 3] false
    (lastV (after (exec (.vld .fp32 none 4 (.s 3) (some 1)) s)) 32 2).map (·.1) = some 3 ∧
    (lastV (after (exec (.vld .fp32 none 4 (.s 3) (some 1)) s)) 32 1).map (·.1) = some 0 := by decide +kernel

/-! ## System registers -/

/-- Registers of class Y, a handler, and a window record that a load can reach (SystemRegisters); the numbers of the clauses
on CSR writes are all different (CsrWrites). -/
theorem witness_system : inHandler.rdS 3 = .ok 0x100 ∧ inHandler.rdS 2 = .ok 5 ∧ inHandler.me.hmode = true ∧
    checkAddr true .load 0x100 32 32 = .ok () ∧ pathOf 0x100 ≤ 2 ∧
    okWith (inHandler.xlateLoad .load 0x100 32) (fun gs => inHandler.after { kind := .load, addr := 0x100 } gs = []) ∧
    base.tlbFind 0 0 0xFFFF = some plainLeaf ∧ base.tlbFind 0 0 0x20000 = none ∧ base.tlbFind 0 1 0 = none ∧
    ([0x02, 0x10, 0x11, 0x12, 0x13, 0x14, 0x15, 0x20, 0x21, 0x30, 0x35, 0x36, 0x00, 0x03, 0x04, 0x31, 0x32, 0x33, 0x34] :
      List (BitVec 16)).Nodup := by decide +kernel
/-- CSR_RD of ASIDCUR after a write of 0x12345 (R166); TLB_PROBE of a page not held (R255). -/
theorem test_csr : let s := base.modMe fun b => b.writeRes (.csr 0x20 0x12345)
    lastS (after (exec (.csrRd 20 0x20) s)) = some 0x345 ∧
    lastS (after (exec (.tlbProbe 20 12 2) base)) = some 0 := by decide +kernel

/-! ## Time, firing, core, commit, waiting traps -/

/-- A bank with a stage that is idle between iterations and has its packets. -/
def idle0 : State := (base.modMe fun b => { b with live := false, mode := .idle, ports := b.ports.set 8 { portOut with peer := .none } }).modCog 0 fun c => { c with holder := none }
/-- A bank that fires in an even core cycle. -/
def firing0 : State := { idle0 with time := 8 }
/-- A bank whose iteration has come to its end, in an odd core cycle. -/
def ending0 : State := base.modMe fun b => { b with mode := .ending, ports := b.ports.set 8 { portOut with puts := 1 } }
/-- A bank that waits for the core, and the cog's other bank too. -/
def waiting0 : State := (base.modMe fun b => { b with mode := .ready }).modCog 0 fun c => { c with holder := none }
def waiting2 : State := (waiting0.modBank 1 fun b => { b with mode := .ready }).modCog 0 fun c => { c with passed := some false }

/-- A powered package and one without rails; a bank that fires, and one of each that does not; a free core with one bank
ready and with both; a commit at an odd cycle, an even one, and a bank not at its end (TimeAndFiring). -/
theorem witness_time :
    base.powered = true ∧ { base with hub := { base.hub with railsOn := false } }.powered = false ∧
    (firing0.bank 0).active = true ∧ (firing0.bank 0).freewheel = false ∧ (firing0.bank 0).mode = .idle ∧
    (firing0.bank 0).live = false ∧ (firing0.bank 0).settled = true ∧
    (∀ i : Fin 16, (firing0.bank 0).ports[i].peer = .none ∨ (firing0.bank 0).ports[i].rate ≤ (firing0.bank 0).ports[i].snap) ∧
    (firing0.cog (0 : BankIx).cog).failed = false ∧ firing0.time.toNat % 2 = 0 ∧
    (base.bank 1).active = false ∧ (base.bank 0).live = true ∧ (base.bank 0).mode ≠ .idle ∧
    (waiting0.cog 0).holder = none ∧ (waiting0.cog 0).failed = false ∧
    (waiting0.bank ((0 : CogIx).bank false)).isReady waiting0.time = true ∧
    (waiting0.bank ((0 : CogIx).bank !false)).isReady waiting0.time = false ∧
    (waiting2.cog 0).passed = some false ∧ (waiting2.bank ((0 : CogIx).bank false)).isReady waiting2.time = true ∧
    (firing0.bank 0).rerun = false ∧ (waiting0.cog 0).lastHolder ≠ some true ∧
    ending0.commitReady 0 = true ∧ ending0.time.toNat % 2 = 1 ∧ (ending0.cog 0).heldFrom ≤ ending0.clk ∧
    (ending0.cog 0).failed = false ∧ (ending0.bank 0).mode = .ending ∧
    ((ending0.modMe fun b => { b with mode := .ended }).bank 0).mode = .ended ∧
    { ending0 with time := 8 }.time.toNat % 2 = 0 ∧ (∀ i : Fin 16, (ending0.bank 0).ports[i].discard = 0) := by decide +kernel

/-- A bank past its budget and one at it; a trap that waits, in a drained bank and in one with an access in progress; a
handler in its last cycle and one past it (WaitingTraps). -/
theorem witness_waiting :
    (let s := base.modMe fun b => { b with budcnt := 1 }
     (s.bank 0).live = true ∧ (s.bank 0).stage.budget < (s.bank 0).budcnt ∧ (s.bank 0).budgetDone = false) ∧
    (base.bank 0).budcnt ≤ (base.bank 0).stage.budget ∧
    (let s := base.modMe fun b => { b with mode := .trapping { cause := 0x15 } 0 }
     (s.bank 0).mode = .trapping { cause := 0x15 } 0 ∧ s.draining 0 = false ∧
     (after (exec (.ldg (.s 20) 5 0 .b64 false .plain .bank) s)).draining 0 = true) ∧
    (let s := base.modMe fun b => { b with handlerAt := some 0 }
     (s.bank 0).handlerAt = some 0 ∧ { s with clk := 65535 }.clk < 65536 ∧ 65536 ≤ { s with clk := 65536 }.clk) := by
  decide +kernel

/-! ## The hub and memory -/

/-- A bank that waits for the hub. -/
def held0 : State := (base.modMe fun b => { b with mode := .waitHub 0x30 7 2 }).modCog 0 fun c => { c with holder := none }
/-- Page tables in stacked memory of cog 0, granules 8 to 11, whose leaf of ASID 0 and granule 0 is a read duplicate. -/
def mapped (leaf : Word) : State :=
  let w (g : Nat) : Word := BitVec.ofNat 64 (2 ^ 42 + g * 2 ^ 33)
  let e (s : State) (g : Nat) (w0 w1 : Word) : State := s.store (physAddr 0 true (g * 65536)) (bytesOf 8 w0.toNat ++ bytesOf 8 w1.toNat) false
  let s := e (e (e { base with ptroot := w 8 ||| 1 } 8 (w 9) 1) 9 (w 10) 1) 10 (w 11) 1
  e s 11 (w 12) leaf
def fault0 : CollapseReq := { src := 0, party := .bank 0, asid := 0, goff := 0 }
def collapsing (opened : Bool) (leaf : Word) : State :=
  { mapped leaf with hub := { base.hub with collapses := [⟨fault0, opened, []⟩] } }
/-- Cog 0 asked to keep region 3, with and without a transition under way. -/
def entering3 : State := base.modCog 0 fun c => { c with retreq := 8, regions := c.regions.set 3 .entering }
def exiting3 : State := base.modCog 0 fun c => { c with regions := c.regions.set 3 .exiting }
/-- A latent error of some bits in the first codeword of cog 0's stacked memory, whose line is 524288. -/
def flawed (bits : Nat) : State := { base with ecc := [⟨524288 * 64, bits⟩] }

/-- A held bank; a collapse before and after its entries are closed; regions idle, entering and exiting with the request on
either side; an error of each kind in an active region and in a retained one; a page that the host can reach, one it cannot,
one whose region is becoming active and one whose region is retained (HubAtMemory). -/
theorem witness_hub :
    (held0.bank 0).mode = .waitHub 0x30 7 2 ∧ held0.holds 0 = false ∧
    (collapsing false 0x4013).hub.collapses = [⟨fault0, false, []⟩] ∧
    (collapsing false 0x4013).leafPlace 0 0 = some (3, physAddr 0 true (11 * 65536)) ∧
    ((collapsing false 0x4013).entry (physAddr 0 true (11 * 65536))).2.getLsbD 14 = true ∧
    ((collapsing false 0x4013).splitPage 0 0).isSome ∧
    (collapsing true 0x4012).leafPlace 0 0 = some (3, physAddr 0 true (11 * 65536)) ∧
    (collapsing true 0x4012).granuleBusy 0 0 = false ∧ Memory.wf (collapsing true 0x4012).mem = true ∧
    (∀ k : Fin 9, (base.cog 0).regions[k] ≠ .entering ∧ (base.cog 0).regions[k] ≠ .exiting) ∧
    (entering3.cog 0).regions[(3 : Fin 9)] = .entering ∧ (entering3.cog 0).retreq.getLsbD 3 = true ∧
    (∀ j : Fin 9, j ≠ 3 → (entering3.cog 0).regions[j] ≠ .entering ∧ (entering3.cog 0).regions[j] ≠ .exiting) ∧
    (entering3.cog 0).retEnd ≤ entering3.clk ∧ (exiting3.cog 0).regions[(3 : Fin 9)] = .exiting ∧
    (exiting3.cog 0).retreq.getLsbD 3 = false ∧
    (∀ n ∈ [1, 2], (flawed n).ecc.filter (·.meets (524288 * 64) 64) = [⟨524288 * 64, n⟩] ∧
      (flawed n).scrubbed 0 (524288 * 64) = true) ∧
    ((flawed 2).modCog 0 fun c => { c with regions := c.regions.set 0 .retained }).scrubbed 0 (524288 * 64) = false ∧
    (∀ n ∈ [4, 5], (flawed n).ecc.filter (fun y => inRegion 0 0 y.addr) = [⟨524288 * 64, n⟩]) ∧
    base.hostSegs .load 1 0 8 = .refused none ∧ base.hostSegs .store 1 0 8 = .refused none ∧
    (match (mapped 0x13).hostSegs .load 0 0 8, (mapped 0x13).hostSegs .store 0 0 8 with
     | .go _, .go _ => true
     | _, _ => false) = true ∧
    ((mapped 0x13).modCog 0 fun c => { c with regions := c.regions.map fun _ => .exiting }).hostSegs .load 0 0 8 = .wait ∧
    (match ((mapped 0x13).modCog 0 fun c => { c with regions := c.regions.map fun _ => .retained }).hostSegs .load 0 0 8 with
     | .retained _ => true
     | _ => false) = true := by decide +kernel

/-- A copy of the live iteration whose units have all moved, promised for cycle 12. -/
def copy0 : Copy :=
  { id := 3, bank := 0, iter := 1, kind := .plain, dst := 0x100, src := 0x400, len := 64, count := 0, tbl := 0, asid := 0,
    windows := base.me.windows, promise := 12, missed := false, after := [], index := some [], todo := [], waiting := [],
    nextAt := 0, held := false, failed := false, epc := 0 }
/-- Copies complete and not, of the live iteration and of another one, with the promise to come and reached (CopyEvents). -/
theorem witness_copy_events :
    let s (c : Copy) : State := { base with copies := [c] }
    let late : Copy := { copy0 with todo := [(0, 1)], promise := 9 }
    (∀ c ∈ [copy0, late, { copy0 with iter := 9 }], (s c).copies.find? (·.id = 3) = some c) ∧
    (s copy0).copies.filter (·.id = 3) = [copy0] ∧ copy0.done = true ∧ ((s copy0).bank copy0.bank).live = true ∧
    ((s copy0).bank copy0.bank).iter = copy0.iter ∧ ((s copy0).bank copy0.bank).iter ≠ 9 ∧
    (s copy0).time.toNat < copy0.promise.toNat ∧ late.promise.toNat ≤ (s late).time.toNat ∧ late.done = false ∧
    late.failed = false ∧ (({ s late with banks := base.banks.set 0 Bank.reset }).bank late.bank).live = false := by decide +kernel

/-! ## Groupset homes -/

/-- A record of name 7 with epoch 5 open for two parties. -/
def rec7 : SealRec := { SealRec.fresh 0 7 with open_ := some 5, next := 6, pcnt := 2, joined := [.bank 0 4] }
def withRec (r : SealRec) : State := { base with homes := [r] }
def msg7 (count : Nat) : GsMsg := { id := 3, party := .bank 0 9, asid := 0, name := 7, count := count, epoch := 5 }

/-- Every clause's record: none open at the last epoch and before it, open with the count equal and not, joined and not, full
and not, aborting (HomesAnswer). -/
theorem witness_homes :
    (withRec { rec7 with aborting := true }).sealRec 0 7 = { rec7 with aborting := true } ∧
    (base.sealRec 0 7).aborting = false ∧ (base.sealRec 0 7).open_ = none ∧ (base.sealRec 0 7).next ≠ 2 ^ 40 - 1 ∧
    (withRec { rec7 with open_ := none, next := 2 ^ 40 - 1 }).sealRec 0 7 = { rec7 with open_ := none, next := 2 ^ 40 - 1 } ∧
    (withRec rec7).sealRec 0 7 = rec7 ∧ rec7.aborting = false ∧ rec7.open_ = some 5 ∧ (msg7 2).count = rec7.pcnt ∧
    (msg7 1).count ≠ rec7.pcnt ∧ (msg7 2).party ∉ rec7.joined ∧ rec7.joined.length ≠ rec7.pcnt ∧
    (msg7 2).party ∈ ({ rec7 with joined := [(msg7 2).party] } : SealRec).joined ∧
    ({ rec7 with pcnt := 1 } : SealRec).joined.length = ({ rec7 with pcnt := 1 } : SealRec).pcnt ∧ 0 < (msg7 2).count ∧
    (msg7 2).epoch = 5 ∧ ({ rec7 with sealcnt := 1 } : SealRec).sealcnt + 1 = rec7.pcnt ∧ rec7.sealcnt + 1 ≠ rec7.pcnt ∧
    rec7.open_ ≠ some 4 ∧ (5 : Nat) < rec7.next ∧ rec7.next ≤ 5 + 1024 := by decide +kernel
/-- The same record with epoch 5 sealed. -/
def closed7 : SealRec := { rec7 with open_ := none, sealed := 5, history := [(5, false)] }
/-- Closed epochs and open ones; lines in flight; the answer of a request of a bank; reads and answers of other packages
(HomesAnswer). -/
theorem witness_answers :
    (msg7 2).epoch ≤ closed7.sealed ∧ closed7.history = [((msg7 2).epoch, false)] ∧
    ¬ ((msg7 2).epoch ≤ rec7.sealed) ∧ base.gsFlight 0 7 5 = false ∧
    (after (exec (.stgGs (.s 1) 6 0 .b64 0) base)).gsFlight 0 7 5 = true ∧
    ((after (exec (.gsOpen 20 2 8 9) homed)).gsreqs.map (·.kind)) = [0] ∧
    ((after (exec (.gsOpen 20 2 8 9) homed)).gsreqs.map (·.party)) = [.bank 0 0] ∧
    ((after (exec (.gsOpen 20 2 8 9) homed)).gsreqs.map (·.dst)) = [some (0, .s 20, some 2)] := by decide +kernel
/-- Eight bytes of this package's stacked memory. -/
def stacked8 : Seg := ⟨0, false, physAddr 0 true 0, 8, .unordered, .plain⟩
/-- They lie in an active region, or a retained one; and a load under way (HomesAnswer). -/
theorem witness_requests : base.here stacked8 = true ∧ base.retState stacked8.addr = .active ∧
    gopSegs (.load [stacked8]) = [stacked8] ∧
    (base.modCog 0 fun c => { c with regions := c.regions.set 0 .retained }).retState stacked8.addr ≠ .active ∧
    base.regionShut (.load [stacked8]) = none ∧
    (base.modCog 0 fun c => { c with regions := c.regions.set 0 .retained }).regionShut (.load [stacked8]) ≠ none ∧
    base.sealNeed [] (.load [stacked8]) = none ∧ base.inRing { stacked8 with addr := 0x1000 } = true ∧
    base.here far8 = false ∧ (∀ r ∈ base.gsreqs, r.id ≠ 3) ∧
    (let s := after (exec (.ldg (.s 20) 5 0 .b64 false .plain .bank) base)
     (s.accesses.map fun x => (x.todo.length, x.owner, x.dst, x.psn)) = [(1, .bank, .scalar (.s 20) 8 false, false)]) := by
  decide +kernel
/-- An open of a fresh name by two parties: it is open at the record's next epoch with one party joined (R138, R233). -/
theorem test_open : let t := after (exec (.gsHomeOpen (msg7 2)) base)
    (t.sealRec 0 7).open_ = some (base.sealRec 0 7).next ∧ (t.sealRec 0 7).joined = [.bank 0 9] := by decide +kernel

/-! ## Links and time -/

/-- Port 0's link 0 is up to package 1, of which this package is the time parent, or the child. -/
def linked (roots : List Nat) : State :=
  { base with
    topo := [(0, 1)], td := { base.td with roots := roots },
    ports := base.ports.set 0 { CPort.reset with
      neighbour := some 1, peer := some 0, links := CPort.reset.links.set 0 { Link.reset with up := true } } }
/-- The CRC of zeros is zero: the initial value is zero. -/
theorem crc64_zeros (n : Nat) : crc64 (List.replicate n 0) = 0 := by
  induction n with
  | zero => rfl
  | succ n ih =>
    have h : crcByte 64 0x42F0E1EBA9EA3693 0 0 = 0 := by decide +kernel
    rw [crc64, List.replicate_succ, List.foldl_cons, h]
    exact ih
/-- A block of zeros, SEQ 0 among them, and the same with a wrong CRC. -/
def block (crc : Byte) : List Byte := List.replicate 511 0 ++ [crc]
/-- The two blocks against the clauses of R369 (Links). -/
theorem witness_blocks : (block 0).length = 512 ∧ (block 1).length = 512 ∧
    crc64 (((block 0).drop 480).take 24 ++ (block 0).take 480) = natOf ((block 0).drop 504) ∧
    crc64 (((block 1).drop 480).take 24 ++ (block 1).take 480) ≠ natOf ((block 1).drop 504) ∧
    natOf ((((block 0).drop 480).take 24).take 2) = 0 := by
  have e (c : Byte) : ((block c).drop 480).take 24 ++ (block c).take 480 = List.replicate 504 0 := by
    have h : (block c) = List.replicate 480 0 ++ (List.replicate 24 0 ++ (List.replicate 7 0 ++ [c])) := by
      rw [block, ← List.append_assoc, ← List.append_assoc, List.replicate_append_replicate, List.replicate_append_replicate]
    rw [h, List.drop_left' List.length_replicate, List.take_left' List.length_replicate,
      List.take_left' List.length_replicate, List.replicate_append_replicate]
  have l (c : Byte) : (block c).length = 512 := by
    rw [block, List.length_append, List.length_replicate]; rfl
  refine ⟨l 0, l 1, ?_, ?_, ?_⟩
  · rw [e, crc64_zeros]; decide +kernel
  · rw [e, crc64_zeros]; decide +kernel
  · decide +kernel

/-- Links up and down, with others up or not, whose next SEQ is 0; a bound port, a packet for it, and a return that fits its
window, with a good and a bad CRC (Links). -/
theorem witness_links :
    (((linked [0]).ports[(0 : ChainPort)]).links[(0 : LinkIx)]).up = true ∧
    (((linked [0]).ports[(0 : ChainPort)]).links[(0 : LinkIx)]).txq = [] ∧
    (((linked [0]).ports[(0 : ChainPort)]).links[(1 : LinkIx)]).up = false ∧
    (((linked [0]).ports[(0 : ChainPort)]).links[(0 : LinkIx)]).rxSeq + 1 = 0 ∧ seqAfter 5 3 = true ∧
    ((base.bank 0).ports[(0 : Fin 16)]).discard = 0 ∧
    (let s := base.modMe fun b => { b with stage := { b.stage with id := 77 } }
     s.streamPlace 0 (77 * 2 ^ 32) = some (0, 0) ∧ (s.ringSeg 0 0).isSome ∧ Memory.wf s.mem = true) ∧
    (let w1 : Word := 9 * 2 ^ 32
     let c := crc16 (bytesOf 8 0 ++ bytesOf 8 w1.toNat)
     returnOk 0 (w1 + BitVec.ofNat 64 (c * 65536)) = true ∧ returnOk 0 (w1 + BitVec.ofNat 64 ((c + 1) % 65536 * 65536)) = false ∧
     let s := base.modMe fun b => { b with ports := b.ports.set 8 { portOut with peer := .stage 0 1 0 9, cum := 3, freed := 1 } }
     s.producerOf (wfld w1 32 32) (wfld (0 : Word) 0 4) = some (0, 8)) ∧
    (3 - 1 : BitVec 16).toNat < (4 - 1 : BitVec 16).toNat ∧ (3 - 1 : BitVec 16).toNat ≤ (3 - 1 : BitVec 16).toNat ∧
    (base.bank 0).active = true ∧ ((base.bank 0).ports[(0 : Fin 16)]).peer ≠ .none := by decide +kernel

/-- A child and a parent behind port 0; an exchange in progress; the grandmaster's root; holdover at its last cycle
(TimeDiscipline). -/
theorem witness_discipline :
    0 ∈ (linked [0]).childPorts ∧ ((linked [0]).ports[(0 : ChainPort)]).neighbour ≠ none ∧ (linked [1]).timePort = some 0 ∧
    (linked [0]).timePort ≠ some 0 ∧ (linked [0]).syncDue = true ∧
    (let s := after (exec (.timeExchange 0) (linked [0]))
     (s.ports[(0 : ChainPort)]).waiting.map (fun k => (k.kind, (wfld k.w0 31 12 : Nat), wfld k.w1 62 2,
       (k.flits 0 0).head?.isSome)) = [(6, 0, 0, true)]) ∧
    (let s : State := { linked [0] with td := { (linked [0]).td with syncs := [(0, 9)] } }
     s.td.syncs.find? (·.1 = 0) = some (0, 9)) ∧
    (let s := after (exec (.sync 0) (linked [1]))
     s.timePort = some 0 ∧ s.td.t2 = some 2304 ∧ s.td.t3 = none ∧
     (s.ports[(0 : ChainPort)]).waiting.map (fun k => (k.kind, wfld k.w1 62 2)) = [(6, 1)]) ∧
    (let s : State := { linked [1] with td := { (linked [1]).td with t2 := some 2304, t3 := some 2304 } }
     s.timePort = some 0 ∧ s.td.t2 = some 2304 ∧ s.td.t3 = some 2304) ∧
    base.td.root = false ∧ { base.td with root := true }.root = true ∧
    (let s := after (exec (.ptpMessage (.sync true 0)) { base with td := { base.td with root := true } })
     s.td.t2 = some 2304 ∧ s.td.t1 = none) ∧
    (let s := after (exec (.ptpMessage (.sync false 5)) { base with td := { base.td with root := true } })
     s.td.t1 = some 5 ∧ s.td.t2 = some 2304 ∧ s.td.t3 = some 2304) ∧
    (let s : State := { base with td := { base.td with state := .disciplined, lastExch := 9 }, clk := 33554441 }
     s.td.state = .disciplined ∧ s.td.lastExch + 33554432 ≤ s.clk) ∧
    base.td.state ≠ .disciplined := by decide +kernel
/-- A SYNC that left at 4 and arrived at 8, its request at 8 arrived at 10: the offset is (4 - 2) / 2 cycles (R383). -/
theorem test_exchange : let s : State := { linked [1] with td := { (linked [1]).td with t2 := some 2048, t3 := some 2048 } }
    (after (exec (.delresp 0 4 10) s)).td.theta = 256 := by decide +kernel

/-! ## The front door -/

/-- A configuration of two groups of four sequences without a cache, and a vocabulary of one-byte tokens. -/
def conf0 : FdConf := { model := 1, gsize := 4, ngroup := 2, dmax := 3, kvbase := 0, kvpcnt := 0, maxpos := 4, hist := 0x40000000000 }
def vocab0 : Vocab :=
  { tokens := (List.range 256).map fun n => ([BitVec.ofNat 8 n], false, false), merges := [], special := [], eos := [],
    classes := [], bytes := List.range 256 }
/-- A request of two bytes of prompt, REQID 9, one token to make. -/
def record0 : List Byte :=
  [1, 1, 0, 0, 0, 0, 0, 0] ++ bytesOf 8 9 ++ bytesOf 4 1 ++ bytesOf 4 1 ++ bytesOf 8 0 ++ bytesOf 4 2 ++
    List.replicate 316 0 ++ [0x61, 0x62]
def request0 : Request := requestOf 0 record0
def serving : State := { base with fd := { base.fd with conf := some conf0, vocab := some vocab0 } }
def seq0 : Sequence :=
  { req := request0, asid := 1, group := 0, part := 0, hist := [0x61, 0x62], fed := 1, hold := [], window := [], cut := false,
    offset := 0, count := 0, released := [], done := false, cancel := false, replay := false }
/-- A decode step of group 0 with one entry of D = 0, put, and one that is not. -/
def step0 : Step :=
  { index := 0, group := 0, prefill := false, asids := [1], counts := [0], start := List.replicate 96 0,
    names := [⟨0, 1, 0, 5, .opened, 0⟩], put := true, done := none }
def doneEdge : SeqEdge :=
  { bank := 0, pkg := 0, port := 0, stage := 0, done := true, depth := 4, cum := 0, freed := 0, slot := 0, packets := [],
    discard := 0, retDue := 0 }

/-- A record that passes, one too short, one of a kind that no code passes; a tokenized request with a free place, too long,
and a full queue; admission with and without a request; the places a cancel finds its request in; a group to inject for and
not; done packets that match and do not (FrontDoor). -/
theorem witness_front_door :
    serving.fd.requestCode record0 = none ∧ (record0.take 351).length < 352 ∧ base.fd.requestCode record0 = some 2 ∧
    (let s := after (exec (.requestRecord 0 record0) serving)
     s.fd.tokenizing.find? (·.reqid = 9) = some request0 ∧ s.fd.conf = some conf0 ∧ s.fd.vocab = some vocab0 ∧
     s.fd.liveId 9 = true) ∧
    (vocab0.tokenize request0.prompt).length < conf0.maxpos ∧ ({ conf0 with maxpos := 2 } : FdConf).maxpos ≤ 2 ∧
    serving.fd.queue.length < 1024 ∧ 1024 ≤ (List.replicate 1024 (request0, [0])).length ∧
    base.fd.admits = none ∧
    ({ serving.fd with queue := [(request0, [0x61, 0x62])] } : FrontDoor).admits.isSome ∧
    ([2] ++ List.replicate 7 0 ++ bytesOf 8 9 : List Byte).length = 16 ∧
    le ([2] ++ List.replicate 7 0 ++ bytesOf 8 9) 0 1 = 2 ∧ zeros ([2] ++ List.replicate 7 0 ++ bytesOf 8 9) 1 7 = true ∧
    base.fd.liveId 9 = false ∧
    (let f : FrontDoor := { serving.fd with seqs := [seq0], steps := [step0] }
     f.seqs.find? (fun q => q.req.reqid = 9 && !q.done) = some seq0 ∧ f.inStep seq0.asid = true) ∧
    base.injectDue 0 = false ∧
    (let s : State := { serving with fd := { serving.fd with edges := [{ doneEdge with done := false }], steps := [{ step0 with put := false }] } }
     s.injectStopped = false ∧ s.fd.edges ≠ [] ∧ s.fd.steps.find? (·.group = 0) = some { step0 with put := false } ∧
     (∀ n ∈ step0.names, n.state = .opened) ∧ s.fd.startFree = true) ∧
    (let s : State := { serving with fd := { serving.fd with edges := [doneEdge], steps := [step0] } }
     let w1 : Word := 0x20000 * 2 ^ 32
     let body (n : Byte) : List Byte := List.replicate 32 0 ++ [1, 0, n] ++ List.replicate 61 0
     (∃ e ∈ s.fd.edges, e.done = true) ∧ wfld w1 32 32 = 0x20000 + s.hub.pkg.toNat ∧ wfld (3 * 2 ^ 14 : Word) 14 8 ≠ 0 ∧
     s.fd.oldest = some step0 ∧ (∀ x ∈ s.fd.steps, x.group = step0.group → x = step0) ∧ step0.matches (body 1) = true ∧
     step0.matches (body 2) = false ∧ step0.names ≠ []) ∧ (∀ e ∈ base.fd.edges, e.done = false) := by decide +kernel

/-! ## Recovery, boot, commands, host -/

/-- A stage whose first input is the start edge of this package's sequencer. -/
def first0 : Stage := { Stage.reset with ports := Stage.reset.ports.set 0 { PortRec.reset with bound := true, endpoint := true, peer := 0x10000 } }
/-- A package on its way into freewheel with another as supervisor; its one bank rests. -/
def quieting (g : Bool) : State :=
  { State.reset with
    hub := { base.hub with fw := .quieting 9 g }, image := some { image0 with stages := [first0], super := some (1, 2) },
    banks := State.reset.banks.set 0 { Bank.reset with active := true } }

/-- Every bank but the first is at reset in a state whose first bank alone has been set. -/
theorem bank_reset (x : Bank) (b : BankIx) (h : b ≠ 0) : (State.reset.banks.set 0 x)[b] = Bank.reset := by
  have : (0 : Nat) ≠ b.val := fun e => h (Fin.ext e.symm)
  simp [State.reset, this]
/-- Every bank rests. -/
theorem quieting_quiet : allBanks.all (quieting true).bankQuiet = true := by
  rw [List.all_eq_true]
  intro b _
  by_cases h : b = 0
  · subst h; decide +kernel
  · have e : (quieting true).bank b = Bank.reset := bank_reset _ b h
    simp only [State.bankQuiet, e]
    rfl
/-- No bank has stage 5. -/
theorem no_stage5 : homed.bankOfStage 5 = none := by
  rw [State.bankOfStage, List.find?_eq_none]
  intro b _
  by_cases h : b = 0
  · subst h; decide +kernel
  · have e : homed.bank b = Bank.reset := bank_reset _ b h
    rw [e]; decide

/-- A cog that works and one that has failed; a port silent for 2^21 cycles with another joined to the same neighbour
and not; a poll of a hub with no answer; a recovery; freewheel by another supervisor in both its waits; its limit; a
message to another package and to the serving one (Recovery). -/
theorem witness_recovery :
    (base.cog 0).failed = false ∧ ((base.modCog 0 fun c => { c with failed := true }).cog 0).failed = true ∧
    (linked [0]).portSilent 0 = false ∧ ({ linked [0] with clk := 2097152 }).portSilent 0 = true ∧
    ((linked [0]).ports[(0 : ChainPort)]).neighbour = some 1 ∧
    (∀ o : ChainPort, o ≠ 0 → ((linked [0]).ports[o]).live = false) ∧
    (let s : State := { linked [0] with ports := (linked [0]).ports.set 1 (linked [0]).ports[0] }
     (s.ports[(1 : ChainPort)]).live = true ∧ (s.ports[(1 : ChainPort)]).neighbour = some 1) ∧
    (let s : State := { base with clk := 4194304, hub := { base.hub with polls := [(3, 0)] } }
     s.hubLate 3 = true ∧ 3 ∉ s.hub.failedPkgs ∧ s.hubLate 4 = false) ∧
    (quieting true).serves = true ∧
    (let s : State := { homed with hub := { base.hub with recov := [(⟨3, none⟩, 6, false)] } }
     s.hub.recov.find? (fun e => e.1 = ⟨3, none⟩ && !e.2.2) = some (⟨3, none⟩, 6, false) ∧ s.image = some image0 ∧
     s.resentHeld image0 ⟨3, none⟩ = true) ∧
    (∀ g, (quieting g).isSuper = false ∧ (quieting g).limitPassed = false) ∧ (quieting false).quietDue = true ∧
    (quieting true).startsQuiet = true ∧
    ((quieting true).bank 0).active = true ∧ base.quietDue = false ∧
    (({ base with hub := { base.hub with fw := .quieting 9 false } }).limitPassed = true) ∧
    (5 : Nat) ≠ base.hub.pkg.toNat := by decide +kernel

/-- An image being received, refused, checked and ready; pieces that agree and that clash; this package as root and not; an
activation due; a load from the host with a length and without (Boot). -/
theorem witness_boot :
    base.hub.imgState = .idle ∧ ([1, 2] : List Byte) ≠ [] ∧ ([1, 2] : List Byte).length < 64 ∧
    (let t := after (exec (.bootChunk 0 0 [1, 2]) base)
     t.hub.imgState = .receiving ∧ heldClash t.boot.chunks 1 [3] = true ∧ heldClash t.boot.chunks 1 [2] = false ∧
     heldAll t.boot.chunks 1 1 = true ∧ t.boot.root = some t.hub.pkg.toNat) ∧
    (let m : List Byte := [0x10] ++ List.replicate 15 0 ++ [1]
     16 < m.length ∧ le m 0 1 = 0x10 ∧ zeros m 1 7 = true ∧ m.length < 80) ∧ base.hub.imgState.idleLike = true ∧
    (∀ im ∈ base.boot.image, im.id = []) ∧ base.boot.again = [] ∧ base.boot.mayBe [] = true ∧
    ({ base.boot with chunks := [(0, List.replicate 64 0)] } : Boot).mayBe [2] = false ∧
    keptHeld [(0, List.replicate 64 0)] base.hub.pkg.toNat = true ∧ keptHeld [(0, [1, 2])] base.hub.pkg.toNat = false ∧
    (let s : State := { base with hub := { base.hub with imgState := .active }, image := some { image0 with chunks := [(0, [1, 2])] } }
     s.hub.imgState = .active ∧ (∀ e ∈ s.hub.recov, e.2.2 = true) ∧ heldAll [(0, [1, 2])] 0 1 = true ∧
     heldClash [(0, [1, 2])] 0 [1] = false ∧ heldClash [(0, [1, 2])] 0 [2] = true ∧ heldAll [(0, [1, 2])] 1 2 = false ∧
     s.resends 0 = false ∧ { s with hub := { s.hub with recov := [(⟨3, none⟩, 6, false)] } }.resends 0 = true) ∧
    base.resends 0 = false ∧ { homed with hub := { base.hub with imgState := .receiving } }.resends 0 = false ∧
    (let s : State := { linked [0] with boot := { base.boot with root := some 1 } }
     s.boot.root ≠ some s.hub.pkg.toNat ∧ s.bootParent = some 1) ∧
    (let s : State := { base with hub := { base.hub with imgState := .ready }, boot := { base.boot with image := some image0, actAt := some 9, reported := true } }
     s.boot.image = some image0 ∧ s.activateDue = true ∧ { s with time := 8 }.activateDue = false ∧ s.boot.reported = true) ∧
    base.hub.imglen = 0 ∧ base.hub.hostUp = true ∧
    (let h : Hub := { base.hub with imglen := 5000, busMaster := true }; h.imglen ≠ 0 ∧ h.busMaster = true) ∧
    ({ base.hub with imgState := .checking }).imgState.idleLike = false := by decide +kernel

/-- A state that runs a command. -/
def runs (mb : MBox) (opc : Nat) (buf : List Byte) : State := { homed with hub := { base.hub with queue := [⟨mb, opc, buf, false⟩] } }
/-- The first 64 bytes of an argument buffer that begins with some bytes. -/
def args (l : List Byte) : List Byte := l ++ List.replicate (64 - l.length) 0
/-- FDCONF's record for conf0's numbers. -/
def confBytes : List Byte := args (bytesOf 4 1 ++ [4, 2, 3, 0] ++ bytesOf 2 0 ++ bytesOf 2 0 ++ bytesOf 4 4 ++ bytesOf 8 (2 ^ 42))

/-- Each command as the head of the queue, and the values on both sides of each status (Commands). -/
theorem witness_commands :
    (∀ mb ∈ [MBox.host, .mgmt], ∀ n ∈ [1, 2, 3, 4, 5, 6, 7, 8, 9, 10, 11],
      let s := runs mb n []
      s.hub.queue = [⟨mb, n, [], false⟩] ∧ s.hub.fw = .running ∧ s.hub.arenaWait = none ∧ s.hub.mggo = false ∧
      (∀ c ∈ s.hub.queue, 1 ≤ c.opc ∧ c.opc ≤ 0x0B)) ∧ ({ homed.hub with mggo := true } : Hub).mggo = true ∧
    homed.fd.live = false ∧ ({ homed.fd with queue := [(request0, [])] } : FrontDoor).live = true ∧
    homed.fdConfOk confBytes (fdConfOf confBytes) = true ∧ homed.fdConfOk (args []) (fdConfOf (args [])) = false ∧
    le (args (bytesOf 8 0 ++ bytesOf 8 63)) 8 8 < 64 ∧ 64 ≤ le (args (bytesOf 8 0 ++ bytesOf 8 64)) 8 8 ∧
    (let a := arenaArgs (args (bytesOf 8 65536 ++ bytesOf 8 65536 ++ bytesOf 8 0x12))
     a.2.1 % 65536 = 0 ∧ a.2.1 ≠ 0 ∧ a.2.2.getLsbD 3 = false ∧ a.2.2.toNat / 2 % 4 ≠ 0 ∧ homed.arenaFits a.2.1 a.2.2 = true) ∧
    homed.otherPkgs = [] ∧ ({ homed with image := some { image0 with packages := [(0, 0), (1, 0)] } }).otherPkgs = [1] ∧
    homed.isSuper = true ∧ base.image = none ∧ homed.image ≠ none ∧
    homed.bankOfStage 0 = some 0 ∧ (homed.bank 0).mode ≠ .stopped ∧
    ((homed.modMe fun b => { b with mode := .stopped }).bank 0).mode = .stopped ∧
    zeros (args []) 0 32 = true ∧ zeros (args [1]) 0 32 = false ∧ le (args (bytesOf 4 1199)) 0 4 < 1200 ∧
    2400 < le (args (bytesOf 4 2401)) 0 4 ∧ le (args (bytesOf 4 1200)) 0 4 = 1200 ∧ le (args (bytesOf 4 2400)) 0 4 = 2400 ∧
    7 < le (args [8]) 0 1 ∧ le (args [7]) 0 1 = 7 ∧ (le (args [7, 1]) 1 1).testBit 0 = true ∧
    (le (args [7, 0]) 1 1).testBit 0 = false ∧ homed.hub.keys[(7 : Fin 8)] = .empty ∧
    (homed.hub.keys.set 7 .revoked)[(7 : Fin 8)] ≠ .empty ∧ 1 < le (args [2]) 0 1 ∧ le (args [1, 0, 5, 0]) 0 1 = 1 ∧
    le (args [1, 0, 5, 0]) 2 2 = 5 ∧ le (args [1, 0, 0, 16]) 2 2 = 4096 ∧ homed.hub.imgState.idleLike = true ∧
    homed.hub.rollback < 1 ∧ (∀ f, ({ homed.hub with slotA := some ⟨[], 1, [], []⟩ } : Hub).firmware = some f → f.version = 1) ∧
    homed.hub.firmware ≠ none := by decide +kernel

/-- Registers of BAR 0 at the edges of the window, the mailbox free and busy, IMGCTL with its bit; a host read of a bank that
completes; firmware running from either slot and none; readings at the cap and above it; an image being received from the
host (HostAndManagement). -/
theorem witness_host :
    (4 : Nat) ≠ 8 ∧ (0x104 : Nat) % 8 ≠ 0 ∧ (65536 : Nat) ≤ 65536 ∧ ({ base.hub with mbgo := true } : Hub).mbgo = true ∧
    base.hub.mbbuf.length = 4096 ∧ (511 : Nat) < 512 ∧ (1 : Word).getLsbD 0 = true ∧
    (let s := after (exec (.ldg (.s 20) 18 0 .b64 false .plain .bank)
       { base with hub := { base.hub with busMaster := true },
                   cogs := base.cogs.set 0 { base.cogs[0] with tlb := [⟨0, 16, 2, 0x10000, 0x1B⟩] } })
     (s.accesses.map fun x => (x.todo.map fun o => (gopSegs o).map (·.host), x.owner, x.psn, x.sent)) =
       [([[true]], .pre, false, false)] ∧ s.hub.reads = [] ∧
     (∀ x ∈ s.accesses, x.todo = s.me.pre.map (·.op)) ∧ s.me.pre.map (·.done) = [false]) ∧
    (let g : Seg := { far8 with host := true }
     ∀ f : Bool, let a : PreAns := ⟨7, .load [g], true, f, false, false, [1, 2, 3, 4, 5, 6, 7, 8]⟩
     [a].find? (fun a => a.op = .load [g] && a.done) = some a ∧ a.lost = false ∧ g.host = true) ∧
    base.hub.running = some false ∧ ({ base.hub with running := some true } : Hub).running = some true ∧
    ({ base.hub with running := none } : Hub).running = none ∧ base.hub.powercap < 2401 ∧ (2400 : Nat) ≤ base.hub.powercap ∧
    (∃ d ∈ [(96 : Nat)], 95 < d) ∧ (∀ d ∈ [(95 : Nat)], d ≤ 95) ∧ (∃ d ∈ [(105 : Nat)], 105 ≤ d) ∧
    (∀ d ∈ [(104 : Nat)], d < 105) ∧ (∀ d ∈ [(89 : Nat)], d < 90) ∧ (2399 : Nat) < base.hub.powercap ∧
    (0x104 : Nat) < 65536 ∧ (65528 : Nat) % 8 = 0 ∧ Sensor.power 5 ≠ .faultBuffer ∧
    (let s := after (exec .imageLoadStart { base with hub := { base.hub with imglen := 5000, busMaster := true } })
     s.hub.imgState = .receiving ∧ s.boot.fromHost = true) := by decide +kernel

/-! ## Accesses that stop, the choice of the core, and causes -/

/-- Ranges at both sides of every bound of R84: near, stacked, another cog's, a packet of 52 bits, a device register
(AccessStops). -/
theorem witness_addresses :
    (¬ BadAddress false 0 0x1FFFF8 8 ∧ BadAddress false 0 0x1FFFF9 8) ∧
    (¬ BadAddress false 1 0x11FFFF8 8 ∧ BadAddress false 1 0x11FFFF9 8) ∧
    (¬ BadAddress false 2 (319 * 2 ^ 51 + 0x1FFFF8) 8 ∧ BadAddress false 2 (320 * 2 ^ 51) 8 ∧
      BadAddress false 2 (319 * 2 ^ 51 + 0x1FFFF9) 8 ∧ ¬ BadAddress false 2 (319 * 2 ^ 51 + 2 ^ 50 + 0x1FFFF9) 8) ∧
    (¬ BadAddress false 6 (2 ^ 52 - 8) 8 ∧ BadAddress false 6 (2 ^ 52 - 7) 8) ∧
    (¬ BadAddress true 7 (511 * 2 ^ 51 + 8) 8 ∧ BadAddress false 7 8 8 ∧ BadAddress true 7 8 4 ∧
      BadAddress true 7 (320 * 2 ^ 51) 8 ∧ BadAddress true 7 (2 ^ 16) 8) ∧ BadAddress true 8 0 8 := by
  simp [BadAddress]

/-- The bank has waited for a walk of granule 0, through tables whose leaf is a given one and whose granule its own. -/
def walkedTo (leaf : Nat) : State :=
  ((mapped (BitVec.ofNat 64 leaf)).modCog 0 fun c => { c with tlb := [] }).modMe fun b => { b with walk := some (0, 0, 9) }

/-- No entry that holds the bytes, one with every permission, one without write; a region in each state (LocalStops). -/
theorem witness_local :
    (∀ i : Fin 64, ¬ (base.me.windows[i].w3.getLsbD 0 = true ∧ base.me.windows[i].w0.toNat ≤ 0x150000 ∧
      0x150000 + 8 ≤ base.me.windows[i].w0.toNat + base.me.windows[i].w1.toNat % 2 ^ 25)) ∧
    (base.me.windows[(0 : Fin 64)].w3.getLsbD 1 = true ∧ base.me.windows[(0 : Fin 64)].w3.getLsbD 2 = true) ∧
    (base.modMe fun b => { b with windows := b.windows.set 0 ⟨0, 0x10000, 0, 1⟩ }).me.windows[(0 : Fin 64)].w3.getLsbD 1 = false ∧
    base.retState (physAddr 0 true 0x40) = .active ∧
    (∀ r ∈ [RetState.retained, .entering, .exiting],
      (base.modCog 0 fun c => { c with regions := c.regions.map fun _ => r }).retState (physAddr 0 true 0x40) = r) := by
  decide +kernel
/-- An offset that the TLB holds, and one it does not; a walk not yet done, and done with each outcome: a leaf of each kind,
no valid entry, a reserved class; and the pages' attributes on both sides of each clause (GlobalStops, PageWalk). -/
theorem witness_walks :
    base.tlbFind base.cur.cog base.me.asidcur 0x40 = some plainLeaf ∧
    base.tlbFind base.cur.cog base.me.asidcur 0x20000 = none ∧ base.ctx.walked = none ∧
    (∀ w ∈ [0x13, 0x12, 0xD3], let s := walkedTo w
      s.tlbFind s.cur.cog s.me.asidcur 0x40 = none ∧ s.ctx.walked = some (s.me.asidcur, 0) ∧
      (s.walked s.me.asidcur 0x40).length = 4 ∧ ∀ x ∈ s.walked s.me.asidcur 0x40, s.retState x = .active) ∧
    (walkedTo 0x12).walk 0 0x40 = .notPresent ∧ (walkedTo 0xD3).walk 0 0x40 = .malformed ∧
    (match (walkedTo 0x13).walk 0 0x40 with
     | .leaf e => e.bits = 16 && e.w1 = 0x13
     | _ => false) = true ∧ base.ptroot.getLsbD 0 = false ∧ (walkedTo 0x13).ptroot.getLsbD 0 = true := by decide +kernel
/-- The places of the entries that the walk of granule 0 reads (PageWalk). -/
theorem witness_entries : ∀ a, a = (walkedTo 0x13).walked 0 0x40 →
    ∀ l, l ≤ 3 → (walkedTo 0x13).EntryAt 0 0x40 l (a.getD l 0) := by
  rintro a rfl l h
  have h0 : (walkedTo 0x13).EntryAt 0 0x40 0 (((walkedTo 0x13).walked 0 0x40).getD 0 0) := by
    rw [State.EntryAt]; decide +kernel
  have h1 : (walkedTo 0x13).EntryAt 0 0x40 1 (((walkedTo 0x13).walked 0 0x40).getD 1 0) := by
    rw [State.EntryAt]; exact ⟨_, h0, by decide +kernel⟩
  have h2 : (walkedTo 0x13).EntryAt 0 0x40 2 (((walkedTo 0x13).walked 0 0x40).getD 2 0) := by
    rw [State.EntryAt]; exact ⟨_, h1, by decide +kernel⟩
  have h3 : (walkedTo 0x13).EntryAt 0 0x40 3 (((walkedTo 0x13).walked 0 0x40).getD 3 0) := by
    rw [State.EntryAt]; exact ⟨_, h2, by decide +kernel⟩
  match l, h with
  | 0, _ => exact h0
  | 1, _ => exact h1
  | 2, _ => exact h2
  | 3, _ => exact h3
/-- Leaves on both sides of each clause: compressed, of the host, a groupset, read-only, a duplicate, poisoned, of another
package; and a host that is off (GlobalStops). -/
theorem witness_leaves :
    (∀ w ∈ [0x8013, 0x1B, 0x20013, 0x03, 0x504013, 0x40013, 0x13],
      let s := base.modCog 0 fun c => { c with tlb := [⟨0, 16, 0, 0x40000000000, BitVec.ofNat 64 w⟩] }
      s.tlbFind s.cur.cog s.me.asidcur 0x40 = some ⟨0, 16, 0, 0x40000000000, BitVec.ofNat 64 w⟩) ∧
    (let bit (w : Word) (i : Nat) : Bool := w.getLsbD i
     (0x8013 : Word).toNat / 2 ^ 15 % 4 ≠ 0 ∧ (0x13 : Word).toNat / 2 ^ 15 % 4 = 0 ∧ bit 0x1B 3 = true ∧ bit 0x13 3 = false ∧
     bit 0x20013 17 = true ∧ bit 0x03 4 = false ∧ bit 0x504013 14 = true ∧ bit 0x504013 4 = true ∧ bit 0x40013 18 = true ∧
     bit 0x13 18 = false ∧ bit 0x13 14 = false ∧ bit 0x13 4 = true ∧ bit 0x13 17 = false) ∧
    (base.hub.busMaster && base.hub.hostUp) = false ∧
    (TlbEntry.target ⟨0, 16, 0, 0x40000000000, 0x1B⟩ 0x40).2.1 = true ∧
    (TlbEntry.target ⟨0, 16, 0, 0x40000000000, 0x13⟩ 0x40).2.1 = false ∧
    (TlbEntry.target ⟨0, 16, 0, 0x40000000000, 0x13⟩ 0x40).1 = 0 := by decide +kernel

/-- A near place, clean and poisoned, and with a store to its word pending; one of another package, not asked for, clean,
poisoned and lost; one of the host (LoadMeets). -/
theorem witness_meets :
    let near : Seg := ⟨0, false, 0x100, 8, .strong, .plain⟩
    let far (x : PreAns) : State := base.modMe fun b => { b with pre := [x] }
    let ans : PreAns := ⟨7, .probe [far8], true, false, false, false, []⟩
    base.here near = true ∧ near.addr < devBase ∧ (base.runsRead near).any base.badRun = false ∧
    base.unpackBad near = false ∧ ({ base with poison := [4] }.runsRead near).any { base with poison := [4] }.badRun = true ∧
    poisoned { base with poison := [4] } near.addr near.len = true ∧
    (∃ e ∈ (flawed 2).ecc, 2 ≤ e.bits ∧ e.meets (524288 * 64) 8 = true) ∧
    (let s := (after (exec (.st (.s 1) 3 0 .b64 .plain .bank) base)).modMe fun b => { b with memdbg := true }
     s.me.memdbg = true ∧ physStk near.addr = false ∧ 0 < near.len ∧
       s.accesses.map (fun x => x.todo) = [[.store [near] (bytesOf 8 256) []]]) ∧
    base.here far8 = false ∧ (base.me.pre.find? fun x => x.op = .probe [far8] && x.done) = none ∧
    (∀ x ∈ [ans, { ans with psn := true }, { ans with lost := true }],
      (far x).me.pre.find? (fun y => y.op = .probe [far8] && y.done) = some x) ∧
    ({ far8 with host := true } : Seg).host = true := by decide +kernel

/-- A near place that an atomic reads, clean and poisoned (AtomicStops). -/
theorem witness_atomic_stops : okWith (base.access base.ctx (.atomic .add) 0x100 8 8) (fun gs =>
      gs = [⟨0, false, 0x100, 8, .strong, .plain⟩]) = true ∧
    okWith ({ base with poison := [4] }.access base.ctx (.atomic .add) 0x100 8 8) (fun gs =>
      gs.length = 1 && gs.all fun g => poisoned { base with poison := [4] } g.addr g.len) = true ∧ (0x100 : Nat) < devBase := by
  decide +kernel
/-- The runs of two active lanes; a span that no window holds, one behind a window without RD, and one within bounds
(SpanStops, NearStops). -/
theorem witness_spans : (runsOf 512 (byteOn (some 5) 32)).head? = some (0, 4) ∧
    (runsOf 512 (byteOn (some 5) 32)).getLast? = some (8, 4) ∧
    (∀ i : Fin 64, ¬ (base.me.windows[i].w3.getLsbD 0 = true ∧ base.me.windows[i].w0.toNat ≤ 0x150000 ∧
      0x150000 + 12 ≤ base.me.windows[i].w0.toNat + base.me.windows[i].w1.toNat % 2 ^ 25)) ∧
    Win.lets ⟨0, 0x10000, 0, 1⟩ .load = false ∧ Win.lets ⟨0, 0x10000, 0, 3⟩ .load = true ∧
    Win.lets ⟨0, 0x10000, 0, 3⟩ (.atomic .add) = false ∧ Win.lets ⟨0, 0x10000, 0, 7⟩ (.atomic .add) = true := by decide +kernel
/-- Spans at both sides of a bound (SpanStops). -/
theorem witness_span_bounds : ¬ BadAddress false 0 0x100 12 ∧ ¬ BadAddress false 0 0x1FFFC0 12 ∧
    BadAddress false 0 0x1FFFF8 12 ∧ ¬ BadAddress false 6 0x40 12 := by simp [BadAddress]
/-- Runs whose places are not found; scales that are not, or that are poisoned (VectorMemory). -/
theorem witness_run_stops :
    base.runCheck .load 0x150000 [(0, 4), (8, 4)] = .ok () ∧
    okWith (base.runSegs .load 0x150000 [(0, 4), (8, 4)] base.checkParts) (fun _ => true) = false ∧
    base.runCheck .store 0x150000 [(0, 4), (8, 4)] = .ok () ∧
    okWith (base.runSegs .store 0x150000 [(0, 4), (8, 4)] fun _ => .ok ()) (fun _ => true) = false ∧
    (let s := base.modMe fun b => { b with windows := b.windows.set 6 ⟨0x40000, 0x8000, 0x40000, 0x3607⟩ }
     okWith (s.runSegs (.fmt .int8 .segments) 0x40000 [(0, 128)] (s.elemChecks .segments)
       fun o => (scaleAt .segments 8 o).isSome) (fun _ => true) = true ∧
     (match scaleAt .segments 8 0 with
      | some sc => okWith (s.scaleSegs (.fmt .int8 .segments) .segments none 0x40000 0 sc) fun _ => true
      | none => true) = false) ∧
    (let s := { base with poison := [0x40000 / 64] }
     okWith (s.runSegs (.fmt .int8 .segments) 0x40000 [(0, 128)] (s.elemChecks .segments)
       fun o => (scaleAt .segments 8 o).isSome)
       (fun gp => s.checkParts (gp.map fun x => (0x40000 + BitVec.ofNat 64 x.2.1, x.1)) ≠ .ok ()) = true) := by decide +kernel
/-- A gather and a scatter whose first element is good and whose second is not (GatherScatter). -/
theorem witness_element_stops : elemAddrs (some 3) 32 0x100 (3 * 2 ^ 32) = [(0, 0x100), (1, 0x103)] ∧
    okWith (base.elemSeg .load 5 0x100 4) (fun _ => true) = true ∧ okWith (base.elemSeg .load 5 0x103 4) (fun _ => true) = false ∧
    okWith (base.elemSeg .store 4 0x100 4) (fun _ => true) = true ∧
    okWith (base.elemSeg .store 4 0x103 4) (fun _ => true) = false := by decide +kernel
/-- Tables and frames in regions that are active and that are not; a bank that is dead and one that is not; a line poisoned
already (HubAtMemory, HomesAnswer, Boot, Commands). -/
theorem witness_shut :
    (let s := walkedTo 0x13
     s.shut (s.walkRuns 0 0x40) = none ∧
     (s.modCog 0 fun c => { c with regions := c.regions.map fun _ => .retained }).shut (s.walkRuns 0 0x40) ≠ none) ∧
    base.dead 0 = false ∧ (base.modCog 0 fun c => { c with failed := true }).dead 0 = true ∧
    (flawed 2).poison.contains (524288 * 64 / 64) = false ∧
    { flawed 2 with poison := [524288] }.poison.contains (524288 * 64 / 64) = true ∧
    homed.shut (homed.arenaTables 0x10000 65536) = none := by decide +kernel

/-- An ask that is new, and a fault that the hub holds for a bank with nothing in flight (Loads, HubFaultHeld). -/
theorem witness_asks : (∀ x ∈ base.me.pre, x.op ≠ .probe [far8]) ∧ base.draining base.cur = false := by decide +kernel

/-- Rows of each M instruction that stop at once and after a good one: an address error, a row off its alignment, a path that
the row may not take, and none that a window holds (MatrixRows). -/
theorem witness_row_stops :
    (0x50000 : Word).toNat % 64 = 0 ∧ (0x103 : Word).toNat % 64 ≠ 0 ∧ 5 < (0x6000000000000000 : Word).toNat / 2 ^ 60 ∧
    (∀ k ∈ [AKind.load, .store], okWith (base.xlateWith base.ctx k 0x4FE00 512 fun _ _ => .ok ()) (fun _ => true) = true ∧
      okWith (base.xlateWith base.ctx k 0x50000 512 fun _ _ => .ok ()) (fun _ => true) = false) ∧
    okWith (base.xlateWith base.ctx .load 0x4FE00 512 base.hostPart) (fun _ => true) = true ∧
    okWith (base.xlateWith base.ctx .load 0x50000 512 base.hostPart) (fun _ => true) = false ∧
    okWith (base.actRow .bf16 true 0x10000) (fun _ => true) = true ∧ okWith (base.actRow .bf16 true 0x50000) (fun _ => true) = false ∧
    okWith (base.tileSegs .bf16 0x50000 0) (fun _ => true) = false ∧
    (Instr.mwswap).unit = some .m ∧ 8 ≤ full.mycog.mq.length := by decide +kernel
/-- Rows at both bounds of a near address, and a store on path 5 (MatrixRows). -/
theorem witness_row_bounds : ¬ BadAddress false 0 0x4FE00 512 ∧ ¬ BadAddress false 0 0x50000 512 ∧
    ¬ BadAddress false 0 0x1FFE00 512 ∧ BadAddress false 0 0x1FFE40 512 ∧ ¬ BadAddress false 5 0x10000 512 ∧
    ¬ BadAddress false 6 0x10000 256 := by simp [BadAddress]

/-- Both banks of cog 0 ready with none passed over: one has packets on an input of depth 4; with none, either or
neither held the core last (TimeAndFiring). -/
def both0 (occ : Nat) (last : Option Bool) : State :=
  (waiting2.modMe fun b => { b with ports := b.ports.set 0 { portIn with snapOcc := occ } }).modCog 0 fun c =>
    { c with passed := none, lastHolder := last }
theorem witness_choice :
    (∀ n ∈ [0, 2], ∀ l ∈ [none, some true, some false], let s := both0 n l
      (s.cog 0).holder = none ∧ (s.cog 0).passed = none ∧ (s.cog 0).lastHolder = l ∧
      (∀ k : Bool, (s.bank ((0 : CogIx).bank k)).isReady s.time = true ∧
        ∀ i : Fin 16, i.val < 8 → (s.bank ((0 : CogIx).bank k)).ports[i].peer ≠ .none →
          0 < (s.bank ((0 : CogIx).bank k)).ports[i].depth)) ∧
    (((both0 2 none).bank 0).ports[(0 : Fin 16)].peer ≠ .none ∧ 0 < ((both0 2 none).bank 0).ports[(0 : Fin 16)].snapOcc) ∧
    (∀ j : Fin 16, j.val < 8 → ((both0 2 none).bank 1).ports[j].peer = .none) ∧
    ((both0 0 none).bank 0).ports[(0 : Fin 16)].snapOcc = 0 := by decide +kernel

/-- A short port with a register of an earlier bundle awaited, and with one of its own bundle only (StageEnd). -/
theorem witness_short :
    (let s : State := { (base.modMe fun b => { b with busy := [(.s 20, 3)] }) with ownFrom := 5 }
     (∃ r ∈ s.me.busy, r.2 < s.ownFrom) ∧ ∀ r ∈ ({ s with ownFrom := 3 } : State).me.busy, ({ s with ownFrom := 3 } : State).ownFrom ≤ r.2) ∧
    (let s := base.modMe fun b => { b with mode := .ending }
     (s.bank 0).mode = .ending ∧ ((base.bank 1).mode ≠ .ending ∧ (base.bank 1).mode ≠ .endWait ∧ (base.bank 1).mode ≠ .ended) ∧
     ((s.modMe fun b => { b with mode := .endWait }).bank 0).mode = .endWait) := by decide +kernel

/-- A bank without a handler: each cause of a row of R326, budget rows at six and seven, a promise ahead and past, with and
without a copy of the bank (TrapEntry). -/
theorem witness_actions :
    (let s := base.modMe fun b => { b with tvec := 0 }
     (s.bank 0).tvec = 0 ∧ (s.bank 0).hmode = false ∧ (s.bank 0).pend.copyErr = [] ∧ (s.bank 0).budgetRow < 7 ∧
     (9 : Word).toNat ≤ s.time.toNat ∧ s.time.toNat < (10 : Word).toNat ∧ (∀ c ∈ s.copies, c.bank ≠ 0)) ∧
    7 ≤ ((base.modMe fun b => { b with budgetRow := 7 }).bank 0).budgetRow ∧
    ((base.modMe fun b => { b with budgetRow := 6 }).bank 0).budgetRow < 7 ∧
    (∃ c ∈ (after (exec (.cpy 12 3 1 10) base)).copies, c.bank = 0) ∧ (inHandler.bank 0).pend.copyErr = [] ∧
    (0x1A : Nat) ∉ [0x01, 0x03, 0x04, 0x21] := by decide +kernel

/-! ## Corners of activation, copies, groupsets, formats and homes -/

/-- A stage of this package's bank 0, alone in its image; a shape of three by five; an unbound and a bound port (Boot). -/
def lone : Stage := { Stage.reset with ports := Stage.reset.ports.set 3 { PortRec.reset with bound := true, peer := 9, depth := 4, capacity := 32 } }
theorem witness_activation :
    let im : Image := { image0 with stages := [lone] }
    (∀ u ∈ im.stages, u.pkg = lone.pkg → u.bankNo = lone.bankNo → u = lone) ∧ lone.pkg = base.hub.pkg.toNat ∧
    (0 : BankIx).val = lone.bankNo ∧ (∀ st ∈ im.stages, st.bankNo ≠ (1 : BankIx).val) ∧
    (lone.port 3).bound = true ∧ (lone.port 4).bound = false ∧ stageById im.stages 9 = none ∧
    (let r := bytesOf 8 0x100 ++ bytesOf 8 1 ++ bytesOf 8 (2 ^ 32 * 2 + 3) ++ bytesOf 8 5 ++ List.replicate 16 0
     let w (k : Nat) : Nat := natOf ((r.drop k).take 8)
     w 8 / 4 = 0 ∧ w 8 % 4 = 1 ∧ w 16 % 2 ^ 32 ≠ 0 ∧ w 24 % 2 ^ 32 ≠ 0) ∧ bankSection im.chunks 3 0 0 0 = none := by
  decide +kernel
/-- A root that receives an image whose ID it cannot compute yet, and one that has refused one: reports with its ID, an empty
one and another; reasons below, at and above its own (Boot). -/
theorem witness_fails :
    (let s := after (exec (.bootMessage ([0x10] ++ List.replicate 15 0 ++ [1])) base)
     s.boot.root = some s.hub.pkg.toNat ∧ s.hub.imgState = .receiving ∧ s.boot.imageId? = [] ∧ s.boot.mayBe [3] = true ∧
     s.boot.mayBe [] = true ∧ ([3] : List Byte) ≠ []) ∧
    (let s : State := { base with
       hub := { base.hub with imgState := .refused, imgReason := 0x12 },
       boot := { base.boot with root := some base.hub.pkg.toNat, failedId := [7] } }
     s.boot.root = some s.hub.pkg.toNat ∧ s.hub.imgState = .refused ∧ s.boot.failedId = [7] ∧
     (0x11 : BitVec 8).toNat < s.hub.imgReason.toNat ∧ ¬ (0x12 : BitVec 8).toNat < s.hub.imgReason.toNat) := by decide +kernel

/-- Handles and operands that stop a copy, each past the checks before it (CopyStops). -/
theorem witness_copy_stops : base.rdH 2 = .ok 0 ∧ (handleOf 0).v = false ∧ open7.asid = base.me.asidcur ∧
    pathOf 0x7000000000000000 = 7 ∧ addrError false 0x0FFFFFFFFFFFFFC0 1 = true ∧ (65537 : Word).toNat > 65536 ∧
    16777216 < 65536 * (32 * 2 ^ 9) ∧ ¬ 16777216 < 64 * (32 * 2 ^ 9) ∧ (1 : Nat) % 2 ≠ 0 ∧ pathOf 0x3000000000010000 = 3 ∧
    pathOf 0x1000000000000040 ≤ 2 := by decide +kernel

/-- The snapshot's line, not asked for, and answered clean and poisoned (GroupsetsIssue). -/
theorem witness_snapshot :
    okWith (base.xlateWith base.ctx .gsLoad 0x3000000000010000 8 fun _ _ => .ok ()) (fun gs => gs.length = 1) = true ∧
    okWith (base.xlateWith base.ctx .gsLoad 0x3000000000010000 8 (base.checkSnap { open7 with snap := true })) (fun _ => true) = false ∧
    (∀ x ∈ base.me.pre, x.op ≠ .gsLoad [far8] open7) ∧ base.me.memdbg = false ∧
    (∀ f : Bool, let p : PreAns := ⟨7, .gsLoad [far8] open7, true, false, f, false, []⟩
      [p].find? (fun e => e.op = .gsLoad [far8] open7 && e.done) = some p ∧ p.psn = f) := by decide +kernel

/-- A record that has been read behind an access, clean and poisoned, and one not yet (Iterators, SystemRegisters). -/
theorem witness_records : ∀ f : Bool,
    okWith (acquiring.xlateLoad .load 0x100 64) (fun gs =>
      let p : PreAns := ⟨7, .load gs, true, false, f, false, []⟩
      acquiring.after { kind := .load, addr := 0x100 } gs ≠ [] ∧
      acquiring.me.pre.find? (fun e => e.op = .load gs && e.done) = none ∧
      (acquiring.modMe fun b => { b with pre := [p] }).me.pre.find? (fun e => e.op = .load gs && e.done) = some p ∧
      p.psn = f) = true := by decide +kernel

/-- Values of E4M3 at a magnitude, at the tie above it and beside it, at the greatest, and beyond it on both sides of
the step above (FormatsRoundTrip). -/
theorem witness_rounding :
    let t := EType.fp8e4
    (1 - expBias t - fracBits t : Int) = -9 ∧ maxFinite t = 0x7E ∧ decodeF t 0x38 = .num false 8 (-3) ∧
    decodeF t 0x39 = .num false 9 (-3) ∧ decodeF t 0x7E = .num false 14 5 ∧ decodeF t 0x7D = .num false 13 5 ∧
    signedAt false 8 (-3) (-9) = 512 ∧ signedAt false 9 (-3) (-9) = 576 ∧ signedAt false 17 (-4) (-9) = 544 ∧
    (512 + 576 : Int) = 2 * 544 ∧ signedAt false 33 (-5) (-9) = 528 ∧ signedAt false 14 5 (-9) = 229376 ∧
    signedAt false 29 4 (-9) = 237568 ∧ signedAt false 15 5 (-9) = 2 * 229376 - signedAt false 13 5 (-9) ∧
    encodeF t .rne (.num false 33 (-5)) = (0x38, { inx := 1 }) ∧ encodeF t .rup (.num false 33 (-5)) = (0x39, { inx := 1 }) := by
  decide +kernel
/-- Values in the order of R263: the two zeros, an infinity and a number, two numbers (LaneSelect); a value with a
fraction and the integer it rounds to (LaneArithmetic, CrossLane). -/
theorem witness_order : FLess (.num true 0 0) (.num false 0 0) ∧ FLess (.inf true) (.num true 5 0) ∧
    FLess (.num false 3 (-1)) (.num false 1 1) ∧ ¬ FLess (.num false 0 0) (.num true 0 0) ∧ ¬ FLess (.inf false) (.inf false) ∧
    RoundsTo .rne false 5 (-1) 2 ∧ RoundsTo .rup false 5 (-1) 3 ∧ ¬ IsInteger 5 (-1) 2 ∧ IsInteger 4 (-1) 2 := by
  simp [FLess, RoundsTo, IsInteger, signedAt]
/-- The parts of 3 * 2^-2 and of a subnormal; the special operands; a value that overflows VEXP2 (CrossLane). -/
theorem witness_seeds : SeedParts 3 (-2) (-1) (3 * 2 ^ 22 - 2 ^ 23) ∧ SeedParts 1 (-149) (-149) 0 := by
  exact ⟨⟨1, by decide⟩, ⟨0, by decide⟩⟩
theorem witness_special : decodeF .fp32 0x7F800000 = .inf false ∧ decodeF .fp32 0x80000000 = .num true 0 (-149) ∧
    decodeF .fp32 0x7F800001 = .nan true ∧ decodeF .fp32 0xC0000000 = .num true 8388608 (-22) ∧
    decodeF .fp32 0x43000000 = .num false 8388608 (-16) ∧
    128 * 2 ^ (-(-16 : Int)).toNat ≤ 8388608 * 2 ^ (-16 : Int).toNat ∧ (127 : Int) < -(-129) - 1 ∧
    intVal .int8 0x80 = intMin .int8 ∧ (EType.bf16).isInt = false ∧ (EType.int8).isInt = true := by decide +kernel

/-- A line whose newest version is of open7's epoch, with an older version beside it and without; and no version of it
(HomesAnswer). -/
def versions (a b : Nat) : State := (base.setSlotRec 0x20000000000 0 false a).setSlotRec 0x20000000000 0 true b
theorem witness_revert :
    let old := recOf { open7 with epoch := 4 } - 2
    let s := versions (recOf open7) old
    let r := s.slotRec 0x20000000000 0 false
    gsFrame 0x20000000000 = 0x20000000000 ∧ gsLine 0x20000000000 = 0 ∧ s.ecc = [] ∧ Memory.wf s.mem = true ∧
    recValid r = true ∧ recIs r open7 = true ∧ recValid (s.slotRec 0x20000000000 0 true) = true ∧
    recIs (s.slotRec 0x20000000000 0 true) open7 = false ∧
    recValid ((versions (recOf open7) 0).slotRec 0x20000000000 0 true) = false ∧
    recValid ((versions 0 0).slotRec 0x20000000000 0 false) = false := by decide +kernel
/-- An abort that awaits one package, and two; with a bank that asked (HomesAnswer). -/
theorem witness_abort_done :
    let r : SealRec := { rec7 with aborting := true, awaiting := [0], asker := some (msg7 2) }
    (withRec r).sealRec 0 7 = r ∧ r.aborting = true ∧ r.open_ = some 5 ∧ (∀ q ∈ r.awaiting, q = 0) ∧
    (∃ q ∈ ({ r with awaiting := [0, 1] } : SealRec).awaiting, q ≠ 0) ∧ r.asker = some (msg7 2) := by decide +kernel
/-- An answer of each kind (HomesAnswer). -/
theorem witness_kinds :
    let r (k : Nat) : GsReq := { id := 3, party := .bank 0 0, kind := k, dst := some (0, .s 20, some 2), h := open7, asid := 0, sent := true }
    (∀ k ∈ [0, 1, 2, 3, 4, 5], ({ base with gsreqs := [r k] } : State).gsreqs.find? (·.id = 3) = some (r k)) ∧
    (2 ^ 63 : Word).toNat / 2 ^ 62 = 2 ∧ (2 ^ 63 + 2 ^ 62 : Word).toNat / 2 ^ 62 = 3 ∧ (0 : Word).toNat / 2 ^ 62 ≠ 2 := by
  decide +kernel
/-- Requests of another package: a load and a store of this package's stacked memory; an access under way for each, in a ring
and not (HomesAnswer). -/
theorem witness_remote :
    gopKind (.load [stacked8]) = .load ∧ gopKind (.store [stacked8] (bytesOf 8 1) []) ≠ .load ∧
    gopSegs (.store [stacked8] (bytesOf 8 1) []) = [stacked8] ∧ base.sealNeed [] (.store [stacked8] (bytesOf 8 1) []) = none ∧
    base.regionShut (.store [stacked8] (bytesOf 8 1) []) = none ∧ base.inRing stacked8 = false ∧
    base.inRing { stacked8 with addr := 0x1000 } = true ∧ base.here { stacked8 with addr := 0x1000 } = true ∧
    (let q : GReq := { id := 3, src := 5, addr := 0, op := .load [far8], ring := false }; ∃ g ∈ gopSegs q.op, base.here g = false) := by decide +kernel

/-- A copy whose epoch aborts and one that goes on (HubAtMemory); the states of a load that a function reset meets
(HostAndManagement). -/
theorem witness_resets :
    (let s : State := { base with agenda := [(12, .imageLoadStart)] }
     s.hub.imgState.idleLike = true ∧ (∃ e ∈ s.agenda, e.2 = .imageLoadStart)) ∧ (∀ e ∈ base.agenda, e.2 ≠ .imageLoadStart) ∧
    (let s : State := { base with hub := { base.hub with imgState := .abandoned } }; s.hub.imgState = .abandoned) ∧
    (let s : State := { base with hub := { base.hub with imgState := .refused } }
     s.hub.imgState = .refused ∧ s.boot.reported = false) := by decide +kernel

end Sys2Proof.Tests
end

section
/-! What keeps the core clock and TIME within a core cycle, up to the whole of `State.tick` (R9, R10). -/

namespace Sys2Proof.Machine

/-! ## What keeps the core clock and TIME (R9, R10) -/

/-- Two states of one core cycle: the core clock and TIME agree. -/
@[simp, reducible] def State.SameNow (s t : State) : Prop := t.clk = s.clk ∧ t.time = s.time

theorem State.SameNow.trans {s t u : State} (h : s.SameNow t) (h' : t.SameNow u) : s.SameNow u :=
  ⟨h'.1.trans h.1, h'.2.trans h.2⟩

theorem State.SameNow.after {s t u : State} (h : t.SameNow u) (h' : s.SameNow t) : s.SameNow u := h'.trans h

theorem State.SameNow.ite {s t u : State} {c : Prop} [Decidable c] (h : s.SameNow t) (h' : s.SameNow u) :
    s.SameNow (if c then t else u) := by
  split
  · exact h
  · exact h'

theorem State.SameNow.foldl_of {α β : Type} (g : β → State) {f : β → α → β} (l : List α) (b : β)
    (h : ∀ b x, (g b).SameNow (g (f b x))) : (g b).SameNow (g (l.foldl f b)) := by
  induction l generalizing b with
  | nil => exact ⟨rfl, rfl⟩
  | cons x xs ih => exact (h b x).trans (ih (f b x))

theorem State.SameNow.foldl {α : Type} {f : State → α → State} (l : List α) (s : State)
    (h : ∀ (s : State) x, s.SameNow (f s x)) : s.SameNow (l.foldl f s) := .foldl_of id l s h

section
variable (s : State)

theorem State.modBank_now (b : BankIx) (f : Bank → Bank) : s.SameNow (s.modBank b f) := ⟨rfl, rfl⟩
@[simp] theorem State.draw_now : s.SameNow s.draw.2 := ⟨rfl, rfl⟩
@[simp] theorem State.later_now : s.SameNow s.later.2 := ⟨rfl, rfl⟩
@[simp] theorem State.newId_now : s.SameNow s.newId.2 := ⟨rfl, rfl⟩
@[simp] theorem State.emit_now (o : Out) : s.SameNow (s.emit o) := ⟨rfl, rfl⟩
@[simp] theorem State.schedule_now (n : Nat) (ev : Instr) : s.SameNow (s.schedule n ev) := ⟨rfl, rfl⟩
@[simp] theorem State.scheduleAfter_now (p : Instr → Bool) (ev : Instr) :
    s.SameNow (s.scheduleAfter p ev) := ⟨rfl, rfl⟩

/-! ### Fault records and memory errors -/

@[simp] theorem State.fqWrite_now (e : List Byte) : s.SameNow (s.fqWrite e) := ⟨rfl, rfl⟩
@[simp] theorem State.fqDrain_now (l : List (List Byte)) : s.SameNow (s.fqDrain l) := by
  induction l generalizing s with
  | nil => exact ⟨rfl, rfl⟩
  | cons e es ih => rw [State.fqDrain]; split <;> simp [ih]
@[simp] theorem State.record_now (n : Nat) (l : List Byte) : s.SameNow (s.record n l) := by
  unfold State.record; dsimp only; split <;> simp
@[simp] theorem State.memRecord_now (n k : Nat) (b : Option Nat) (l a : Word) (y : Nat) :
    s.SameNow (s.memRecord n k b l a y) := State.record_now ..
@[simp] theorem State.trapRecord_now (b : BankIx) (epc val : Word) (k n m : Nat) :
    s.SameNow (s.trapRecord b epc val k n m) := State.record_now ..
@[simp] theorem State.eccWord_now (k : Nat) (b : Option Nat) (a : Word) (e : EccError) :
    s.SameNow (s.eccWord k b a e) := by
  unfold State.eccWord
  split
  · exact ⟨rfl, rfl⟩
  · exact .ite (.ite ⟨rfl, rfl⟩ (.after (State.memRecord_now ..) ⟨rfl, rfl⟩)) (.ite ⟨rfl, rfl⟩ ⟨rfl, rfl⟩)
@[simp] theorem State.eccRead_now (k : Nat) (b : Option Nat) (a : Word) (x n : Nat) :
    s.SameNow (s.eccRead k b a x n) :=
  .foldl _ s fun t e => t.eccWord_now k b a e
@[simp] theorem State.eccRuns_now (k : Nat) (b : Option Nat) (a : Word) (l : List (Nat × Nat)) :
    s.SameNow (s.eccRuns k b a l) :=
  .foldl _ s fun t r => t.eccRead_now k b a r.1 r.2
@[simp] theorem State.eccWalk_now (b : Option Nat) (a : Word) (x : BitVec 12) (n : Nat) :
    s.SameNow (s.eccWalk b a x n) := by
  unfold State.eccWalk; split <;> simp
@[simp] theorem State.tlbFill_now (c : CogIx) (e : TlbEntry) : s.SameNow (s.tlbFill c e) := by
  unfold State.tlbFill; dsimp only; split <;> simp

/-! ### Regions and faults at the hub -/

@[simp] theorem State.retStart_now (c : CogIx) : s.SameNow (s.retStart c) := by
  unfold State.retStart; split <;> simp
@[simp] theorem State.setRetreq_now (c : CogIx) (r : BitVec 9) :
    s.SameNow (s.setRetreq c r) := by simp [State.setRetreq]
@[simp] theorem State.askExit_now (a : Nat) : s.SameNow (s.askExit a) := by
  unfold State.askExit; split <;> simp
@[simp] theorem State.toHub_now (p : FaultParty) (n : Nat) (a : BitVec 12) (g : BitVec 52) (o : Option Nat) :
    s.SameNow (s.toHub p n a g o) := by
  unfold State.toHub; dsimp only
  repeat' split
  all_goals simp

/-! ### Chain ports -/

@[simp] theorem State.modPort_now (p : ChainPort) (f : CPort → CPort) : s.SameNow (s.modPort p f) := ⟨rfl, rfl⟩
@[simp] theorem State.modLink_now (p : ChainPort) (l : LinkIx) (f : Link → Link) :
    s.SameNow (s.modLink p l f) := ⟨rfl, rfl⟩
@[simp] theorem State.sendPacket_now (k : Packet) : s.SameNow (s.sendPacket k) := by
  unfold State.sendPacket; split <;> simp
@[simp] theorem State.waitAgain_now (k : Packet) : s.SameNow (s.waitAgain k) := by
  unfold State.waitAgain; split
  · split <;> simp
  · simp
@[simp] theorem State.repinAct_now : s.SameNow s.repinAct := by
  unfold State.repinAct; split
  · simp
  · exact .foldl _ _ State.waitAgain_now
@[simp] theorem State.portSend_now (p : ChainPort) : s.SameNow (s.portSend p) := by
  unfold State.portSend
  refine .foldl_of Prod.fst _ _ fun b x => ?_
  dsimp only
  split
  · simp
  · split <;> simp
@[simp] theorem State.stampTime_now (p : ChainPort) (f : Flit) : s.SameNow (s.stampTime p f) := by
  unfold State.stampTime; dsimp only; split
  · simp
  · split <;> simp
@[simp] theorem State.sendBlock_now (p : ChainPort) (l : LinkIx) : s.SameNow (s.sendBlock p l) :=
  .foldl _ s fun t f => t.stampTime_now p f
@[simp] theorem State.linksAct_now : s.SameNow s.linksAct := by
  unfold State.linksAct
  refine s.repinAct_now.trans (.foldl _ _ fun t p => .ite ⟨rfl, rfl⟩ ?_)
  have sent : t.SameNow (if t.ports[p].waiting.isEmpty then t else t.portSend p) := .ite ⟨rfl, rfl⟩ (t.portSend_now p)
  exact sent.trans (.foldl _ _ fun u l => .ite ⟨rfl, rfl⟩ (u.sendBlock_now p l))

/-! ### Returns and null packets -/

@[simp] theorem State.modEdge_now (p : SeqEdge → Bool) (f : SeqEdge → SeqEdge) :
    s.SameNow (s.modEdge p f) := ⟨rfl, rfl⟩
@[simp] theorem State.routeReturn_now (n : Nat) (w : Word × Word) : s.SameNow (s.routeReturn n w) := by
  unfold State.routeReturn; split <;> simp
@[simp] theorem State.doneReturns_now : s.SameNow s.doneReturns := by
  refine .foldl _ s fun t e => ?_
  split <;> simp [State.sendDoneReturn]
@[simp] theorem State.nullPut_now (b : BankIx) (i : Fin 16) : s.SameNow (s.nullPut b i) := by
  unfold State.nullPut
  dsimp only
  split
  · exact ⟨rfl, rfl⟩
  · split <;> simp
  · split <;> simp
@[simp] theorem State.fillPort_now (b : BankIx) (i : Fin 16) : s.SameNow (s.fillPort b i) := by
  unfold State.fillPort; dsimp only; split <;> simp
@[simp] theorem State.fillAct_now : s.SameNow s.fillAct := by
  refine .foldl _ s fun t b => ?_
  split
  · simp
  · exact .foldl _ t fun u i => u.fillPort_now b i
@[simp] theorem State.fabricCycle_now : s.SameNow s.fabricCycle := by
  simp [State.fabricCycle]

/-! ### Traps and the core -/

@[simp] theorem State.yield_now (b : BankIx) : s.SameNow (s.yield b) := by
  unfold State.yield; split <;> simp
@[simp] theorem State.flush_now (b : BankIx) : s.SameNow (s.flush b) :=
  .foldl _ s fun t _ => t.trapRecord_now ..
@[simp] theorem State.abandonBank_now (b : BankIx) : s.SameNow (s.abandonBank b) := by simp [State.abandonBank]
@[simp] theorem State.stopBank_now (b : BankIx) (e v : Word) (n m : Nat) :
    s.SameNow (s.stopBank b e v n m) := by simp [State.stopBank]
@[simp] theorem State.enterTrap_now (b : BankIx) (t : Trap) (e : Word) : s.SameNow (s.enterTrap b t e) := by
  unfold State.enterTrap
  refine .ite (.after (State.stopBank_now ..) ⟨rfl, rfl⟩) ?_
  extract_lets u
  refine .trans (t := u) ⟨rfl, rfl⟩ ?_
  clear_value u
  refine .ite (State.stopBank_now ..) (.ite ?handler (.ite ?sleep (.ite ?restart (.ite ?budget (State.stopBank_now ..)))))
  case handler =>
    have ab : u.SameNow (if causeAbandons t.cause then u.abandonBank b else u) := .ite (u.abandonBank_now b) ⟨rfl, rfl⟩
    exact ab.trans ⟨rfl, rfl⟩
  case sleep => exact .after (State.yield_now ..) (.after (State.modBank_now ..) (State.trapRecord_now ..))
  case restart => exact .ite ⟨rfl, rfl⟩ (.after (State.yield_now ..) ⟨rfl, rfl⟩)
  case budget =>
    exact .after (State.yield_now ..) (.after (State.modBank_now ..) (.after (State.abandonBank_now ..)
      (State.trapRecord_now ..)))
@[simp] theorem State.raise_now (b : BankIx) (t : Trap) (e : Word) : s.SameNow (s.raise b t e) := by
  unfold State.raise; split <;> simp

/-! ### Memory -/

@[simp] theorem State.devRead_now (r : Nat) : s.SameNow (s.devRead r).2 := by
  unfold State.devRead; dsimp only
  repeat' split
  all_goals simp
@[simp] theorem State.devWrite_now (r : Nat) (w : Word) : s.SameNow (s.devWrite r w) := by
  unfold State.devWrite; dsimp only
  repeat' split
  all_goals simp
@[simp] theorem State.setSlotRec_now (n i : Nat) (b : Bool) (r : Nat) : s.SameNow (s.setSlotRec n i b r) := ⟨rfl, rfl⟩
@[simp] theorem State.eccRecs_now (k : Nat) (b : Option Nat) (a : Word) (x : Nat) :
    s.SameNow (s.eccRecs k b a x) := State.eccRead_now ..
@[simp] theorem State.gsStoreLine_now (k : Nat) (b : Option Nat) (a : Word) (x : Nat) (bs : List Byte) (h : Handle)
    (psn : Bool) : s.SameNow (s.gsStoreLine k b a x bs h psn).1 := by
  unfold State.gsStoreLine; dsimp only
  repeat' split
  all_goals simp
@[simp] theorem State.gsLoadLine_now (sl : Seals) (k : Nat) (b : Option Nat) (a : Word) (x n : Nat) (h : Handle) :
    s.SameNow (s.gsLoadLine sl k b a x n h).2 := by
  unfold State.gsLoadLine; dsimp only; split <;> simp
@[simp] theorem State.gsRevertLine_now (a : Nat) (h : Handle) : s.SameNow (s.gsRevertLine a h) := by
  unfold State.gsRevertLine; dsimp only
  repeat' split
  all_goals simp
@[simp] theorem State.readSeg_now (k : Nat) (b : Option Nat) (a : Word) (g : Seg) :
    s.SameNow (s.readSeg k b a g).2.2 := by
  unfold State.readSeg; split
  · have h := s.devRead_now (g.addr - devBase)
    revert h
    cases s.devRead (g.addr - devBase) with
    | mk w t => exact id
  · split
    · exact s.eccRead_now ..
    · exact .foldl_of (fun (acc : List Byte × Bool × State) => acc.2.2) _ _ fun acc p =>
        (State.eccRecs_now ..).trans (State.eccRead_now ..)
    · exact s.eccRuns_now ..
@[simp] theorem State.writeSeg_now (g : Seg) (bs : List Byte) (psn : Bool) : s.SameNow (s.writeSeg g bs psn) := by
  unfold State.writeSeg; split <;> simp
@[simp] theorem State.serve_now (k : Nat) (b : Option Nat) (a : Word) (op : GOp) (sl : Seals) :
    s.SameNow (s.serve k b a op sl).2 := by
  cases op with
  | load gs => exact .foldl_of Prod.snd gs _ fun acc g => acc.2.readSeg_now k b a g
  | probe gs => simp only [State.serve]; split <;> simp
  | given data lost => exact ⟨rfl, rfl⟩
  | store gs data psn =>
    refine .foldl _ s fun t o => ?_
    split <;> simp
  | atomic g aop x y => simp only [State.serve]; repeat' split
                        all_goals simp
  | gsStore g data h psn =>
    exact .foldl_of (fun (acc : List Byte × List Byte × State) => acc.2.2) _ _ fun acc p => acc.2.2.gsStoreLine_now ..
  | gsLoad gs h => exact .foldl_of Prod.snd _ _ fun acc p => acc.2.gsLoadLine_now ..
  | gsRevert g h => exact s.gsRevertLine_now ..
  | gsProbe g h => exact ⟨rfl, rfl⟩
@[simp] theorem State.noteLines_now (g : Seg) (h : Handle) (l : List Byte) : s.SameNow (s.noteLines g h l) := by
  unfold State.noteLines; dsimp only
  repeat' split
  all_goals simp

/-! ### Accesses and copies -/

@[simp] theorem State.answer_now (b : BankIx) (n : Nat) (l : List Res) (c : Causes) : s.SameNow (s.answer b n l c) :=
  ⟨rfl, rfl⟩
@[simp] theorem State.modCopy_now (n : Nat) (f : Copy → Copy) : s.SameNow (s.modCopy n f) := ⟨rfl, rfl⟩
@[simp] theorem State.modEntry_now (c : CogIx) (n : Nat) (f : MEntry → MEntry) : s.SameNow (s.modEntry c n f) := ⟨rfl, rfl⟩
@[simp] theorem State.keepAccess_now (x : Access) : s.SameNow (s.keepAccess x) := ⟨rfl, rfl⟩
@[simp] theorem State.askSealed_now (x : Access) (r : Nat) : s.SameNow (s.askSealed x r) := ⟨rfl, rfl⟩
@[simp] theorem State.copyAccess_now (c : Copy) (u : Nat) (wr : Bool) (g : Seg) (ops : List GOp) (a : Word) (n : Nat) :
    s.SameNow (s.copyAccess c u wr g ops a n) := ⟨rfl, rfl⟩
@[simp] theorem State.copyBytes_now (c : Copy) (g : Seg) (l : List Byte) : s.SameNow (s.copyBytes c g l).2 := by
  unfold State.copyBytes
  split
  case h_4 => exact ⟨rfl, rfl⟩
  all_goals dsimp only; split <;> simp
@[simp] theorem State.copyPut_now (c : Copy) (u : Nat) (l : List Byte) (psn : Bool) (gs : List Seg) :
    s.SameNow (s.copyPut c u l psn gs) :=
  .foldl gs s fun t g => t.copyBytes_now c g l
@[simp] theorem State.copyStop_now (c : Copy) (e : Stop) : s.SameNow (s.copyStop c e) := by
  unfold State.copyStop
  split
  · exact State.toHub_now ..
  · dsimp only; split <;> simp
  · exact ⟨rfl, rfl⟩
@[simp] theorem State.copyRead_now (c : Copy) (u : Nat) (l : List Byte) (psn lost : Bool) :
    s.SameNow (s.copyRead c u l psn lost) := by
  unfold State.copyRead
  refine .ite ⟨rfl, rfl⟩ (.ite ⟨rfl, rfl⟩ ?_)
  dsimp only
  split
  · exact .ite ⟨rfl, rfl⟩ (State.copyPut_now ..)
  · exact State.copyStop_now ..
@[simp] theorem State.copyWalk_now (c : Copy) (a : Word) : s.SameNow (s.copyWalk c a) :=
  .ite ⟨rfl, rfl⟩ (State.eccWalk_now ..)
@[simp] theorem State.copyMove_now (c : Copy) (u : Nat) (l : List (Nat × Nat)) : s.SameNow (s.copyMove c u l) := by
  unfold State.copyMove
  refine .ite ⟨rfl, rfl⟩ ?_
  extract_lets src dst t v
  refine .trans (t := t) ((s.copyWalk_now c src).trans (State.copyWalk_now _ c dst)) ?_
  split
  · exact State.copyStop_now ..
  · next gs _ _ =>
    refine .ite ?_ ?_
    · split
      next a u h =>
        have hu := v.serve_now 1 (some c.bank.num) src (.load gs) []
        rw [h] at hu
        exact hu.trans (u.copyRead_now ..)
    · split <;> exact ⟨rfl, rfl⟩
@[simp] theorem State.copyTable_now (c : Copy) (w n : Nat) : s.SameNow (s.copyTable c w n) := by
  unfold State.copyTable
  extract_lets t
  refine .trans (t := t) (s.copyWalk_now c c.tbl) ?_
  split
  · exact State.copyStop_now ..
  · next gs _ =>
    split
    next a u h =>
      have hu := t.serve_now 1 (some c.bank.num) c.tbl (.load gs) []
      rw [h] at hu
      exact hu.trans (.ite ⟨rfl, rfl⟩ ⟨rfl, rfl⟩)
@[simp] theorem State.copyStep_now (c : Copy) : s.SameNow (s.copyStep c) := by
  unfold State.copyStep
  split
  · split <;> simp
  · dsimp only
    split
    · exact ⟨rfl, rfl⟩
    · exact .after (State.copyMove_now ..) ⟨rfl, rfl⟩
@[simp] theorem State.copiesAct_now : s.SameNow s.copiesAct := by
  refine .foldl _ s fun t c => ?_
  split
  · exact ⟨rfl, rfl⟩
  · exact .ite (.after (State.copyStep_now ..) ⟨rfl, rfl⟩) ⟨rfl, rfl⟩

@[simp] theorem State.finishAccess_now (x : Access) : s.SameNow (s.finishAccess x) := by
  unfold State.finishAccess
  dsimp only
  split
  · split <;> simp
  · exact ⟨rfl, rfl⟩
  · exact ⟨rfl, rfl⟩
  · split <;> simp
  · refine .ite ⟨rfl, rfl⟩ ?_
    split
    · exact ⟨rfl, rfl⟩
    · exact .ite ⟨rfl, rfl⟩ (State.copyRead_now ..)
  · exact ⟨rfl, rfl⟩
@[simp] theorem State.accessRefused_now (x : Access) : s.SameNow (s.accessRefused x) := by
  unfold State.accessRefused
  dsimp only
  split <;> exact ⟨rfl, rfl⟩
@[simp] theorem State.sendOut_now (x : Access) (op : GOp) : s.SameNow (s.sendOut x op).1 := by
  unfold State.sendOut
  split
  · exact ⟨rfl, rfl⟩
  · split
    · split <;> exact ⟨rfl, rfl⟩
    · exact ⟨rfl, rfl⟩
@[simp] theorem State.absorb_now (x : Access) (op : GOp) (a : Answer) : s.SameNow (s.absorb x op a).1 := by
  unfold State.absorb
  dsimp only
  split
  · exact .ite ⟨rfl, rfl⟩ (State.noteLines_now ..)
  · exact ⟨rfl, rfl⟩
@[simp] theorem State.runOps_now (x : Access) (ops : List GOp) : s.SameNow (s.runOps x ops) := by
  induction ops generalizing s x with
  | nil => exact State.finishAccess_now ..
  | cons op r ih =>
    rw [State.runOps]
    refine .ite (State.accessRefused_now ..) (.ite ?here (.ite (State.accessRefused_now ..) ?away))
    case here =>
      split
      · exact State.askExit_now ..
      · exact State.askSealed_now ..
      · exact .ite (State.accessRefused_now ..) ((State.serve_now ..).trans ((State.absorb_now ..).trans (ih ..)))
    case away => exact .ite ((State.sendOut_now ..).trans (ih ..)) (State.sendOut_now ..)
@[simp] theorem State.performAll_now : s.SameNow s.performAll := by
  refine .foldl _ s fun t y => ?_
  split
  · exact ⟨rfl, rfl⟩
  · exact .ite (State.runOps_now ..) ⟨rfl, rfl⟩

/-! ### One core cycle -/

@[simp] theorem State.ringDone_now (b : BankIx) : s.SameNow (s.ringDone b) := by
  unfold State.ringDone
  split
  · exact State.raise_now ..
  · exact ⟨rfl, rfl⟩
@[simp] theorem State.putsAct_now (b : BankIx) : s.SameNow (s.putsAct b) := by
  unfold State.putsAct
  refine .ite ⟨rfl, rfl⟩ ?_
  extract_lets u
  have put : s.SameNow u := .foldl _ s fun t w => .ite (t.writeSeg_now w.at_ w.head false) ⟨rfl, rfl⟩
  exact put.trans (.ite (u.ringDone_now b) ⟨rfl, rfl⟩)
@[simp] theorem State.lateYield_now (b : BankIx) : s.SameNow (s.lateYield b) := by
  unfold State.lateYield
  refine .ite ⟨rfl, rfl⟩ ?_
  split
  · exact .ite ⟨rfl, rfl⟩ (s.yield_now b)
  · exact ⟨rfl, rfl⟩
@[simp] theorem State.fetchSeg_now (e : MEntry) (g : Seg) (a : Word) : s.SameNow (s.fetchSeg e g a).2 := by
  unfold State.fetchSeg
  split
  · exact ⟨rfl, rfl⟩
  · split
    · exact State.serve_now ..
    · exact ⟨rfl, rfl⟩
@[simp] theorem State.fetchEntry_now (e : MEntry) : s.SameNow (s.fetchEntry e) :=
  .ite ⟨rfl, rfl⟩ (.foldl_of Prod.snd _ (([], s) : List (Nat × Option (List Byte × Bool)) × State)
    fun acc g => acc.2.fetchSeg_now e g.1 g.2)
@[simp] theorem State.fetchCog_now (c : CogIx) : s.SameNow (s.fetchCog c) := .foldl _ s State.fetchEntry_now
@[simp] theorem State.askHome_now (r : GsReq) : s.SameNow (s.askHome r) := .ite ⟨rfl, rfl⟩ ⟨rfl, rfl⟩
@[simp] theorem State.sendReq_now (r : GsReq) : s.SameNow (s.sendReq r) := by
  unfold State.sendReq
  refine State.SameNow.trans ?_ (State.askHome_now ..)
  split
  · exact .ite ⟨rfl, rfl⟩ ⟨rfl, rfl⟩
  · exact ⟨rfl, rfl⟩
@[simp] theorem State.sealsAct_now : s.SameNow s.sealsAct :=
  .foldl _ s fun t r => .ite (t.sendReq_now r) ⟨rfl, rfl⟩
@[simp] theorem State.retireBank_now (b : BankIx) : s.SameNow (s.retireBank b) :=
  .ite ⟨rfl, rfl⟩ (.ite ⟨rfl, rfl⟩ ⟨rfl, rfl⟩)
@[simp] theorem State.endWalk_now (b : BankIx) : s.SameNow (s.endWalk b) := by
  unfold State.endWalk
  split
  · refine .ite ?_ ⟨rfl, rfl⟩
    extract_lets u
    refine .trans (t := u) (State.eccWalk_now ..) ?_
    split
    · exact State.tlbFill_now ..
    · exact ⟨rfl, rfl⟩
  · exact ⟨rfl, rfl⟩
@[simp] theorem State.wake_now (b : BankIx) : s.SameNow (s.wake b) := by
  unfold State.wake
  dsimp only
  split
  · exact .ite ⟨rfl, rfl⟩ ⟨rfl, rfl⟩
  · exact .ite ⟨rfl, rfl⟩ ⟨rfl, rfl⟩
  · exact .ite ⟨rfl, rfl⟩ ⟨rfl, rfl⟩
  · exact ⟨rfl, rfl⟩
@[simp] theorem State.countBudget_now (c : CogIx) : s.SameNow (s.countBudget c) := by
  unfold State.countBudget
  dsimp only
  split
  · exact ⟨rfl, rfl⟩
  · exact .ite ⟨rfl, rfl⟩ ⟨rfl, rfl⟩
@[simp] theorem State.countBudget_td (c : CogIx) : (s.countBudget c).td = s.td := by
  unfold State.countBudget
  dsimp only
  split
  · rfl
  · split <;> rfl
theorem State.countBudgets_td (l : List CogIx) : (l.foldl State.countBudget s).td = s.td := by
  induction l generalizing s with
  | nil => rfl
  | cons c l ih => rw [List.foldl_cons, ih, State.countBudget_td]

/-- The parity of TIME tells a fabric-cycle boundary, also where TIME wraps. -/
theorem word_succ_even (w : Word) : (w + 1).toNat % 2 = 0 ↔ w.toNat % 2 = 1 := by
  have : (w + 1).toNat = (w.toNat + 1) % 2 ^ 64 := by simp [BitVec.toNat_add]
  omega

/-- A core cycle counts the core clock and TIME once, with the step of TIME at a fabric-cycle boundary; nothing that acts
in the cycle after that changes them. -/
theorem State.tick_now : s.tick.clk = s.clk + 1 ∧
    s.tick.time = s.time + 1 + (if s.time.toNat % 2 = 1 then BitVec.ofNat 64 s.td.step else 0) := by
  have h₀ : s.SameNow (allCogs.foldl State.countBudget s) := .foldl allCogs s State.countBudget_now
  have hd := s.countBudgets_td allCogs
  unfold State.tick
  generalize allCogs.foldl State.countBudget s = t at h₀ hd ⊢
  extract_lets s₀ s₁ s₂ s₃ s₄ s₅ s₆ s₇ s₈
  have h₁ : s₁.clk = s.clk + 1 ∧ s₁.time = s.time + 1 ∧ s₁.td = s.td := by
    simp only [s₁, s₀, h₀.1, h₀.2, hd, and_self]
  have h₂ : s₂.clk = s₁.clk ∧ s₂.time = s₁.time + (if s.time.toNat % 2 = 1 then BitVec.ofNat 64 s.td.step else 0) := by
    simp only [s₂, h₁.2.1, word_succ_even]
    split
    · obtain ⟨hclk, htime⟩ := s₁.stepTime.fabricCycle_now
      exact ⟨hclk, by rw [htime, State.stepTime, h₁.2.2, h₁.2.1]⟩
    · simp [h₁]
  have h₅ : s₂.SameNow s₅ := (s₂.performAll_now.trans s₃.copiesAct_now).trans
    (.foldl _ s₄ fun t b => .ite ⟨rfl, rfl⟩ ((t.putsAct_now b).trans (State.lateYield_now _ b)))
  have h₇ : s₅.SameNow s₇ := .trans (.foldl _ s₅ fun t c => .ite ⟨rfl, rfl⟩ (t.fetchCog_now c)) s₆.sealsAct_now
  have h₈ : s₇.SameNow s₈ := .foldl _ s₇ State.retireBank_now
  obtain ⟨hclk, htime⟩ := (h₅.trans (h₇.trans h₈)).trans
    (.foldl allBanks s₈ fun t b => (t.endWalk_now b).trans (State.wake_now _ b))
  exact ⟨by rw [hclk, h₂.1, h₁.1], by rw [htime, h₂.2, h₁.2.1]⟩
end

end Sys2Proof.Machine
end

section
/-! What the commit of an iteration does to its bank, port by port, and what it leaves (R33 to R35, R207). -/

namespace Sys2Proof.Machine

/-! ## What a commit leaves as it was (R33, R34) -/

theorem State.bank_modBank (s : State) (b c : BankIx) (f : Bank → Bank) :
    (s.modBank b f).bank c = if b = c then f (s.bank b) else s.bank c := by
  simp only [State.bank, State.modBank_banks]
  split
  · next h => subst h; exact Vector.getElem_set_self ..
  · next h => exact Vector.getElem_set_ne _ _ fun e => h (Fin.ext e)

@[simp] theorem State.bank_modBank_self (s : State) (b : BankIx) (f : Bank → Bank) :
    (s.modBank b f).bank b = f (s.bank b) := by simp [State.bank_modBank]

theorem State.bank_modBank_ne (s : State) {b c : BankIx} (f : Bank → Bank) (h : b ≠ c) :
    (s.modBank b f).bank c = s.bank c := by simp [State.bank_modBank, h]

theorem State.cog_modCog (s : State) (b c : CogIx) (f : Cog → Cog) :
    (s.modCog b f).cog c = if b = c then f (s.cog b) else s.cog c := by
  simp only [State.cog, State.modCog_cogs]
  split
  · next h => subst h; exact Vector.getElem_set_self ..
  · next h => exact Vector.getElem_set_ne _ _ fun e => h (Fin.ext e)

@[simp] theorem State.cog_modCog_self (s : State) (c : CogIx) (f : Cog → Cog) :
    (s.modCog c f).cog c = f (s.cog c) := by simp [State.cog_modCog]

@[simp] theorem State.bank_modCog (s : State) (c : CogIx) (f : Cog → Cog) (b : BankIx) :
    (s.modCog c f).bank b = s.bank b := rfl
@[simp] theorem State.cog_modBank (s : State) (b : BankIx) (f : Bank → Bank) (c : CogIx) :
    (s.modBank b f).cog c = s.cog c := rfl

theorem Bank.setPort_ports (x : Bank) (i j : Fin 16) (q : PortState) :
    (x.setPort i q).ports[j] = if i = j then q else x.ports[j] := by
  simp only [Bank.setPort]
  split
  · next h => subst h; exact Vector.getElem_set_self ..
  · next h => exact Vector.getElem_set_ne _ _ fun e => h (Fin.ext e)

/-- Two states with the same banks, the same memory and the same holder of every core. -/
structure State.SameBanks (s t : State) : Prop where
  banks  : t.banks = s.banks
  mem    : t.mem = s.mem
  holder : ∀ c, (t.cog c).holder = (s.cog c).holder

namespace State.SameBanks
variable {s t u : State}

theorem refl (s : State) : s.SameBanks s := ⟨rfl, rfl, fun _ => rfl⟩

theorem trans (h : s.SameBanks t) (h' : t.SameBanks u) : s.SameBanks u :=
  ⟨h'.banks.trans h.banks, h'.mem.trans h.mem, fun c => (h'.holder c).trans (h.holder c)⟩

theorem after (h : t.SameBanks u) (h' : s.SameBanks t) : s.SameBanks u := h'.trans h

theorem of_cogs (hb : t.banks = s.banks) (hm : t.mem = s.mem) (hc : t.cogs = s.cogs) : s.SameBanks t :=
  ⟨hb, hm, fun c => by simp only [State.cog, hc]⟩

theorem of_setCog (c : CogIx) {x : Cog} (hb : t.banks = s.banks) (hm : t.mem = s.mem) (hc : t.cogs = s.cogs.set c x)
    (hx : x.holder = (s.cog c).holder) : s.SameBanks t := by
  refine ⟨hb, hm, fun d => ?_⟩
  have h : t.cog d = (s.modCog c fun _ => x).cog d := by simp only [State.cog, hc, State.modCog_cogs]
  rw [h, State.cog_modCog]
  split
  · next e => rw [← e, hx]
  · rfl

theorem foldl_of {α β : Type} (g : β → State) {f : β → α → β} (l : List α) (b : β)
    (h : ∀ b x, (g b).SameBanks (g (f b x))) : (g b).SameBanks (g (l.foldl f b)) := by
  induction l generalizing b with
  | nil => exact refl _
  | cons x xs ih => exact (h b x).trans (ih (f b x))

theorem foldl {α : Type} {f : State → α → State} (l : List α) (s : State)
    (h : ∀ (s : State) x, s.SameBanks (f s x)) : s.SameBanks (l.foldl f s) := foldl_of id l s h

theorem bank (h : s.SameBanks t) (b : BankIx) : t.bank b = s.bank b := by simp only [State.bank, h.banks]

end State.SameBanks

section
variable (s : State)

theorem State.fqDrain_sameBanks (l : List (List Byte)) : s.SameBanks (s.fqDrain l) := by
  induction l generalizing s with
  | nil => exact .of_cogs rfl rfl rfl
  | cons e es ih =>
    rw [State.fqDrain]
    split
    · exact .after (ih _) (.of_cogs rfl rfl rfl)
    · exact .of_cogs rfl rfl rfl

theorem State.record_sameBanks (n : Nat) (l : List Byte) : s.SameBanks (s.record n l) := by
  unfold State.record
  extract_lets own t
  have h : s.SameBanks t := s.fqDrain_sameBanks own
  split
  · exact h.trans (.of_cogs rfl rfl rfl)
  · exact h

theorem State.eccWord_sameBanks (k : Nat) (b : Option Nat) (a : Word) (e : EccError) : s.SameBanks (s.eccWord k b a e) := by
  unfold State.eccWord
  extract_lets t
  have h : s.SameBanks t := .of_cogs rfl rfl rfl
  refine h.trans ?_
  split
  · exact .refl t
  · split
    · split
      · exact .refl t
      · exact .after (State.record_sameBanks ..) (.of_setCog _ rfl rfl rfl rfl)
    · split
      · exact .of_setCog _ rfl rfl rfl rfl
      · exact .of_setCog _ rfl rfl rfl rfl

theorem State.eccRead_sameBanks (k : Nat) (b : Option Nat) (a : Word) (x n : Nat) : s.SameBanks (s.eccRead k b a x n) :=
  .foldl _ s fun t e => t.eccWord_sameBanks k b a e

theorem State.schedule_sameBanks (n : Nat) (ev : Instr) : s.SameBanks (s.schedule n ev) := .of_cogs rfl rfl rfl

theorem State.scheduleAfter_sameBanks (p : Instr → Bool) (ev : Instr) : s.SameBanks (s.scheduleAfter p ev) :=
  .of_cogs rfl rfl rfl

theorem State.sendPacket_sameBanks (k : Packet) : s.SameBanks (s.sendPacket k) := by
  unfold State.sendPacket
  split
  · exact .refl s
  · exact .of_cogs rfl rfl rfl

theorem State.sentPacket_sameBanks (a : Nat) : s.SameBanks (s.sentPacket a).2 :=
  (s.eccRead_sameBanks ..).trans (State.eccRead_sameBanks ..)

end

/-! ### The ports of a bank in a commit -/

/-- What the commits of other ports change of port j: the other end's counts, and no rate, reservation or put. -/
structure PortState.Beside (j : Fin 16) (q q' : PortState) : Prop where
  peer     : q'.peer = q.peer
  rate     : q'.rate = q.rate
  reserved : q'.reserved = q.reserved
  puts     : q'.puts = q.puts
  cum      : 8 ≤ j.val → q'.cum = q.cum
  discard  : q.discard = 0 → q'.discard = 0
  freed    : q.discard = 0 → j.val < 8 → q'.freed = q.freed

/-- What its own commit makes of port j (R33, R34). -/
structure PortState.Committed (j : Fin 16) (q q' : PortState) : Prop where
  reserved : q'.reserved = 0
  cum      : 8 ≤ j.val → q'.cum = q.cum + BitVec.ofNat 16 q.rate
  puts     : 8 ≤ j.val → q'.puts = 0
  discard  : q.discard = 0 → q'.discard = 0
  freed    : q.discard = 0 → j.val < 8 → q'.freed = q.freed + BitVec.ofNat 16 q.rate

theorem PortState.Beside.refl (j : Fin 16) (q : PortState) : q.Beside j q :=
  ⟨rfl, rfl, rfl, rfl, fun _ => rfl, id, fun _ _ => rfl⟩

theorem PortState.Beside.trans {j : Fin 16} {q q' q'' : PortState} (h : q.Beside j q') (h' : q'.Beside j q'') :
    q.Beside j q'' :=
  ⟨h'.peer.trans h.peer, h'.rate.trans h.rate, h'.reserved.trans h.reserved, h'.puts.trans h.puts,
    fun k => (h'.cum k).trans (h.cum k), fun k => h'.discard (h.discard k),
    fun k l => (h'.freed (h.discard k) l).trans (h.freed k l)⟩

theorem PortState.Beside.committed {j : Fin 16} {q q' q'' : PortState} (h : q.Beside j q') (h' : q'.Committed j q'') :
    q.Committed j q'' :=
  ⟨h'.reserved, fun k => by rw [h'.cum k, h.cum k, h.rate], h'.puts, fun k => h'.discard (h.discard k),
    fun k l => by rw [h'.freed (h.discard k) l, h.freed k l, h.rate]⟩

theorem PortState.Committed.beside {j : Fin 16} {q q' q'' : PortState} (h : q.Committed j q')
    (h' : q'.Beside j q'') : q.Committed j q'' :=
  ⟨h'.reserved.trans h.reserved, fun k => (h'.cum k).trans (h.cum k), fun k => h'.puts.trans (h.puts k),
    fun k => h'.discard (h.discard k), fun k l => (h'.freed (h.discard k) l).trans (h.freed k l)⟩

/-- Port j after the commits of some ports, whether its own was among them. -/
def PortState.After (own : Prop) (j : Fin 16) (q q' : PortState) : Prop :=
  (own → q.Committed j q') ∧ (¬ own → q.Beside j q')

/-- From s to t nothing of bank b has changed but its ports, each as R says; nothing of the memory and no holder of a
core. -/
structure State.OnlyPorts (s : State) (b : BankIx) (R : Fin 16 → PortState → PortState → Prop) (t : State) : Prop where
  mem    : t.mem = s.mem
  holder : ∀ c, (t.cog c).holder = (s.cog c).holder
  bank   : t.bank b = { s.bank b with ports := (t.bank b).ports }
  port   : ∀ j, R j (s.bank b).ports[j] (t.bank b).ports[j]

/-- Other ports' commits. -/
abbrev State.Beside (s : State) (b : BankIx) (t : State) : Prop := s.OnlyPorts b PortState.Beside t

/-- The commit of port i. -/
abbrev State.CommitsPort (s : State) (b : BankIx) (i : Fin 16) (t : State) : Prop :=
  s.OnlyPorts b (fun j => PortState.After (j = i) j) t

namespace State.OnlyPorts
variable {s t u : State} {b : BankIx} {R R' R'' : Fin 16 → PortState → PortState → Prop}

theorem trans (h : s.OnlyPorts b R t) (h' : t.OnlyPorts b R' u)
    (hR : ∀ j q q' q'', R j q q' → R' j q' q'' → R'' j q q'') : s.OnlyPorts b R'' u where
  mem := h'.mem.trans h.mem
  holder c := (h'.holder c).trans (h.holder c)
  bank := by rw [h'.bank, h.bank]
  port j := hR j _ _ _ (h.port j) (h'.port j)

theorem weaken (h : s.OnlyPorts b R t)
    (hR : ∀ j q', R j (s.bank b).ports[j] q' → R' j (s.bank b).ports[j] q') : s.OnlyPorts b R' t :=
  ⟨h.mem, h.holder, h.bank, fun j => hR j _ (h.port j)⟩

theorem beside (h : s.Beside b t) (h' : t.Beside b u) : s.Beside b u := h.trans h' fun _ _ _ _ => .trans

theorem commits_beside {i : Fin 16} (h : s.CommitsPort b i t) (h' : t.Beside b u) : s.CommitsPort b i u :=
  h.trans h' fun _ _ _ _ k k' => ⟨fun e => (k.1 e).beside k', fun e => (k.2 e).trans k'⟩

theorem beside_commits {i : Fin 16} (h : s.Beside b t) (h' : t.CommitsPort b i u) : s.CommitsPort b i u :=
  h.trans h' fun _ _ _ _ k k' => ⟨fun e => k.committed (k'.1 e), fun e => k.trans (k'.2 e)⟩

end State.OnlyPorts

theorem State.SameBanks.beside {s t : State} (h : s.SameBanks t) (b : BankIx) : s.Beside b t := by
  have e := h.bank b
  exact ⟨h.mem, h.holder, by rw [e], fun j => by rw [e]; exact .refl ..⟩

theorem State.Beside.refl (s : State) (b : BankIx) : s.Beside b s := (State.SameBanks.refl s).beside b

/-- A port of some bank is replaced by one that differs as other ports' commits may make it. -/
theorem State.Beside.of_setPort {s : State} (b k : BankIx) (o : Fin 16) (f : Bank → PortState)
    (h : (s.bank k).ports[o].Beside o (f (s.bank k))) : s.Beside b (s.modBank k fun x => x.setPort o (f x)) := by
  refine ⟨rfl, fun c => rfl, ?_, fun j => ?_⟩ <;> rw [State.bank_modBank] <;> split
  · next e => subst e; rfl
  · rfl
  · next e =>
    subst e
    rw [Bank.setPort_ports]
    split
    · next e => subst e; exact h
    · exact .refl ..
  · exact .refl ..

/-- A port of the bank is replaced by what its commit makes of it. -/
theorem State.CommitsPort.of_setPort {s : State} (b : BankIx) (i : Fin 16) (f : Bank → PortState)
    (h : (s.bank b).ports[i].Committed i (f (s.bank b))) : s.CommitsPort b i (s.modBank b fun x => x.setPort i (f x)) := by
  refine ⟨rfl, fun c => rfl, ?_, fun j => ?_⟩ <;> rw [State.bank_modBank_self]
  · rfl
  · rw [Bank.setPort_ports]
    split
    · next e => subst e; exact ⟨fun _ => h, fun e => absurd rfl e⟩
    · next e => exact ⟨fun e' => absurd e'.symm e, fun _ => .refl ..⟩

/-! ### The commit of one port -/

theorem State.wantReturn_beside (s : State) (b k : BankIx) (p : Fin 8) : s.Beside b (s.wantReturn k p) := by
  unfold State.wantReturn
  exact .of_setPort b k _ _ ⟨rfl, rfl, rfl, rfl, fun _ => rfl, id, fun _ _ => rfl⟩

/-- Packets that arrive at an input port: discarded ones only where packets are to be discarded (R345). -/
theorem State.arrived_beside (s : State) (b k : BankIx) (p : Fin 16) (n : Nat) (hp : p.val < 8) :
    s.Beside b (s.arrived k p n) := by
  unfold State.arrived
  extract_lets q d t
  have hd (h : q.discard = 0) : d = 0 := (congrArg (Nat.min · n) h).trans (Nat.zero_min n)
  have h : s.Beside b t := .of_setPort b k p _
    ⟨rfl, rfl, rfl, rfl, fun h => absurd hp (by omega), fun h => (congrArg (· - d) h).trans (Nat.zero_sub d),
      fun h _ => by rw [hd h]; exact BitVec.add_zero _⟩
  split
  · exact h
  · exact h.beside (t.wantReturn_beside ..)

/-- The producer's port that a return is for is an output port. -/
theorem State.producerOf_output {s : State} {id port : Nat} {k : BankIx} {o : Fin 16}
    (h : s.producerOf id port = some (k, o)) : 8 ≤ o.val := by
  obtain ⟨b, -, hb⟩ := List.exists_of_findSome?_eq_some h
  dsimp only at hb
  split at hb
  · cases hb
  · obtain ⟨i, hi, e⟩ := Option.map_eq_some_iff.1 hb
    cases e
    have := List.find?_some hi
    simp only [Bool.and_eq_true, decide_eq_true_eq] at this
    exact this.1

theorem State.commitIn_commits (s : State) (b : BankIx) (i : Fin 16) (hi : i.val < 8) :
    s.CommitsPort b i (s.commitIn b i) := by
  unfold State.commitIn
  extract_lets q c t p u
  have ht : s.CommitsPort b i t := .of_setPort b i _
    ⟨rfl, fun h => absurd hi (by omega), fun h => absurd hi (by omega), id, fun _ _ => rfl⟩
  have hu : t.Beside b u := by
    simp only [u]
    split
    · split
      · split
        · next k o h =>
          have ho := State.producerOf_output h
          exact .of_setPort b k o _ ⟨rfl, rfl, rfl, rfl, fun _ => rfl, id, fun _ h => absurd ho (by omega)⟩
        · exact .refl ..
      · exact .refl ..
    · exact .refl ..
  exact (ht.commits_beside hu).commits_beside (u.wantReturn_beside b b p)

theorem State.commitOut_commits (s : State) (b : BankIx) (i : Fin 16) (hi : 8 ≤ i.val) :
    s.CommitsPort b i (s.commitOut b i) := by
  unfold State.commitOut
  extract_lets q n far t
  have hfar (put : State → Packet → State) (hput : ∀ (v : State) k, v.SameBanks (put v k)) : s.SameBanks (far s put) := by
    simp only [far]
    split
    · exact .refl s
    · exact .foldl _ s fun v j => (v.sentPacket_sameBanks _).trans (hput ..)
  have ht : s.Beside b t := by
    simp only [t]
    split
    · exact .refl ..
    · split
      · exact .refl ..
      · split
        · exact (hfar _ State.sendPacket_sameBanks).beside b
        · split
          · exact .refl ..
          · split
            · exact s.arrived_beside b _ _ n (by simp)
            · refine State.SameBanks.beside ?_ b
              exact .after (State.schedule_sameBanks ..) (.of_cogs rfl rfl rfl)
      · split
        · exact (hfar _ State.sendPacket_sameBanks).beside b
        · refine State.SameBanks.beside ?_ b
          simp only [far]
          split
          · exact .refl s
          · exact .foldl _ s fun v j => (v.sentPacket_sameBanks _).trans (State.scheduleAfter_sameBanks ..)
  have hr : (t.bank b).ports[i].rate = n := (ht.port i).rate
  refine ht.beside_commits (.of_setPort b i _ ⟨rfl, fun _ => by rw [hr], fun _ => rfl, id, fun _ h => absurd hi (by omega)⟩)

/-- Every bound port of a list commits. -/
theorem State.commitPorts (b : BankIx) (l : List (Fin 16)) (hl : l.Nodup) (s : State) :
    s.OnlyPorts b (fun j q => PortState.After (j ∈ l ∧ q.peer ≠ .none) j q) (l.foldl (fun s i =>
      if !((s.bank b).ports[i]).bound then s else if i.val < 8 then s.commitIn b i else s.commitOut b i) s) := by
  induction l generalizing s with
  | nil => exact (State.Beside.refl s b).weaken fun j _ h => ⟨by simp, fun _ => h⟩
  | cons i l ih =>
    obtain ⟨hi, hl⟩ := List.nodup_cons.1 hl
    rw [List.foldl_cons]
    have step : s.OnlyPorts b (fun j q => PortState.After (j = i ∧ q.peer ≠ .none) j q)
        (if !((s.bank b).ports[i]).bound then s else if i.val < 8 then s.commitIn b i else s.commitOut b i) := by
      by_cases hp : (s.bank b).ports[i].peer = .none
      · rw [if_pos (by simpa [PortState.bound] using hp)]
        exact (State.Beside.refl s b).weaken fun j q' h => ⟨fun h' => absurd (h'.1 ▸ hp) h'.2, fun _ => h⟩
      · rw [if_neg (by simpa [PortState.bound] using hp)]
        have own (j : Fin 16) (q' : PortState) (h : PortState.After (j = i) j (s.bank b).ports[j] q') :
            PortState.After (j = i ∧ (s.bank b).ports[j].peer ≠ .none) j (s.bank b).ports[j] q' :=
          ⟨fun e => h.1 e.1, fun e => h.2 fun e' => e ⟨e', e' ▸ hp⟩⟩
        split
        · next h => exact (s.commitIn_commits b i h).weaken own
        · next h => exact (s.commitOut_commits b i (by omega)).weaken own
    refine step.trans (ih hl _) fun j q q' q'' h h' => ?_
    by_cases e : j = i
    · subst e
      have h' := h'.2 fun k => hi k.1
      exact ⟨fun k => (h.1 ⟨rfl, k.2⟩).beside h', fun k => (h.2 fun k' => k ⟨List.mem_cons_self, k'.2⟩).trans h'⟩
    · have h := h.2 fun k => e k.1
      exact ⟨fun k => h.committed (h'.1 ⟨(List.mem_cons.1 k.1).resolve_left e, h.peer ▸ k.2⟩),
        fun k => h.trans (h'.2 fun k' => k ⟨List.mem_cons_of_mem _ k'.1, h.peer ▸ k'.2⟩)⟩

/-! ### The commit of an iteration -/

theorem State.flush_effect (s : State) (b : BankIx) : (s.flush b).mem = s.mem ∧
    (∀ c, ((s.flush b).cog c).holder = (s.cog c).holder) ∧ (s.flush b).bank b = { s.bank b with pend := {} } := by
  have h (pc : Word) : s.SameBanks ((s.bank b).pend.copyErr.foldl (fun s e => s.trapRecord b pc e.1 0x04 0 0x02) s) :=
    .foldl _ s fun t e => t.record_sameBanks ..
  refine ⟨(h _).mem, (h _).holder, ?_⟩
  rw [State.flush, State.bank_modBank_self, (h _).bank b]

/-- Everything that a commit does to its bank: the working carries become the committed ones, bases, budget and
boundary events are cleared, the firing is counted, and every bound port commits (R33 to R35, R207). -/
theorem State.commitBank_effect (s : State) (b : BankIx) :
    (s.commitBank b).mem = s.mem ∧ (∀ c, ((s.commitBank b).cog c).holder = (s.cog c).holder) ∧
    (s.commitBank b).bank b = { s.bank b with
      c := (s.bank b).cWork, cv := (s.bank b).cvWork, rotS := 0, rotV := 0, rotP := 0, budcnt := 0, budgetRow := 0,
      budgetDone := false, live := false, mode := .idle, putSlots := [], firings := (s.bank b).firings + 1, pend := {},
      ports := ((s.commitBank b).bank b).ports } ∧
    ∀ j, PortState.After ((s.bank b).ports[j].peer ≠ .none) j (s.bank b).ports[j] ((s.commitBank b).bank b).ports[j] := by
  unfold State.commitBank
  extract_lets t
  have ht : s.OnlyPorts b _ t := s.commitPorts b (List.finRange 16) (List.nodup_finRange 16)
  clear_value t
  obtain ⟨hmem, hholder, hbank⟩ := t.flush_effect b
  obtain ⟨ps, hps⟩ : ∃ ps, t.bank b = { s.bank b with ports := ps } := ⟨_, ht.bank⟩
  refine ⟨by rw [State.modBank_mem, hmem, ht.mem], fun c => by rw [State.cog_modBank, hholder, ht.holder], ?_, fun j => ?_⟩
  · rw [State.bank_modBank_self, hbank, hps]
  · rw [State.bank_modBank_self, hbank]
    exact ⟨fun h => (ht.port j).1 ⟨List.mem_finRange j, h⟩, fun h => (ht.port j).2 fun h' => h h'.2⟩

end Sys2Proof.Machine
end

section
/-! COMMIT: a STAGE.END that completes, one that waits, and one whose commit is due (R33, R207). -/

namespace Sys2Proof.Machine

/-- What a bank gives when its iteration commits (R33 to R35, R207). -/
def Bank.Commits (x y : Bank) : Prop :=
  y.mode = .idle ∧ y.live = false ∧ y.c = x.cWork ∧ y.cv = x.cvWork ∧ y.rotS = 0 ∧ y.rotV = 0 ∧ y.rotP = 0 ∧ y.budcnt = 0 ∧
  y.s = x.s ∧ y.p = x.p ∧ y.v = x.v ∧ y.g = x.g ∧ y.h = x.h ∧ y.firings = x.firings + 1 ∧
  (∀ i : Fin 16, x.ports[i].peer ≠ .none → y.ports[i].reserved = 0) ∧
  (∀ i : Fin 16, 8 ≤ i.val → x.ports[i].peer ≠ .none →
    y.ports[i].cum = x.ports[i].cum + BitVec.ofNat 16 x.ports[i].rate ∧ y.ports[i].puts = 0) ∧
  ((∀ i : Fin 16, x.ports[i].discard = 0) → ∀ i : Fin 16, i.val < 8 → x.ports[i].peer ≠ .none →
    y.ports[i].freed = x.ports[i].freed + BitVec.ofNat 16 x.ports[i].rate)

theorem State.commitBank_commits (s : State) (b : BankIx) :
    (s.commitBank b).mem = s.mem ∧ (s.bank b).Commits ((s.commitBank b).bank b) := by
  obtain ⟨hmem, -, hbank, hport⟩ := s.commitBank_effect b
  generalize (s.commitBank b).bank b = y at hbank hport
  refine ⟨hmem, ?_⟩
  have own (i : Fin 16) (h : (s.bank b).ports[i].peer ≠ .none) := (hport i).1 h
  generalize y.ports = ps at hbank own
  subst hbank
  exact ⟨rfl, rfl, rfl, rfl, rfl, rfl, rfl, rfl, rfl, rfl, rfl, rfl, rfl, rfl, fun i h => (own i h).reserved,
    fun i hi h => ⟨(own i h).cum hi, (own i h).puts hi⟩, fun hd i hi h => (own i h).freed (hd i) hi⟩

/-- A bank that yields: it gives up the core, and only its budget counter and the cycle of its yield can change (R40 to
R42). -/
theorem State.yield_effect (s : State) (b : BankIx) : (s.yield b).mem = s.mem ∧ (s.yield b).holds b = false ∧
    ∃ clk n, (s.yield b).bank b = { s.bank b with yieldClk := clk, budcnt := n } ∧
      ((s.bank b).live = false → n = (s.bank b).budcnt) := by
  unfold State.yield
  split
  · refine ⟨rfl, by simp [State.holds], s.clk, _, by rw [State.bank_modCog, State.bank_modBank_self], ?_⟩
    intro h
    simp [h]
  · next h => exact ⟨rfl, by simpa using h, (s.bank b).yieldClk, (s.bank b).budcnt, rfl, fun _ => rfl⟩

/-- A commit with which the core is given up. -/
theorem State.commitYield_commits (s : State) (b : BankIx) : ((s.commitBank b).yield b).mem = s.mem ∧
    ((s.commitBank b).yield b).holds b = false ∧ (s.bank b).Commits (((s.commitBank b).yield b).bank b) := by
  obtain ⟨hmem, hc⟩ := s.commitBank_commits b
  obtain ⟨hmem', hholds, clk, n, hbank, hn⟩ := (s.commitBank b).yield_effect b
  refine ⟨hmem'.trans hmem, hholds, ?_⟩
  rw [hbank, hn hc.2.1]
  generalize (s.commitBank b).bank b = y at hc
  exact hc

theorem State.stageEndStep_ending {s : State} {b : BankIx} (hf : (s.cog b.cog).failed = false)
    (hm : (s.bank b).mode = .ending) (hr : s.commitReady b = true) (hh : (s.cog b.cog).heldFrom ≤ s.clk) :
    s.stageEndStep b = some (if s.time.toNat % 2 = 1 then (s.commitBank b).yield b
      else (s.modBank b fun x => { x with mode := .ended }).yield b) := by
  have hr' := hr
  simp only [State.commitReady, Bool.and_eq_true, Bool.not_eq_true'] at hr'
  obtain ⟨⟨hw, he⟩, -⟩ := hr'
  simp only [State.stageEndStep, hf, hm, hw, he, hr, Nat.not_lt.2 hh, Bool.not_true, Bool.false_eq_true, if_false,
    decide_false, Bool.or_self]
  split <;> rfl

theorem State.stageEndStep_ended {s : State} {b : BankIx} (hf : (s.cog b.cog).failed = false)
    (hm : (s.bank b).mode = .ended) :
    s.stageEndStep b = if s.time.toNat % 2 = 1 then some (s.commitBank b) else none := by
  simp [State.stageEndStep, hf, hm]

/-- COMMIT of a bank whose STAGE.END completes now, or whose commit is due (R33, R207). -/
theorem commit_phases (s : State) (b : BankIx) (hf : (s.cog b.cog).failed = false) : let x := s.bank b
    let commits : Prop := ∃ t, exec (.commit b) s = .next t ∧ t.mem = s.mem ∧ (x.mode = .ending → t.holds b = false) ∧
      x.Commits (t.bank b)
    (x.mode = .ending → s.commitReady b = true → (s.cog b.cog).heldFrom ≤ s.clk →
      (s.time.toNat % 2 = 1 → commits) ∧
      (s.time.toNat % 2 = 0 → ∃ t, exec (.commit b) s = .next t ∧ (t.bank b).mode = .ended ∧ t.holds b = false ∧
        (t.bank b).regs = x.regs ∧ (t.bank b).ports = x.ports ∧ t.mem = s.mem)) ∧
    (x.mode = .ended → (s.time.toNat % 2 = 0 → exec (.commit b) s = .next s) ∧ (s.time.toNat % 2 = 1 → commits)) := by
  have he : exec (.commit b) s = .next ((s.stageEndStep b).getD s) := rfl
  refine ⟨fun hm hr hh => ⟨fun ht => ?odd, fun ht => ?even⟩, fun hm => ⟨fun ht => ?wait, fun ht => ?due⟩⟩
  case odd =>
    obtain ⟨hmem, hholds, hc⟩ := s.commitYield_commits b
    refine ⟨(s.commitBank b).yield b, ?_, hmem, fun _ => hholds, hc⟩
    rw [he, State.stageEndStep_ending hf hm hr hh, if_pos ht, Option.getD_some]
  case even =>
    obtain ⟨hmem, hholds, clk, n, hbank, -⟩ := (s.modBank b fun x => { x with mode := .ended }).yield_effect b
    rw [State.bank_modBank_self] at hbank
    refine ⟨(s.modBank b fun x => { x with mode := .ended }).yield b, ?_, ?_, hholds, ?_, ?_, hmem⟩
    · rw [he, State.stageEndStep_ending hf hm hr hh, if_neg (by omega), Option.getD_some]
    · rw [hbank]
    · rw [hbank]; rfl
    · rw [hbank]
  case wait => rw [he, State.stageEndStep_ended hf hm, if_neg (by omega), Option.getD_none]
  case due =>
    obtain ⟨hmem, hc⟩ := s.commitBank_commits b
    refine ⟨s.commitBank b, ?_, hmem, fun h => by simp [hm] at h, hc⟩
    rw [he, State.stageEndStep_ended hf hm, if_pos ht, Option.getD_some]

end Sys2Proof.Machine
end

section
/-! The choice of the core among the banks of a cog, and CORE_HANDOVER (R40, R41). -/

namespace Sys2Proof.Machine

/-! ## The choice of the core (R40, R41) -/

/-- A fraction is at most another, both with denominators above 0: an order on pairs by cross-multiplication. -/
def FracLe (a b : Nat × Nat) : Prop := a.1 * b.2 ≤ b.1 * a.2

theorem FracLe.refl (a : Nat × Nat) : FracLe a a := Nat.le_refl _

theorem FracLe.trans {a b c : Nat × Nat} (hb : 0 < b.2) (h : FracLe a b) (h' : FracLe b c) : FracLe a c := by
  unfold FracLe at *
  refine Nat.le_of_mul_le_mul_left ?_ hb
  calc b.2 * (a.1 * c.2) = a.1 * b.2 * c.2 := by ring
    _ ≤ b.1 * a.2 * c.2 := Nat.mul_le_mul_right _ h
    _ = b.1 * c.2 * a.2 := by ring
    _ ≤ c.1 * b.2 * a.2 := Nat.mul_le_mul_right _ h'
    _ = b.2 * (c.1 * a.2) := by ring

/-- One port's part in the search for the fullest input. -/
def Bank.fuller (b : Bank) (m : Nat × Nat) (i : Fin 16) : Nat × Nat :=
  if i.val < 8 && b.ports[i].bound && m.1 * b.ports[i].depth < b.ports[i].snapOcc * m.2 then
    (b.ports[i].snapOcc, b.ports[i].depth) else m

theorem Bank.occupancy_eq (b : Bank) : b.occupancy = (List.finRange 16).foldl b.fuller (0, 1) := rfl

/-- The port is an input of the bank that is bound. -/
def Bank.isInput (b : Bank) (i : Fin 16) : Prop := i.val < 8 ∧ b.ports[i].peer ≠ .none

/-- What the search has found after some ports: none that it has passed is fuller, and it is nothing or one of the
bound inputs with packets. -/
structure Bank.Fullest (b : Bank) (l : List (Fin 16)) (m : Nat × Nat) : Prop where
  pos : 0 < m.2
  max : ∀ i ∈ l, b.isInput i → FracLe (b.ports[i].snapOcc, b.ports[i].depth) m
  one : m.1 = 0 ∨ ∃ i, b.isInput i ∧ m.1 = b.ports[i].snapOcc ∧ m.2 = b.ports[i].depth

theorem Bank.Fullest.step {b : Bank} (hd : ∀ i, b.isInput i → 0 < b.ports[i].depth) {l : List (Fin 16)} {m : Nat × Nat}
    (h : b.Fullest l m) (i : Fin 16) : b.Fullest (l ++ [i]) (b.fuller m i) := by
  unfold Bank.fuller
  split
  · next hc =>
    simp only [Bool.and_eq_true, decide_eq_true_eq] at hc
    obtain ⟨⟨hi, hp⟩, hlt⟩ := hc
    have hin : b.isInput i := ⟨hi, by simpa [PortState.bound] using hp⟩
    refine ⟨hd i hin, fun j hj hjn => ?_, .inr ⟨i, hin, rfl, rfl⟩⟩
    rcases List.mem_append.1 hj with hj | hj
    · exact (h.max j hj hjn).trans h.pos (Nat.le_of_lt hlt)
    · rw [List.mem_singleton.1 hj]; exact .refl _
  · next hc =>
    refine ⟨h.pos, fun j hj hjn => ?_, h.one⟩
    rcases List.mem_append.1 hj with hj | hj
    · exact h.max j hj hjn
    · rw [List.mem_singleton.1 hj] at hjn ⊢
      have : ¬ m.1 * b.ports[i].depth < b.ports[i].snapOcc * m.2 := fun hlt =>
        hc (by simp only [Bool.and_eq_true, decide_eq_true_eq, PortState.bound, ne_eq]; exact ⟨hjn, hlt⟩)
      exact Nat.le_of_not_lt this

theorem Bank.Fullest.foldl {b : Bank} (hd : ∀ i, b.isInput i → 0 < b.ports[i].depth) (l' : List (Fin 16)) :
    ∀ {l : List (Fin 16)} {m : Nat × Nat}, b.Fullest l m → b.Fullest (l ++ l') (l'.foldl b.fuller m) := by
  induction l' with
  | nil => intro l m h; simpa using h
  | cons i l' ih => intro l m h; simpa using ih (h.step hd i)

theorem Bank.occupancy_fullest {b : Bank} (hd : ∀ i, b.isInput i → 0 < b.ports[i].depth) :
    b.Fullest (List.finRange 16) b.occupancy :=
  Bank.Fullest.foldl hd _ (l := []) ⟨Nat.one_pos, by simp, .inl rfl⟩

/-- One bank's fullest input is fuller than every input of the other, in terms of the ports. -/
theorem Bank.occupancy_lt_iff {a b : Bank} (ha : ∀ i, a.isInput i → 0 < a.ports[i].depth)
    (hb : ∀ i, b.isInput i → 0 < b.ports[i].depth) :
    a.occupancy.1 * b.occupancy.2 < b.occupancy.1 * a.occupancy.2 ↔
      ∃ i, b.isInput i ∧ 0 < b.ports[i].snapOcc ∧
        ∀ j, a.isInput j → a.ports[j].snapOcc * b.ports[i].depth < b.ports[i].snapOcc * a.ports[j].depth := by
  have fa := Bank.occupancy_fullest ha
  have fb := Bank.occupancy_fullest hb
  generalize a.occupancy = m at fa ⊢
  generalize b.occupancy = n at fb ⊢
  constructor
  · intro h
    rcases fb.one with h0 | ⟨i, hi, hocc, hdepth⟩
    · simp [h0] at h
    · rw [hocc] at h
      have hpos : 0 < b.ports[i].snapOcc := Nat.pos_of_mul_pos_right (Nat.zero_lt_of_lt h)
      refine ⟨i, hi, hpos, fun j hj => ?_⟩
      refine Nat.lt_of_not_le fun hle => Nat.not_le.2 h ?_
      rw [← hdepth] at hle
      exact FracLe.trans (a := (b.ports[i].snapOcc, n.2)) (b := (a.ports[j].snapOcc, a.ports[j].depth)) (ha j hj) hle
        (fa.max j (List.mem_finRange j) hj)
  · rintro ⟨i, hi, hpos, h⟩
    refine Nat.lt_of_not_le fun hle => ?_
    have hi' := FracLe.trans fb.pos (fb.max i (List.mem_finRange i) hi) hle
    rcases fa.one with h0 | ⟨j, hj, hocc, hdepth⟩
    · simp only [FracLe, h0, Nat.zero_mul, Nat.le_zero, Nat.mul_eq_zero] at hi'
      have := fa.pos
      omega
    · simp only [FracLe, hocc, hdepth] at hi'
      exact Nat.not_le.2 (h j hj) hi'

theorem CogIx.bank_cog (c : CogIx) (h : Bool) : (c.bank h).cog = c := by
  apply Fin.ext
  cases h
  · simp [CogIx.bank, BankIx.cog]
  · simp only [CogIx.bank, BankIx.cog, Bool.toNat_true]; omega

theorem CogIx.bank_other (c : CogIx) (h : Bool) : (c.bank h).other = c.bank !h := by
  rw [BankIx.other, CogIx.bank_cog]
  cases h <;> simp [CogIx.bank, BankIx.num]

theorem CogIx.bank_ne_other (c : CogIx) (h : Bool) : c.bank h ≠ c.bank !h := by
  cases h <;> simp [CogIx.bank]

/-- The choice where only one bank is ready. -/
theorem State.choose_of_only {s : State} {c : CogIx} {h : Bool} (hr : (s.bank (c.bank h)).isReady s.time = true)
    (ho : (s.bank (c.bank !h)).isReady s.time = false) : s.choose c = some h := by
  cases h <;> simp_all [State.choose]

/-- The choice where both banks are ready and one has been passed over. -/
theorem State.choose_of_passed {s : State} {c : CogIx} {h : Bool} (hr : ∀ k, (s.bank (c.bank k)).isReady s.time = true)
    (hp : (s.cog c).passed = some h) : s.choose c = some h := by
  simp only [State.choose, hr, hp, Bool.and_self, if_true]

/-- The fullest input of one bank of a cog is fuller than every input of the other. -/
def State.fuller (s : State) (c : CogIx) (k : Bool) : Prop :=
  ∃ i, (s.bank (c.bank k)).isInput i ∧ 0 < (s.bank (c.bank k)).ports[i].snapOcc ∧
    ∀ j, (s.bank (c.bank !k)).isInput j → (s.bank (c.bank !k)).ports[j].snapOcc * (s.bank (c.bank k)).ports[i].depth <
      (s.bank (c.bank k)).ports[i].snapOcc * (s.bank (c.bank !k)).ports[j].depth

/-- The choice where both banks are ready and none has been passed over: the fuller one, else the one that did not hold
the core last (R41). -/
theorem State.choose_of_fuller {s : State} {c : CogIx} {h : Bool} (hr : ∀ k, (s.bank (c.bank k)).isReady s.time = true)
    (hp : (s.cog c).passed = none)
    (hd : ∀ k i, (s.bank (c.bank k)).isInput i → 0 < (s.bank (c.bank k)).ports[i].depth)
    (hf : s.fuller c h ∨ (¬ s.fuller c (!h) ∧ h = ((s.cog c).lastHolder.map (!·)).getD false)) :
    s.choose c = some h := by
  have h0 : _ ↔ s.fuller c false := Bank.occupancy_lt_iff (hd true) (hd false)
  have h1 : _ ↔ s.fuller c true := Bank.occupancy_lt_iff (hd false) (hd true)
  have asym : s.fuller c true → ¬ s.fuller c false := fun k k' => Nat.lt_asymm (h1.2 k) (h0.2 k')
  rw [Bool.not_false] at h0
  rw [Bool.not_true] at h1
  simp only [State.choose, hr, hp, Bool.and_self, if_true]
  by_cases f0 : s.fuller c false
  · have f1 := fun k => asym k f0
    have : h = false := by cases h <;> simp_all
    rw [if_pos (h0.2 f0), this]
  · by_cases f1 : s.fuller c true
    · have : h = true := by cases h <;> simp_all
      rw [if_neg (mt h0.1 f0), if_pos (h1.2 f1), this]
    · have : h = ((s.cog c).lastHolder.map (!·)).getD false := by cases h <;> simp_all
      rw [if_neg (mt h0.1 f0), if_neg (mt h1.1 f1), this]
      cases (s.cog c).lastHolder <;> rfl

/-! ## CORE_HANDOVER (R40, R41, R207, R209) -/

/-- The cycle in which the bank that takes the core may issue first. -/
def State.takesFrom (s : State) (c : CogIx) : Nat :=
  let y := match (s.cog c).lastHolder with
    | some l => (s.bank (c.bank l)).yieldClk + 2
    | none => 0
  if (s.time.toNat + (Nat.max s.clk y - s.clk)) % 2 = 0 then Nat.max s.clk y else Nat.max s.clk y + 1

theorem State.takesFrom_spec (s : State) (c : CogIx) : s.clk ≤ s.takesFrom c ∧
    (s.time.toNat + (s.takesFrom c - s.clk)) % 2 = 0 ∧
    ∀ l, (s.cog c).lastHolder = some l → (s.bank (c.bank l)).yieldClk + 2 ≤ s.takesFrom c := by
  unfold State.takesFrom
  extract_lets y
  have hclk : s.clk ≤ Nat.max s.clk y := Nat.le_max_left ..
  have hy : y ≤ Nat.max s.clk y := Nat.le_max_right ..
  have hl (l : Bool) (h : (s.cog c).lastHolder = some l) : (s.bank (c.bank l)).yieldClk + 2 = y := by simp only [y, h]
  generalize Nat.max s.clk y = n at hclk hy
  split
  · next he => exact ⟨hclk, he, fun l h => hl l h ▸ hy⟩
  · next he => exact ⟨by omega, by omega, fun l h => hl l h ▸ by omega⟩

theorem coreHandover_eq {s : State} {c : CogIx} {h : Bool} (hn : (s.cog c).holder = none) (hf : (s.cog c).failed = false)
    (hc : s.choose c = some h) : exec (.coreHandover c) s = .next
      ((s.modCog c fun x =>
        { x with
          holder := some h, heldFrom := s.takesFrom c,
          passed := if (s.bank (c.bank !h)).isReady s.time then some !h else none }).modBank (c.bank h) fun x =>
        { x with
          mode := if x.mode = .endReady then .ending else .running, nextIssue := s.takesFrom c + x.delay, delay := 0 }) := by
  have he : exec (.coreHandover c) s = execCoreHandover c s := rfl
  rw [he, execCoreHandover, hn, hf, if_neg (by simp), hc]
  simp only [CogIx.bank_other]
  rfl

/-- CORE_HANDOVER to the bank that R41 chooses. -/
theorem coreHandover_gives {s : State} {c : CogIx} {h : Bool} (hn : (s.cog c).holder = none)
    (hf : (s.cog c).failed = false) (hc : s.choose c = some h) :
    ∃ t, exec (.coreHandover c) s = .next t ∧ (t.cog c).holder = some h ∧
      (t.bank (c.bank h)).mode = (if (s.bank (c.bank h)).mode = .endReady then .ending else .running) ∧
      (t.bank (c.bank h)).nextIssue = (t.cog c).heldFrom + (s.bank (c.bank h)).delay ∧
      s.clk ≤ (t.cog c).heldFrom ∧ (s.time.toNat + ((t.cog c).heldFrom - s.clk)) % 2 = 0 ∧
      (∀ l, (s.cog c).lastHolder = some l → (s.bank (c.bank l)).yieldClk + 2 ≤ (t.cog c).heldFrom) ∧
      ((t.cog c).passed = if (s.bank (c.bank !h)).isReady s.time then some !h else none) ∧
      t.bank (c.bank !h) = s.bank (c.bank !h) ∧ t.mem = s.mem := by
  obtain ⟨hclk, heven, hlast⟩ := s.takesFrom_spec c
  refine ⟨_, coreHandover_eq hn hf hc, ?_⟩
  rw [State.cog_modBank, State.cog_modCog_self, State.bank_modBank_self, State.bank_modCog,
    State.bank_modBank_ne _ _ (CogIx.bank_ne_other c h), State.bank_modCog]
  exact ⟨rfl, rfl, rfl, hclk, heven, hlast, rfl, rfl, rfl⟩

end Sys2Proof.Machine
end

section
/-! FIRING_EVALUATION (R28 to R32, R35, R39), and what writes into a memory list leave, whatever the form of the list. -/

namespace Sys2Proof.Machine

/-! ## Firing (R28 to R32, R35, R39) -/

theorem vmap_getElem {α β : Type} {n : Nat} (f : α → β) (v : Vector α n) (i : Nat) (h : i < n) :
    (vmap f v)[i] = f v[i] := by simp [vmap]

/-- Every bound port has its declared count. -/
theorem Bank.supplied_iff (x : Bank) :
    x.supplied = true ↔ ∀ i : Fin 16, x.ports[i].peer = .none ∨ x.ports[i].rate ≤ x.ports[i].snap := by
  simp only [Bank.supplied, List.all_eq_true, Bool.or_eq_true, Bool.not_eq_true', decide_eq_true_eq, PortState.bound,
    ne_eq, decide_eq_false_iff_not, not_not]
  constructor
  · exact fun h i => h _ (by simp)
  · intro h q hq
    obtain ⟨i, hi, rfl⟩ := List.mem_iff_getElem.1 hq
    exact h ⟨i, by simpa using hi⟩

/-- The bytes of one iteration-private window become free values (R39). -/
def State.freeWindow (c : CogIx) (s : State) (w : Win) : State :=
  { s.draw.2 with mem := memSets s.mem (w.target c.val w.base) ((List.range w.size).map (Config.freeByte s.free)) }

/-- The iteration-private windows of a bank that has run. -/
def Bank.privates (x : Bank) : List Win := x.windows.toList.filter fun w => w.bit 0 && w.bit 5

theorem State.privFree_eq (s : State) (b : BankIx) :
    s.privFree b = if (s.bank b).rerun then (s.bank b).privates.foldl (State.freeWindow b.cog) s else s := rfl

theorem State.freeWindows_banks (c : CogIx) (l : List Win) (s : State) : (l.foldl (State.freeWindow c) s).banks = s.banks := by
  induction l generalizing s with
  | nil => rfl
  | cons w l ih => rw [List.foldl_cons, ih]; rfl

theorem State.privFree_bank (s : State) (b c : BankIx) : (s.privFree b).bank c = s.bank c := by
  rw [State.privFree_eq]
  split
  · rw [State.bank, State.freeWindows_banks]; rfl
  · rfl

/-- The windows of a list leave a byte at an address. -/
def OutsideWindows (c : CogIx) (l : List Win) (a : Nat) : Prop :=
  ∀ w ∈ l, a < w.target c.val w.base ∨ w.target c.val w.base + w.size ≤ a

theorem firingEvaluation_eq (s : State) (b : BankIx) : exec (.firingEvaluation b) s =
    let u : State := { s with evalNext := b.val + 1 }
    if (s.bank b).mayFire && !(s.cog b.cog).failed && s.time.toNat % 2 = 0 then
      .next ((u.privFree b).modBank b fun x => x.fire s.time)
    else .next u := rfl

/-- A bank that may not fire: the evaluation goes on to the next bank. -/
theorem firingEvaluation_stays (s : State) (b : BankIx) : let x := s.bank b
    (x.active = false ∨ x.freewheel = true ∨ x.mode ≠ .idle ∨ x.live = true ∨ (s.cog b.cog).failed = true ∨
        s.time.toNat % 2 = 1 ∨ ∃ i : Fin 16, x.ports[i].peer ≠ .none ∧ x.ports[i].snap < x.ports[i].rate) →
      exec (.firingEvaluation b) s = .next { s with evalNext := b.val + 1 } := by
  intro x h
  rw [firingEvaluation_eq]
  refine if_neg fun hc => ?_
  simp only [Bank.mayFire, Bool.and_eq_true, Bool.not_eq_true', decide_eq_true_eq] at hc
  obtain ⟨⟨⟨⟨⟨⟨⟨ha, hw⟩, hm⟩, hl⟩, hs⟩, -⟩, hf⟩, ht⟩ := hc
  rcases h with h | h | h | h | h | h | ⟨i, hp, hi⟩
  · simp [x, ha] at h
  · simp [x, hw] at h
  · exact h hm
  · simp [x, hl] at h
  · simp [hf] at h
  · omega
  · exact ((Bank.supplied_iff _).1 hs i).elim hp (Nat.not_le.2 hi)

/-- A supplied bank fires. What the bytes of its iteration-private windows become is said of the memory: see
freeWindows_mem. -/
theorem firingEvaluation_fires (s : State) (b : BankIx) : let x := s.bank b
    x.active = true → x.freewheel = false → x.mode = .idle → x.live = false → x.settled = true →
      (∀ i : Fin 16, x.ports[i].peer = .none ∨ x.ports[i].rate ≤ x.ports[i].snap) → (s.cog b.cog).failed = false →
      s.time.toNat % 2 = 0 →
      ∃ t, exec (.firingEvaluation b) s = .next t ∧ (∀ c, c ≠ b → t.bank c = s.bank c) ∧
        (x.rerun = false → t.mem = s.mem) ∧
        (x.rerun = true → t.mem = (x.privates.foldl (State.freeWindow b.cog) { s with evalNext := b.val + 1 }).mem) ∧
        t.bank b = x.fire s.time := by
  intro x ha hw hm hl hs hp hf ht
  have hmay : (s.bank b).mayFire = true := by
    have hp := (Bank.supplied_iff x).2 hp
    simp only [x] at *
    simp [Bank.mayFire, *]
  have he := firingEvaluation_eq s b
  simp only [hmay, hf, ht, Bool.not_false, Bool.and_self, decide_true, if_true] at he
  refine ⟨_, he, fun c hc => ?_, fun hr => ?_, fun hr => ?_, ?_⟩
  · rw [State.bank_modBank_ne _ _ hc.symm, State.privFree_bank]; rfl
  · rw [State.modBank_mem, State.privFree_eq, if_neg]
    exact fun h => Bool.false_ne_true (hr.symm.trans h)
  · rw [State.modBank_mem, State.privFree_eq, if_pos]
    · rfl
    · exact hr
  · rw [State.bank_modBank_self, State.privFree_bank]; rfl

/-- The ports of a bank that fires reserve their declared counts (R29). -/
theorem Bank.fire_reserved (x : Bank) (w : Word) (i : Fin 16) (h : x.ports[i].peer ≠ .none) :
    (x.fire w).ports[i].reserved = x.ports[i].rate := by
  have : (x.fire w).ports[i] = _ := vmap_getElem _ x.ports i.val i.isLt
  rw [this]
  exact if_pos (by simpa [PortState.bound] using h)

/-! ### The bytes outside the iteration-private windows -/

/-- Free values in the private windows leave every other byte of a memory in canonical form (R39). -/
theorem State.freeWindows_mem (c : CogIx) (l : List Win) (s : State) (hs : s.Inv) (a : Nat) (ha : OutsideWindows c l a) :
    memByte (l.foldl (State.freeWindow c) s).mem a = memByte s.mem a := by
  induction l generalizing s with
  | nil => rfl
  | cons w l ih =>
    rw [List.foldl_cons, ih (State.freeWindow c s w) (Memory.wf_sets _ _ hs) fun v hv => ha v (List.mem_cons_of_mem _ hv)]
    exact memByte_memSets_other _ _ _ hs (by simpa using ha w List.mem_cons_self)

/-- A byte that is not zero, written into a list of any form, leaves every other address as it read. -/
theorem memByte_memSet_nonzero (m : List Host.Cell) {a k : Nat} {y : Byte} (hy : y ≠ 0) (h : k ≠ a) :
    memByte (memSet m k y) a = memByte m a := by
  induction m with
  | nil => rw [memSet, if_neg hy]; simp [memByte, h]
  | cons e r ih =>
    obtain ⟨c, x⟩ := e
    simp only [memSet, hy, if_false]
    split
    · next e => subst e; simp [memByte, h]
    · split
      · next hlt =>
        simp only [memByte, h, if_false]
        split
        · next hlt' => rw [if_neg (by omega), if_pos (by omega)]
        · rfl
      · simp only [memByte, ih]

/-- A byte written into a list of any form leaves what reads at or below an address that reads other than 0. -/
theorem memByte_memSet_beyond (m : List Host.Cell) {a k n : Nat} (y : Byte) (hk : memByte m k ≠ 0) (ha : a ≤ k)
    (hn : k < n) : memByte (memSet m n y) a = memByte m a := by
  induction m with
  | nil => exact absurd rfl hk
  | cons e r ih =>
    obtain ⟨c, x⟩ := e
    have hc : c ≤ k := Nat.le_of_not_lt fun h => hk (by rw [memByte, if_neg (by omega), if_pos h])
    rw [memSet, if_neg (by omega), if_neg (by omega), memByte, memByte]
    split
    · rfl
    · split
      · rfl
      · next h => exact ih fun h0 => hk (by rw [memByte, if_neg (by omega), if_neg (by omega), h0])

/-- A byte written into a list of any form leaves what reads above it. -/
theorem memByte_memSet_above (m : List Host.Cell) {a n : Nat} (y : Byte) (hn : n < a) :
    memByte (memSet m n y) a = memByte m a := by
  by_cases hy : y = 0
  · subst hy
    induction m with
    | nil => rfl
    | cons e r ih =>
      obtain ⟨c, x⟩ := e
      rw [memSet]
      split
      · next e => rw [if_pos rfl, memByte, if_neg (by omega), if_neg (by omega)]
      · split
        · rw [if_pos rfl]
        · rw [memByte, memByte, ih]
  · exact memByte_memSet_nonzero m hy (by omega)

theorem memByte_memSets_above (m : List Host.Cell) {a n : Nat} (l : List Byte) (hn : n + l.length ≤ a) :
    memByte (memSets m n l) a = memByte m a := by
  induction l generalizing m n with
  | nil => rfl
  | cons y l ih =>
    rw [List.length_cons] at hn
    rw [memSets, ih _ (by omega), memByte_memSet_above m y (by omega)]

theorem memByte_memSets_beyond (m : List Host.Cell) {a k n : Nat} (l : List Byte) (hk : memByte m k ≠ 0) (ha : a ≤ k)
    (hn : k < n) : memByte (memSets m n l) a = memByte m a := by
  induction l generalizing m n with
  | nil => rfl
  | cons y l ih =>
    have h := memByte_memSet_beyond m y hk (Nat.le_refl k) hn
    rw [memSets, ih _ (h ▸ hk) (by omega), memByte_memSet_beyond m y hk ha hn]

theorem memByte_memSet_self (m : List Host.Cell) (k : Nat) {y : Byte} (hy : y ≠ 0) : memByte (memSet m k y) k = y := by
  induction m with
  | nil => rw [memSet, if_neg hy, memByte, if_pos rfl]
  | cons e r ih =>
    obtain ⟨c, x⟩ := e
    simp only [memSet, hy, if_false]
    split
    · simp [memByte]
    · split
      · simp [memByte]
      · next h h' => rw [memByte, if_neg h, if_neg h', ih]

/-- A run whose first byte is not zero, written into a list of any form, leaves every address outside it as it read. -/
theorem memByte_memSets_of_head (m : List Host.Cell) {a n : Nat} (y : Byte) (l : List Byte) (hy : y ≠ 0)
    (h : a < n ∨ n + (y :: l).length ≤ a) : memByte (memSets m n (y :: l)) a = memByte m a := by
  rcases h with h | h
  · have hn : memByte (memSet m n y) n ≠ 0 := by rwa [memByte_memSet_self m n hy]
    rw [memSets, memByte_memSets_beyond _ l hn (by omega) (by omega), memByte_memSet_nonzero m hy (by omega)]
  · exact memByte_memSets_above m _ h

end Sys2Proof.Machine
end

section
/-! O49 as a whole. Every clause holds in every state, but for one: a byte outside the iteration-private windows keeps its
value at a firing. That clause needs a memory in canonical form (`State.Inv`), which the statement does not assume. On
a list out of order a zero byte removes an entry and uncovers one behind it. The bytes are the opaque
`Config.freeByte`, so the statement as it stands says neither more nor less than that no free value begins with a zero
byte, and neither it nor its negation follows from the model. `firingEvaluation_of_keeps` with
`State.Inv.freeWindows_keeps` is the clause with `s.Inv`. -/

namespace Sys2Proof.Machine

/-! ## The core clock (R9, R10, R381) -/

/-- TIME_ADVANCE without power, and with it. -/
theorem timeAdvance_clock (s : State) : (s.powered = false → exec .timeAdvance s = .fault .railsOff) ∧
    (s.powered = true → ∃ t, exec .timeAdvance s = .next t ∧ t.clk = s.clk + 1 ∧
      t.time = s.time + 1 + (if s.time.toNat % 2 = 1 then BitVec.ofNat 64 s.td.step else 0)) := by
  have he : exec .timeAdvance s = if s.powered then .next s.tick else .fault .railsOff := rfl
  exact ⟨fun h => by simp [he, h], fun h => ⟨s.tick, by simp [he, h], s.tick_now⟩⟩

/-! ## The statement of the firing and the free values -/

/-- Where no free value begins with a zero byte, free values in the private windows leave every other byte of a memory
of any form. -/
theorem State.freeWindows_mem_of_head (hfree : ∀ n, Config.freeByte n 0 ≠ 0) (c : CogIx) (l : List Win) (s : State)
    {a : Nat} (ha : OutsideWindows c l a) : memByte (l.foldl (State.freeWindow c) s).mem a = memByte s.mem a := by
  induction l generalizing s with
  | nil => rfl
  | cons w l ih =>
    rw [List.foldl_cons, ih _ fun v hv => ha v (List.mem_cons_of_mem _ hv)]
    have hw := ha w List.mem_cons_self
    show memByte (memSets s.mem _ ((List.range w.size).map (Config.freeByte s.free))) a = _
    generalize w.size = k at hw
    cases k with
    | zero => rfl
    | succ k =>
      rw [List.range_succ_eq_map, List.map_cons]
      exact memByte_memSets_of_head _ _ _ (hfree _) (by simpa using hw)

/-- The address is outside the iteration-private windows, as the statement says it. -/
theorem outsideWindows_privates {c : CogIx} {x : Bank} {a : Nat}
    (h : ∀ w ∈ x.windows.toList, w.bit 0 = true → w.bit 5 = true →
      a < w.target c.val w.base ∨ w.target c.val w.base + w.size ≤ a) : OutsideWindows c x.privates a := by
  intro w hw
  obtain ⟨hw, hb⟩ := List.mem_filter.1 hw
  obtain ⟨hv, hp⟩ := Bool.and_eq_true_iff.1 hb
  exact h w hw hv hp

/-- A supplied bank fires (R28 to R32, R39), with what its free values leave of the memory as a hypothesis. -/
theorem firingEvaluation_of_keeps (s : State) (b : BankIx)
    (hkeeps : ∀ (u : State) (a : Nat), u.mem = s.mem → OutsideWindows b.cog (s.bank b).privates a →
      memByte ((s.bank b).privates.foldl (State.freeWindow b.cog) u).mem a = memByte s.mem a) : let x := s.bank b
    x.active = true → x.freewheel = false → x.mode = .idle → x.live = false → x.settled = true →
      (∀ i : Fin 16, x.ports[i].peer = .none ∨ x.ports[i].rate ≤ x.ports[i].snap) → (s.cog b.cog).failed = false →
      s.time.toNat % 2 = 0 →
      ∃ t, exec (.firingEvaluation b) s = .next t ∧ (∀ c, c ≠ b → t.bank c = s.bank c) ∧
        (x.rerun = false → t.mem = s.mem) ∧
        (∀ a, (∀ w ∈ x.windows.toList, w.bit 0 = true → w.bit 5 = true →
            a < w.target b.cog.val w.base ∨ w.target b.cog.val w.base + w.size ≤ a) →
          memByte t.mem a = memByte s.mem a) ∧
        let y := t.bank b
        y.mode = .fired s.time ∧ y.live = true ∧ y.pc = x.stage.entry ∧ y.rstpt = x.stage.entry ∧ y.cWork = x.c ∧
        y.cvWork = x.cv ∧ y.c = x.c ∧ y.rotS = 0 ∧ y.rotV = 0 ∧ y.rotP = 0 ∧ y.asidcur = 0 ∧ y.budcnt = 0 ∧ y.s = x.s ∧
        y.p = x.p ∧ y.v = x.v ∧ y.rerun = false ∧
        ∀ i : Fin 16, x.ports[i].peer ≠ .none → y.ports[i].reserved = x.ports[i].rate := by
  intro x ha hw hm hl hs hp hf ht
  obtain ⟨t, he, hother, hsame, hmem, hbank⟩ := firingEvaluation_fires s b ha hw hm hl hs hp hf ht
  refine ⟨t, he, hother, hsame, fun a hout => ?_, ?_⟩
  · cases hr : x.rerun
    · rw [hsame hr]
    · rw [hmem hr]
      exact hkeeps _ a rfl (outsideWindows_privates hout)
  · rw [hbank]
    exact ⟨rfl, rfl, rfl, rfl, rfl, rfl, rfl, rfl, rfl, rfl, rfl, rfl, rfl, rfl, rfl, rfl,
      fun i hi => Bank.fire_reserved _ s.time i hi⟩

/-- The bytes that the free values of a firing leave, with the memory in canonical form. -/
theorem State.Inv.freeWindows_keeps {s : State} (hs : s.Inv) (b : BankIx) (u : State) (a : Nat) (hu : u.mem = s.mem)
    (ha : OutsideWindows b.cog (s.bank b).privates a) :
    memByte ((s.bank b).privates.foldl (State.freeWindow b.cog) u).mem a = memByte s.mem a :=
  hu ▸ State.freeWindows_mem b.cog _ u (hu ▸ hs : Memory.wf u.mem = true) a ha

/-- The core is free, and the ready bank is the one R41 chooses. -/
theorem State.choose_of_clause {s : State} {c : CogIx} {h : Bool} (hr : (s.bank (c.bank h)).isReady s.time = true)
    (hc : (s.bank (c.bank !h)).isReady s.time = false ∨ (s.cog c).passed = some h ∨
      ((s.cog c).passed = none ∧ (∀ k i, (s.bank (c.bank k)).isInput i → 0 < (s.bank (c.bank k)).ports[i].depth) ∧
        (s.fuller c h ∨ (¬ s.fuller c (!h) ∧ h = ((s.cog c).lastHolder.map (!·)).getD false)))) :
    s.choose c = some h := by
  cases ho : (s.bank (c.bank !h)).isReady s.time
  · exact State.choose_of_only hr ho
  · have both : ∀ k, (s.bank (c.bank k)).isReady s.time = true := by
      intro k
      cases h <;> cases k <;> assumption
    rcases hc with hc | hc | ⟨hp, hd, hf⟩
    · simp [ho] at hc
    · exact State.choose_of_passed both hc
    · exact State.choose_of_fuller both hp hd hf

/-- All clauses of O49, where no free value begins with a zero byte. -/
theorem timeAndFiring_of_head (hfree : ∀ n, Config.freeByte n 0 ≠ 0) : Obligations.TimeAndFiring := by
  refine ⟨timeAdvance_clock, fun s b => ⟨firingEvaluation_stays s b, firingEvaluation_of_keeps s b fun u a hu ha => ?_⟩,
    fun s c h hn hf hr => ?_, commit_phases⟩
  · rw [State.freeWindows_mem_of_head hfree _ _ _ ha, hu]
  · intro input occ depth fuller hc
    refine coreHandover_gives hn hf (State.choose_of_clause hr ?_)
    rcases hc with hc | hc | ⟨hp, hd, hfull | ⟨hno, hlast⟩⟩
    · exact .inl hc
    · exact .inr (.inl hc)
    · exact .inr (.inr ⟨hp, hd, .inl hfull⟩)
    · refine .inr (.inr ⟨hp, hd, .inr ⟨hno, hlast.trans ?_⟩⟩)
      cases (s.cog c).lastHolder <;> rfl

/-- A window of one byte at offset 5, valid and private to the iteration. -/
def privateByte : Win := { w0 := 0, w1 := 1, w2 := 5, w3 := 33 }

/-- A bank that fires again, with its one private window. -/
def refiringBank : Bank :=
  { Bank.reset with active := true, rerun := true, windows := (Vector.replicate 64 Win.reset).set 0 privateByte }

/-- A memory list out of order: address 3 reads 0 behind the entry for address 5. -/
def disorderedState (n : Nat) : State :=
  { State.reset with free := n, mem := [(5, 1), (3, 7)], banks := State.reset.banks.set 0 refiringBank }

theorem disorderedState_bank (n : Nat) : (disorderedState n).bank 0 = refiringBank := by
  simp [disorderedState, State.bank]

theorem refiringBank_privates : refiringBank.privates = [privateByte] := by decide +kernel

/-- A free byte of 0, written to the private window, uncovers the entry behind it. -/
theorem disorderedState_uncovers {n : Nat} (h : Config.freeByte n 0 = 0) (k : Nat) :
    memByte (refiringBank.privates.foldl (State.freeWindow (BankIx.cog 0)) { disorderedState n with evalNext := k }).mem 3 = 7 := by
  rw [refiringBank_privates]
  show memByte (memSets [(5, 1), (3, 7)] 5 [Config.freeByte n 0]) 3 = 7
  rw [h]
  rfl

/-- O49 gives that no free value begins with a zero byte: one that did would change a byte outside the window. -/
theorem freeByte_ne_zero_of_timeAndFiring (h : Obligations.TimeAndFiring) (n : Nat) : Config.freeByte n 0 ≠ 0 := by
  intro h0
  obtain ⟨-, hfire, -, -⟩ := h
  have hbank := disorderedState_bank n
  have hcog : ((disorderedState n).cog 0).failed = false := by simp [disorderedState, State.cog, State.reset, Cog.reset]
  have hports (i : Fin 16) : ((disorderedState n).bank 0).ports[i].peer = .none := by
    rw [hbank]; revert i; decide +kernel
  obtain ⟨-, hfires⟩ := hfire (disorderedState n) 0
  obtain ⟨ha, hw, hm, hl, hs, hr⟩ : refiringBank.active = true ∧ refiringBank.freewheel = false ∧
      refiringBank.mode = .idle ∧ refiringBank.live = false ∧ refiringBank.settled = true ∧
      refiringBank.rerun = true := by decide +kernel
  rw [← hbank] at ha hw hm hl hs hr
  obtain ⟨t, he, -, -, hmem, -⟩ := hfires ha hw hm hl hs (fun i => .inl (hports i)) hcog rfl
  obtain ⟨t', he', -, -, hmem', -⟩ := firingEvaluation_fires _ 0 ha hw hm hl hs (fun i => .inl (hports i)) hcog rfl
  obtain rfl : t = t' := Host.Outcome.next.inj (he.symm.trans he')
  have hout : ∀ w ∈ refiringBank.windows.toList, w.bit 0 = true → w.bit 5 = true →
      3 < w.target 0 w.base ∨ w.target 0 w.base + w.size ≤ 3 := by decide +kernel
  have before : memByte t.mem 3 = 0 := hmem 3 (by rw [hbank]; exact hout)
  have after : memByte t.mem 3 = 7 := by
    rw [hmem' hr, hbank]
    exact disorderedState_uncovers h0 _
  exact absurd (before.symm.trans after) (by decide)

/-- What O49 says as it stands, about an opaque constant: it is neither provable nor refutable. -/
theorem timeAndFiring_iff_freeByte : Obligations.TimeAndFiring ↔ ∀ n, Config.freeByte n 0 ≠ 0 :=
  ⟨freeByte_ne_zero_of_timeAndFiring, timeAndFiring_of_head⟩

end Sys2Proof.Machine
end

section
/-! What is left of a bank, and what enters the fault queue, where a bank's iteration is abandoned and the bank stops (R37,
R330). -/

namespace Sys2Proof.Machine

/-! ## What an operation on one bank leaves (R37, R330) -/

/-- From s to t the memory and every bank but b are as they were. -/
structure State.OnlyBank (s : State) (b : BankIx) (t : State) : Prop where
  mem   : t.mem = s.mem
  other : ∀ c, c ≠ b → t.bank c = s.bank c

namespace State.OnlyBank
variable {s t u : State} {b : BankIx}

theorem refl (s : State) (b : BankIx) : s.OnlyBank b s := ⟨rfl, fun _ _ => rfl⟩

theorem trans (h : s.OnlyBank b t) (h' : t.OnlyBank b u) : s.OnlyBank b u :=
  ⟨h'.mem.trans h.mem, fun c hc => (h'.other c hc).trans (h.other c hc)⟩

end State.OnlyBank

theorem State.SameBanks.onlyBank {s t : State} (h : s.SameBanks t) (b : BankIx) : s.OnlyBank b t :=
  ⟨h.mem, fun c _ => h.bank c⟩

section
variable (s : State) (b : BankIx)

theorem State.modBank_onlyBank (f : Bank → Bank) : s.OnlyBank b (s.modBank b f) :=
  ⟨rfl, fun _ hc => State.bank_modBank_ne s f hc.symm⟩

theorem State.trapRecord_sameBanks (epc val : Word) (action sub cause : Nat) :
    s.SameBanks (s.trapRecord b epc val action sub cause) := s.record_sameBanks ..

theorem State.flush_onlyBank : s.OnlyBank b (s.flush b) := by
  unfold State.flush
  extract_lets x
  have h : s.SameBanks (x.pend.copyErr.foldl (fun s e => s.trapRecord b x.pc e.1 0x04 0 0x02) s) :=
    .foldl _ s fun t e => t.trapRecord_sameBanks ..
  exact (h.onlyBank b).trans (State.modBank_onlyBank _ b _)

theorem State.yield_onlyBank : s.OnlyBank b (s.yield b) := by
  unfold State.yield
  split
  · exact ⟨rfl, fun c hc => (State.bank_modCog ..).trans (State.bank_modBank_ne s _ hc.symm)⟩
  · exact .refl s b

@[simp] theorem State.yield_hub : (s.yield b).hub = s.hub := by unfold State.yield; split <;> rfl
@[simp] theorem State.yield_outbox : (s.yield b).outbox = s.outbox := by unfold State.yield; split <;> rfl

/-- With no copy error left, the end of an iteration records nothing. -/
theorem State.flush_of_no_copyErr (h : (s.bank b).pend.copyErr = []) :
    s.flush b = s.modBank b fun x => { x with pend := {} } := by
  simp only [State.flush, h, List.foldl_nil]

theorem State.abandonBank_onlyBank : s.OnlyBank b (s.abandonBank b) :=
  (s.flush_onlyBank b).trans (State.modBank_onlyBank _ b _)

/-- What is left of a bank whose iteration is abandoned (R37). -/
theorem State.abandonBank_bank : (s.abandonBank b).bank b = Bank.abandon { s.bank b with pend := {} } := by
  rw [State.abandonBank, State.bank_modBank_self, (s.flush_effect b).2.2]

theorem State.abandonBank_hub (h : (s.bank b).pend.copyErr = []) : (s.abandonBank b).hub = s.hub := by
  rw [State.abandonBank, State.flush_of_no_copyErr s b h]; rfl

theorem State.abandonBank_outbox (h : (s.bank b).pend.copyErr = []) : (s.abandonBank b).outbox = s.outbox := by
  rw [State.abandonBank, State.flush_of_no_copyErr s b h]; rfl

/-- No reservation and no put is left of an iteration that is abandoned (R37). -/
theorem Bank.abandon_port (x : Bank) (i : Fin 16) :
    x.abandon.ports[i] = { x.ports[i] with reserved := 0, puts := 0, rstPuts := 0 } := vmap_getElem ..

end

/-! ## Trap records (R330, R394) -/

/-- The fault queue does not see the banks. -/
theorem State.fqDrain_withBanks (s : State) (bs : Vector Bank 640) (l : List (List Byte)) :
    ({ s with banks := bs } : State).fqDrain l = { s.fqDrain l with banks := bs } := by
  induction l generalizing s with
  | nil => rfl
  | cons e es ih =>
    simp only [State.fqDrain]
    split
    · exact ih (s.fqWrite e)
    · rfl

/-- The hub's own buffer of fault records gives way to its oldest entry. -/
def State.fqTrim (s : State) : State :=
  if s.hub.fqown.length > 256 then
    { s with hub := { s.hub with fqown := s.hub.fqown.tail, fqlost := satAdd s.hub.fqlost 1 } }
  else s

theorem State.record_eq (s : State) (type : Nat) (rec : List Byte) :
    s.record type rec = (s.fqDrain (s.hub.fqown ++ [faultEntry s.hub.pkg type rec])).fqTrim := rfl

theorem State.fqTrim_withBanks (s : State) (bs : Vector Bank 640) :
    ({ s with banks := bs } : State).fqTrim = { s.fqTrim with banks := bs } := by
  unfold State.fqTrim
  split <;> rfl

theorem State.record_withBanks (s : State) (bs : Vector Bank 640) (type : Nat) (rec : List Byte) :
    ({ s with banks := bs } : State).record type rec = { s.record type rec with banks := bs } := by
  rw [State.record_eq, State.record_eq, State.fqDrain_withBanks, State.fqTrim_withBanks]

theorem State.trapRecorded_iff {s t : State} {b : BankIx} {epc val : Word} {action sub cause : Nat} :
    s.TrapRecorded t b epc val action sub cause ↔
      t.hub = (s.trapRecord b epc val action sub cause).hub ∧
      t.outbox = (s.trapRecord b epc val action sub cause).outbox := Iff.rfl

theorem State.trapRecord_modBank (s : State) (b : BankIx) {f : Bank → Bank} (epc val : Word) (action sub cause : Nat)
    (hf : (f (s.bank b)).stage = (s.bank b).stage) : (s.modBank b f).trapRecord b epc val action sub cause =
      { s.trapRecord b epc val action sub cause with banks := s.banks.set b (f (s.bank b)) } := by
  unfold State.trapRecord
  rw [State.bank_modBank_self, hf]
  exact s.record_withBanks ..

/-- A change of the bank that keeps its stage makes no difference to its trap records. -/
theorem State.TrapRecorded.of_modBank {s t : State} {b : BankIx} {f : Bank → Bank} {epc val : Word}
    {action sub cause : Nat} (hf : (f (s.bank b)).stage = (s.bank b).stage)
    (h : (s.modBank b f).TrapRecorded t b epc val action sub cause) : s.TrapRecorded t b epc val action sub cause := by
  rw [State.trapRecorded_iff, State.trapRecord_modBank s b _ _ _ _ _ hf] at h
  exact State.trapRecorded_iff.2 h

/-! ## A bank that stops (R330) -/

/-- What is left of a bank that has stopped. -/
def Bank.stopped (x : Bank) : Bank :=
  { Bank.abandon { x with pend := {} } with mode := .stopped, hmode := false, aband := false, handlerAt := none }

theorem State.stopBank_onlyBank (s : State) (b : BankIx) (epc val : Word) (sub cause : Nat) :
    s.OnlyBank b (s.stopBank b epc val sub cause) :=
  (((s.trapRecord_sameBanks ..).onlyBank b).trans (State.abandonBank_onlyBank _ b)).trans
    ((State.modBank_onlyBank _ b _).trans (State.yield_onlyBank _ b))

theorem State.stopBank_holds (s : State) (b : BankIx) (epc val : Word) (sub cause : Nat) :
    (s.stopBank b epc val sub cause).holds b = false := (State.yield_effect _ b).2.1

/-- Only the cycle of its yield and its budget counter are not those of `Bank.stopped`. -/
theorem State.stopBank_bank (s : State) (b : BankIx) (epc val : Word) (sub cause : Nat) : ∃ clk n,
    (s.stopBank b epc val sub cause).bank b = { (s.bank b).stopped with yieldClk := clk, budcnt := n } := by
  obtain ⟨-, -, clk, n, hbank, -⟩ := State.yield_effect
    (((s.trapRecord b epc val 0x01 sub cause).abandonBank b).modBank b fun x =>
      { x with mode := .stopped, hmode := false, aband := false, handlerAt := none }) b
  refine ⟨clk, n, hbank.trans ?_⟩
  rw [State.bank_modBank_self, State.abandonBank_bank, (s.trapRecord_sameBanks ..).bank b]
  rfl

theorem State.stopBank_recorded (s : State) (b : BankIx) (epc val : Word) (sub cause : Nat)
    (h : (s.bank b).pend.copyErr = []) :
    s.TrapRecorded (s.stopBank b epc val sub cause) b epc val 1 sub cause := by
  have h' : ((s.trapRecord b epc val 0x01 sub cause).bank b).pend.copyErr = [] := by
    rw [(s.trapRecord_sameBanks ..).bank b, h]
  refine State.trapRecorded_iff.2 ⟨?_, ?_⟩
  · rw [State.stopBank, State.yield_hub, State.modBank_hub, State.abandonBank_hub _ b h']
  · rw [State.stopBank, State.yield_outbox, State.modBank_outbox, State.abandonBank_outbox _ b h']

end Sys2Proof.Machine
end

section
/-! O20: how a trap is taken, case by case, and the handler that it starts (R326 to R328, R330, R335, R336). -/

namespace Sys2Proof.Machine

/-! ## Taking a trap, case by case (R326, R327) -/

/-- TCAUSE, TEPC and TVAL are written (R328). -/
def Bank.latch (x : Bank) (t : Trap) (epc : Word) : Bank := { x with tcause := t.tcause, tepc := epc, tval := t.val }

/-- The handler of a trap with a cause starts in a bank (R327). -/
def Bank.startHandler (x : Bank) (clk : Nat) (holds : Bool) (cause : Nat) : Bank :=
  let x := if cause = 0x04 then { x with budgetRow := x.budgetRow + 1 } else x
  let x := if causeAbandons cause then { x with aband := true, handlerAt := some clk } else x
  { x with hmode := true, pc := x.tvec, mode := if holds then .running else .ready, nextIssue := clk + 1 }

/-- The bank goes back to its restart point (R333, R335). -/
def Bank.restart (x : Bank) : Bank :=
  { x with pc := x.rstpt, rotS := x.rstRot.1, rotV := x.rstRot.2.1, rotP := x.rstRot.2.2,
           ports := vmap (fun p => { p with puts := p.rstPuts }) x.ports }

section
variable (s : State) (b : BankIx) (t : Trap) (epc : Word)

/-- The state of a bank whose trap registers are written. -/
abbrev State.latched : State := s.modBank b fun x => x.latch t epc

variable {s b t epc}

/-- A second trap while a handler runs (R330). -/
theorem State.enterTrap_double (h : (s.bank b).hmode = true) :
    s.enterTrap b t epc = (s.latched b t epc).stopBank b epc t.val t.cause 0x3F := by
  simp only [State.enterTrap, h, if_true]; rfl

/-- The eighth budget trap in a row (R336). -/
theorem State.enterTrap_budgetRow (h : (s.bank b).hmode = false) (hc : t.cause = 0x04) (hr : 7 ≤ (s.bank b).budgetRow) :
    s.enterTrap b t epc = (s.latched b t epc).stopBank b epc t.val t.sub t.cause := by
  simp only [State.enterTrap, h, if_false, Bool.false_eq_true]
  exact if_pos ⟨hc, by omega⟩

/-- A trap that starts a handler (R327). -/
theorem State.enterTrap_handler (h : (s.bank b).hmode = false) (hr : t.cause = 0x04 → (s.bank b).budgetRow < 7)
    (hv : (s.bank b).tvec ≠ 0) : s.enterTrap b t epc =
      (if causeAbandons t.cause then (s.latched b t epc).abandonBank b else s.latched b t epc).modBank b
        fun x => x.startHandler s.clk (s.holds b) t.cause := by
  have hr' : ¬ (t.cause = 0x04 ∧ (s.bank b).budgetRow + 1 ≥ 8) := fun ⟨hc, hb⟩ => by have := hr hc; omega
  simp only [State.enterTrap, h, if_false, Bool.false_eq_true, if_neg hr', if_pos hv]
  rfl

/-- The action of R326 for a machine check and the software trap: recorded, and the bank goes on at TEPC. -/
theorem State.enterTrap_goesOn (h : (s.bank b).hmode = false) (hv : (s.bank b).tvec = 0)
    (hc : t.cause = 0x01 ∨ t.cause = 0x21) : s.enterTrap b t epc =
      ((((s.latched b t epc).trapRecord b epc t.val 0x02 t.sub t.cause).modBank b
        fun x => { x with pc := epc, mode := .ready }).yield b) := by
  have hr : ¬ (t.cause = 0x04 ∧ (s.bank b).budgetRow + 1 ≥ 8) := by omega
  simp only [State.enterTrap, h, if_false, Bool.false_eq_true, if_neg hr, hv, ne_eq, not_true_eq_false, if_pos hc]
  rfl

/-- The action of R326 for the timing trap (R335). -/
theorem State.enterTrap_restarts (h : (s.bank b).hmode = false) (hv : (s.bank b).tvec = 0) (hc : t.cause = 0x03) :
    s.enterTrap b t epc =
      let u := (s.latched b t epc).modBank b Bank.restart
      if t.val.ule s.time || !s.copies.any (·.bank = b) then
        u.modBank b fun x => { x with mode := if s.holds b then .running else .ready, nextIssue := s.clk + 1 }
      else (u.modBank b fun x => { x with mode := .sleepTrap t.val }).yield b := by
  simp only [State.enterTrap, h, if_false, Bool.false_eq_true, hv, ne_eq, not_true_eq_false, hc]
  rfl

/-- The action of R326 for the budget trap, up to the seventh in a row (R336). -/
theorem State.enterTrap_budget (h : (s.bank b).hmode = false) (hv : (s.bank b).tvec = 0) (hc : t.cause = 0x04)
    (hr : (s.bank b).budgetRow < 7) : s.enterTrap b t epc =
      (((((s.latched b t epc).trapRecord b epc t.val 0x03 t.sub t.cause).abandonBank b).modBank b
        fun x => { x with mode := .idle, budgetRow := x.budgetRow + 1 }).yield b) := by
  have hr : ¬ (t.cause = 0x04 ∧ (s.bank b).budgetRow + 1 ≥ 8) := by omega
  simp only [State.enterTrap, h, if_false, Bool.false_eq_true, if_neg hr, hv, ne_eq, not_true_eq_false]
  rw [if_neg (by omega), if_neg (by omega), if_pos hc]
  rfl

/-- Every other cause stops the bank (R326, R330). -/
theorem State.enterTrap_stops (h : (s.bank b).hmode = false) (hv : (s.bank b).tvec = 0) (h1 : t.cause ≠ 0x01)
    (h3 : t.cause ≠ 0x03) (h4 : t.cause ≠ 0x04) (h21 : t.cause ≠ 0x21) :
    s.enterTrap b t epc = (s.latched b t epc).stopBank b epc t.val t.sub t.cause := by
  simp only [State.enterTrap, h, if_false, Bool.false_eq_true, hv, ne_eq, not_true_eq_false, h1, h3, h4, h21,
    false_and, or_self]
  rfl

end

/-! ## A handler starts (R327) -/

theorem Bank.startHandler_of_stays (x : Bank) (clk : Nat) (holds : Bool) {cause : Nat}
    (h : causeAbandons cause = false) (h4 : cause ≠ 0x04) : x.startHandler clk holds cause =
      { x with hmode := true, pc := x.tvec, mode := if holds then .running else .ready, nextIssue := clk + 1 } := by
  simp only [Bank.startHandler, h4, h, if_false, Bool.false_eq_true]

theorem Bank.startHandler_of_abandons (x : Bank) (clk : Nat) (holds : Bool) {cause : Nat}
    (h : causeAbandons cause = true) : ∃ n, x.startHandler clk holds cause =
      { x with budgetRow := n, aband := true, handlerAt := some clk, hmode := true, pc := x.tvec,
               mode := if holds then .running else .ready, nextIssue := clk + 1 } := by
  simp only [Bank.startHandler, h, if_true]
  split
  · exact ⟨_, rfl⟩
  · exact ⟨_, rfl⟩

section
variable (s : State) (b : BankIx) (t : Trap) (epc : Word)

/-- A trap that leaves the iteration in progress: the trap registers, HMODE and the program counter change. -/
theorem enterTrap_keeps_iteration (h : (s.bank b).hmode = false) (hv : (s.bank b).tvec ≠ 0) (h4 : t.cause ≠ 0x04)
    (h20 : t.cause ≠ 0x20) : (s.enterTrap b t epc).mem = s.mem ∧ (s.enterTrap b t epc).hub = s.hub ∧
      (∀ c, c ≠ b → (s.enterTrap b t epc).bank c = s.bank c) ∧
      (s.enterTrap b t epc).bank b = { (s.bank b).latch t epc with
        hmode := true, pc := (s.bank b).tvec, mode := if s.holds b then .running else .ready, nextIssue := s.clk + 1 } := by
  have ha : causeAbandons t.cause = false := by simp [causeAbandons, h4, h20]
  rw [State.enterTrap_handler h (fun hc => absurd hc h4) hv, ha, if_neg Bool.false_ne_true]
  have hb := (State.modBank_onlyBank s b fun x => x.latch t epc).trans
    (State.modBank_onlyBank _ b fun x => x.startHandler s.clk (s.holds b) t.cause)
  refine ⟨hb.mem, rfl, hb.other, ?_⟩
  rw [State.bank_modBank_self, State.bank_modBank_self, Bank.startHandler_of_stays _ _ _ ha h4]
  rfl

/-- The rate trap and the budget trap abandon the iteration first. -/
theorem enterTrap_abandons_iteration (h : (s.bank b).hmode = false) (hv : (s.bank b).tvec ≠ 0)
    (hc : t.cause = 0x20 ∨ (t.cause = 0x04 ∧ (s.bank b).budgetRow < 7)) :
    ∃ n, (s.enterTrap b t epc).bank b = { Bank.abandon { (s.bank b).latch t epc with pend := {} } with
      budgetRow := n, aband := true, handlerAt := some s.clk, hmode := true, pc := (s.bank b).tvec,
      mode := if s.holds b then .running else .ready, nextIssue := s.clk + 1 } := by
  have ha : causeAbandons t.cause = true := by
    rcases hc with hc | ⟨hc, -⟩ <;> simp [causeAbandons, hc]
  have hr (h4 : t.cause = 0x04) : (s.bank b).budgetRow < 7 := by
    rcases hc with hc | ⟨-, hr⟩
    · exact absurd (hc.symm.trans h4) (by decide)
    · exact hr
  rw [State.enterTrap_handler h hr hv, ha, if_pos rfl, State.bank_modBank_self, State.abandonBank_bank,
    State.bank_modBank_self]
  exact Bank.startHandler_of_abandons _ _ _ ha

end
end Sys2Proof.Machine
end

section
/-! O20 concluded: the actions of R326 where no handler is set, and the clauses together. -/

namespace Sys2Proof.Machine

/-! ## With TVEC zero the action of R326 runs -/

section
variable (s : State) (b : BankIx) (t : Trap) (epc : Word)

/-- What a trap that stops its bank leaves, whether a handler runs or not. -/
theorem State.latched_stopBank (sub cause : Nat) : let u := (s.latched b t epc).stopBank b epc t.val sub cause
    s.OnlyBank b u ∧ u.holds b = false ∧
      (∃ clk n, u.bank b = { ((s.bank b).latch t epc).stopped with yieldClk := clk, budcnt := n }) ∧
      ((s.bank b).pend.copyErr = [] → s.TrapRecorded u b epc t.val 1 sub cause) := by
  intro u
  refine ⟨(s.modBank_onlyBank b _).trans (State.stopBank_onlyBank ..), State.stopBank_holds .., ?_, fun hp => ?_⟩
  · obtain ⟨clk, n, hbank⟩ := (s.latched b t epc).stopBank_bank b epc t.val sub cause
    exact ⟨clk, n, by rw [hbank, State.bank_modBank_self]⟩
  · refine .of_modBank (f := fun x => x.latch t epc) rfl (State.stopBank_recorded _ _ _ _ _ _ ?_)
    rw [State.bank_modBank_self]
    exact hp

/-- A machine check or a software trap without a handler. -/
theorem enterTrap_goesOn_effect (h : (s.bank b).hmode = false) (hv : (s.bank b).tvec = 0)
    (hc : t.cause = 0x01 ∨ t.cause = 0x21) : let u := s.enterTrap b t epc
    s.OnlyBank b u ∧ u.holds b = false ∧ s.TrapRecorded u b epc t.val 2 t.sub t.cause ∧
      ∃ clk n, u.bank b = { (s.bank b).latch t epc with pc := epc, mode := .ready, yieldClk := clk, budcnt := n } := by
  rw [State.enterTrap_goesOn h hv hc]
  intro u
  have hr := (s.latched b t epc).trapRecord_sameBanks b epc t.val 2 t.sub t.cause
  obtain ⟨-, hholds, clk, n, hbank, -⟩ := State.yield_effect
    (((s.latched b t epc).trapRecord b epc t.val 0x02 t.sub t.cause).modBank b fun x =>
      { x with pc := epc, mode := .ready }) b
  refine ⟨?_, hholds, ?_, clk, n, hbank.trans ?_⟩
  · exact ((s.modBank_onlyBank b _).trans (hr.onlyBank b)).trans
      ((State.modBank_onlyBank _ b _).trans (State.yield_onlyBank _ b))
  · refine .of_modBank (f := fun x => x.latch t epc) rfl (State.trapRecorded_iff.2 ⟨?_, ?_⟩)
    · exact State.yield_hub _ b
    · exact State.yield_outbox _ b
  · rw [State.bank_modBank_self, hr.bank b, State.bank_modBank_self]

/-- A timing trap without a handler. -/
theorem enterTrap_restarts_effect (h : (s.bank b).hmode = false) (hv : (s.bank b).tvec = 0) (hc : t.cause = 0x03) :
    let u := s.enterTrap b t epc
    s.OnlyBank b u ∧ u.hub = s.hub ∧
      ∃ (m : BankMode) (clk n k : Nat), u.bank b =
          { ((s.bank b).latch t epc).restart with mode := m, yieldClk := clk, budcnt := n, nextIssue := k } ∧
      (t.val.toNat ≤ s.time.toNat ∨ (∀ c ∈ s.copies, c.bank ≠ b) →
        u.holds b = s.holds b ∧ m = if s.holds b then .running else .ready) ∧
      (s.time.toNat < t.val.toNat → (∃ c ∈ s.copies, c.bank = b) → u.holds b = false ∧ m = .sleepTrap t.val) := by
  rw [State.enterTrap_restarts h hv hc]
  have hcond : (t.val.ule s.time || !s.copies.any (·.bank = b)) = true ↔
      t.val.toNat ≤ s.time.toNat ∨ ∀ c ∈ s.copies, c.bank ≠ b := by
    simp [BitVec.ule_eq_decide]
  have hb := (State.modBank_onlyBank s b fun x => x.latch t epc).trans (State.modBank_onlyBank _ b Bank.restart)
  have hbank : (((s.latched b t epc).modBank b Bank.restart).bank b) = ((s.bank b).latch t epc).restart := by
    rw [State.bank_modBank_self, State.bank_modBank_self]
  extract_lets v u
  by_cases ho : t.val.toNat ≤ s.time.toNat ∨ ∀ c ∈ s.copies, c.bank ≠ b
  · have hu : u = v.modBank b fun x =>
        { x with mode := if s.holds b then .running else .ready, nextIssue := s.clk + 1 } := if_pos (hcond.2 ho)
    rw [hu]
    refine ⟨hb.trans (State.modBank_onlyBank _ b _), rfl, _, (s.bank b).yieldClk, (s.bank b).budcnt,
      s.clk + 1, ?_, fun _ => ⟨rfl, rfl⟩, fun hlt hex => ?_⟩
    · rw [State.bank_modBank_self, hbank]; rfl
    · obtain ⟨c, hc, hcb⟩ := hex
      rcases ho with ho | ho
      · omega
      · exact absurd hcb (ho c hc)
  · have hu : u = (v.modBank b fun x => { x with mode := .sleepTrap t.val }).yield b := if_neg fun h => ho (hcond.1 h)
    obtain ⟨-, hholds, clk, n, hybank, -⟩ :=
      State.yield_effect (v.modBank b fun x => { x with mode := .sleepTrap t.val }) b
    rw [hu]
    refine ⟨hb.trans ((State.modBank_onlyBank _ b _).trans (State.yield_onlyBank _ b)), State.yield_hub _ b, _, clk, n,
      (s.bank b).nextIssue, hybank.trans ?_, fun h => absurd h ho, fun _ _ => ⟨hholds, rfl⟩⟩
    rw [State.bank_modBank_self, hbank]; rfl

/-- A budget trap without a handler, up to the seventh in a row. -/
theorem enterTrap_budget_effect (h : (s.bank b).hmode = false) (hv : (s.bank b).tvec = 0) (hc : t.cause = 0x04)
    (hr : (s.bank b).budgetRow < 7) : let u := s.enterTrap b t epc
    s.OnlyBank b u ∧ u.holds b = false ∧
      ((s.bank b).pend.copyErr = [] → s.TrapRecorded u b epc t.val 3 t.sub t.cause) ∧
      ∃ clk n, u.bank b = { Bank.abandon { (s.bank b).latch t epc with pend := {} } with
        mode := .idle, budgetRow := (s.bank b).budgetRow + 1, yieldClk := clk, budcnt := n } := by
  rw [State.enterTrap_budget h hv hc hr]
  intro u
  have hrec := (s.latched b t epc).trapRecord_sameBanks b epc t.val 3 t.sub t.cause
  have hbank : ((s.latched b t epc).trapRecord b epc t.val 3 t.sub t.cause).bank b = (s.bank b).latch t epc := by
    rw [hrec.bank b, State.bank_modBank_self]
  obtain ⟨-, hholds, clk, n, hybank, -⟩ := State.yield_effect
    ((((s.latched b t epc).trapRecord b epc t.val 0x03 t.sub t.cause).abandonBank b).modBank b fun x =>
      { x with mode := .idle, budgetRow := x.budgetRow + 1 }) b
  refine ⟨?_, hholds, fun hp => ?_, clk, n, hybank.trans ?_⟩
  · exact (((s.modBank_onlyBank b _).trans (hrec.onlyBank b)).trans (State.abandonBank_onlyBank _ b)).trans
      ((State.modBank_onlyBank _ b _).trans (State.yield_onlyBank _ b))
  · have hp : (((s.latched b t epc).trapRecord b epc t.val 3 t.sub t.cause).bank b).pend.copyErr = [] := by
      rw [hbank]; exact hp
    refine .of_modBank (f := fun x => x.latch t epc) rfl (State.trapRecorded_iff.2 ⟨?_, ?_⟩)
    · rw [State.yield_hub, State.modBank_hub, State.abandonBank_hub _ b hp]
    · rw [State.yield_outbox, State.modBank_outbox, State.abandonBank_outbox _ b hp]
  · rw [State.bank_modBank_self, State.abandonBank_bank, hbank]
    rfl

end

/-! ## The clauses of O20 -/

theorem Bank.restart_port (x : Bank) (i : Fin 16) : x.restart.ports[i].puts = x.ports[i].rstPuts :=
  congrArg PortState.puts (vmap_getElem ..)

section
variable (s : State) (b : BankIx) (t : Trap) (epc : Word)

/-- A trap that stops its bank, read field by field. -/
theorem stopped_fields {u : State} {sub cause : Nat} (hu : u = (s.latched b t epc).stopBank b epc t.val sub cause) :
    let x := s.bank b
    let y := u.bank b
    (y.mode = .stopped ∧ y.live = false ∧ u.holds b = false ∧
      (x.pend.copyErr = [] → s.TrapRecorded u b epc t.val 1 sub cause)) ∧
    (y.tcause = t.tcause ∧ y.tepc = epc ∧ y.tval = t.val ∧ y.hmode = false ∧ u.mem = s.mem ∧ y.s = x.s ∧ y.p = x.p ∧
      y.v = x.v ∧ y.q = x.q ∧ y.t = x.t ∧ ∀ c, c ≠ b → u.bank c = s.bank c) := by
  obtain ⟨honly, hholds, ⟨clk, n, hbank⟩, hrec⟩ := s.latched_stopBank b t epc sub cause
  subst hu
  intro x y
  have hy : y = { (x.latch t epc).stopped with yieldClk := clk, budcnt := n } := hbank
  clear_value y
  subst hy
  exact ⟨⟨rfl, rfl, hholds, hrec⟩, rfl, rfl, rfl, rfl, honly.mem, rfl, rfl, rfl, rfl, rfl, honly.other⟩

/-- Whatever the action of R326 is, it writes the trap registers, runs no handler, and leaves the registers, the memory and
every other bank. -/
theorem enterTrap_default_keeps (h : (s.bank b).hmode = false) (hv : (s.bank b).tvec = 0) :
    let u := s.enterTrap b t epc
    let x := s.bank b
    let y := u.bank b
    y.tcause = t.tcause ∧ y.tepc = epc ∧ y.tval = t.val ∧ y.hmode = false ∧ u.mem = s.mem ∧ y.s = x.s ∧ y.p = x.p ∧
      y.v = x.v ∧ y.q = x.q ∧ y.t = x.t ∧ ∀ c, c ≠ b → u.bank c = s.bank c := by
  intro u x y
  by_cases hgo : t.cause = 0x01 ∨ t.cause = 0x21
  · obtain ⟨honly, -, -, clk, n, hbank⟩ := enterTrap_goesOn_effect s b t epc h hv hgo
    have hy : y = _ := hbank
    clear_value y
    subst hy
    exact ⟨rfl, rfl, rfl, h, honly.mem, rfl, rfl, rfl, rfl, rfl, honly.other⟩
  by_cases h3 : t.cause = 0x03
  · obtain ⟨honly, -, m, clk, n, k, hbank, -⟩ := enterTrap_restarts_effect s b t epc h hv h3
    have hy : y = _ := hbank
    clear_value y
    subst hy
    exact ⟨rfl, rfl, rfl, h, honly.mem, rfl, rfl, rfl, rfl, rfl, honly.other⟩
  by_cases h4 : t.cause = 0x04
  · by_cases hr : (s.bank b).budgetRow < 7
    · obtain ⟨honly, -, -, clk, n, hbank⟩ := enterTrap_budget_effect s b t epc h hv h4 hr
      have hy : y = _ := hbank
      clear_value y
      subst hy
      exact ⟨rfl, rfl, rfl, h, honly.mem, rfl, rfl, rfl, rfl, rfl, honly.other⟩
    · exact (stopped_fields s b t epc (State.enterTrap_budgetRow h h4 (by omega))).2
  · obtain ⟨h1, h21⟩ := not_or.1 hgo
    exact (stopped_fields s b t epc (State.enterTrap_stops h hv h1 h3 h4 h21)).2

end

/-- Settles O20: each form of trap entry is one case of `State.enterTrap`, and its bank is read off field by field. -/
theorem trapEntry : Obligations.TrapEntry := by
  refine ⟨fun s b t epc h hv h4 h20 => ?keeps, fun s b t epc h hv hc => ?abandons, fun s b t epc h => ?double,
    fun s b t epc h => ?first⟩
  case keeps =>
    obtain ⟨hmem, hhub, hother, hbank⟩ := enterTrap_keeps_iteration s b t epc h hv h4 h20
    intro u x y
    have hy : y = _ := hbank
    clear_value y
    subst hy
    exact ⟨rfl, rfl, rfl, rfl, rfl, rfl, rfl, rfl, rfl, rfl, rfl, rfl, rfl, rfl, rfl, rfl, rfl, rfl, rfl, rfl, rfl, rfl,
      hmem, hhub, hother⟩
  case abandons =>
    obtain ⟨n, hbank⟩ := enterTrap_abandons_iteration s b t epc h hv hc
    intro y x
    have hy : y = _ := hbank
    clear_value y
    subst hy
    exact ⟨rfl, rfl, rfl, rfl, rfl, rfl, rfl, rfl, rfl, fun i => congrArg PortState.reserved (Bank.abandon_port _ i),
      rfl, rfl, rfl⟩
  case double =>
    obtain ⟨⟨hmode, hlive, hholds, hrec⟩, htcause, htepc, htval, hhmode, hmem, -⟩ :=
      stopped_fields s b t epc (State.enterTrap_double h)
    exact ⟨hmode, hhmode, hlive, hholds, htcause, htepc, htval, hmem, hrec⟩
  case first =>
    intro u x y once stops
    refine ⟨fun hc hr => (stopped_fields s b t epc (State.enterTrap_budgetRow h hc hr)).1, fun hv => ?_⟩
    obtain ⟨htcause, htepc, htval, hhmode, hmem, hs, hp, hvec, hq, ht, hother⟩ := enterTrap_default_keeps s b t epc h hv
    refine ⟨htcause, htepc, htval, hhmode, hmem, hs, hp, hvec, hq, ht, hother, fun hc => ?goesOn, fun hc => ?restarts,
      fun hc hr => ?budget, fun h1 h3 h4 h21 => (stopped_fields s b t epc (State.enterTrap_stops h hv h1 h3 h4 h21)).1⟩
    case goesOn =>
      obtain ⟨-, hholds, hrec, clk, n, hbank⟩ := enterTrap_goesOn_effect s b t epc h hv hc
      clear htcause htepc htval hhmode hs hp hvec hq ht
      have hy : y = _ := hbank
      clear_value y
      subst hy
      exact ⟨rfl, rfl, hholds, rfl, rfl, rfl, rfl, hrec⟩
    case restarts =>
      obtain ⟨-, hhub, m, clk, n, k, hbank, hon, hasleep⟩ := enterTrap_restarts_effect s b t epc h hv hc
      clear htcause htepc htval hhmode hs hp hvec hq ht
      have hy : y = _ := hbank
      clear_value y
      subst hy
      exact ⟨rfl, rfl, rfl, rfl, hhub, fun i => Bank.restart_port _ i, hon, hasleep⟩
    case budget =>
      obtain ⟨-, hholds, hrec, clk, n, hbank⟩ := enterTrap_budget_effect s b t epc h hv hc hr
      clear htcause htepc htval hhmode hs hp hvec hq ht
      have hy : y = _ := hbank
      clear_value y
      subst hy
      exact ⟨rfl, rfl, rfl, hholds, rfl, rfl, rfl, rfl, fun i =>
        ⟨congrArg PortState.reserved (Bank.abandon_port _ i), congrArg PortState.puts (Bank.abandon_port _ i)⟩, hrec⟩

end Sys2Proof.Machine
end

section
/-! O50: the budget trap that waits for a boundary, a trap that waits for its drain, and a handler that runs too long (R42,
R324, R327, R330, R336). -/

namespace Sys2Proof.Machine

/-- BUDGET_EXCEEDED. -/
theorem budgetExceeded_eq (s : State) (b : BankIx) : exec (.budgetExceeded b) s =
    if (s.bank b).overBudget then
      .next (s.modBank b fun x => { x with pend := { x.pend with budget := true }, budgetDone := true })
    else .next s := by rfl

/-- TRAP_TAKE of a trap that waits. -/
theorem trapTake_eq {s : State} {b : BankIx} {t : Trap} {epc : Word} (h : (s.bank b).mode = .trapping t epc) :
    exec (.trapTake b) s = .next (if s.draining b || s.dead b then s else s.enterTrap b t epc) := by
  show execTrapTake b s = _
  simp only [execTrapTake, h]

/-- HANDLER_TIMEOUT. -/
theorem handlerTimeout_eq (s : State) (b : BankIx) : exec (.handlerTimeout b) s =
    if s.handlerLate b then .next (s.stopBank b (s.bank b).tepc (s.bank b).tval
      ((s.bank b).tcause.toNat / 256 % 256) ((s.bank b).tcause.toNat % 256))
    else .next s := by rfl

theorem State.handlerLate_iff {s : State} {b : BankIx} {n : Nat} (h : (s.bank b).handlerAt = some n) :
    s.handlerLate b = true ↔ s.dead b = false ∧ n + 65536 ≤ s.clk := by
  simp [State.handlerLate, h]

theorem budgetExceeded_waits (s : State) (b : BankIx) (h : (s.bank b).overBudget = true) :
    ∃ t, exec (.budgetExceeded b) s = .next t ∧ (t.bank b).pend.budget = true ∧ (t.bank b).budgetDone = true ∧
      (t.bank b).regs = (s.bank b).regs ∧ (t.bank b).pc = (s.bank b).pc ∧ t.mem = s.mem ∧
      ∀ c, c ≠ b → t.bank c = s.bank c := by
  have honly := s.modBank_onlyBank b fun x => { x with pend := { x.pend with budget := true }, budgetDone := true }
  refine ⟨_, (budgetExceeded_eq s b).trans (if_pos h), ?_⟩
  rw [State.bank_modBank_self]
  exact ⟨rfl, rfl, rfl, rfl, honly.mem, honly.other⟩

/-- A handler that has run too long stops its bank. -/
theorem handlerTimeout_stops (s : State) (b : BankIx) (h : s.handlerLate b = true) :
    ∃ t, exec (.handlerTimeout b) s = .next t ∧ (t.bank b).mode = .stopped ∧ (t.bank b).hmode = false ∧
      (t.bank b).aband = false ∧ (t.bank b).live = false ∧ (t.bank b).handlerAt = none ∧ t.holds b = false ∧
      t.mem = s.mem ∧ (t.bank b).s = (s.bank b).s ∧ (t.bank b).tcause = (s.bank b).tcause := by
  refine ⟨_, (handlerTimeout_eq s b).trans (if_pos h), ?_⟩
  obtain ⟨clk, n, hbank⟩ := s.stopBank_bank b (s.bank b).tepc (s.bank b).tval
    ((s.bank b).tcause.toNat / 256 % 256) ((s.bank b).tcause.toNat % 256)
  rw [hbank]
  exact ⟨rfl, rfl, rfl, rfl, rfl, State.stopBank_holds .., (State.stopBank_onlyBank ..).mem, rfl, rfl⟩

/-- Settles O50: each of the three events, in the cases of its guard. -/
theorem waitingTraps : Obligations.WaitingTraps := by
  refine fun s b => ⟨fun hl hb hd => ?_, fun hb => ?_, fun t epc hm => ⟨fun hdr hde => ?_, fun h => ?_⟩, fun n hn =>
    ⟨fun h => ?_, fun hc hd => ?_⟩⟩
  · exact budgetExceeded_waits s b (by simp [Bank.overBudget, hl, hb, hd])
  · rw [budgetExceeded_eq, if_neg]
    simp [Bank.overBudget, Nat.not_lt.2 hb]
  · rw [trapTake_eq hm, if_neg (by simp [hdr, hde])]
  · rw [trapTake_eq hm, if_pos (by simpa using h)]
  · rw [handlerTimeout_eq, if_neg]
    rw [State.handlerLate_iff hn]
    rintro ⟨hd, hc⟩
    rcases h with h | h
    · omega
    · simp [hd] at h
  · exact handlerTimeout_stops s b ((State.handlerLate_iff hn).2 ⟨hd, hc⟩)

end Sys2Proof.Machine
end

section
/-! O5: a step at a running bank issues the bundle at its pc (R40, R151, R155, R156, R325, R333). -/

namespace Sys2Proof.Machine

/-! ## The position in the bundle while its codewords are read (R111) -/

section
variable (s : State)

@[simp] theorem State.fqDrain_slot (l : List (List Byte)) : (s.fqDrain l).slot = s.slot := by
  induction l generalizing s with
  | nil => rfl
  | cons e es ih =>
    rw [State.fqDrain]
    split
    · exact ih _
    · rfl

@[simp] theorem State.record_slot (type : Nat) (rec : List Byte) : (s.record type rec).slot = s.slot := by
  rw [State.record_eq, State.fqTrim]
  split
  · exact s.fqDrain_slot _
  · exact s.fqDrain_slot _

@[simp] theorem State.eccWord_slot (src : Nat) (bank : Option Nat) (addr : Word) (e : EccError) :
    (s.eccWord src bank addr e).slot = s.slot := by
  unfold State.eccWord
  dsimp only
  split
  · rfl
  · split
    · split
      · rfl
      · exact State.record_slot ..
    · split <;> rfl

@[simp] theorem State.eccRead_slot (src : Nat) (bank : Option Nat) (addr : Word) (a n : Nat) :
    (s.eccRead src bank addr a n).slot = s.slot := by
  unfold State.eccRead
  generalize s.ecc.filter _ = l
  induction l generalizing s with
  | nil => rfl
  | cons e l ih => rw [List.foldl_cons, ih, State.eccWord_slot]

/-- With no flawed codeword in the package no read finds one. -/
theorem State.eccRead_of_no_errors (src : Nat) (bank : Option Nat) (addr : Word) (a n : Nat) (h : s.ecc = []) :
    s.eccRead src bank addr a n = s := by
  simp only [State.eccRead, h, List.filter_nil, List.foldl_nil]

theorem State.fetchEcc_slot (a : Word) (n : Nat) : (s.fetchEcc a n).slot = s.slot := by
  induction n generalizing s a with
  | zero => rfl
  | succ n ih =>
    rw [State.fetchEcc]
    split
    · dsimp only
      split
      · exact State.eccRead_slot ..
      · rw [ih, State.eccRead_slot]
    · rfl

theorem State.fetchEcc_of_no_errors (a : Word) (n : Nat) (h : s.ecc = []) : s.fetchEcc a n = s := by
  induction n generalizing a with
  | zero => rfl
  | succ n ih =>
    rw [State.fetchEcc]
    split
    · dsimp only
      rw [s.eccRead_of_no_errors _ _ _ _ _ h, ih, ite_self]
    · rfl

theorem State.prepare_slot (ys : List Syllable) : (s.prepare ys).slot = s.slot := by
  unfold State.prepare
  dsimp only
  split <;> rfl

theorem State.prepare_stop (ys : List Syllable) : (s.prepare ys).stop = none := by
  unfold State.prepare
  dsimp only
  split <;> rfl

end

/-! ## A step that issues a bundle -/

/-- The current bank's bundle is about to be read. -/
abbrev State.at_ (s : State) (b : BankIx) : State := { s with cur := b, epc := (s.bank b).pc, slot := 0, stop := none }

/-- With nothing else due, the step issues the bundle of the chosen bank (R40). -/
theorem step_issues {s : State} {b : BankIx} (hin : s.inbox = []) (hp : s.powered = true)
    (ha : takeDue s.clk s.agenda = none) (he : s.eventDue s.liveBanks = none) (hi : s.issuing s.liveBanks = some b) :
    step s = s.issueBundle exec b := by
  simp [step, State.stepWith, hin, hp, ha, he, hi]

section
variable {s : State} {b : BankIx} (hb : s.boundary (s.bank b) = none)
include hb

/-- With no boundary event, the bundle at pc is read and issues (R153, R325). -/
theorem State.issueBundle_issues {ys : List Syllable} (hy : (s.at_ b).readBundle (s.bank b).pc = .ok ys) :
    s.issueBundle exec b = ((s.at_ b).fetchEcc (s.bank b).pc 6).issueSyllables exec ys := by
  have hb' : (s.at_ b).boundary (s.at_ b).me = none := hb
  unfold State.issueBundle
  dsimp only
  rw [hb']
  dsimp only
  rw [show (s.at_ b).readBundle (s.at_ b).epc = .ok ys from hy]

/-- A bundle that cannot be read stops. -/
theorem State.issueBundle_stops {t : Trap} (hy : (s.at_ b).readBundle (s.bank b).pc = .error t) :
    s.issueBundle exec b = .next (((s.at_ b).fetchEcc (s.bank b).pc 6).haltAt t.slot (.trap t)) := by
  have hb' : (s.at_ b).boundary (s.at_ b).me = none := hb
  unfold State.issueBundle
  dsimp only
  rw [hb']
  dsimp only
  rw [show (s.at_ b).readBundle (s.at_ b).epc = .error t from hy]

end

/-- What the issue of a bundle comes to, from what its syllables met (R156, R323). -/
theorem State.issueSyllables_of_run {f t : State} {ys : List Syllable}
    (hr : runSyllables exec ys 0 (f.prepare ys) = .next t) :
    (t.stop = none → f.issueSyllables exec ys = .next t.bundleDone) ∧
    (t.stop = some .taken → f.issueSyllables exec ys = .next t.bundleLeft) ∧
    ∀ e, t.stop = some e → e ≠ .taken → f.issueSyllables exec ys = .next (f.haltAt t.slot e) := by
  unfold State.issueSyllables
  rw [hr]
  dsimp only
  refine ⟨fun h => by rw [h], fun h => by rw [h], fun e h hne => ?_⟩
  rw [h]
  cases e with
  | taken => exact absurd rfl hne
  | _ => rfl

/-! ## A bundle of one syllable (R155) -/

/-- With nothing behind it, what a syllable's own stop comes to is that stop. -/
theorem stopFirst_alone (t : State) {r : State} (h : r.stop = none) : stopFirst t (.next r) = .next t := by
  unfold stopFirst
  split
  · rfl
  · next hr => cases hr; rw [h]
  · rfl

theorem runSyllables_one_off {v : State} {y : Syllable} (hs : v.slot = 0) (hg : v.guardHolds y = .ok false) :
    runSyllables exec [y] 0 v = .next v := by
  have hv : ({ v with slot := 0 } : State) = v := by rw [← hs]
  simp only [runSyllables, hv, hg]

theorem runSyllables_one_on {v t : State} {y : Syllable} (hs : v.slot = 0) (hg : v.guardHolds y = .ok true)
    (hu : v.unitBusy y = false) (he : exec y.instr v = .next t) : runSyllables exec [y] 0 v = .next t := by
  have hv : ({ v with slot := 0 } : State) = v := by rw [← hs]
  simp only [runSyllables, hv, hg, hu, he, if_false, Bool.false_eq_true]
  split
  · rfl
  · exact stopFirst_alone t rfl

/-- Settles O5: the step issues the bundle at pc, whose syllables run in order; of one syllable the run is exec of it, or
nothing where its guard does not hold. -/
theorem stepRunsDecoded : Obligations.StepRunsDecoded := by
  intro s b hin hp ha he hi hb u f
  have hstep : step s = s.issueBundle exec b := step_issues hin hp ha he hi
  have hslot (ys : List Syllable) : (f.prepare ys).slot = 0 := (f.prepare_slot ys).trans (u.fetchEcc_slot u.epc 6)
  have hrun (ys : List Syllable) (t : State) (hy : u.readBundle u.epc = .ok ys)
      (hr : runSyllables exec ys 0 (f.prepare ys) = .next t) :
      (t.stop = none → step s = .next t.bundleDone) ∧ (t.stop = some .taken → step s = .next t.bundleLeft) ∧
      ∀ e, t.stop = some e → e ≠ .taken → step s = .next (f.haltAt t.slot e) := by
    rw [hstep, State.issueBundle_issues hb hy]
    exact State.issueSyllables_of_run hr
  refine ⟨hrun, fun y hy => ⟨fun hg => ?_, fun hg hu t ht => ?_⟩,
    fun t ht => by rw [hstep, State.issueBundle_stops hb ht], fun h => ?_⟩
  · exact (hrun _ _ hy (runSyllables_one_off (hslot [y]) hg)).1 (f.prepare_stop [y])
  · exact hrun _ _ hy (runSyllables_one_on (hslot [y]) hg hu ht)
  · exact u.fetchEcc_of_no_errors u.epc 6 h

end Sys2Proof.Machine
end

section
/-! O18: STAGE.END at its bundle, and its waits (R25, R40, R128, R130, R207, R326). -/

namespace Sys2Proof.Machine

/-! ## STAGE.END at its bundle (R25, R207) -/

/-- A bound output port with fewer puts than its declared count (R25). -/
def Bank.isShort (x : Bank) (i : Fin 16) : Prop :=
  8 ≤ i.val ∧ x.ports[i].peer ≠ .none ∧ x.ports[i].puts < x.ports[i].rate

/-- The test that `Bank.shortPort` makes of a port. -/
theorem Bank.isShort_iff (x : Bank) (i : Fin 16) :
    (decide (8 ≤ i.val) && x.ports[i].bound && decide (x.ports[i].puts < x.ports[i].rate)) = true ↔ x.isShort i := by
  simp [Bank.isShort, PortState.bound, and_assoc]

theorem Bank.shortPort_none {x : Bank} (h : ∀ i, ¬ x.isShort i) : x.shortPort = none :=
  List.find?_eq_none.2 fun i _ hi => h i ((x.isShort_iff i).1 hi)

/-- The lowest-numbered short port is the one that the rate trap names. -/
theorem Bank.shortPort_some {x : Bank} {i : Fin 16} (hi : x.isShort i) (hlt : ∀ j, j < i → ¬ x.isShort j) :
    x.shortPort = some i := by
  refine List.find?_eq_some_iff_getElem.2 ⟨(x.isShort_iff i).2 hi, i.val, by simp, by simp, fun j hj => ?_⟩
  have hj' : j < 16 := hj.trans i.isLt
  have hn := hlt ⟨j, hj'⟩ hj
  rw [← x.isShort_iff, Bool.not_eq_true] at hn
  rw [List.getElem_finRange]
  exact Bool.not_eq_true' _ ▸ hn

section
variable (s : State)

theorem stageEnd_begins_waits (h : ∀ i, ¬ s.me.isShort i) : exec .stageEnd s =
    .next (s.modMe fun b => { b with mode := if b.mode = .ringWait then .endWait else .ending }).on := by
  show execStageEnd s = _
  refine issue_ok ?_
  simp only [Bank.shortPort_none h]
  rfl

theorem stageEnd_stalls {i : Fin 16} (h : s.me.shortPort = some i) (hb : ∃ r ∈ s.me.busy, r.2 < s.ownFrom) :
    exec .stageEnd s = .next (s.stopped .stall) := by
  show execStageEnd s = _
  refine issue_error ?_
  simp only [h]
  exact if_pos (by simpa using hb)

theorem stageEnd_traps {i : Fin 16} (h : s.me.shortPort = some i) (hb : ∀ r ∈ s.me.busy, s.ownFrom ≤ r.2) :
    exec .stageEnd s = .next (s.trapped { cause := 0x20, val := BitVec.ofNat 64 i.val }) := by
  show execStageEnd s = _
  refine issue_trap ?_
  simp only [h]
  exact if_neg (by simpa using hb)

end

/-! ## The waits of STAGE.END (R40, R128, R130, R207) -/

section
variable {s : State} {b : BankIx}

theorem commit_eq (s : State) (b : BankIx) : exec (.commit b) s = .next ((s.stageEndStep b).getD s) := by rfl

theorem commit_stays (h : s.stageEndStep b = none) : exec (.commit b) s = .next s := by
  rw [commit_eq, h, Option.getD_none]

theorem State.stageEndStep_failed (h : (s.cog b.cog).failed = true) : s.stageEndStep b = none := by
  simp only [State.stageEndStep, h, if_true]

/-- A bank with no STAGE.END under way. -/
theorem State.stageEndStep_other (h1 : (s.bank b).mode ≠ .ending) (h2 : (s.bank b).mode ≠ .endWait)
    (h3 : (s.bank b).mode ≠ .ended) : s.stageEndStep b = none := by
  unfold State.stageEndStep
  dsimp only
  split
  · rfl
  · split
    · exact absurd ‹_› h1
    · exact absurd ‹_› h2
    · exact absurd ‹_› h3
    · rfl

theorem State.stageEndStep_unwritten (hm : (s.bank b).mode = .ending) (hw : s.written b = false) :
    s.stageEndStep b = none := by
  simp [State.stageEndStep, hm, hw]

/-- STAGE.END gives up the core for a copy that it waits for. -/
theorem State.stageEndStep_copies (hm : (s.bank b).mode = .ending) (hw : s.written b = true)
    (hf : (s.cog b.cog).failed = false) (hh : (s.cog b.cog).heldFrom ≤ s.clk) (hc : s.endCopies b = true) :
    s.stageEndStep b = some ((s.modBank b fun x => { x with mode := .endWait }).yield b) := by
  simp [State.stageEndStep, hm, hw, hf, hc, Nat.not_lt.2 hh]

/-- A put whose header is not written yet holds the commit. -/
theorem State.stageEndStep_puts (hm : (s.bank b).mode = .ending) (hc : s.endCopies b = false)
    (hp : (s.bank b).puts ≠ []) : s.stageEndStep b = none := by
  have hr : s.commitReady b = false := by simp [State.commitReady, hp]
  simp [State.stageEndStep, hm, hc, hr]

theorem State.stageEndStep_endWait (hm : (s.bank b).mode = .endWait) (hf : (s.cog b.cog).failed = false) :
    s.stageEndStep b = if s.endCopies b then none else some (s.modBank b fun x => { x with mode := .endReady }) := by
  simp [State.stageEndStep, hm, hf]

end

theorem commit_waits_for_copies (s : State) (b : BankIx) (hm : (s.bank b).mode = .ending) (hw : s.written b = true)
    (hf : (s.cog b.cog).failed = false) (hh : (s.cog b.cog).heldFrom ≤ s.clk) (hc : s.endCopies b = true) :
    ∃ t, exec (.commit b) s = .next t ∧ (t.bank b).mode = .endWait ∧ t.holds b = false ∧
      (t.bank b).regs = (s.bank b).regs ∧ t.mem = s.mem := by
  obtain ⟨hmem, hholds, clk, n, hbank, -⟩ := (s.modBank b fun x => { x with mode := .endWait }).yield_effect b
  rw [State.bank_modBank_self] at hbank
  refine ⟨(s.modBank b fun x => { x with mode := .endWait }).yield b, ?_, ?_, hholds, ?_, hmem⟩
  · rw [commit_eq, State.stageEndStep_copies hm hw hf hh hc, Option.getD_some]
  · rw [hbank]
  · rw [hbank]; rfl

/-- STAGE.END waits for an access of its bank: of the M unit, a load, or an atomic at a slot that is being freed (R130,
R207). -/
def State.awaits (s : State) (b : BankIx) (y : Access) : Bool :=
  match y.owner with
  | .bank => y.kind = .load || (y.kind = .atomic && sharing y.segs (s.freedSlots b))
  | .munit _ => true
  | _ => false

theorem State.awaits_false_iff (s : State) (b : BankIx) (y : Access) : s.awaits b y = false ↔
    (∀ t, y.owner ≠ .munit t) ∧ (y.owner = .bank → y.kind ≠ .load ∧
      (y.kind = .atomic → ∀ g ∈ y.segs, ∀ f ∈ s.freedSlots b, segOverlaps g f = false)) := by
  unfold State.awaits
  cases y.owner with
  | bank => simp [sharing]
  | _ => simp

theorem State.written_eq (s : State) (b : BankIx) : s.written b = ((s.bank b).inflight.isEmpty &&
    (s.bank b).busy.isEmpty && !s.mBusy b && !s.accesses.any fun y => decide (y.bank = b) && s.awaits b y) := by rfl

theorem State.written_iff (s : State) (b : BankIx) : s.written b = true ↔
    (s.bank b).inflight = [] ∧ (s.bank b).busy = [] ∧ s.mBusy b = false ∧ ∀ y ∈ s.accesses, y.bank = b →
      (∀ t, y.owner ≠ .munit t) ∧ (y.owner = .bank → y.kind ≠ .load ∧
        (y.kind = .atomic → ∀ g ∈ y.segs, ∀ f ∈ s.freedSlots b, segOverlaps g f = false)) := by
  simp only [← State.awaits_false_iff]
  simp [State.written_eq, and_assoc]

/-- Settles O18: the bundle by its short port, the waits by the phases of `State.stageEndStep`. -/
theorem stageEnd : Obligations.StageEnd := by
  refine ⟨fun s => ?_, fun s b => ⟨fun h => ?_, fun hm hw => ?_, fun hm hw hf hh => ⟨fun hc => ?_, fun hc hp => ?_⟩,
    fun hm => ⟨fun hc => ?_, fun hc hf => ?_⟩, s.written_iff b⟩⟩
  · refine ⟨stageEnd_begins_waits s, fun i hi hlt => ⟨fun hb => ?_, fun hb => ?_⟩⟩
    · exact stageEnd_stalls s (Bank.shortPort_some hi hlt) hb
    · exact stageEnd_traps s (Bank.shortPort_some hi hlt) hb
  · rcases h with ⟨h1, h2, h3⟩ | hf
    · exact commit_stays (State.stageEndStep_other h1 h2 h3)
    · exact commit_stays (State.stageEndStep_failed hf)
  · exact commit_stays (State.stageEndStep_unwritten hm hw)
  · exact commit_waits_for_copies s b hm hw hf hh hc
  · exact commit_stays (State.stageEndStep_puts hm hc hp)
  · by_cases hf : (s.cog b.cog).failed = true
    · exact commit_stays (State.stageEndStep_failed hf)
    · exact commit_stays (by rw [State.stageEndStep_endWait hm (by simpa using hf), if_pos hc])
  · rw [commit_eq, State.stageEndStep_endWait hm hf, if_neg (by simp [hc]), Option.getD_some]

end Sys2Proof.Machine
end

section
/-! What issuing an access does to the current bank and to the list of accesses, and how a near load ends (R105, R106, R121,
R225). -/

namespace Sys2Proof.Machine

/-! ## Registers that wait (R225) -/

/-- The registers of a list wait for a request. -/
def Bank.marks (x : Bank) (rs : List BusyReg) (id : Nat) : Bank := rs.foldl (fun b r => b.mark r id) x

theorem Bank.mark_regs (x : Bank) (r : BusyReg) (id : Nat) : (x.mark r id).regs = x.regs := by
  unfold Bank.mark
  split <;> rfl

theorem Bank.marks_regs (x : Bank) (rs : List BusyReg) (id : Nat) : (x.marks rs id).regs = x.regs := by
  induction rs generalizing x with
  | nil => rfl
  | cons r rs ih => exact (ih (x.mark r id)).trans (x.mark_regs r id)

/-- A register that waits still does after others are marked. -/
theorem Bank.isBusy_mark (x : Bank) {r : BusyReg} (r' : BusyReg) (id : Nat) (h : x.isBusy r = true) :
    (x.mark r' id).isBusy r = true := by
  unfold Bank.mark
  split
  · exact h
  · simp only [Bank.isBusy, List.any_append, Bool.or_eq_true]
    exact .inl h

theorem Bank.isBusy_mark_self (x : Bank) {r : BusyReg} (id : Nat) (hs : r ≠ .s 0) (hp : r ≠ .p 0) :
    (x.mark r id).isBusy r = true := by
  simp [Bank.mark, Bank.isBusy, hs, hp]

theorem Bank.isBusy_marks (x : Bank) {r : BusyReg} (rs : List BusyReg) (id : Nat) (h : x.isBusy r = true) :
    (x.marks rs id).isBusy r = true := by
  induction rs generalizing x with
  | nil => exact h
  | cons r' rs ih => exact ih _ (x.isBusy_mark r' id h)

theorem Bank.isBusy_marks_mem (x : Bank) {r : BusyReg} {rs : List BusyReg} (id : Nat) (h : r ∈ rs) (hs : r ≠ .s 0)
    (hp : r ≠ .p 0) : (x.marks rs id).isBusy r = true := by
  induction rs generalizing x with
  | nil => cases h
  | cons r' rs ih =>
    rcases List.mem_cons.1 h with rfl | h
    · exact Bank.isBusy_marks _ rs id (x.isBusy_mark_self id hs hp)
    · exact ih _ h

/-! ## An access enters the list (R106, R117) -/

/-- An access that is held back for a load of id, when it is one of ids (R106). -/
def Access.heldFor (ids : List Nat) (id : Nat) (x : Access) : Access :=
  if ids.contains x.id then { x with after := x.after ++ [id] } else x

/-- The access that the current bank asks for. -/
def State.newAccess (s : State) (k : Ask) (gs : List Seg) (ops : List GOp) (after : List Nat) (due : Nat) : Access :=
  { id := s.nextId, bank := s.cur, owner := .bank, kind := k.kind, cls := ((gs.map (·.cls)).head?).getD .strong,
    acq := s.relIn s.cur k.acq gs, after := after, due := due, todo := ops, got := [], psn := false, lost := false,
    dst := k.dst, sent := false, epc := s.epc, addr := k.addr, gs := k.gs }

/-- Only the list of accesses, the M queues and the next id differ from s to t. -/
structure State.Entered (s t : State) : Prop where
  banks  : t.banks = s.banks
  cur    : t.cur = s.cur
  mem    : t.mem = s.mem
  poison : t.poison = s.poison

/-- An access that enters is the last of the list, and its destinations wait. -/
theorem State.sendOps_eq (s : State) (k : Ask) (gs : List Seg) (ops : List GOp) (after : List Nat) (due : Nat)
    (busy : List BusyReg) : ∃ t ids, s.Entered t ∧
      t.accesses = (s.accesses ++ [s.newAccess k gs ops after due]).map (Access.heldFor ids s.nextId) ∧
      s.sendOps k gs ops after due busy = t.modMe fun b => b.marks busy s.nextId := by
  by_cases hk : k.kind = .load
  · exact ⟨(s.enter k gs ops after due).2.holdBack (s.aheadOf s.cur after gs) gs
      ((s.enter k gs ops after due).2.relIn s.cur k.acq gs) s.nextId, s.aheadOf s.cur after gs, ⟨rfl, rfl, rfl, rfl⟩, rfl,
      by simp only [State.sendOps, hk, if_true]; rfl⟩
  · refine ⟨(s.enter k gs ops after due).2, [], ⟨rfl, rfl, rfl, rfl⟩, ?_, by simp only [State.sendOps, hk, if_false]; rfl⟩
    have : Access.heldFor [] s.nextId = id := by funext x; simp [Access.heldFor]
    rw [this, List.map_id]
    rfl

/-- The bundle goes on with its access under way. -/
theorem State.sendOps_asks (s : State) (k : Ask) (gs : List Seg) (ops : List GOp) (after : List Nat) {due : Nat}
    (busy : List BusyReg) (hd : s.clk ≤ due) :
    Asks s (s.sendOps k gs ops after due busy).on busy k.kind ops after k.addr k.dst := by
  obtain ⟨t, ids, ⟨hbanks, hcur, hmem, hpoison⟩, hacc, heq⟩ := s.sendOps_eq k gs ops after due busy
  rw [heq]
  have hme : t.me = s.me := by simp only [State.me, State.bank, hbanks, hcur]
  have hme' : (t.modMe fun b => b.marks busy s.nextId).me = s.me.marks busy s.nextId := by
    rw [← hme]; exact State.bank_modBank_self ..
  refine ⟨⟨rfl, hcur, hmem, hpoison, ?_, fun b hb => ?_, fun r hr hs hp => ?_⟩, ?_, ?_⟩
  · exact (congrArg Bank.regs hme').trans (Bank.marks_regs ..)
  · have other : (t.modBank t.cur fun b => b.marks busy s.nextId).bank b = t.bank b :=
      State.bank_modBank_ne t _ (hcur ▸ hb.symm)
    exact other.trans (by simp only [State.bank, hbanks])
  · exact (congrArg (Bank.isBusy · r) hme').trans (Bank.isBusy_marks_mem _ _ hr hs hp)
  · exact (congrArg List.length hacc).trans (by simp)
  · refine ⟨(s.newAccess k gs ops after due).heldFor ids s.nextId, ?_, ?_⟩
    · exact (congrArg List.getLast? hacc).trans (by simp)
    · unfold Access.heldFor
      split
      · exact ⟨rfl, rfl, rfl, rfl, rfl, rfl, rfl, hd, fun n hn => List.mem_append_left _ hn⟩
      · exact ⟨rfl, rfl, rfl, rfl, rfl, rfl, rfl, hd, fun n hn => hn⟩

/-- A load of checked places on paths 0x0 and 0x1: read at issue, or held behind what it is performed after (R105, R121). -/
theorem State.loadEnds_of_near {s : State} {f : Core} {k : Ask} {gs : List Seg} {rs : List BusyReg}
    {res : List Byte → List Res} {cs : List Byte → Causes} (hf : f s = s.loadAt k gs rs res cs)
    (hp : pathOf k.addr ≤ 1) : s.LoadEnds s (issue f s) k gs rs res cs := by
  refine ⟨fun _ ha => issue_ok (hf.trans ?_), fun _ ha => ?_, fun h => absurd hp (Nat.not_le.2 h)⟩
  · simp only [State.loadAt, if_pos hp, ha, List.isEmpty_nil, if_true]
    rfl
  · refine ⟨(s.sendOps k gs [.load gs] (s.after k gs) s.clk rs).on, issue_ok (hf.trans ?_),
      s.sendOps_asks k gs _ _ rs (Nat.le_refl _)⟩
    simp only [State.loadAt, if_pos hp]
    rw [if_neg (by simpa using ha)]
    rfl

end Sys2Proof.Machine
end

section
/-! O44: the ring instructions, what they give and where they stop (R21, R25, R128, R217 to R223). -/

namespace Sys2Proof.Machine

/-! ## The port operand (R223) -/

section
variable {s : State} {p : Port}

theorem State.portOf_bound (h : s.me.ports[portIx p].peer ≠ .none) : s.portOf p = .ok s.me.ports[portIx p] := by
  exact if_pos (decide_eq_true h)

theorem State.portOf_unbound (h : s.me.ports[portIx p].peer = .none) :
    s.portOf p = .error (.trap { cause := 0x1E, val := portVal p }) := by
  have hb : s.me.ports[portIx p].bound = false := decide_eq_false fun hne => hne h
  exact if_neg (by rw [hb]; exact Bool.false_ne_true)

theorem slotIndex_within {q : PortState} {j : Nat} (h : j < q.rate) : slotIndex p q j = .ok () :=
  check_ok (decide_eq_true h)

theorem slotIndex_beyond {q : PortState} {j : Nat} (h : q.rate ≤ j) :
    slotIndex p q j = .error (.trap { cause := 0x20, val := portVal p }) :=
  check_error (decide_eq_false (Nat.not_lt.2 h))

end

/-! ## RING.ADDR and RING.AVAIL (R219, R222) -/

section
variable {s : State} {d b : SReg} {port : Port} {imm : BitVec 13} {x : Word}

theorem ringAddr_unbound (hx : s.rdS b = .ok x) (hp : s.me.ports[portIx port].peer = .none) (hdr : Bool) :
    exec (.ringAddr d port b imm hdr) s = .next (s.trapped { cause := 0x1E, val := portVal port }) := by
  show execRingAddr d port b imm hdr s = _
  exact issue_trap (by simp only [hx, State.portOf_unbound hp, ok_bind, error_bind])

theorem ringAddr_beyond (hx : s.rdS b = .ok x) (hp : s.me.ports[portIx port].peer ≠ .none)
    (hj : s.me.ports[portIx port].rate ≤ x.toNat + imm.toNat) (hdr : Bool) :
    exec (.ringAddr d port b imm hdr) s = .next (s.trapped { cause := 0x20, val := portVal port }) := by
  show execRingAddr d port b imm hdr s = _
  exact issue_trap (by simp only [hx, State.portOf_bound hp, slotIndex_beyond hj, ok_bind, error_bind])

theorem ringAddr_gives (hx : s.rdS b = .ok x) (hp : s.me.ports[portIx port].peer ≠ .none)
    (hj : x.toNat + imm.toNat < s.me.ports[portIx port].rate) (hdr : Bool) :
    exec (.ringAddr d port b imm hdr) s = .next (s.wrote 1 [s.dS d
      (s.me.ports[portIx port].slotAddr (x.toNat + imm.toNat) + (if hdr then 0 else 32))]) := by
  show execRingAddr d port b imm hdr s = _
  exact issue_ok (by simp only [hx, State.portOf_bound hp, slotIndex_within hj, ok_bind]; rfl)

theorem ringAvail_unbound (hp : s.me.ports[portIx port].peer = .none) :
    exec (.ringAvail d port) s = .next (s.trapped { cause := 0x1E, val := portVal port }) := by
  show execRingAvail d port s = _
  exact issue_trap (by simp only [State.portOf_unbound hp, error_bind])

theorem ringAvail_gives (hp : s.me.ports[portIx port].peer ≠ .none) : exec (.ringAvail d port) s =
    .next (s.wrote 1 [s.dS d (BitVec.ofNat 64 s.me.ports[portIx port].snap)]) := by
  show execRingAvail d port s = _
  exact issue_ok (by simp only [State.portOf_bound hp, ok_bind]; rfl)

end

/-! ## RING.PEEK (R221) -/

section
variable {s : State} {d b : SReg} {imm : BitVec 13} {x : Word}

theorem ringPeek_output (hx : s.rdS b = .ok x) (p : Fin 8) (f : PeekForm) : exec (.ringPeek d (.o p) b imm f) s =
    .next (s.trapped { cause := 0x1E, val := portVal (.o p) }) := by
  show execRingPeek d (.o p) b imm f s = _
  exact issue_trap (by simp only [hx, ok_bind, trapOf])

theorem ringPeek_unbound (hx : s.rdS b = .ok x) {port : Port} (hp : s.me.ports[portIx port].peer = .none)
    (f : PeekForm) : exec (.ringPeek d port b imm f) s =
    .next (s.trapped { cause := 0x1E, val := portVal port }) := by
  cases port with
  | o p => exact ringPeek_output hx p f
  | i p =>
    show execRingPeek d (.i p) b imm f s = _
    exact issue_trap (by simp only [hx, State.portOf_unbound hp, ok_bind, error_bind])

theorem ringPeek_beyond (hx : s.rdS b = .ok x) {p : Fin 8} (hp : s.me.ports[portIx (.i p)].peer ≠ .none)
    (hj : s.me.ports[portIx (.i p)].rate ≤ x.toNat + imm.toNat) (f : PeekForm) :
    exec (.ringPeek d (.i p) b imm f) s = .next (s.trapped { cause := 0x20, val := portVal (.i p) }) := by
  show execRingPeek d (.i p) b imm f s = _
  exact issue_trap (by simp only [hx, State.portOf_bound hp, slotIndex_beyond hj, ok_bind, error_bind])

/-- An access whose address R104 finds nothing wrong with takes a path of its kind. -/
theorem kindPath_of_checkAddr {handler : Bool} {k : AKind} {a : Word} {n align : Nat}
    (h : checkAddr handler k a n align = .ok ()) : kindPath k (pathOf a) = true := by
  unfold checkAddr at h
  cases he : addrError handler a n
  · by_cases ha : a.toNat % align = 0
    · by_cases hk : kindPath k (pathOf a) = true
      · exact hk
      · simp [check, he, ha, hk] at h
    · simp [check, he, ha] at h
  · simp [check, he] at h

/-- What a peek of a header gives: the payload length, or the word (R221, R373). -/
theorem peek_result (d : Word → Res) (f : PeekForm) : (fun bs : List Byte =>
      [d (if f = .len then headerLen bs else extend false bs)]) =
    fun bs => [d (BitVec.ofNat 64 (if f = .len then natOf bs / 2 ^ 14 % 256 * 32 else natOf bs))] := by
  funext bs
  split <;> rfl

theorem ringPeek_loads (hx : s.rdS b = .ok x) {p : Fin 8} (hp : s.me.ports[portIx (.i p)].peer ≠ .none)
    (hj : x.toNat + imm.toNat < s.me.ports[portIx (.i p)].rate) (f : PeekForm) {gs : List Seg} {a : Word}
    (ha : a = s.me.ports[portIx (.i p)].slotAddr (x.toNat + imm.toNat) + (if f = .h1 then 8 else 0))
    (hc : checkAddr s.me.hmode .ringPeek a 8 8 = .ok ()) (hg : s.xlateLoad .ringPeek a 8 = .ok gs) :
    let r : BusyReg := .s (s.me.physS d)
    s.LoadEnds s (exec (.ringPeek d (.i p) b imm f) s)
      { kind := .load, addr := a, dst := if f = .len then .peek r else .scalar r 8 false } gs [r]
      (fun bs => [s.dS d (BitVec.ofNat 64 (if f = .len then natOf bs / 2 ^ 14 % 256 * 32 else natOf bs))])
      fun _ => {} := by
  have hpath : pathOf a ≤ 1 := by
    have := kindPath_of_checkAddr hc
    simp only [kindPath, decide_eq_true_eq] at this
    omega
  intro r
  show s.LoadEnds s (execRingPeek d (.i p) b imm f s) _ gs [r] _ _
  refine State.loadEnds_of_near ?_ hpath
  rw [← peek_result]
  simp only [hx, State.portOf_bound hp, slotIndex_within hj, ok_bind, ← ha, hc, hg]
  rfl

end

/-! ## RING.PUT (R128, R220) -/

/-- The put joins the bank's puts and counts at once. -/
def Bank.addPut (x : Bank) (w : PutWait) (i : Fin 16) (q : PortState) : Bank :=
  { x with puts := x.puts ++ [w], putSlots := x.putSlots ++ [(i, q.puts, w.slot)],
           ports := x.ports.set i { q with puts := q.puts + 1 } }

/-- A put of the current bank on a port, of a length, at a place. -/
def State.newPut (s : State) (i : Fin 16) (len : Nat) (g : Seg) : PutWait :=
  let q := s.me.ports[i]
  let w := s.putHeader s.cur q len (q.cum + BitVec.ofNat 16 q.puts)
  { id := s.nextId, port := i, scope := s.edgeScope s.cur q.peer,
    head := bytesOf 8 w.1.toNat ++ bytesOf 8 w.2.toNat ++ List.replicate 16 0, at_ := g,
    slot := { g with len := q.stride }, due := s.clk + 2 }

/-- The state with a put made. -/
def State.withPut (s : State) (i : Fin 16) (w : PutWait) : State :=
  s.newId.2.modMe fun x => x.addPut w i s.me.ports[i]

section
variable {s : State} {b : SReg} {imm : BitVec 13} {x : Word}

theorem ringPut_input (hx : s.rdS b = .ok x) (p : Fin 8) (nul : Bool) : exec (.ringPut (.i p) b imm nul) s =
    .next (s.trapped { cause := 0x1E, val := portVal (.i p) }) := by
  show execRingPut (.i p) b imm nul s = _
  exact issue_trap (by simp only [hx, ok_bind, trapOf])

theorem ringPut_unbound (hx : s.rdS b = .ok x) {port : Port} (hp : s.me.ports[portIx port].peer = .none) (nul : Bool) :
    exec (.ringPut port b imm nul) s = .next (s.trapped { cause := 0x1E, val := portVal port }) := by
  cases port with
  | i p => exact ringPut_input hx p nul
  | o p =>
    show execRingPut (.o p) b imm nul s = _
    exact issue_trap (by simp only [hx, State.portOf_unbound hp, ok_bind, error_bind])

section
variable {p : Fin 8} (hx : s.rdS b = .ok x) (hp : s.me.ports[portIx (.o p)].peer ≠ .none)
include hx hp

theorem ringPut_beyond (hj : s.me.ports[portIx (.o p)].rate ≤ s.me.ports[portIx (.o p)].puts) (nul : Bool) :
    exec (.ringPut (.o p) b imm nul) s = .next (s.trapped { cause := 0x20, val := portVal (.o p) }) := by
  show execRingPut (.o p) b imm nul s = _
  exact issue_trap (by simp only [hx, State.portOf_bound hp, slotIndex_beyond hj, ok_bind, error_bind])

variable (hj : s.me.ports[portIx (.o p)].puts < s.me.ports[portIx (.o p)].rate)
include hj

theorem ringPut_badLength {nul : Bool} {len : Nat} (hlen : len = if nul then 0 else x.toNat + imm.toNat)
    (hl : len % 32 ≠ 0 ∨ s.me.ports[portIx (.o p)].capacity < len) :
    exec (.ringPut (.o p) b imm nul) s = .next (s.trapped { cause := 0x1E, val := portVal (.o p) }) := by
  have hc : (decide (len % 32 = 0) && decide (len ≤ s.me.ports[portIx (.o p)].capacity)) = false := by
    simp only [Bool.and_eq_false_iff, decide_eq_false_iff_not]
    omega
  show execRingPut (.o p) b imm nul s = _
  exact issue_trap (by
    simp only [hx, State.portOf_bound hp, slotIndex_within hj, ok_bind, ← hlen, check_error hc, error_bind])

/-- A put that R220 finds nothing wrong with; one whose slot a copy still writes takes the core from its bank. -/
theorem ringPut_counts {nul : Bool} {len : Nat} (hlen : len = if nul then 0 else x.toNat + imm.toNat)
    (hl : len % 32 = 0) (hcap : len ≤ s.me.ports[portIx (.o p)].capacity) {g : Seg} {gs : List Seg}
    (hg : s.access s.ctx .ringPut (s.me.ports[portIx (.o p)].slotAddr s.me.ports[portIx (.o p)].puts) 32 32
      = .ok (g :: gs)) :
    let w := s.newPut (portIx (.o p)) len g
    let t := s.withPut (portIx (.o p)) w
    exec (.ringPut (.o p) b imm nul) s = .next
      (if t.putBlocked s.cur w then (t.modMe fun y => { y with mode := .ringWait }).yield s.cur else t).on := by
  have hc : (decide (len % 32 = 0) && decide (len ≤ s.me.ports[portIx (.o p)].capacity)) = true := by
    exact Bool.and_eq_true_iff.2 ⟨decide_eq_true hl, decide_eq_true hcap⟩
  show execRingPut (.o p) b imm nul s = _
  exact issue_ok (by
    simp only [hx, State.portOf_bound hp, slotIndex_within hj, ok_bind, ← hlen, check_ok hc, hg]
    rfl)

end
end

/-! ## What a put leaves behind (R128) -/

section
variable (s : State) (i : Fin 16) (w : PutWait)

/-- Without an incomplete copy no put is kept from its slot (R128). -/
theorem State.putBlocked_of_no_copies (b : BankIx) (h : s.copies = []) : s.putBlocked b w = false := by
  rw [State.putBlocked, h]; rfl

theorem State.yield_cur (b : BankIx) : (s.yield b).cur = s.cur := by
  unfold State.yield; split <;> rfl

/-- The state in which a put has been made, its bank without the core when a copy still writes its slot. -/
def State.putMade : State :=
  let t := s.withPut i w
  (if t.putBlocked s.cur w then (t.modMe fun y => { y with mode := .ringWait }).yield s.cur else t).on

theorem State.putMade_mem : (s.putMade i w).mem = s.mem := by
  unfold State.putMade
  extract_lets t
  split
  · exact ((t.modMe fun y => { y with mode := .ringWait }).yield_effect s.cur).1
  · rfl

/-- The bank holds its put; a bank that must wait for a copy has no core. -/
theorem State.putMade_me : ∃ (m : BankMode) (clk n : Nat),
    (s.putMade i w).me = { s.me.addPut w i s.me.ports[i] with mode := m, yieldClk := clk, budcnt := n } ∧
      (s.copies = [] → m = s.me.mode) ∧
      (m ≠ s.me.mode → m = .ringWait ∧ (s.putMade i w).holds s.cur = false) := by
  have hme : (s.withPut i w).bank s.cur = s.me.addPut w i s.me.ports[i] := State.bank_modBank_self _ s.cur _
  by_cases hb : (s.withPut i w).putBlocked s.cur w = true
  · have hu : s.putMade i w =
        (((s.withPut i w).modMe fun y => { y with mode := .ringWait }).yield s.cur).on := by
      rw [State.putMade, if_pos hb]
    obtain ⟨-, hholds, clk, n, hbank, -⟩ :=
      ((s.withPut i w).modMe fun y => { y with mode := .ringWait }).yield_effect s.cur
    refine ⟨.ringWait, clk, n, ?_, fun hc => ?_, fun _ => ⟨rfl, ?_⟩⟩
    · rw [hu]
      refine (congrArg (State.bank _) (State.yield_cur _ s.cur)).trans (hbank.trans ?_)
      rw [State.modMe, show (s.withPut i w).cur = s.cur from rfl, State.bank_modBank_self, hme]
    · exact absurd (State.putBlocked_of_no_copies (s.withPut i w) w s.cur hc) (by rw [hb]; decide)
    · rw [hu]; exact hholds
  · have hu : s.putMade i w = (s.withPut i w).on := by rw [State.putMade, if_neg hb]
    exact ⟨s.me.mode, s.me.yieldClk, s.me.budcnt, hu ▸ hme, fun _ => rfl, fun h => absurd rfl h⟩

end

/-- Settles O44: each instruction stops at its own check of the port and the slot, and otherwise gives its result. -/
theorem rings : Obligations.Rings := by
  intro s d b port imm x hx q j slot trap
  refine ⟨?_, ?_, fun hp => ⟨ringAddr_unbound hx hp, ringAvail_unbound hp, ringPeek_unbound hx hp,
    ringPut_unbound hx hp⟩, fun hp => ⟨ringAvail_gives hp, ringAddr_beyond hx hp, fun hj => ⟨?_, ?_⟩, ?_, ?_, ?_⟩⟩
  · rintro p nul rfl; exact ringPut_input hx p nul
  · rintro p f rfl; exact ringPeek_output hx p f
  · have hslot : slot + 0 = slot := BitVec.add_zero slot
    rw [ringAddr_gives hx hp hj true, if_pos rfl]
    exact congrArg (fun a => Host.Outcome.next (s.wrote 1 [s.dS d a])) hslot
  · exact ringAddr_gives hx hp hj false
  · rintro p f rfl hj; exact ringPeek_beyond hx hp hj f
  · rintro p f gs rfl hj a hc hg; exact ringPeek_loads hx hp hj f rfl hc hg
  · rintro p nul g gs rfl len
    refine ⟨fun hj => ringPut_beyond hx hp hj nul, fun hj hl => ringPut_badLength hx hp hj rfl hl,
      fun hj hl hcap hg => ?_⟩
    have hexec := ringPut_counts hx hp hj rfl hl hcap hg
    have hmem := s.putMade_mem (portIx (.o p)) (s.newPut (portIx (.o p)) len g)
    obtain ⟨m, clk, n, hme, hmode, hwait⟩ := s.putMade_me (portIx (.o p)) (s.newPut (portIx (.o p)) len g)
    refine ⟨s.putMade (portIx (.o p)) (s.newPut (portIx (.o p)) len g), s.newPut (portIx (.o p)) len g, hexec, rfl,
      hmem, ?_⟩
    rw [hme]
    exact ⟨rfl, rfl, rfl, rfl, rfl, rfl, Nat.lt_add_of_pos_right (by decide), rfl, Vector.getElem_set_self _, hmode,
      hwait⟩

end Sys2Proof.Machine
end

section
/-! What the work of the links leaves as it was: packets that take their ports anew, returns that are asked for, flits that
arrive (R127, R369 to R380). -/

namespace Sys2Proof.Machine

/-! ## Ports and links -/

section
variable (s : State) (p : ChainPort)

@[simp] theorem State.modPort_port_self (f : CPort → CPort) : (s.modPort p f).ports[p] = f s.ports[p] :=
  Vector.getElem_set_self _

theorem State.modPort_port_ne (f : CPort → CPort) {q : ChainPort} (h : q ≠ p) :
    (s.modPort p f).ports[q] = s.ports[q] :=
  Vector.getElem_set_ne p.isLt q.isLt fun e => h (Fin.ext e.symm)

theorem CPort.setLink_self (q : CPort) (l : LinkIx) (x : Link) : (q.links.set l x)[l] = x := Vector.getElem_set_self _

theorem CPort.setLink_ne (q : CPort) {l k : LinkIx} (x : Link) (h : k ≠ l) : (q.links.set l x)[k] = q.links[k] :=
  Vector.getElem_set_ne _ _ fun e => h (Fin.ext e.symm)

end

/-! ## Packets that take their ports anew (R127) -/

/-- From s to t only the packets that wait at the ports have moved, and the pinned routes. -/
def State.Rewaits (s t : State) : Prop := ∃ ps r o, t = { s with ports := ps, repin := r, oldTopo := o } ∧
  ∀ i : ChainPort, ∃ w, ps[i] = { s.ports[i] with waiting := w }

namespace State.Rewaits
variable {s t u : State}

theorem refl (s : State) : s.Rewaits s := ⟨s.ports, s.repin, s.oldTopo, rfl, fun i => ⟨s.ports[i].waiting, rfl⟩⟩

theorem trans (h : s.Rewaits t) (h' : t.Rewaits u) : s.Rewaits u := by
  obtain ⟨ps, r, o, rfl, hps⟩ := h
  obtain ⟨qs, r', o', rfl, hqs⟩ := h'
  refine ⟨qs, r', o', rfl, fun i => ?_⟩
  obtain ⟨w, hw⟩ := hps i
  obtain ⟨w', hw'⟩ := hqs i
  exact ⟨w', by rw [hw', hw]⟩

theorem foldl {α : Type} {f : State → α → State} (l : List α) (s : State) (h : ∀ (s : State) x, s.Rewaits (f s x)) :
    s.Rewaits (l.foldl f s) := by
  induction l generalizing s with
  | nil => exact refl s
  | cons x xs ih => exact (h s x).trans (ih (f s x))

theorem modPort (s : State) (p : ChainPort) (f : CPort → List Packet) :
    s.Rewaits (s.modPort p fun q => { q with waiting := f q }) := by
  refine ⟨_, s.repin, s.oldTopo, rfl, fun i => ?_⟩
  by_cases hi : i = p
  · subst hi; exact ⟨f s.ports[i], s.modPort_port_self i fun q => { q with waiting := f q }⟩
  · exact ⟨s.ports[i].waiting, s.modPort_port_ne p (fun q => { q with waiting := f q }) hi⟩

theorem mem (h : s.Rewaits t) : t.mem = s.mem := by obtain ⟨_, _, _, rfl, -⟩ := h; rfl
theorem banks (h : s.Rewaits t) : t.banks = s.banks := by obtain ⟨_, _, _, rfl, -⟩ := h; rfl
theorem clk (h : s.Rewaits t) : t.clk = s.clk := by obtain ⟨_, _, _, rfl, -⟩ := h; rfl
theorem topo (h : s.Rewaits t) : t.topo = s.topo := by obtain ⟨_, _, _, rfl, -⟩ := h; rfl

theorem port (h : s.Rewaits t) (i : ChainPort) : ∃ w, t.ports[i] = { s.ports[i] with waiting := w } := by
  obtain ⟨_, _, _, rfl, hps⟩ := h
  exact hps i

end State.Rewaits

section
variable (s : State)

theorem State.sendPacket_rewaits (k : Packet) : s.Rewaits (s.sendPacket k) := by
  unfold State.sendPacket
  split
  · exact .refl s
  · exact .modPort s _ fun q => queuePacket k q.waiting

theorem State.waitAgain_rewaits (k : Packet) : s.Rewaits (s.waitAgain k) := by
  unfold State.waitAgain
  split
  · split
    · exact .refl s
    · exact .modPort s _ fun q => q.waiting ++ [k]
  · exact s.sendPacket_rewaits k

theorem State.repinAct_rewaits : s.Rewaits s.repinAct := by
  unfold State.repinAct
  split
  · exact .refl s
  · refine .trans ⟨_, [], [], rfl, fun i => ⟨[], ?_⟩⟩ (.foldl _ _ State.waitAgain_rewaits)
    exact vmap_getElem ..

/-- A change of a port, but for the packets that then take their ports anew. -/
theorem State.portChange_rewaits (p : ChainPort) (f : CPort → CPort) : (s.modPort p f).Rewaits (s.portChange p f) := by
  unfold State.portChange
  dsimp only
  split
  · exact .refl _
  · exact .trans ⟨_, _, _, rfl, fun i => ⟨_, rfl⟩⟩ (State.repinAct_rewaits _)

end

/-! ## Returns that are asked for (R379) -/

/-- From s to t only the cycles have changed in which returns are due. -/
def State.Wants (s t : State) : Prop := ∃ bs d, t = { s with banks := bs, fd := d } ∧
  ∀ b : BankIx, (t.bank b).view = (s.bank b).view ∧ (t.bank b).inflight = (s.bank b).inflight

namespace State.Wants
variable {s t u : State}

theorem refl (s : State) : s.Wants s := ⟨s.banks, s.fd, rfl, fun _ => ⟨rfl, rfl⟩⟩

theorem trans (h : s.Wants t) (h' : t.Wants u) : s.Wants u := by
  obtain ⟨bs, d, rfl, hb⟩ := h
  obtain ⟨cs, e, rfl, hc⟩ := h'
  exact ⟨cs, e, rfl, fun b => ⟨(hc b).1.trans (hb b).1, (hc b).2.trans (hb b).2⟩⟩

theorem foldl {α : Type} {f : State → α → State} (l : List α) (s : State) (h : ∀ (s : State) x, s.Wants (f s x)) :
    s.Wants (l.foldl f s) := by
  induction l generalizing s with
  | nil => exact refl s
  | cons x xs ih => exact (h s x).trans (ih (f s x))

theorem mem (h : s.Wants t) : t.mem = s.mem := by obtain ⟨_, _, rfl, -⟩ := h; rfl
theorem ports (h : s.Wants t) : t.ports = s.ports := by obtain ⟨_, _, rfl, -⟩ := h; rfl

end State.Wants

section
variable (s : State)

theorem State.wantReturn_wants (b : BankIx) (port : Fin 8) : s.Wants (s.wantReturn b port) := by
  refine ⟨_, s.fd, rfl, fun c => ?_⟩
  by_cases hc : b = c
  · subst hc
    rw [State.wantReturn, State.bank_modBank_self]
    exact ⟨rfl, rfl⟩
  · rw [State.wantReturn, State.bank_modBank_ne s _ hc]
    exact ⟨rfl, rfl⟩

theorem State.renewReturns_wants (p : ChainPort) (l : LinkIx) (dropped : List (Word × Word)) :
    s.Wants (s.renewReturns p l dropped) := by
  refine .foldl _ s fun t w => ?_
  dsimp only
  split
  · exact .refl t
  · split
    · exact t.wantReturn_wants ..
    · split
      · exact ⟨t.banks, _, rfl, fun _ => ⟨rfl, rfl⟩⟩
      · exact .refl t

end

/-! ## What arrives at a link (R369 to R377) -/

/-- What a link has of the blocks it takes. -/
def Link.intake (x : Link) : Bool × Nat × BitVec 16 × Bool := (x.up, x.lastRx, x.rxSeq, x.nak)

/-- From s to t no byte, no register and nothing of what the links have of the blocks they take has changed. -/
structure State.Receives (s t : State) : Prop where
  mem  : t.mem = s.mem
  bank : ∀ b : BankIx, (t.bank b).view = (s.bank b).view ∧ (t.bank b).inflight = (s.bank b).inflight
  link : ∀ (p : ChainPort) (l : LinkIx), ((t.ports[p]).links[l]).intake = ((s.ports[p]).links[l]).intake

namespace State.Receives
variable {s t u : State}

theorem of_ports (hm : t.mem = s.mem) (hb : t.banks = s.banks) (hp : t.ports = s.ports) : s.Receives t :=
  ⟨hm, fun b => by simp only [State.bank, hb, and_self], fun p l => by rw [hp]⟩

theorem refl (s : State) : s.Receives s := of_ports rfl rfl rfl

theorem trans (h : s.Receives t) (h' : t.Receives u) : s.Receives u :=
  ⟨h'.mem.trans h.mem, fun b => ⟨(h'.bank b).1.trans (h.bank b).1, (h'.bank b).2.trans (h.bank b).2⟩,
    fun p l => (h'.link p l).trans (h.link p l)⟩

theorem foldl {α : Type} {f : State → α → State} (l : List α) (s : State) (h : ∀ (s : State) x, s.Receives (f s x)) :
    s.Receives (l.foldl f s) := by
  induction l generalizing s with
  | nil => exact refl s
  | cons x xs ih => exact (h s x).trans (ih (f s x))

theorem modPort (s : State) (p : ChainPort) {f : CPort → CPort} (h : (f s.ports[p]).links = s.ports[p].links) :
    s.Receives (s.modPort p f) := by
  refine ⟨rfl, fun b => ⟨rfl, rfl⟩, fun q l => ?_⟩
  by_cases hq : q = p
  · subst hq; rw [State.modPort_port_self, h]
  · rw [s.modPort_port_ne p f hq]

theorem modLink (s : State) (p : ChainPort) (l : LinkIx) {f : Link → Link}
    (h : (f (s.ports[p]).links[l]).intake = ((s.ports[p]).links[l]).intake) : s.Receives (s.modLink p l f) := by
  refine ⟨rfl, fun b => ⟨rfl, rfl⟩, fun q k => ?_⟩
  by_cases hq : q = p
  · subst hq
    rw [State.modLink, State.modPort_port_self]
    by_cases hk : k = l
    · subst hk; rw [CPort.setLink_self, h]
    · rw [CPort.setLink_ne _ _ hk]
  · rw [State.modLink, s.modPort_port_ne p _ hq]

end State.Receives

theorem State.Rewaits.receives {s t : State} (h : s.Rewaits t) : s.Receives t := by
  obtain ⟨ps, r, o, rfl, hps⟩ := h
  refine ⟨rfl, fun b => ⟨rfl, rfl⟩, fun p l => ?_⟩
  obtain ⟨w, hw⟩ := hps p
  show ((ps[p]).links[l]).intake = _
  rw [hw]

theorem State.Wants.receives {s t : State} (h : s.Wants t) : s.Receives t := by
  obtain ⟨bs, d, rfl, hb⟩ := h
  exact ⟨rfl, hb, fun _ _ => rfl⟩

section
variable (s : State) (p : ChainPort)

theorem State.deliverPacket_receives (k : Packet) : s.Receives (s.deliverPacket p k) := by
  unfold State.deliverPacket
  dsimp only
  split
  · exact .refl s
  · exact .of_ports rfl rfl rfl

theorem State.releasePacket_receives (k : Packet) : s.Receives (s.releasePacket p k) := by
  have hfree : s.Receives (s.modPort p fun q => q.free k) := .modPort s p rfl
  unfold State.releasePacket
  dsimp only
  split
  · exact hfree.trans (.modPort _ p rfl)
  · split
    · exact hfree.trans (State.deliverPacket_receives _ p k)
    · split
      · exact hfree.trans (.modPort _ p rfl)
      · exact hfree.trans (State.sendPacket_rewaits _ _).receives

theorem State.releaseInOrder_receives (n : Nat) : s.Receives (s.releaseInOrder p n) := by
  induction n generalizing s with
  | zero => exact .refl s
  | succ n ih =>
    rw [State.releaseInOrder]
    dsimp only
    split
    · exact .refl s
    · refine .trans ?_ (ih _)
      refine .trans ?_ (.foldl _ _ fun t e => t.releasePacket_receives p e.2)
      split
      · exact .modPort s p rfl
      · exact .trans (.modPort s p rfl) (State.releasePacket_receives _ p _)

theorem State.packetIn_receives (flits : List (List Byte)) : s.Receives (s.packetIn p flits) := by
  unfold State.packetIn
  split
  · exact .refl s
  · dsimp only
    split
    · split
      · exact .modPort s p rfl
      · split
        · exact .modPort s p rfl
        · exact s.releasePacket_receives p _
    · split
      · exact .refl s
      · refine .trans ?_ (State.releaseInOrder_receives _ p _)
        split
        · exact .trans (.modPort s p rfl) (.modPort _ p rfl)
        · split
          · exact .trans (s.releasePacket_receives p _) (.modPort _ p rfl)
          · exact .modPort s p rfl

theorem State.flitIn_receives (l : LinkIx) (f : List Byte) : s.Receives (s.flitIn p l f) := by
  unfold State.flitIn
  dsimp only
  split
  · exact .refl s
  · split
    · exact .trans (.modLink s p l rfl) (State.packetIn_receives _ p _)
    · exact .modLink s p l rfl

theorem CPort.giveBack_links (q : CPort) (dropped : List (Word × Word)) : (q.giveBack dropped).links = q.links := by
  unfold CPort.giveBack
  induction dropped generalizing q with
  | nil => rfl
  | cons w ws ih => exact ih _

theorem State.resend_receives (l : LinkIx) : s.Receives (s.resend p l) := by
  unfold State.resend
  extract_lets x after dropped t u q v w
  have ht : s.Receives t := .modLink s p l rfl
  have hu : t.Receives u := .modPort t p (CPort.giveBack_links t.ports[p] dropped)
  have hv : u.Receives v := .foldl after u fun _ _ => .of_ports rfl rfl rfl
  have hw : s.Receives w := ((ht.trans hu).trans hv).trans (v.renewReturns_wants p l dropped).receives
  split
  · exact hw.trans (.of_ports rfl rfl rfl)
  · exact hw

end

end Sys2Proof.Machine
end

section
/-! O54: blocks that arrive, links that fail, train and rejoin, and the idle block of a silent link (R34, R341, R368 to R370,
R374, R378). -/

namespace Sys2Proof.Machine

theorem State.modLink_link_self (s : State) (p : ChainPort) (l : LinkIx) (f : Link → Link) :
    ((s.modLink p l f).ports[p]).links[l] = f (s.ports[p]).links[l] := by
  rw [State.modLink, State.modPort_port_self, CPort.setLink_self]

theorem State.modLink_link_ne (s : State) (p : ChainPort) {l k : LinkIx} (f : Link → Link) (h : k ≠ l) :
    ((s.modLink p l f).ports[p]).links[k] = (s.ports[p]).links[k] := by
  rw [State.modLink, State.modPort_port_self, CPort.setLink_ne _ _ h]

theorem Link.intake_eq {x y : Link} (h : y.intake = x.intake) :
    y.up = x.up ∧ y.lastRx = x.lastRx ∧ y.rxSeq = x.rxSeq ∧ y.nak = x.nak := by
  simpa only [Link.intake, Prod.mk.injEq] using h

/-! ## Blocks (R369) -/

/-- The control words of a block. -/
def blockCtl (block : List Byte) : List Byte := (block.drop 480).take 24

/-- SEQ of a block. -/
def blockSeq (block : List Byte) : BitVec 16 := BitVec.ofNat 16 (natOf ((blockCtl block).take 2))

/-- A block of the right length whose CRC is right. -/
def GoodBlock (block : List Byte) : Prop :=
  block.length = 512 ∧ crc64 (blockCtl block ++ block.take 480) = natOf (block.drop 504)

section
variable {s : State} {p : ChainPort} {l : LinkIx} {block : List Byte} (hup : (s.ports[p]).links[l].up = true)

/-- A block has reached a link. -/
def State.blockSeen (s : State) (p : ChainPort) (l : LinkIx) : State := s.modLink p l fun x => { x with lastRx := s.clk }

include hup

theorem linkBlock_bad (h : ¬ GoodBlock block) : exec (.linkBlock p l block) s =
    .next ((s.blockSeen p l).modLink p l fun x => { x with nak := true }) := by
  have hbad : (decide (block.length ≠ 512) ||
      decide (crc64 (blockCtl block ++ block.take 480) ≠ natOf (block.drop 504))) = true := by
    simpa only [GoodBlock, not_and_or, Bool.or_eq_true, decide_eq_true_eq] using h
  have hdown : ¬ (!(s.ports[p]).links[l].up) = true := by rw [hup]; decide
  show execLinkBlock p l block s = _
  exact (if_neg hdown).trans (if_pos hbad)

/-- A good block acknowledges and returns credit, whatever its SEQ; one in sequence is taken. -/
theorem linkBlock_good (h : GoodBlock block) : ∃ v, (s.blockSeen p l).Receives v ∧ exec (.linkBlock p l block) s =
    if blockSeq block = (s.ports[p]).links[l].rxSeq + 1 then
      .next ((chunked 32 (block.take 480) 15).foldl (fun s f => s.flitIn p l f)
        (v.modLink p l fun x => { x with rxSeq := blockSeq block }))
    else if seqAfter (blockSeq block) (s.ports[p]).links[l].rxSeq then
      .next (v.modLink p l fun x => { x with nak := true })
    else .next v := by
  have hgood : ¬ (decide (block.length ≠ 512) ||
      decide (crc64 (blockCtl block ++ block.take 480) ≠ natOf (block.drop 504))) = true := by
    simpa only [GoodBlock, Bool.or_eq_true, decide_eq_true_eq, not_or, not_not] using h
  have hdown : ¬ (!(s.ports[p]).links[l].up) = true := by rw [hup]; decide
  have hexec : execLinkBlock p l block s = _ := (if_neg hdown).trans (if_neg hgood)
  extract_lets seq ack nak credit t u v at hexec
  have ht : (s.blockSeen p l).Receives t := .modPort (s.blockSeen p l) p rfl
  have hu : t.Receives u := by
    unfold u
    split
    · exact .modLink t p l rfl
    · exact .refl t
  have hv : u.Receives v := by
    unfold v
    split
    · exact u.resend_receives p l
    · exact .refl u
  exact ⟨v, (ht.trans hu).trans hv, hexec⟩

/-- A block that is not good, or out of sequence, is answered with NAK; one in sequence is taken. -/
theorem linkBlock_effect (block : List Byte) : ∃ t, exec (.linkBlock p l block) s = .next t ∧ t.mem = s.mem ∧
    (∀ b : BankIx, (t.bank b).view = (s.bank b).view ∧ (t.bank b).inflight = (s.bank b).inflight) ∧
    let x := (s.ports[p]).links[l]
    let y := (t.ports[p]).links[l]
    y.up = true ∧ y.lastRx = s.clk ∧
      (¬ GoodBlock block → y = { x with lastRx := s.clk, nak := true } ∧ t.outbox = s.outbox) ∧
      (GoodBlock block → blockSeq block = x.rxSeq + 1 → y.rxSeq = blockSeq block) ∧
      (GoodBlock block → blockSeq block ≠ x.rxSeq + 1 →
        y.rxSeq = x.rxSeq ∧ (seqAfter (blockSeq block) x.rxSeq = true → y.nak = true)) := by
  have hseen : ((s.blockSeen p l).ports[p]).links[l] = { (s.ports[p]).links[l] with lastRx := s.clk } :=
    s.modLink_link_self p l _
  by_cases hg : GoodBlock block
  · obtain ⟨v, hv, hexec⟩ := linkBlock_good hup hg
    obtain ⟨hvup, hvrx, hvseq, -⟩ := Link.intake_eq (hv.link p l)
    rw [hseen] at hvup hvrx hvseq
    by_cases hseq : blockSeq block = (s.ports[p]).links[l].rxSeq + 1
    · rw [if_pos hseq] at hexec
      have ht := State.Receives.foldl (chunked 32 (block.take 480) 15)
        (v.modLink p l fun x => { x with rxSeq := blockSeq block }) fun t f => t.flitIn_receives p l f
      obtain ⟨htup, htrx, htseq, -⟩ := Link.intake_eq (ht.link p l)
      rw [State.modLink_link_self] at htup htrx htseq
      exact ⟨_, hexec, ht.mem.trans hv.mem, fun b => ⟨(ht.bank b).1.trans (hv.bank b).1,
        (ht.bank b).2.trans (hv.bank b).2⟩, htup.trans (hvup.trans hup), htrx.trans hvrx, absurd hg,
        fun _ _ => htseq, fun _ h => absurd hseq h⟩
    · rw [if_neg hseq] at hexec
      by_cases ha : seqAfter (blockSeq block) (s.ports[p]).links[l].rxSeq = true
      · rw [if_pos ha] at hexec
        refine ⟨_, hexec, hv.mem, hv.bank, ?_⟩
        intro x y
        have hy : y = { (v.ports[p]).links[l] with nak := true } := v.modLink_link_self p l _
        rw [hy]
        exact ⟨hvup.trans hup, hvrx, absurd hg, fun _ h => absurd h hseq, fun _ _ => ⟨hvseq, fun _ => rfl⟩⟩
      · rw [if_neg ha] at hexec
        exact ⟨v, hexec, hv.mem, hv.bank, hvup.trans hup, hvrx, absurd hg, fun _ h => absurd h hseq,
          fun _ _ => ⟨hvseq, fun h => absurd h ha⟩⟩
  · refine ⟨_, linkBlock_bad hup hg, rfl, fun b => ⟨rfl, rfl⟩, ?_⟩
    intro x y
    have hy : y = { x with lastRx := s.clk, nak := true } :=
      ((s.blockSeen p l).modLink_link_self p l fun x => { x with nak := true }).trans (by rw [hseen])
    rw [hy]
    exact ⟨hup, rfl, fun _ => ⟨rfl, rfl⟩, fun h => absurd h hg, fun h => absurd h hg⟩

end

/-! ## The failure of a link (R370, R378) -/

theorem State.fqDrain_frame (s : State) (l : List (List Byte)) :
    ∃ n out h, s.fqDrain l = { s with nextId := n, outbox := out, hub := h } := by
  induction l generalizing s with
  | nil => exact ⟨_, _, _, rfl⟩
  | cons e es ih =>
    rw [State.fqDrain]
    split
    · obtain ⟨n, out, h, heq⟩ := ih (s.fqWrite e)
      exact ⟨n, out, h, heq⟩
    · exact ⟨_, _, _, rfl⟩

/-- A fault record changes the fault queue, and the package writes to its host. -/
theorem State.record_frame (s : State) (type : Nat) (rec : List Byte) :
    ∃ n out h, s.record type rec = { s with nextId := n, outbox := out, hub := h } := by
  obtain ⟨n, out, h, heq⟩ := s.fqDrain_frame (s.hub.fqown ++ [faultEntry s.hub.pkg type rec])
  rw [State.record_eq, heq, State.fqTrim]
  split
  · exact ⟨_, _, _, rfl⟩
  · exact ⟨_, _, _, rfl⟩

theorem CPort.mem_upLinks {q : CPort} {l : LinkIx} : l ∈ q.upLinks ↔ q.links[l].up = true := by
  simp only [CPort.upLinks, List.mem_filter, List.mem_finRange, true_and]

theorem CPort.upLinks_nil {q : CPort} (h : q.upLinks = []) (l : LinkIx) : q.links[l].up = false :=
  Bool.eq_false_iff.2 fun hl => List.not_mem_nil (h ▸ CPort.mem_upLinks.2 hl)

/-- The links of a port that are up come in ascending order. -/
theorem CPort.upLinks_cons {q : CPort} {k : LinkIx} {ks : List LinkIx} (h : q.upLinks = k :: ks) :
    q.links[k].up = true ∧ ∀ l, q.links[l].up = true → k ≤ l := by
  refine ⟨CPort.mem_upLinks.1 (h ▸ List.mem_cons_self), fun l hl => ?_⟩
  have hsorted : q.upLinks.Pairwise (· < ·) := (List.pairwise_lt_finRange 4).sublist List.filter_sublist
  rw [h, List.pairwise_cons] at hsorted
  rcases List.mem_cons.1 (h ▸ CPort.mem_upLinks.2 hl) with rfl | hmem
  · exact le_refl l
  · exact le_of_lt (hsorted.1 l hmem)

/-- The port of a link that has failed: the link is reset, the other links stay. -/
def CPort.lost (q : CPort) (l : LinkIx) (now : Nat) (ws : List Packet) : CPort :=
  { q with links := q.links.set l { Link.reset with lastTx := now, lastRx := q.links[l].lastRx }, waiting := ws }

section
variable (q : CPort) {l k : LinkIx} (now : Nat) (ws : List Packet)

theorem CPort.lost_link_self : (q.lost l now ws).links[l].up = false :=
  congrArg Link.up (q.setLink_self l { Link.reset with lastTx := now, lastRx := q.links[l].lastRx })

theorem CPort.lost_link_ne (h : k ≠ l) : (q.lost l now ws).links[k] = q.links[k] := q.setLink_ne _ h

end

/-- What leaves by a surviving link in the place of a failed one (R370). -/
def CPort.movedFlits (q : CPort) (l k : LinkIx) : List Flit :=
  ((withoutReturns ((q.links[l]).retry.map Prod.snd).flatten).filter (fun f => f.kind ≠ .idle) ++
    (q.links[l]).txq.filter fun f => !q.stale l f).map fun f => f.onLink k

section
variable (s : State) (p : ChainPort) (l : LinkIx)

/-- The record of a failed link, and its port after it: the first surviving link takes the flits. -/
theorem linkFailure_cases (hup : (s.ports[p]).links[l].up = true) : ∃ (u : State) (ws : List Packet),
    u.mem = s.mem ∧ u.clk = s.clk ∧ u.ports[p] = (s.ports[p]).lost l s.clk ws ∧
    ((u.ports[p].upLinks = [] ∧ exec (.linkFailure p l) s = .next (u.schedule u.clk (.portDead p))) ∨
     ∃ (k : LinkIx) (ks : List LinkIx) (v t : State), u.ports[p].upLinks = k :: ks ∧ v.mem = s.mem ∧
       v.ports[p].links = u.ports[p].links ∧
       (v.modLink p k fun y => { y with txq := y.txq ++ (s.ports[p]).movedFlits l k }).Wants t ∧
       exec (.linkFailure p l) s = .next t) := by
  have hdown : ¬ (!(s.ports[p]).links[l].up) = true := by rw [hup]; decide
  have hexec : exec (.linkFailure p l) s = execLinkFailure p l s := rfl
  unfold execLinkFailure at hexec
  extract_lets x r fs reset u dropped stale queue at hexec
  rw [if_neg hdown] at hexec
  obtain ⟨n, out, h, hr⟩ : ∃ n out h, r = { s with nextId := n, outbox := out, hub := h } := s.record_frame ..
  have hu : (r.modPort p _).Rewaits u := r.portChange_rewaits ..
  obtain ⟨ws, hq⟩ := hu.port p
  rw [State.modPort_port_self] at hq
  replace hq : u.ports[p] = (s.ports[p]).lost l s.clk ws := by rw [hq, hr]; rfl
  have hmem : u.mem = s.mem := by rw [hu.mem, hr]; rfl
  have hclk : u.clk = s.clk := by rw [hu.clk, hr]; rfl
  refine ⟨u, ws, hmem, hclk, hq, ?_⟩
  clear_value u
  split at hexec
  · next hnil => exact .inl ⟨hnil, hexec⟩
  · next k ks hcons =>
    extract_lets moved v at hexec
    have hv : v.ports[p].links = u.ports[p].links := by
      rw [State.modPort_port_self]
      exact CPort.giveBack_links ..
    have hstale : stale = (s.ports[p]).stale l := by
      show (u.ports[p]).stale l = _
      rw [hq]; rfl
    have hmoved : moved = (s.ports[p]).movedFlits l k := by
      unfold moved queue
      rw [hstale]; rfl
    refine .inr ⟨k, ks, v, _, hcons, hmem, hv, ?_, hexec⟩
    rw [← hmoved]
    exact State.renewReturns_wants ..

/-- A link that fails gives its flits to the first surviving one; without one its port is dead. -/
theorem linkFailure_effect (hup : (s.ports[p]).links[l].up = true) : ∃ t, exec (.linkFailure p l) s = .next t ∧
    ((t.ports[p]).links[l]).up = false ∧ t.mem = s.mem ∧
    ((∀ k : LinkIx, k ≠ l → ((s.ports[p]).links[k]).up = false) → (s.clk, Instr.portDead p) ∈ t.agenda) ∧
    ∀ k : LinkIx, k ≠ l → ((s.ports[p]).links[k]).up = true →
      (∀ j : LinkIx, j < k → j ≠ l → ((s.ports[p]).links[j]).up = false) →
      ((t.ports[p]).links[k]).txq = ((s.ports[p]).links[k]).txq ++ (s.ports[p]).movedFlits l k := by
  obtain ⟨u, ws, hmem, hclk, hq, ⟨hnil, hexec⟩ | ⟨k, ks, v, t, hcons, hvmem, hv, ht, hexec⟩⟩ :=
    linkFailure_cases s p l hup
  · refine ⟨_, hexec, ?_, hmem, fun _ => ?_, fun k hk hkup => ?_⟩
    · exact CPort.upLinks_nil hnil l
    · rw [hclk]
      exact List.mem_append_right _ List.mem_cons_self
    · have hdown := CPort.upLinks_nil hnil k
      rw [hq, CPort.lost_link_ne _ _ _ hk, hkup] at hdown
      cases hdown
  · obtain ⟨hkup, hfirst⟩ := CPort.upLinks_cons hcons
    have hkl : k ≠ l := by
      rintro rfl
      rw [hq, CPort.lost_link_self] at hkup
      cases hkup
    rw [hq, CPort.lost_link_ne _ _ _ hkl] at hkup
    refine ⟨t, hexec, ?_, ht.mem.trans hvmem, fun hdown => ?_, fun j hj hjup hbelow => ?_⟩
    · rw [ht.ports, State.modLink_link_ne _ _ _ hkl.symm, hv, hq, CPort.lost_link_self]
    · rw [hdown k hkl] at hkup
      cases hkup
    · have hjk : j = k := by
        have hkj : k ≤ j := hfirst j (by rw [hq, CPort.lost_link_ne _ _ _ hj, hjup])
        refine le_antisymm (le_of_not_gt fun hlt => ?_) hkj
        rw [hbelow k hlt hkl] at hkup
        cases hkup
      subst hjk
      rw [ht.ports, State.modLink_link_self, hv, hq, CPort.lost_link_ne _ _ _ hj]

end

theorem linkFailure_down {s : State} {p : ChainPort} {l : LinkIx} (h : (s.ports[p]).links[l].up = false) :
    exec (.linkFailure p l) s = .next s := by
  have hdown : (!(s.ports[p]).links[l].up) = true := by rw [h]; rfl
  show execLinkFailure p l s = _
  exact if_pos hdown

/-- Messages that leave one by one have left. -/
theorem State.foldl_emit {α : Type} (f : α → Out) (l : List α) (s : State) :
    l.foldl (fun s x => s.emit (f x)) s = { s with outbox := s.outbox ++ l.map f } := by
  induction l generalizing s with
  | nil => simp only [List.foldl_nil, List.map_nil, List.append_nil]
  | cons x xs ih =>
    rw [List.foldl_cons, ih]
    simp only [State.emit, List.map_cons, List.append_assoc, List.singleton_append]

/-! ## Training and rejoining (R376, R378, R403) -/

/-- A link that has trained and takes part from the next block. -/
def Link.trained (now : Nat) : Link := { Link.reset with up := true, lastTx := now, lastRx := now }

theorem linkRejoin_up {s : State} {p : ChainPort} {l : LinkIx} (h : (s.ports[p]).links[l].up = true) :
    exec (.linkRejoin p l) s = .next s := by
  show execLinkRejoin p l s = _
  exact if_pos h

theorem linkRejoin_down {s : State} {p : ChainPort} {l : LinkIx} (h : (s.ports[p]).links[l].up = false) :
    ∃ t, exec (.linkRejoin p l) s = .next t ∧ t.mem = s.mem ∧ (t.ports[p]).links[l] = Link.trained s.clk := by
  have hdown : ¬ (s.ports[p]).links[l].up = true := by rw [h]; decide
  have ht := s.portChange_rewaits p fun q => { q with links := q.links.set l (Link.trained s.clk) }
  obtain ⟨ws, hq⟩ := ht.port p
  rw [State.modPort_port_self] at hq
  refine ⟨_, if_neg hdown, ht.mem, ?_⟩
  show ((s.portChange p fun q => { q with links := q.links.set l (Link.trained s.clk) }).ports[p]).links[l] = _
  rw [hq]
  exact CPort.setLink_self ..

/-- What link training leaves of a port: a port without a link that is up begins anew, but for its counters. -/
def CPort.trained (q : CPort) (l : LinkIx) (o : FarPort) (now : Nat) : CPort :=
  let r := if q.upLinks.isEmpty then
      { CPort.reset with waiting := q.waiting, badpkt := q.badpkt, badret := q.badret, hopdrop := q.hopdrop }
    else q
  { r with neighbour := some o.pkg, peer := some o.port, dead := false, links := r.links.set l (Link.trained now) }

theorem CPort.trained_badpkt (q : CPort) (l : LinkIx) (o : FarPort) (now : Nat) :
    (q.trained l o now).badpkt = q.badpkt := by
  unfold CPort.trained
  dsimp only
  split <;> rfl

theorem linkTraining_effect (s : State) (p : ChainPort) (l : LinkIx) (o : FarPort) (reach : List (Nat × Nat)) :
    ∃ t, exec (.linkTraining p l o reach) s = .next t ∧ (∃ ws, t.ports[p] =
      { (s.ports[p]).trained l o s.clk with waiting := ws }) ∧
      t.topo = (s.topo ++ (s.hub.pkg.toNat, o.pkg) :: reach).eraseDups ∧ t.mem = s.mem := by
  let u : State := { s with topo := (s.topo ++ (s.hub.pkg.toNat, o.pkg) :: reach).eraseDups }
  have ht : (u.modPort p fun q => q.trained l o s.clk).Rewaits (u.portChange p fun q => q.trained l o s.clk) :=
    u.portChange_rewaits p _
  obtain ⟨ws, hq⟩ := ht.port p
  rw [State.modPort_port_self] at hq
  have hexec : exec (.linkTraining p l o reach) s = .next ((u.portChange p fun q => q.trained l o s.clk).td.roots.foldl
    (fun (s : State) r => s.emit (.hub o.pkg (.timeRoot r true))) (u.portChange p fun q => q.trained l o s.clk)) := rfl
  rw [State.foldl_emit] at hexec
  exact ⟨_, hexec, ⟨ws, hq⟩, ht.topo, ht.mem⟩

/-! ## The idle block of a silent link (R341, R368) -/

theorem length_bytesOf (n w : Nat) : (bytesOf n w).length = n := by
  induction n generalizing w with
  | zero => rfl
  | succ n ih => simp only [bytesOf, List.length_cons, ih]

/-- A block without flits is 512 bytes long. -/
theorem length_blockBytes (q : CPort) (x : Link) (seq : BitVec 16) : (blockBytes q x seq []).length = 512 := by
  have hbody (n : Nat) : (((([] : List Flit) ++ List.replicate n idleFlit).map (·.bytes)).flatten).length = n * 32 := by
    simp only [List.nil_append, List.map_replicate, List.length_flatten, List.sum_replicate, smul_eq_mul, idleFlit,
      List.length_replicate]
  have hcredit (f : Fin 4 → Nat) : (((List.finRange 4).map fun v => bytesOf 2 (f v)).flatten).length = 8 := rfl
  simp only [blockBytes, List.length_append, length_bytesOf, List.length_replicate, List.length_cons, List.length_nil,
    hbody, hcredit]

theorem livenessBeat_sends {s : State} {p : ChainPort} {l : LinkIx} (hup : (s.ports[p]).links[l].up = true)
    (hq : (s.ports[p]).links[l].txq = []) : ∃ t bytes, exec (.livenessBeat p l) s = .next t ∧
      t.outbox = s.outbox ++ [.block p l bytes] ∧ bytes.length = 512 ∧ ((t.ports[p]).links[l]).lastTx = s.clk ∧
      ((t.ports[p]).links[l]).txSeq = (s.ports[p]).links[l].txSeq + 1 ∧ t.mem = s.mem := by
  have hidle : ((s.ports[p]).links[l].up && (s.ports[p]).links[l].txq.isEmpty) = true := by rw [hup, hq]; rfl
  have hexec : exec (.livenessBeat p l) s = .next (s.sendBlock p l) := if_pos hidle
  have hnone : (s.ports[p]).links[l].txq.take 15 = [] := by rw [hq]; rfl
  rw [State.sendBlock, hnone] at hexec
  refine ⟨_, _, hexec, rfl, length_blockBytes .., ?_, ?_, rfl⟩
  · rw [State.modLink_link_self]; rfl
  · rw [State.modLink_link_self]; rfl

end Sys2Proof.Machine
end

section
/-! O54: stream packets into the ring, free-slot returns, and the periodic return (R34, R374, R379, R380, R405). -/

namespace Sys2Proof.Machine

theorem Bank.setPort_port_self (x : Bank) (i : Fin 16) (q : PortState) : (x.setPort i q).ports[i] = q := by
  rw [Bank.setPort_ports, if_pos rfl]

/-! ## Stream packets (R34, R345, R374) -/

/-- Packets that no recovery discards count as produced. -/
theorem State.arrived_counts {s : State} {b : BankIx} {i : Fin 16} (n : Nat) (h : ((s.bank b).ports[i]).discard = 0) :
    let q := (s.bank b).ports[i]
    let t := s.arrived b i n
    t.mem = s.mem ∧ ((t.bank b).ports[i]).cum = q.cum + BitVec.ofNat 16 n ∧ ((t.bank b).ports[i]).freed = q.freed ∧
      ∀ c, c ≠ b → t.bank c = s.bank c := by
  intro q t
  have hk : Nat.min q.discard n = 0 := by rw [h]; exact Nat.zero_min n
  have ht : t = s.modBank b fun x => x.setPort i { q with
      cum := q.cum + BitVec.ofNat 16 n, freed := q.freed + BitVec.ofNat 16 0,
      discard := q.discard - 0, slot := (q.slot + 0) % Nat.max 1 q.depth } := by
    unfold t State.arrived
    dsimp only
    rw [hk, if_pos rfl]
  clear_value t
  subst ht
  refine ⟨rfl, ?_, ?_, fun c hc => State.bank_modBank_ne s _ hc.symm⟩
  · rw [State.bank_modBank_self, Bank.setPort_port_self]
  · rw [State.bank_modBank_self, Bank.setPort_port_self]
    exact BitVec.add_zero _

/-- The bytes that a stream packet leaves in its slot. -/
def slotBytes (w0 w1 : Word) (body : List Byte) : List Byte :=
  bytesOf 8 (w0 &&& ~~~ 192).toNat ++ bytesOf 8 w1.toNat ++ List.replicate 16 0 ++ body

theorem streamPacket_stores {s : State} {w0 w1 : Word} {body : List Byte} {b : BankIx} {i : Fin 16} {g : Seg}
    (hp : s.streamPlace w0 w1 = some (b, i)) (hd : ((s.bank b).ports[i]).discard = 0) (hg : s.ringSeg b i = some g) :
    exec (.streamPacket (.packet w0 w1 body)) s = .next ((s.store (g.addr + ((s.bank b).ports[i]).nextSlot *
      ((s.bank b).ports[i]).stride) (slotBytes w0 w1 body) (w0.getLsbD 9)).arrived b i 1) := by
  have hd' : ¬ 0 < ((s.bank b).ports[i]).discard := by omega
  show execStreamPacket (.packet w0 w1 body) s = _
  unfold execStreamPacket
  dsimp only
  rw [hp]
  dsimp only
  rw [if_neg hd', hg]
  rfl

/-- A packet is counted and lies in the slot produced next; no other byte changes. -/
theorem State.arrived_stored {s : State} {b : BankIx} {i : Fin 16} (hs : s.Inv)
    (hd : ((s.bank b).ports[i]).discard = 0) (a : Nat) (bs : List Byte) (psn : Bool) :
    let t := (s.store a bs psn).arrived b i 1
    ((t.bank b).ports[i]).cum = ((s.bank b).ports[i]).cum + 1 ∧
      ((t.bank b).ports[i]).freed = ((s.bank b).ports[i]).freed ∧ memBytes t.mem a bs.length = bs ∧
      ∀ c, c < a ∨ a + bs.length ≤ c → memByte t.mem c = memByte s.mem c := by
  intro t
  obtain ⟨hmem, hcum, hfreed, -⟩ := State.arrived_counts (s := s.store a bs psn) (b := b) (i := i) 1 hd
  refine ⟨hcum, hfreed, ?_, fun c hc => ?_⟩
  · rw [hmem]
    exact s.load_store a bs psn hs
  · rw [hmem]
    exact memByte_memSets_other a c bs hs hc

/-! ## Returns (R379, R380, R405) -/

section
variable {s : State} {port : Option ChainPort} {w0 w1 : Word}

theorem freeSlotReturn_bad (h : returnOk w0 w1 = false) :
    exec (.freeSlotReturn port w0 w1) s = .next (s.badReturn port) := by
  show execFreeSlotReturn port w0 w1 s = _
  simp only [execFreeSlotReturn, h, Bool.not_false, if_true]

variable {b : BankIx} {i : Fin 16} (h : returnOk w0 w1 = true)
  (hb : s.producerOf (wfld w1 32 32) (wfld w0 0 4) = some (b, i))
include h hb

/-- A return that its producer answers: its value is accepted in its window, and discarded outside it. -/
theorem freeSlotReturn_eq : let q := (s.bank b).ports[i]
    let c : BitVec 16 := w1.extractLsb' 0 16
    exec (.freeSlotReturn port w0 w1) s = if acceptable q.freed q.cum c then
      .next (s.modBank b fun x => x.setPort i { x.ports[i] with freed := c }) else .next (s.badReturn port) := by
  intro q c
  show execFreeSlotReturn port w0 w1 s = _
  simp only [execFreeSlotReturn, h, hb, Bool.not_true, Bool.false_eq_true, if_false]
  rfl

theorem freeSlotReturn_beyond (hc : ((((s.bank b).ports[i]).cum - ((s.bank b).ports[i]).freed).toNat <
    (w1.extractLsb' 0 16 - ((s.bank b).ports[i]).freed).toNat)) :
    exec (.freeSlotReturn port w0 w1) s = .next (s.badReturn port) :=
  (freeSlotReturn_eq h hb).trans (if_neg fun ha => Nat.not_le.2 hc (of_decide_eq_true ha))

theorem freeSlotReturn_accepts (hc : (w1.extractLsb' 0 16 - ((s.bank b).ports[i]).freed).toNat ≤
    (((s.bank b).ports[i]).cum - ((s.bank b).ports[i]).freed).toNat) :
    ∃ t, exec (.freeSlotReturn port w0 w1) s = .next t ∧
      (t.bank b).ports[i] = { (s.bank b).ports[i] with freed := w1.extractLsb' 0 16 } ∧ t.mem = s.mem ∧
      ∀ k, k ≠ b → t.bank k = s.bank k := by
  refine ⟨_, (freeSlotReturn_eq h hb).trans (if_pos (decide_eq_true hc)), ?_, rfl, fun k hk =>
    State.bank_modBank_ne s _ hk.symm⟩
  rw [State.bank_modBank_self, Bank.setPort_port_self]

end

/-- A discarded return is counted where it came in. -/
theorem State.badReturn_badret (s : State) (p : ChainPort) : ((s.badReturn (some p)).ports[p]).badret =
    if (s.ports[p]).badret = BitVec.allOnes 32 then BitVec.allOnes 32 else (s.ports[p]).badret + 1 := by
  rw [State.badReturn, State.modPort_port_self]
  show (if _ then _ else _) = _
  split
  · next h => exact h
  · rfl

/-! ## The words of a return (R374) -/

/-- A CRC of a byte stays in its width. -/
theorem crcByte_lt {w poly : Nat} (h : poly < 2 ^ w) (c : Nat) (b : Byte) : crcByte w poly c b < 2 ^ w := by
  have hw : ∀ c : Nat, c * 2 % 2 ^ w < 2 ^ w := fun c => Nat.mod_lt _ (Nat.two_pow_pos w)
  rw [crcByte, show List.range 8 = List.range 7 ++ [7] from rfl, List.foldl_append]
  dsimp only [List.foldl_cons, List.foldl_nil]
  split
  · exact Nat.xor_lt_two_pow (hw _) h
  · exact hw _

theorem crc16_lt (bs : List Byte) : crc16 bs < 2 ^ 16 := by
  rcases List.eq_nil_or_concat bs with rfl | ⟨xs, x, rfl⟩
  · decide
  · rw [crc16, List.concat_eq_append, List.foldl_append, List.foldl_cons, List.foldl_nil]
    exact crcByte_lt (by decide) _ x

section
variable (dpkg dcog spkg scog port : Nat) {id : Nat} (n : BitVec 16)

/-- Word 1 of a return: the consumer's STAGEID, the CRC, the count. -/
theorem returnWords_toNat (hid : id < 2 ^ 32) : ∃ c < 2 ^ 16,
    (returnWords dpkg dcog spkg scog port id n).2.toNat = (id * 2 ^ 32 + n.toNat) ||| c * 65536 := by
  have hn := n.isLt
  obtain ⟨c, hc, hw⟩ : ∃ c < 2 ^ 16, (returnWords dpkg dcog spkg scog port id n).2 =
      BitVec.ofNat 64 (id * 2 ^ 32 + n.toNat) ||| BitVec.ofNat 64 (c * 65536) := ⟨_, crc16_lt _, rfl⟩
  refine ⟨c, hc, ?_⟩
  rw [hw, BitVec.toNat_or, BitVec.toNat_ofNat, BitVec.toNat_ofNat, Nat.mod_eq_of_lt (by omega),
    Nat.mod_eq_of_lt (by omega)]

theorem returnWords_count (hid : id < 2 ^ 32) : (returnWords dpkg dcog spkg scog port id n).2.extractLsb' 0 16 = n := by
  obtain ⟨c, -, hw⟩ := returnWords_toNat dpkg dcog spkg scog port n hid
  have hn := n.isLt
  apply BitVec.eq_of_toNat_eq
  rw [BitVec.extractLsb'_toNat, hw, Nat.shiftRight_zero, Nat.or_mod_two_pow]
  rw [show c * 65536 % 2 ^ 16 = 0 by omega, Nat.or_zero]
  omega

theorem returnWords_stage (hid : id < 2 ^ 32) : wfld (returnWords dpkg dcog spkg scog port id n).2 32 32 = id := by
  obtain ⟨c, hc, hw⟩ := returnWords_toNat dpkg dcog spkg scog port n hid
  have hn := n.isLt
  rw [wfld, hw, Nat.or_div_two_pow, show c * 65536 / 2 ^ 32 = 0 by omega, Nat.or_zero]
  omega

end

/-! ## The periodic return (R379) -/

/-- A return that leaves for a package, or arrives at this one a free time later. -/
theorem State.routeReturn_keeps (s : State) (pkg : Nat) (w : Word × Word) :
    (s.routeReturn pkg w).mem = s.mem ∧ (s.routeReturn pkg w).banks = s.banks := by
  unfold State.routeReturn
  split
  · exact ⟨rfl, rfl⟩
  · exact ⟨(s.sendPacket_rewaits _).mem, (s.sendPacket_rewaits _).banks⟩

theorem State.routeReturn_later (s : State) (w : Word × Word) :
    s.Later (s.routeReturn s.hub.pkg.toNat w) (.freeSlotReturn none w.1 w.2) := by
  rw [State.routeReturn, if_pos rfl]
  exact ⟨_, Nat.lt_of_lt_of_le (Nat.lt_succ_self _) (Nat.le_add_right _ _), List.mem_append_right _ List.mem_cons_self⟩

theorem State.sendReturn_keeps (s : State) (b : BankIx) (port : Fin 8) :
    (s.sendReturn b port).mem = s.mem ∧ (s.sendReturn b port).banks = s.banks := by
  unfold State.sendReturn
  dsimp only
  split
  · exact ⟨rfl, rfl⟩
  · exact s.routeReturn_keeps ..
  · exact s.routeReturn_keeps ..

theorem periodicReturn_sends {s : State} {b : BankIx} {port : Fin 8} : let i : Fin 16 := port.castLE (by decide)
    let q := (s.bank b).ports[i]
    (s.bank b).active = true → q.peer ≠ .none → ∃ t, exec (.periodicReturn b port) s = .next t ∧
      (t.bank b).ports[i] = { q with retDue := s.clk + 1024 } ∧ t.mem = s.mem ∧
      ∀ k pt id, q.peer = .stage s.hub.pkg.toNat k pt id → ∃ w : Word × Word, s.Later t (.freeSlotReturn none w.1 w.2) ∧
        w.2.extractLsb' 0 16 = q.freed ∧ wfld w.2 32 32 = (s.bank b).stage.id.toNat := by
  intro i q ha hq
  obtain ⟨hmem, hbanks⟩ := s.sendReturn_keeps b port
  have hgo : ((s.bank b).active && q.bound) = true := Bool.and_eq_true_iff.2 ⟨ha, decide_eq_true hq⟩
  refine ⟨_, if_pos hgo, ?_, hmem, fun k pt id hpeer => ?_⟩
  · rw [State.bank_modBank_self]
    refine (Bank.setPort_port_self _ i _).trans ?_
    show { ((s.sendReturn b port).bank b).ports[i] with retDue := s.clk + 1024 } = _
    rw [State.bank, hbanks]
    rfl
  · have hsend : s.sendReturn b port = s.routeReturn s.hub.pkg.toNat (returnWords s.hub.pkg.toNat (k / 2)
        s.hub.pkg.toNat b.cog.val port.val (s.bank b).stage.id.toNat q.freed) := by
      unfold State.sendReturn
      dsimp only
      rw [show (s.bank b).ports[(⟨port.val, by omega⟩ : Fin 16)].peer = _ from hpeer]
      rfl
    rw [hsend]
    exact ⟨_, s.routeReturn_later _, returnWords_count _ _ _ _ _ _ (BitVec.isLt _),
      returnWords_stage _ _ _ _ _ _ (BitVec.isLt _)⟩

/-- Settles O54: each clause is what its event's lemma says. -/
theorem links : Obligations.Links := by
  refine ⟨?_, ?_, ?_, ?_, ?_, ?_⟩
  · intro s p l block x hup
    exact linkBlock_effect hup block
  · intro s p l x
    refine ⟨linkFailure_effect s p l, fun hdown => ⟨linkFailure_down hdown, linkRejoin_down hdown⟩, linkRejoin_up,
      fun o reach => ?_, livenessBeat_sends⟩
    obtain ⟨t, hexec, ⟨ws, hq⟩, htopo, hmem⟩ := linkTraining_effect s p l o reach
    refine ⟨t, hexec, ?_⟩
    rw [hq]
    refine ⟨rfl, rfl, rfl, ?_, ?_, ?_, fun e he => ?_, hmem⟩
    · exact congrArg Link.up (CPort.setLink_self _ l (Link.trained s.clk))
    · exact CPort.trained_badpkt _ l o s.clk
    · rw [htopo, List.mem_eraseDups]
      exact List.mem_append_right _ List.mem_cons_self
    · rw [htopo, List.mem_eraseDups]
      exact List.mem_append_right _ (List.mem_cons_of_mem _ he)
  · intro s b port n i hd
    obtain ⟨hmem, hcum, hfreed, hother⟩ := State.arrived_counts n hd
    exact ⟨_, rfl, hmem, hcum, hfreed, hother⟩
  · intro s w0 w1 body b i g hs hp hd hg q a bs
    exact ⟨_, streamPacket_stores hp hd hg, State.arrived_stored hs hd a (slotBytes w0 w1 body) _⟩
  · intro s port w0 w1 c discards
    refine ⟨freeSlotReturn_bad, fun b i hok hb => ⟨freeSlotReturn_beyond hok hb, freeSlotReturn_accepts hok hb⟩, ?_⟩
    rintro p rfl
    exact s.badReturn_badret p
  · intro s b port
    exact periodicReturn_sends

end Sys2Proof.Machine
end

section
/-! O58: what a piece of a chain image does on arrival, and what the outcomes of a boot leave and send (R386 to R389,
R393). -/

namespace Sys2Proof.Machine

/-! ## STATE, REASON, FAILPKG, and messages down the tree (R389, R390) -/

section
variable (s : State) (st : ImgState) (reason : BitVec 8) (pkg : Nat)

/-- The hub's view of the outcome of a load. -/
def Hub.outcome (h : Hub) (st : ImgState) (reason : BitVec 8) (pkg : Nat) : Hub :=
  { h with imgState := st, imgReason := reason, imgFailPkg := BitVec.ofNat 12 pkg }

/-- A change of STATE is signalled with vector 2. -/
theorem State.setImg_changed (h : s.hub.imgState ≠ st) : s.setImg st reason pkg =
    { s with hub := s.hub.outcome st reason pkg, outbox := s.outbox ++ [.msix 2] } := by
  rw [State.setImg, if_neg h]; rfl

theorem State.setImg_unchanged (h : s.hub.imgState = st) : s.setImg st reason pkg =
    { s with hub := s.hub.outcome st reason pkg } := by
  rw [State.setImg, if_pos h]; rfl

/-- ABANDON for the children, in their order. -/
def abandonsTo (kids : List Nat) (reason : BitVec 8) (pkg : Nat) : List Out := kids.map fun c => .abandon c reason pkg

theorem State.tellAbandon_eq :
    s.tellAbandon reason pkg = { s with outbox := s.outbox ++ abandonsTo s.bootKids reason pkg } :=
  State.foldl_emit (fun c => .abandon c reason pkg) s.bootKids s

theorem mem_abandonsTo {kids : List Nat} {c : Nat} (h : c ∈ kids) :
    Out.abandon c reason pkg ∈ abandonsTo kids reason pkg := List.mem_map_of_mem h

end

/-- This package refuses an image: STATE, REASON and FAILPKG, signalled with vector 2. -/
theorem State.bootFail_effect (s : State) (reason : Nat) (h : s.hub.imgState ≠ .refused) :
    (s.bootFail reason).hub = s.hub.outcome .refused (BitVec.ofNat 8 reason) s.hub.pkg.toNat ∧
      Out.msix 2 ∈ (s.bootFail reason).outbox := by
  have hin (l : List Out) : Out.msix 2 ∈ (s.outbox ++ [.msix 2]) ++ l :=
    List.mem_append_left _ (List.mem_append_right _ List.mem_cons_self)
  unfold State.bootFail
  dsimp only
  rw [State.setImg_changed s _ _ _ h]
  split
  · rw [State.tellAbandon_eq]
    exact ⟨rfl, hin _⟩
  · split
    · exact ⟨rfl, hin _⟩
    · exact ⟨rfl, List.mem_append_right _ List.mem_cons_self⟩

/-- FAILPKG names this package. -/
theorem Hub.outcome_own (h : Hub) (st : ImgState) (reason : BitVec 8) :
    (h.outcome st reason h.pkg.toNat).imgFailPkg = h.pkg := by
  simp [Hub.outcome]

/-! ## Bytes held (R386) -/

theorem heldClash_nil (off : Nat) (data : List Byte) : heldClash [] off data = false := by
  simp [heldClash, heldByte]

theorem heldAll_false {h : List (Nat × List Byte)} {o n k : Nat} (hk : k < n) (hb : heldByte h (o + k) = none) :
    heldAll h o n = false := by
  refine List.all_eq_false.2 ⟨k, List.mem_range.2 hk, ?_⟩
  rw [hb]; decide

theorem heldAll_nil {o n : Nat} (h : n ≠ 0) : heldAll [] o n = false := heldAll_false (Nat.pos_of_ne_zero h) rfl

/-- A first piece that does not hold the whole header. -/
def NarrowPiece (off : Nat) (data : List Byte) : Prop := off ≠ 0 ∨ data.length < 64

theorem NarrowPiece.header {off : Nat} {data : List Byte} (h : NarrowPiece off data) :
    heldAll [(off, data)] 0 64 = false := by
  by_cases hoff : off = 0
  · subst hoff
    have hlen : data.length ≤ 63 := Nat.le_of_lt_succ (h.resolve_left fun hne => hne rfl)
    refine heldAll_false (k := 63) (by decide) ?_
    simp [heldByte, List.getElem?_eq_none hlen]
  · refine heldAll_false (k := 0) (by decide) ?_
    simp [heldByte, hoff]

theorem headHeld_of_header {h : List (Nat × List Byte)} (hh : heldAll h 0 64 = false) : headHeld h = false := by
  rw [headHeld, hh]; rfl

theorem keptHeld_of_header {h : List (Nat × List Byte)} (hh : heldAll h 0 64 = false) (pkg : Nat) :
    keptHeld h pkg = false := by
  rw [keptHeld, headHeld_of_header hh]; rfl

theorem Boot.imageId?_of_header {x : Boot} (hh : heldAll x.chunks 0 64 = false) : x.imageId? = [] := by
  rw [Boot.imageId?, headHeld_of_header hh]; rfl

/-! ## The first piece (R386) -/

/-- While the header is not held whole, nothing goes to the children, no late report counts and nothing is checked. -/
theorem State.bootPiece_headless {s : State} {off : Nat} {data : List Byte} (hst : s.hub.imgState = .receiving)
    (hch : s.boot.chunks = []) (hd : data ≠ []) (hn : NarrowPiece off data) :
    s.bootPiece off data = { s with boot := { s.boot with chunks := [(off, data)] } } := by
  have hlen : data.length ≠ 0 := fun h => hd (List.eq_nil_of_length_eq_zero h)
  have hready : ¬ (decide (s.hub.imgState = .ready) || heldAll [] off data.length) = true := by
    rw [hst, heldAll_nil hlen]; decide
  have hclash : ¬ heldClash [] off data = true := by rw [heldClash_nil]; decide
  have hbad : ¬ headerBad [(off, data)] = true := by rw [headerBad, hn.header, Bool.false_and]; decide
  let t : State := { s with boot := { s.boot with chunks := [(off, data)] } }
  have hforward : t.forwardBoot = t := by
    rw [State.forwardBoot, headHeld_of_header hn.header]; rfl
  have hlate : t.lateFails = t := by
    rw [State.lateFails, Boot.imageId?_of_header hn.header]; rfl
  have hcheck : ¬ (decide (t.hub.imgState = .receiving) && !t.boot.fromHost &&
      keptHeld t.boot.chunks t.hub.pkg.toNat) = true := by
    rw [keptHeld_of_header hn.header, Bool.and_false]; decide
  unfold State.bootPiece
  dsimp only
  rw [hch, if_neg hclash, if_neg hready]
  refine (if_neg hbad).trans ?_
  show (if _ then _ else _) = _
  rw [List.nil_append, hforward, hlate, if_neg hcheck]

/-- A reception has begun: nothing is held yet. -/
theorem State.bootStart_effect (s : State) (root : Nat) (fromHost : Bool) (size : Option Nat)
    (h : s.hub.imgState ≠ .receiving) : let t := s.bootStart root fromHost size
    t.hub.imgState = .receiving ∧ t.boot.root = some root ∧ t.boot.fromHost = fromHost ∧ t.boot.size = size ∧
      t.boot.chunks = [] ∧ t.outbox = s.outbox ++ [.msix 2] ∧ t.mem = s.mem ∧ t.banks = s.banks ∧
      t.hub.busMaster = s.hub.busMaster ∧ t.hub.hostUp = s.hub.hostUp ∧ t.hub.imgaddr = s.hub.imgaddr := by
  unfold State.bootStart
  rw [State.setImg_changed _ _ _ _ h]
  exact ⟨rfl, rfl, rfl, rfl, rfl, rfl, rfl, rfl, rfl, rfl, rfl⟩

/-- A piece repeats bytes of the active image. -/
def State.repeats (s : State) (off : Nat) (data : List Byte) : Prop :=
  s.hub.imgState = .active ∧ ∃ im, s.image = some im ∧ heldAll im.chunks off data.length = true ∧
    heldClash im.chunks off data = false

/-- The first piece of a new image begins its reception. -/
theorem State.firstPiece_begins {s : State} {root off : Nat} {data : List Byte} (hst : s.hub.imgState ≠ .receiving)
    (ha : s.boot.again = []) (hr : ¬ s.repeats off data) (hd : data ≠ []) (hn : NarrowPiece off data) :
    s.firstPiece root off data = { s.bootStart root false none with
      boot := { (s.bootStart root false none).boot with chunks := [(off, data)] } } := by
  obtain ⟨hrec, -, -, -, hch, -⟩ := s.bootStart_effect root false none hst
  have hstart : (s.boot.again ++ [(off, data)]).foldl (fun s p =>
      if s.hub.imgState = .receiving || s.hub.imgState = .checking then s.bootPiece p.1 p.2 else s)
        (s.bootStart root false none) = { s.bootStart root false none with
          boot := { (s.bootStart root false none).boot with chunks := [(off, data)] } } := by
    rw [ha, List.nil_append, List.foldl_cons, List.foldl_nil, hrec]
    exact State.bootPiece_headless hrec hch hd hn
  unfold State.firstPiece
  dsimp only
  split
  · next im him =>
    have hnew : ¬ (decide (s.hub.imgState = .active) && heldAll im.chunks off data.length &&
        !heldClash im.chunks off data && !keptHeld (s.boot.again ++ [(off, data)]) s.hub.pkg.toNat) = true := by
      intro h
      simp only [Bool.and_eq_true, decide_eq_true_eq, Bool.not_eq_true'] at h
      obtain ⟨⟨⟨hact, hall⟩, hclash⟩, -⟩ := h
      exact hr ⟨hact, im, him, hall, hclash⟩
    rw [if_neg hnew]
    exact hstart
  · exact hstart

/-- A late duplicate of the active image is only remembered. -/
theorem State.firstPiece_repeats {s : State} {root off : Nat} {data : List Byte} {im : Image}
    (hst : s.hub.imgState = .active) (him : s.image = some im) (hall : heldAll im.chunks off data.length = true)
    (hclash : heldClash im.chunks off data = false)
    (hkept : keptHeld (s.boot.again ++ [(off, data)]) s.hub.pkg.toNat = false) : s.firstPiece root off data =
      { s with boot := { s.boot with again := s.boot.again ++ [(off, data)] } } := by
  unfold State.firstPiece
  dsimp only
  split
  · next im' him' =>
    cases him.symm.trans him'
    exact if_pos (by rw [hst, hall, hclash, hkept]; rfl)
  · next hnone => cases him.symm.trans hnone

/-! ## BOOT_CHUNK and BOOT_MESSAGE (R386, R389) -/

section
variable {s : State} {root off : Nat} {data : List Byte}

theorem bootChunk_resent (h : s.resends root = true) :
    exec (.bootChunk root off data) s = .next (s.extraPiece off data) := if_pos h

variable (h : s.resends root = false)
include h

theorem bootChunk_new (hst : s.hub.imgState = .idle ∨ s.hub.imgState = .active ∨ s.hub.imgState = .abandoned) :
    exec (.bootChunk root off data) s = .next (s.firstPiece root off data) := by
  show execBootChunk root off data s = _
  rcases hst with hst | hst | hst <;> simp only [execBootChunk, h, Bool.false_eq_true, if_false, hst]

theorem bootChunk_more (hst : s.hub.imgState = .receiving ∨ s.hub.imgState = .checking ∨ s.hub.imgState = .ready) :
    exec (.bootChunk root off data) s = .next (s.bootPiece off data) := by
  show execBootChunk root off data s = _
  rcases hst with hst | hst | hst <;> simp only [execBootChunk, h, Bool.false_eq_true, if_false, hst]

end

/-- A piece that disagrees with bytes held. -/
theorem State.bootPiece_clash {s : State} {off : Nat} {data : List Byte} (h : heldClash s.boot.chunks off data = true) :
    s.bootPiece off data = s.bootFail ((if keptHeld s.boot.chunks s.hub.pkg.toNat then
      s.imageReasons s.boot.chunks s.boot.size else []).foldl Nat.min 0x12) := if_pos h

/-- A piece that repeats bytes held. -/
theorem State.bootPiece_held {s : State} {off : Nat} {data : List Byte} (h : heldClash s.boot.chunks off data = false)
    (hall : heldAll s.boot.chunks off data.length = true) : s.bootPiece off data = s := by
  unfold State.bootPiece
  dsimp only
  rw [h, if_neg (by decide), hall, if_pos (Bool.or_true _)]

/-- A message that is not of a boot, or not a whole one. -/
theorem bootMessage_ignored {s : State} {msg : List Byte} (h : msg.length < 16 ∨ le msg 0 1 ≠ 0x10) :
    exec (.bootMessage msg) s = .next s := by
  have hbad : (decide (msg.length < 16) || decide (le msg 0 1 ≠ 0x10) || !zeros msg 1 7) = true := by
    rw [Bool.or_eq_true, Bool.or_eq_true, decide_eq_true_eq, decide_eq_true_eq]
    exact .inl h
  exact if_pos hbad

/-- A boot message makes this package the root of a new image. -/
theorem bootMessage_new {s : State} {msg : List Byte} (hlen : 16 < msg.length) (ht : le msg 0 1 = 0x10)
    (hz : zeros msg 1 7 = true) (hst : s.hub.imgState.idleLike = true) :
    exec (.bootMessage msg) s = .next (s.firstPiece s.hub.pkg.toNat (le msg 8 8) (msg.drop 16)) := by
  have hbad : (decide (msg.length < 16) || decide (le msg 0 1 ≠ 0x10) || !zeros msg 1 7) = false := by
    rw [ht, hz, decide_eq_false (Nat.not_lt.2 (Nat.le_of_lt hlen))]; rfl
  show execBootMessage msg s = _
  simp only [execBootMessage, hbad, Bool.false_eq_true, if_false, hst, if_true]

/-! ## What a piece comes to (R386, R389) -/

section
variable {s : State} {root off : Nat} {data : List Byte} (h : s.resends root = false)
include h

theorem bootChunk_begins (hst : s.hub.imgState = .idle ∨ s.hub.imgState = .abandoned) (ha : s.boot.again = [])
    (hd : data ≠ []) (hn : NarrowPiece off data) : ∃ t, exec (.bootChunk root off data) s = .next t ∧
      t.hub.imgState = .receiving ∧ t.boot.root = some root ∧ t.boot.chunks = [(off, data)] ∧ t.mem = s.mem ∧
      t.banks = s.banks ∧ Out.msix 2 ∈ t.outbox := by
  have hrec : s.hub.imgState ≠ .receiving := by rcases hst with hst | hst <;> rw [hst] <;> decide
  have hnew : ¬ s.repeats off data := by
    rintro ⟨hactive, -⟩
    rcases hst with hst | hst
    · cases hst.symm.trans hactive
    · cases hst.symm.trans hactive
  have hexec := bootChunk_new (off := off) (data := data) h (hst.imp_right .inr)
  obtain ⟨hst', hroot, -, -, -, hout, hmem, hbanks, -⟩ := s.bootStart_effect root false none hrec
  rw [State.firstPiece_begins hrec ha hnew hd hn] at hexec
  refine ⟨_, hexec, hst', hroot, rfl, hmem, hbanks, ?_⟩
  show Out.msix 2 ∈ (s.bootStart root false none).outbox
  rw [hout]
  exact List.mem_append_right _ List.mem_cons_self

theorem bootChunk_clash (hst : s.hub.imgState = .receiving ∨ s.hub.imgState = .checking ∨ s.hub.imgState = .ready)
    (hc : heldClash s.boot.chunks off data = true) : ∃ t, exec (.bootChunk root off data) s = .next t ∧
      t.hub.imgState = .refused ∧ t.hub.imgFailPkg = s.hub.pkg ∧ Out.msix 2 ∈ t.outbox ∧
      (keptHeld s.boot.chunks s.hub.pkg.toNat = false → t.hub.imgReason = 0x12) ∧
      (keptHeld s.boot.chunks s.hub.pkg.toNat = true → t.hub.imgReason =
        BitVec.ofNat 8 ((s.imageReasons s.boot.chunks s.boot.size).foldl Nat.min 0x12)) := by
  have hne : s.hub.imgState ≠ .refused := by rcases hst with hst | hst | hst <;> rw [hst] <;> decide
  have hexec := bootChunk_more (off := off) (data := data) h hst
  rw [State.bootPiece_clash hc] at hexec
  obtain ⟨hhub, hout⟩ := s.bootFail_effect _ hne
  refine ⟨_, hexec, ?_⟩
  rw [hhub]
  refine ⟨rfl, Hub.outcome_own .., hout, fun hk => ?_, fun hk => ?_⟩
  · rw [hk]; rfl
  · rw [hk]; rfl

theorem bootChunk_repeats {im : Image} (hst : s.hub.imgState = .active) (him : s.image = some im)
    (hall : heldAll im.chunks off data.length = true) (hc : heldClash im.chunks off data = false)
    (hk : keptHeld (s.boot.again ++ [(off, data)]) s.hub.pkg.toNat = false) :
    ∃ t, exec (.bootChunk root off data) s = .next t ∧ t.boot.again = s.boot.again ++ [(off, data)] ∧ t.hub = s.hub ∧
      t.image = s.image ∧ t.outbox = s.outbox := by
  have hexec := bootChunk_new (off := off) (data := data) h (.inr (.inl hst))
  rw [State.firstPiece_repeats hst him hall hc hk] at hexec
  exact ⟨_, hexec, rfl, rfl, rfl, rfl⟩

end

theorem ImgState.idleLike_ne_receiving {x : ImgState} (h : x.idleLike = true) : x ≠ .receiving := by
  rintro rfl; cases h

theorem bootMessage_begins {s : State} {msg : List Byte} (hlen : 16 < msg.length) (ht : le msg 0 1 = 0x10)
    (hz : zeros msg 1 7 = true) (hst : s.hub.imgState.idleLike = true) (ha : s.boot.again = [])
    (hact : s.hub.imgState = .active → ∀ im, s.image = some im →
      heldAll im.chunks (le msg 8 8) (msg.length - 16) = false ∨ heldClash im.chunks (le msg 8 8) (msg.drop 16) = true)
    (hn : le msg 8 8 ≠ 0 ∨ msg.length < 80) : ∃ t, exec (.bootMessage msg) s = .next t ∧ t.hub.imgState = .receiving ∧
      t.boot.root = some s.hub.pkg.toNat ∧ t.boot.chunks = [(le msg 8 8, msg.drop 16)] := by
  have hdrop : (msg.drop 16).length = msg.length - 16 := List.length_drop
  have hrec := ImgState.idleLike_ne_receiving hst
  have hd : msg.drop 16 ≠ [] := fun h0 => by rw [h0, List.length_nil] at hdrop; omega
  have hnew : ¬ s.repeats (le msg 8 8) (msg.drop 16) := by
    rintro ⟨hst, im, him, hall, hc⟩
    rw [hdrop] at hall
    rcases hact hst im him with h | h
    · rw [hall] at h; cases h
    · rw [hc] at h; cases h
  have hnarrow : NarrowPiece (le msg 8 8) (msg.drop 16) := hn.imp_right fun h => by omega
  have hexec := bootMessage_new hlen ht hz hst
  rw [State.firstPiece_begins hrec ha hnew hd hnarrow] at hexec
  obtain ⟨hst', hroot, -⟩ := s.bootStart_effect s.hub.pkg.toNat false none hrec
  exact ⟨_, hexec, hst', hroot, rfl⟩

end Sys2Proof.Machine
end

section
/-! O58: the reports of the children, ACTIVATE and ABANDON, and the load from the host (R388, R389, R393). -/

namespace Sys2Proof.Machine

/-! ## READY (R388) -/

/-- READY, or ACTIVATE at the root, is a message and a change of STATE. -/
theorem State.tryReady_keeps (s : State) : s.tryReady.boot.reports = s.boot.reports ∧ s.tryReady.banks = s.banks ∧
    s.tryReady.mem = s.mem := by
  unfold State.tryReady
  dsimp only
  split
  · next im hst him =>
    split
    · exact ⟨rfl, rfl, rfl⟩
    · split
      · rw [State.setImg_changed _ _ _ _ (by show s.hub.imgState ≠ .ready; rw [hst]; decide),
          State.foldl_emit (fun c => Out.activate c _)]
        exact ⟨rfl, rfl, rfl⟩
      · split
        · exact ⟨rfl, rfl, rfl⟩
        · exact ⟨rfl, rfl, rfl⟩
  · exact ⟨rfl, rfl, rfl⟩

theorem Boot.mayBe_iff (x : Boot) (id : List Byte) :
    x.mayBe id = true ↔ (id = [] ∨ x.imageId? = [] ∨ id = x.imageId?) := by
  simp only [Boot.mayBe, Bool.or_eq_true, List.isEmpty_iff, decide_eq_true_eq, or_assoc]

section
variable {s : State} {src : Nat} {id : List Byte} {reason : BitVec 8}

theorem readyReport_counts (hst : s.hub.imgState = .receiving ∨ s.hub.imgState = .checking)
    (hid : s.boot.mayBe id = true) : ∃ t, exec (.readyReport src id) s = .next t ∧ (src, id) ∈ t.boot.reports ∧
      t.banks = s.banks ∧ t.mem = s.mem := by
  have hgo : ((decide (s.hub.imgState = .receiving) || decide (s.hub.imgState = .checking)) &&
      s.boot.mayBe id) = true := by
    rw [hid, Bool.and_true, Bool.or_eq_true, decide_eq_true_eq, decide_eq_true_eq]
    exact hst
  obtain ⟨hrep, hbanks, hmem⟩ :=
    State.tryReady_keeps { s with boot := { s.boot with reports := (s.boot.reports ++ [(src, id)]).eraseDups } }
  refine ⟨_, if_pos hgo, ?_, hbanks, hmem⟩
  rw [hrep]
  exact List.mem_eraseDups.2 (List.mem_append_right _ List.mem_cons_self)

theorem readyReport_other (hid : s.boot.mayBe id = false) : exec (.readyReport src id) s = .next s :=
  if_neg (by rw [hid, Bool.and_false]; decide)

/-! ## FAIL (R389) -/

/-- A report about another image, where none has been refused at the root. -/
theorem failReport_other (hid : s.boot.mayBe id = false)
    (h : s.boot.root ≠ some s.hub.pkg.toNat ∨ s.hub.imgState ≠ .refused) :
    exec (.failReport src id reason) s = .next s := by
  show execFailReport src id reason s = _
  unfold execFailReport
  dsimp only
  rw [hid]
  split
  · next hroot =>
    split
    · rfl
    · rfl
    · rfl
    · next hst => exact absurd hst (h.resolve_left fun hne => hne hroot)
    · rfl
  · rfl

/-- A package below the root passes the report on. -/
theorem failReport_passed (hid : s.boot.mayBe id = true) (hroot : s.boot.root ≠ some s.hub.pkg.toNat) {p : Nat}
    (hp : s.bootParent = some p) : exec (.failReport src id reason) s = .next (s.emit (.fail p src id reason)) := by
  show execFailReport src id reason s = _
  simp only [execFailReport, if_neg hroot, hid, hp, Bool.not_true, Bool.false_eq_true, if_false]

/-- The root refuses an image: its children hear ABANDON. -/
theorem State.rootFail_effect (s : State) (src : Nat) (reason : BitVec 8) (h : s.hub.imgState ≠ .refused) :
    (s.rootFail src reason).hub = s.hub.outcome .refused reason src ∧
      (s.rootFail src reason).outbox = s.outbox ++ [.msix 2] ++ abandonsTo s.bootKids reason src := by
  unfold State.rootFail
  rw [State.setImg_changed _ _ _ _ h, State.tellAbandon_eq]
  exact ⟨rfl, rfl⟩

section
variable (hroot : s.boot.root = some s.hub.pkg.toNat)
include hroot

section
variable (hid : s.boot.mayBe id = true)
  (hst : s.hub.imgState = .receiving ∨ s.hub.imgState = .checking ∨ s.hub.imgState = .ready)
include hid hst

theorem failReport_atRoot : exec (.failReport src id reason) s = .next
    (if id.isEmpty || !s.boot.imageId?.isEmpty then s.rootFail src reason
      else { s with boot := { s.boot with fails := s.boot.fails ++ [(src, id, reason)] } }) := by
  show execFailReport src id reason s = _
  rcases hst with hst | hst | hst <;>
    simp only [execFailReport, if_pos hroot, hst, hid, Bool.not_true, Bool.false_eq_true, if_false]

theorem failReport_refuses (h : id = [] ∨ s.boot.imageId? ≠ []) : ∃ t, exec (.failReport src id reason) s = .next t ∧
    t.hub.imgState = .refused ∧ t.hub.imgReason = reason ∧ t.hub.imgFailPkg = BitVec.ofNat 12 src ∧
    Out.msix 2 ∈ t.outbox ∧ ∀ c ∈ s.bootKids, Out.abandon c reason src ∈ t.outbox := by
  have hgo : (id.isEmpty || !s.boot.imageId?.isEmpty) = true := by
    simpa only [Bool.or_eq_true, List.isEmpty_iff, Bool.not_eq_true', List.isEmpty_eq_false_iff] using h
  have hne : s.hub.imgState ≠ .refused := by rcases hst with hst | hst | hst <;> rw [hst] <;> decide
  obtain ⟨hhub, hout⟩ := s.rootFail_effect src reason hne
  have hexec := failReport_atRoot (src := src) (reason := reason) hroot hid hst
  rw [if_pos hgo] at hexec
  refine ⟨_, hexec, ?_⟩
  rw [hhub, hout]
  exact ⟨rfl, rfl, rfl, List.mem_append_left _ (List.mem_append_right _ List.mem_cons_self),
    fun c hc => List.mem_append_right _ (mem_abandonsTo _ _ hc)⟩

/-- A report that the root cannot compare yet is kept. -/
theorem failReport_kept (h : id ≠ []) (hnone : s.boot.imageId? = []) : exec (.failReport src id reason) s =
    .next { s with boot := { s.boot with fails := s.boot.fails ++ [(src, id, reason)] } } := by
  have hgo : ¬ (id.isEmpty || !s.boot.imageId?.isEmpty) = true := by
    simp only [hnone, List.isEmpty_nil, Bool.not_true, Bool.or_false, List.isEmpty_iff]
    exact h
  rw [failReport_atRoot hroot hid hst, if_neg hgo]

end

section
variable (hst : s.hub.imgState = .refused)
include hst

theorem failReport_refused : exec (.failReport src id reason) s = .next
    (if (id.isEmpty || id = s.boot.failedId) && reason.ult s.hub.imgReason then s.setImg .refused reason src
      else s) := by
  show execFailReport src id reason s = _
  simp only [execFailReport, if_pos hroot, hst]

/-- Of several reasons the lowest is reported. -/
theorem failReport_lower (h : (id = [] ∨ id = s.boot.failedId) ∧ reason.toNat < s.hub.imgReason.toNat) :
    ∃ t, exec (.failReport src id reason) s = .next t ∧ t.hub.imgState = .refused ∧ t.hub.imgReason = reason ∧
      t.hub.imgFailPkg = BitVec.ofNat 12 src ∧ t.boot = s.boot ∧ t.outbox = s.outbox := by
  have hexec := failReport_refused (src := src) (id := id) (reason := reason) hroot hst
  rw [if_pos (by simpa [BitVec.ult] using h), State.setImg_unchanged _ _ _ _ hst] at hexec
  exact ⟨_, hexec, rfl, rfl, rfl, rfl, rfl⟩

theorem failReport_notLower (h : ¬ ((id = [] ∨ id = s.boot.failedId) ∧ reason.toNat < s.hub.imgReason.toNat)) :
    exec (.failReport src id reason) s = .next s := by
  rw [failReport_refused hroot hst, if_neg (by simpa [BitVec.ult] using h)]

end
end

end

/-! ## ACTIVATE and ABANDON (R388, R389) -/

theorem activate_waits {s : State} {t0 : Word} (hst : s.hub.imgState = .checking) (hrep : s.boot.reported = true) :
    ∃ t, exec (.activate t0) s = .next t ∧ t.hub.imgState = .ready ∧ t.boot.actAt = some t0 ∧ Out.msix 2 ∈ t.outbox ∧
      ∀ c ∈ s.bootKids, Out.activate c t0 ∈ t.outbox := by
  have hgo : (decide (s.hub.imgState = .checking) && s.boot.reported) = true := by rw [hst, hrep]; rfl
  have hexec : exec (.activate t0) s = _ := if_pos hgo
  rw [State.setImg_changed _ _ _ _ (by show s.hub.imgState ≠ .ready; rw [hst]; decide),
    State.foldl_emit (fun c => Out.activate c t0)] at hexec
  refine ⟨_, hexec, rfl, rfl, ?_, fun c hc => ?_⟩
  · exact List.mem_append_left _ (List.mem_append_right _ List.mem_cons_self)
  · exact List.mem_append_right _ (List.mem_map_of_mem hc)

theorem abandon_ends {s : State} (reason : BitVec 8) (pkg : Nat)
    (hst : s.hub.imgState = .receiving ∨ s.hub.imgState = .checking ∨ s.hub.imgState = .ready) :
    ∃ t, exec (.abandon reason pkg) s = .next t ∧ t.hub.imgState = .abandoned ∧ t.hub.imgReason = reason ∧
      Out.msix 2 ∈ t.outbox ∧ t.banks = s.banks ∧ t.mem = s.mem ∧
      ∀ c ∈ s.bootKids, Out.abandon c reason pkg ∈ t.outbox := by
  have hexec : exec (.abandon reason pkg) s =
      .next (((s.tellAbandon reason pkg).setImg .abandoned reason pkg).dropBoot false) := by
    show execAbandon reason pkg s = _
    rcases hst with hst | hst | hst <;> simp only [execAbandon, hst]
  have hne : s.hub.imgState ≠ .abandoned := by rcases hst with hst | hst | hst <;> rw [hst] <;> decide
  rw [State.tellAbandon_eq, State.setImg_changed _ _ _ _ (by show s.hub.imgState ≠ .abandoned; exact hne)] at hexec
  refine ⟨_, hexec, rfl, rfl, ?_, rfl, rfl, fun c hc => ?_⟩
  · exact List.mem_append_right _ List.mem_cons_self
  · exact List.mem_append_left _ (List.mem_append_right _ (mem_abandonsTo _ _ hc))

/-! ## The load from the host (R393) -/

theorem imageLoadStart_busy {s : State} (h : s.hub.imgState.idleLike = false) : exec .imageLoadStart s = .next s := by
  show execImageLoadStart s = _
  simp only [execImageLoadStart, h, Bool.not_false, if_true]

section
variable {s : State} (h : s.hub.imgState.idleLike = true)
include h

theorem imageLoadStart_reads (hlen : s.hub.imglen ≠ 0) (hbus : s.hub.busMaster = true) (hup : s.hub.hostUp = true) :
    ∃ t id, exec .imageLoadStart s = .next t ∧ t.hub.imgState = .receiving ∧ t.boot.root = some s.hub.pkg.toNat ∧
      t.boot.fromHost = true ∧ t.boot.size = some s.hub.imglen.toNat ∧ (id, HostRead.image 0) ∈ t.hub.reads ∧
      t.outbox = s.outbox ++ [.msix 2, .pcieRead id s.hub.imgaddr.toNat (Nat.min 4096 s.hub.imglen.toNat)] := by
  obtain ⟨hst, hroot, hhost, hsize, -, hout, -, -, hbus', hup', haddr⟩ :=
    s.bootStart_effect s.hub.pkg.toNat true (some s.hub.imglen.toNat) (ImgState.idleLike_ne_receiving h)
  have hn : s.hub.imglen.toNat ≠ 0 := fun h0 => hlen (BitVec.eq_of_toNat_eq h0)
  have hexec : exec .imageLoadStart s =
      .next ((s.bootStart s.hub.pkg.toNat true (some s.hub.imglen.toNat)).readImage s.hub.imglen.toNat 0) := by
    show execImageLoadStart s = _
    simp only [execImageLoadStart, h, Bool.not_true, Bool.false_eq_true, if_false, hn]
  generalize s.bootStart s.hub.pkg.toNat true (some s.hub.imglen.toNat) = u at *
  have hgo : (u.hub.busMaster && u.hub.hostUp) = true := by rw [hbus', hup', hbus, hup]; rfl
  rw [State.readImage, State.hubRead, if_pos hgo] at hexec
  refine ⟨_, u.nextId, hexec, hst, hroot, hhost, hsize, List.mem_append_right _ List.mem_cons_self, ?_⟩
  rw [← haddr]
  show u.outbox ++ [_] = _
  rw [hout, List.append_assoc]
  rfl

theorem imageLoadStart_empty (hlen : s.hub.imglen = 0) : ∃ t, exec .imageLoadStart s = .next t ∧
    t.hub.imgState = .refused ∧ t.hub.imgReason = 0x10 := by
  obtain ⟨hst, -⟩ := s.bootStart_effect s.hub.pkg.toNat true (some s.hub.imglen.toNat)
    (ImgState.idleLike_ne_receiving h)
  have hn : s.hub.imglen.toNat = 0 := by rw [hlen]; rfl
  have hexec : exec .imageLoadStart s =
      .next ((s.bootStart s.hub.pkg.toNat true (some s.hub.imglen.toNat)).bootFail 0x10) := by
    show execImageLoadStart s = _
    simp only [execImageLoadStart, h, Bool.not_true, Bool.false_eq_true, if_false, hn, if_true]
  obtain ⟨hhub, -⟩ := State.bootFail_effect _ 0x10 (by rw [hst]; decide)
  refine ⟨_, hexec, ?_⟩
  rw [hhub]
  exact ⟨rfl, rfl⟩

end

end Sys2Proof.Machine
end

section
/-! O58: what the activation of an image leaves of the package beside its memory (R389, R393). -/

namespace Sys2Proof.Machine

/-! ## STATE and the package ID while the image before ends (R366, R393, R401) -/

/-- From s to t the hub's STATE and the package ID stay. -/
structure State.SameLoad (s t : State) : Prop where
  imgState : t.hub.imgState = s.hub.imgState
  pkg      : t.hub.pkg = s.hub.pkg

namespace State.SameLoad
variable {s t u : State}

theorem of_hub (h : t.hub = s.hub) : s.SameLoad t := ⟨by rw [h], by rw [h]⟩

theorem refl (s : State) : s.SameLoad s := ⟨rfl, rfl⟩

theorem trans (h : s.SameLoad t) (h' : t.SameLoad u) : s.SameLoad u :=
  ⟨h'.imgState.trans h.imgState, h'.pkg.trans h.pkg⟩

theorem foldl {α : Type} {f : State → α → State} (l : List α) (s : State) (h : ∀ (s : State) x, s.SameLoad (f s x)) :
    s.SameLoad (l.foldl f s) := by
  induction l generalizing s with
  | nil => exact refl s
  | cons x xs ih => exact (h s x).trans (ih (f s x))

end State.SameLoad

section
variable (s : State)

theorem State.detok_sameLoad (asid : Nat) (f : Detok → Detok) : s.SameLoad (s.detok asid f) := by
  unfold State.detok
  split
  · exact .refl s
  · dsimp only
    rw [State.foldl_emit fun r => Out.reply _ r]
    exact ⟨rfl, rfl⟩

theorem State.endLive_sameLoad : s.SameLoad s.endLive := .foldl _ s fun t _ => t.detok_sameLoad ..

theorem State.tell_sameLoad (pkg : Nat) (m : HubMsg) : s.SameLoad (s.tell pkg m) := by
  unfold State.tell
  split
  · exact ⟨rfl, rfl⟩
  · exact ⟨rfl, rfl⟩

theorem State.tellHold_sameLoad (serving : Option Nat) (hold : Bool) : s.SameLoad (s.tellHold serving hold) := by
  unfold State.tellHold
  split
  · split
    · exact .refl s
    · exact s.tell_sameLoad ..
  · exact .refl s

theorem State.moveHold_sameLoad (im : Image) : s.SameLoad (s.moveHold im) := by
  unfold State.moveHold
  dsimp only
  split
  · exact .refl s
  · exact (s.tellHold_sameLoad ..).trans (State.tellHold_sameLoad ..)

end

/-! ## The loader's work on memory (R74, R93, R183) -/

/-- From s to t memory, its errors and the frames in use may have changed, and records may have been written. -/
structure State.Loads (s t : State) : Prop extends s.SameLoad t where
  banks    : t.banks = s.banks
  accesses : t.accesses = s.accesses
  copies   : t.copies = s.copies
  homes    : t.homes = s.homes
  image    : t.image = s.image
  fd       : t.fd = s.fd

namespace State.Loads
variable {s t u : State}

theorem refl (s : State) : s.Loads s := ⟨.refl s, rfl, rfl, rfl, rfl, rfl, rfl⟩

theorem trans (h : s.Loads t) (h' : t.Loads u) : s.Loads u :=
  ⟨h.toSameLoad.trans h'.toSameLoad, h'.banks.trans h.banks, h'.accesses.trans h.accesses, h'.copies.trans h.copies,
    h'.homes.trans h.homes, h'.image.trans h.image, h'.fd.trans h.fd⟩

theorem foldl {α : Type} {f : State → α → State} (l : List α) (s : State) (h : ∀ (s : State) x, s.Loads (f s x)) :
    s.Loads (l.foldl f s) := by
  induction l generalizing s with
  | nil => exact refl s
  | cons x xs ih => exact (h s x).trans (ih (f s x))

end State.Loads

section
variable (s : State)

theorem State.fqWrite_loads (e : List Byte) : s.Loads (s.fqWrite e) := ⟨⟨rfl, rfl⟩, rfl, rfl, rfl, rfl, rfl, rfl⟩

theorem State.fqDrain_loads (l : List (List Byte)) : s.Loads (s.fqDrain l) := by
  induction l generalizing s with
  | nil => exact ⟨⟨rfl, rfl⟩, rfl, rfl, rfl, rfl, rfl, rfl⟩
  | cons e es ih =>
    rw [State.fqDrain]
    split
    · exact (s.fqWrite_loads e).trans (ih (s.fqWrite e))
    · exact ⟨⟨rfl, rfl⟩, rfl, rfl, rfl, rfl, rfl, rfl⟩

theorem State.record_loads (type : Nat) (rec : List Byte) : s.Loads (s.record type rec) := by
  rw [State.record_eq, State.fqTrim]
  split
  · exact (s.fqDrain_loads _).trans ⟨⟨rfl, rfl⟩, rfl, rfl, rfl, rfl, rfl, rfl⟩
  · exact s.fqDrain_loads _

theorem State.eccWord_loads (src : Nat) (bank : Option Nat) (addr : Word) (e : EccError) :
    s.Loads (s.eccWord src bank addr e) := by
  unfold State.eccWord
  dsimp only
  split
  · exact ⟨⟨rfl, rfl⟩, rfl, rfl, rfl, rfl, rfl, rfl⟩
  · split
    · split
      · exact ⟨⟨rfl, rfl⟩, rfl, rfl, rfl, rfl, rfl, rfl⟩
      · refine .trans ?_ (State.record_loads _ 0x01 _)
        exact ⟨⟨rfl, rfl⟩, rfl, rfl, rfl, rfl, rfl, rfl⟩
    · split
      · exact ⟨⟨rfl, rfl⟩, rfl, rfl, rfl, rfl, rfl, rfl⟩
      · exact ⟨⟨rfl, rfl⟩, rfl, rfl, rfl, rfl, rfl, rfl⟩

theorem State.eccRead_loads (src : Nat) (bank : Option Nat) (addr : Word) (a n : Nat) :
    s.Loads (s.eccRead src bank addr a n) := .foldl _ s fun t _ => t.eccWord_loads ..

theorem State.eccWalk_loads (bank : Option Nat) (addr : Word) (asid : BitVec 12) (off : Nat) :
    s.Loads (s.eccWalk bank addr asid off) := by
  unfold State.eccWalk
  split
  · exact .refl s
  · exact .foldl _ s fun t _ => t.eccRead_loads ..

theorem State.store_loads (a : Nat) (bs : List Byte) (psn : Bool) : s.Loads (s.store a bs psn) :=
  ⟨⟨rfl, rfl⟩, rfl, rfl, rfl, rfl, rfl, rfl⟩

theorem State.zeroFrame_loads (f : Nat) : s.Loads (s.zeroFrame f) := ⟨⟨rfl, rfl⟩, rfl, rfl, rfl, rfl, rfl, rfl⟩

theorem State.findPlace_snd (fits : Nat → Bool) : (s.findPlace fits).2 = s.draw.2 := rfl

variable {s} in
theorem State.takeFrame_loads {f : Nat} {t : State} (h : s.takeFrame = some (f, t)) : s.Loads t := by
  unfold State.takeFrame at h
  split at h
  · cases h
  · next a u hu =>
    have hu' : s.draw.2 = u := (s.findPlace_snd _).symm.trans (congrArg Prod.snd hu)
    have hs : s.Loads u := hu' ▸ ⟨⟨rfl, rfl⟩, rfl, rfl, rfl, rfl, rfl, rfl⟩
    cases h
    exact hs.trans ⟨⟨rfl, rfl⟩, rfl, rfl, rfl, rfl, rfl, rfl⟩

variable {s} in
theorem State.ensureTable_loads {a f : Nat} {t : State} (h : s.ensureTable a = some (f, t)) : s.Loads t := by
  unfold State.ensureTable at h
  split at h
  · cases h; exact .refl s
  · split at h
    · cases h
    · next g u hu =>
      cases h
      exact ((State.takeFrame_loads hu).trans (State.zeroFrame_loads ..)).trans (State.store_loads ..)

theorem State.ensureRoot_loads : s.Loads s.ensureRoot := by
  unfold State.ensureRoot
  split
  · exact .refl s
  · split
    · exact .refl s
    · next f t ht =>
      exact ((State.takeFrame_loads ht).trans (t.zeroFrame_loads f)).trans ⟨⟨rfl, rfl⟩, rfl, rfl, rfl, rfl, rfl, rfl⟩

variable {s} in
theorem State.makeEntry_loads {asid : BitVec 12} {off level a : Nat} {t : State}
    (h : s.makeEntry asid off level = some (a, t)) : s.Loads t := by
  unfold State.makeEntry at h
  obtain ⟨⟨t1, u⟩, hu, h⟩ := Option.bind_eq_some_iff.1 h
  obtain ⟨⟨t2, v⟩, hv, h⟩ := Option.bind_eq_some_iff.1 h
  have hsv := (State.ensureTable_loads hu).trans (State.ensureTable_loads hv)
  dsimp only at h
  split at h
  · cases h; exact hsv
  · obtain ⟨⟨t3, w⟩, hw, h⟩ := Option.bind_eq_some_iff.1 h
    cases h
    exact hsv.trans (State.ensureTable_loads hw)

theorem State.setSlotRec_loads (frame i : Nat) (b : Bool) (r : Nat) : s.Loads (s.setSlotRec frame i b r) := by
  unfold State.setSlotRec
  exact ⟨⟨rfl, rfl⟩, rfl, rfl, rfl, rfl, rfl, rfl⟩

theorem State.initGroupset_loads (frame : Nat) : s.Loads (s.initGroupset frame) := by
  unfold State.initGroupset
  generalize List.range 1024 = l
  exact .foldl l s fun t i => (t.setSlotRec_loads ..).trans (State.setSlotRec_loads ..)

theorem State.mapLeaf_loads (asid : BitVec 12) (l : Leaf) : s.Loads (s.mapLeaf asid l) := by
  have hw := s.eccWalk_loads none (BitVec.ofNat 64 l.off) asid l.off
  unfold State.mapLeaf
  dsimp only
  split
  · exact hw
  · next a t ht =>
    have hset := (hw.trans (State.makeEntry_loads ht)).trans
      (t.store_loads a (bytesOf 8 l.w0.toNat ++ bytesOf 8 l.w1.toNat) false)
    split
    · exact hset.trans (State.initGroupset_loads ..)
    · exact hset

theorem State.mapRun_loads (asid : BitVec 12) (off : Nat) (w0 w1 : Word) (n : Nat) :
    s.Loads (s.mapRun asid off w0 w1 n) :=
  .foldl _ s fun t l => t.mapLeaf_loads asid l

theorem State.checkTile_loads (r : TileRun) (granule n : Nat) : s.Loads (s.checkTile r granule n) := by
  unfold State.checkTile
  extract_lets at_ t
  have ht : s.Loads t := by
    unfold t
    split
    · exact s.eccRead_loads ..
    · exact s.eccRead_loads ..
  split
  · exact ht.trans (t.store_loads ..)
  · split
    · exact ht
    · split
      · exact ht
      · exact ht.trans (t.store_loads ..)

theorem State.checkVectors_loads (tiles : List TileRun) (placed : List (Nat × Nat)) :
    s.Loads (s.checkVectors tiles placed) := by
  unfold State.checkVectors
  refine .foldl _ s fun t g => .foldl _ t fun u n => ?_
  split
  · split
    · exact u.checkTile_loads ..
    · exact .refl u
  · exact .refl u

theorem State.placeSections_loads (im : Image) : s.Loads (s.placeSections im) :=
  .trans (.foldl _ s fun t _ => t.store_loads ..) (State.checkVectors_loads ..)

end

end Sys2Proof.Machine
end

section
/-! O58: a bank as activation leaves it (R19, R21, R22, R184, R185). -/

namespace Sys2Proof.Machine

/-! ## Iterators and ports of an image (R184, R185) -/

theorem vector4_getElem {α : Type} (f : Nat → α) (d : Fin 4) : (#v[f 0, f 1, f 2, f 3])[d] = f d.val := by
  match d with
  | 0 => rfl
  | 1 => rfl
  | 2 => rfl
  | 3 => rfl

/-- A shape record that R240 does not refuse gives its iterator. -/
theorem iterOf_gives (r : List Byte) : ShapeGives r ((iterOf r).getD Iter.reset) := by
  unfold ShapeGives
  intro w nd hw hc
  have hrec : ¬ (w 8 / 4 ≠ 0 ∨
      (List.range 4).any (fun d => decide (d ≤ nd) && decide (w (16 + 8 * d) % 2 ^ 32 = 0)) = true) := by
    rintro (h | h)
    · exact h hw
    · obtain ⟨d, -, hd⟩ := List.any_eq_true.1 h
      rw [Bool.and_eq_true, decide_eq_true_eq, decide_eq_true_eq] at hd
      exact hc d hd.1 hd.2
  let count (d : Nat) : BitVec 32 := if decide (d ≤ nd) then BitVec.ofNat 32 (w (16 + 8 * d)) else 1
  let stride (d : Nat) : BitVec 32 := if decide (d ≤ nd) then BitVec.ofNat 32 (w (16 + 8 * d) / 2 ^ 32) else 0
  have hiter : iterOf r = some _ := if_neg hrec
  rw [hiter]
  refine ⟨BitVec.toNat_ofNat .., Nat.mod_eq_of_lt (Nat.mod_lt _ (by decide)), fun d => ⟨?_, fun h => ?_, fun h => ?_⟩⟩
  · exact Vector.getElem_replicate d.isLt
  · have hused : decide (d.val ≤ nd) = true := decide_eq_true h
    exact ⟨(vector4_getElem count d).trans (if_pos hused), (vector4_getElem stride d).trans (if_pos hused)⟩
  · have hused : ¬ decide (d.val ≤ nd) = true := fun hle => Nat.not_le.2 h (of_decide_eq_true hle)
    exact ⟨(vector4_getElem count d).trans (if_neg hused), (vector4_getElem stride d).trans (if_neg hused)⟩

theorem peerOf_bound {l : List Stage} {k : Nat} {r : PortRec} (h : r.bound = true) :
    peerOf l k r ≠ .none ∨ r.endpoint = false ∧ stageById l r.peer = none := by
  unfold peerOf
  rw [h]
  by_cases he : r.endpoint = true
  · rw [he]; exact .inl nofun
  · rw [Bool.not_eq_true] at he
    rw [he]
    cases hs : stageById l r.peer with
    | none => exact .inr ⟨rfl, rfl⟩
    | some t => exact .inl nofun

/-- A port at activation. -/
theorem portAt_activated (h : List (Nat × List Byte)) (l : List Stage) (st : Stage) (k : Fin 16) :
    PortActivated l st k (portAt h l st k.val) := by
  unfold PortActivated
  intro r
  by_cases hb : r.bound = true
  · have hnb : ¬ (!r.bound) = true := by rw [hb]; decide
    by_cases hk : k.val < 8
    · have hq : portAt h l st k.val = { PortState.reset with
          peer := peerOf l k.val r, rate := r.rate, depth := r.depth, stride := strideOf r.capacity,
          capacity := r.capacity, ring := r.ringBase, cum := BitVec.ofNat 16 r.init } :=
        (if_neg hnb).trans (if_pos hk)
      rw [hq]
      exact ⟨fun h => absurd hb (by rw [h]; decide), fun _ => peerOf_bound hb, fun _ => ⟨rfl, ⟨rfl, rfl, rfl⟩,
        fun _ => ⟨rfl, rfl, rfl, rfl, rfl, rfl⟩, fun h => absurd hk (Nat.not_lt.2 h)⟩⟩
    · have hpeer := peerOf_bound (l := l) (k := k.val) hb
      unfold portAt
      dsimp only
      rw [if_neg hnb, if_neg hk]
      split
      · next he =>
        exact ⟨fun h => absurd hb (by rw [h]; decide), fun _ => hpeer, fun _ => ⟨rfl, ⟨rfl, rfl, rfl⟩,
          fun h => absurd h hk, fun _ h => absurd he (by rw [h]; decide)⟩⟩
      · split
        · next hs =>
          exact ⟨fun h => absurd hb (by rw [h]; decide), fun _ => hpeer, fun _ => ⟨rfl, ⟨rfl, rfl, rfl⟩,
            fun h => absurd h hk, fun _ _ c hc => absurd (hs.symm.trans hc) nofun⟩⟩
        · next c hs =>
          refine ⟨fun h => absurd hb (by rw [h]; decide), fun _ => hpeer, fun _ => ⟨rfl, ⟨rfl, rfl, rfl⟩,
            fun h => absurd h hk, fun _ _ c' hc => ?_⟩⟩
          cases hs.symm.trans hc
          exact ⟨rfl, rfl, rfl, rfl, fun hd => by rw [show Nat.max 1 _ = _ from Nat.max_eq_right hd]⟩
  · rw [Bool.not_eq_true] at hb
    have hq : portAt h l st k.val = PortState.reset := if_pos (by rw [hb]; rfl)
    rw [hq]
    exact ⟨fun _ => rfl, fun h => absurd h (by rw [hb]; decide), fun h => absurd h (by rw [hb]; decide)⟩

/-! ## The bank (R19) -/

theorem vectorOfRange_getElem {α : Type} {m : Nat} (f : Nat → α) (h : ((List.range m).map f).toArray.size = m)
    (n : Fin m) : (Vector.mk ((List.range m).map f).toArray h)[n] = f n.val := by
  simp

theorem windowsOf_getElem (bs : List Byte) (n : Fin 64) : (windowsOf bs)[n] =
    let w (j : Nat) : Word := BitVec.ofNat 64 (le bs (32 * n.val + 8 * j) 8)
    ⟨w 0, w 1, w 2, w 3⟩ := vectorOfRange_getElem _ _ n

theorem Bank.activate_windows (old : Bank) (h : List (Nat × List Byte)) (l : List Stage) (st src : Stage) :
    (old.activate h l st src).windows = ((bankSection h 3 src.pkg src.cog src.bank).map fun x =>
      windowsOf (x.bytes h)).getD (Vector.replicate 64 Win.reset) := rfl

/-- The cycle in which a return is due is nothing that R21 and R22 give. -/
theorem PortActivated.withRetDue {l : List Stage} {st : Stage} {k : Fin 16} {q : PortState} (h : PortActivated l st k q)
    (n : Nat) : PortActivated l st k { q with retDue := n } := h

/-- Activation leaves what the image says of the bank; its returns may already be due. -/
theorem Bank.activate_activated (old : Bank) (im : Image) (st : Stage) {ps : Vector PortState 16}
    (hps : ∀ k : Fin 16, ∃ n, ps[k] = { portAt im.chunks im.stages st k.val with retDue := n }) :
    BankActivated im st { old.activate im.chunks im.stages st st with ports := ps } := by
  refine ⟨rfl, rfl, rfl, rfl, rfl, rfl, rfl, rfl, rfl, rfl, rfl, rfl, rfl, rfl, rfl, fun n => ?_, fun n => ?_,
    fun x hx n => ?_, fun hx => ?_, fun k => ?_⟩
  · have hg := vectorOfRange_getElem (m := 16) (fun k => if st.gmask.getLsbD k then
      (iterOf (((bankBytes im.chunks 4 st.pkg st.cog st.bank).drop (48 * k)).take 48)).getD Iter.reset
        else Iter.reset) (by simp) n
    split
    · next hm =>
      rw [if_pos hm] at hg
      show ShapeGives _ (Vector.mk _ _)[n]
      rw [hg]
      exact iterOf_gives _
    · next hm =>
      rw [if_neg hm] at hg
      exact hg
  · exact vectorOfRange_getElem _ _ n
  · have hwin : (old.activate im.chunks im.stages st st).windows = windowsOf (x.bytes im.chunks) := by
      rw [Bank.activate_windows, hx, Option.map_some, Option.getD_some]
    have hw := (congrArg (·[n]) hwin).trans (windowsOf_getElem (x.bytes im.chunks) n)
    exact ⟨congrArg Win.w0 hw, congrArg Win.w1 hw, congrArg Win.w2 hw, congrArg Win.w3 hw⟩
  · rw [Bank.activate_windows, hx, Option.map_none, Option.getD_none]
  · obtain ⟨n, hn⟩ := hps k
    show PortActivated im.stages st k ps[k]
    rw [hn]
    exact (portAt_activated im.chunks im.stages st k).withRetDue n

end Sys2Proof.Machine
end

section
/-! O58: the activation of an image, and with it the whole obligation (R386 to R389, R393). -/

namespace Sys2Proof.Machine

/-! ## The stages of an image in their banks (R19, R379) -/

/-- From s to t only the cycles have changed in which a bank's returns are due. -/
structure State.Redues (s : State) (b : BankIx) (t : State) : Prop where
  frame : ∃ bs, t = { s with banks := bs }
  other : ∀ c, c ≠ b → t.bank c = s.bank c
  own   : ∃ ps, t.bank b = { s.bank b with ports := ps } ∧
    ∀ k : Fin 16, ∃ n, ps[k] = { (s.bank b).ports[k] with retDue := n }

namespace State.Redues
variable {s t u : State} {b : BankIx}

theorem refl (s : State) (b : BankIx) : s.Redues b s :=
  ⟨⟨s.banks, rfl⟩, fun _ _ => rfl, (s.bank b).ports, rfl, fun k => ⟨(s.bank b).ports[k].retDue, rfl⟩⟩

theorem trans (h : s.Redues b t) (h' : t.Redues b u) : s.Redues b u := by
  obtain ⟨⟨bs, rfl⟩, hother, ps, hps, hn⟩ := h
  obtain ⟨⟨cs, rfl⟩, hother', qs, hqs, hm⟩ := h'
  refine ⟨⟨cs, rfl⟩, fun c hc => (hother' c hc).trans (hother c hc), qs, ?_, fun k => ?_⟩
  · rw [hqs, hps]
  · obtain ⟨n, hn⟩ := hn k
    obtain ⟨m, hm⟩ := hm k
    refine ⟨m, ?_⟩
    rw [hm, hps]
    show { ps[k] with retDue := m } = _
    rw [hn]

theorem wantReturn (s : State) (b : BankIx) (port : Fin 8) : s.Redues b (s.wantReturn b port) := by
  let i : Fin 16 := ⟨port.val, by omega⟩
  refine ⟨⟨_, rfl⟩, fun c hc => State.bank_modBank_ne s _ hc.symm, _, State.bank_modBank_self .., fun k => ?_⟩
  show ∃ n, ((s.bank b).setPort i _).ports[k] = _
  rw [Bank.setPort_ports]
  split
  · next h => subst h; exact ⟨_, rfl⟩
  · exact ⟨(s.bank b).ports[k].retDue, rfl⟩

theorem foldl {α : Type} {f : State → α → State} (l : List α) (s : State) (b : BankIx)
    (h : ∀ (s : State) x, s.Redues b (f s x)) : s.Redues b (l.foldl f s) := by
  induction l generalizing s with
  | nil => exact refl s b
  | cons x xs ih => exact (h s x).trans (ih (f s x))

end State.Redues

section
variable (s : State) (im : Image) (st : Stage)

theorem State.activateStage_redues {b : BankIx} (h : bank? st.bankNo = some b) :
    (s.modBank b fun x => x.activate im.chunks im.stages st st).Redues b (s.activateStage im st st) := by
  unfold State.activateStage
  rw [h]
  refine .foldl _ _ b fun t p => ?_
  split
  · exact .wantReturn t b p
  · exact .refl t b

theorem Bank.activate_port (old : Bank) (h : List (Nat × List Byte)) (l : List Stage) (st src : Stage) (k : Fin 16) :
    (old.activate h l st src).ports[k] = portAt h l st k.val := vectorOfRange_getElem _ _ k

theorem State.activateStage_frame : ∃ bs, s.activateStage im st st = { s with banks := bs } := by
  cases h : bank? st.bankNo with
  | none => exact ⟨s.banks, by unfold State.activateStage; rw [h]⟩
  | some b =>
    obtain ⟨bs, hbs⟩ := (s.activateStage_redues im st h).frame
    exact ⟨bs, hbs⟩

theorem bank?_eq_some {n : Nat} {b : BankIx} : bank? n = some b ↔ b.val = n := by
  unfold bank?
  split
  · rw [Option.some.injEq, Fin.ext_iff]; exact eq_comm
  · next h => exact ⟨nofun, fun hb => absurd b.isLt (by rw [hb]; exact h)⟩

theorem State.activateStage_other {b : BankIx} (h : st.bankNo ≠ b.val) :
    (s.activateStage im st st).bank b = s.bank b := by
  cases hc : bank? st.bankNo with
  | none => unfold State.activateStage; rw [hc]
  | some c =>
    have hbc : b ≠ c := by
      rintro rfl
      exact h (bank?_eq_some.1 hc).symm
    rw [(s.activateStage_redues im st hc).other b hbc, State.bank_modBank_ne s _ hbc.symm]

theorem State.activateStage_own {b : BankIx} (h : b.val = st.bankNo) :
    BankActivated im st ((s.activateStage im st st).bank b) := by
  obtain ⟨ps, hbank, hps⟩ := (s.activateStage_redues im st (bank?_eq_some.2 h)).own
  rw [State.bank_modBank_self] at hbank hps
  rw [hbank]
  refine Bank.activate_activated (s.bank b) im st fun k => ?_
  obtain ⟨n, hn⟩ := hps k
  exact ⟨n, by rw [hn, Bank.activate_port]⟩

end

/-- From s to t stages of an image have been activated in their banks. -/
structure State.Activates (s : State) (im : Image) (l : List Stage) (t : State) : Prop where
  frame : ∃ bs, t = { s with banks := bs }
  other : ∀ b : BankIx, (∀ st ∈ l, st.bankNo ≠ b.val) → t.bank b = s.bank b
  own   : ∀ st ∈ l, ∀ b : BankIx, b.val = st.bankNo → (∀ u ∈ l, u.bankNo = st.bankNo → u = st) →
    BankActivated im st (t.bank b)

/-- A bank keeps what the last of its stages has given it. -/
theorem State.activateStages (s : State) (im : Image) (l : List Stage) :
    s.Activates im l (l.foldl (fun s t => s.activateStage im t t) s) := by
  induction l using List.reverseRecOn with
  | nil => exact ⟨⟨s.banks, rfl⟩, fun _ _ => rfl, fun _ h => absurd h List.not_mem_nil⟩
  | append_singleton l x ih =>
    rw [List.foldl_append, List.foldl_cons, List.foldl_nil]
    generalize l.foldl (fun s t => s.activateStage im t t) s = u at ih ⊢
    obtain ⟨⟨bs, hu⟩, hother, hown⟩ := ih
    refine ⟨?_, fun b hb => ?_, fun st hst b hb huniq => ?_⟩
    · obtain ⟨cs, hcs⟩ := u.activateStage_frame im x
      exact ⟨cs, by rw [hcs, hu]⟩
    · rw [u.activateStage_other im x (hb x (List.mem_append_right _ List.mem_cons_self))]
      exact hother b fun st hst => hb st (List.mem_append_left _ hst)
    · by_cases hx : x.bankNo = st.bankNo
      · cases huniq x (List.mem_append_right _ List.mem_cons_self) hx
        exact u.activateStage_own im x hb
      · rw [u.activateStage_other im x (by rw [hb]; exact hx)]
        have hl : st ∈ l := (List.mem_append.1 hst).resolve_right fun h =>
          hx (by rw [List.mem_singleton.1 h])
        exact hown st hl b hb fun w hw hwb => huniq w (List.mem_append_left _ hw) hwb

/-! ## The whole image (R389, R393) -/

/-- A poll goes out to a hub. -/
def State.pollOne (me : Nat) (s : State) (p : Nat) : State :=
  ({ s with hub := { s.hub with polls := s.hub.polls ++ [(p, s.clk)] } } : State).emit (.hub p (.poll me))

theorem State.foldl_pollOne_frame (me : Nat) (l : List Nat) (s : State) : ∃ p out, l.foldl (State.pollOne me) s =
    { s with hub := { s.hub with polls := p }, outbox := s.outbox ++ out } := by
  induction l generalizing s with
  | nil => exact ⟨s.hub.polls, [], by rw [List.append_nil]; rfl⟩
  | cons q qs ih =>
    obtain ⟨p, out, h⟩ := ih (State.pollOne me s q)
    refine ⟨p, [.hub q (.poll me)] ++ out, ?_⟩
    rw [List.foldl_cons, h, ← List.append_assoc]
    rfl

/-- Polls change the polls that are open, what leaves and what is due. -/
theorem State.pollAll_frame (s : State) : ∃ p out a, s.pollAll =
    { s with hub := { s.hub with polls := p }, outbox := s.outbox ++ out, agenda := a } := by
  unfold State.pollAll
  extract_lets l me t
  obtain ⟨p, out, h⟩ : ∃ p out, t = { s with hub := { s.hub with polls := p }, outbox := s.outbox ++ out } :=
    State.foldl_pollOne_frame me _ s
  split
  · exact ⟨s.hub.polls, [], s.agenda, by rw [List.append_nil]⟩
  · exact ⟨p, out, _, by rw [h]; rfl⟩

/-- What is left of a bank of the image before. -/
theorem cleared_bank_inactive (bs : Vector Bank 640) (b : BankIx) :
    ((vmap (fun (b : Bank) => { Bank.reset with iter := b.iter }) bs)[b]).active = false :=
  congrArg Bank.active (vmap_getElem ..)

/-- The package runs an image. -/
theorem State.runImage_effect (s : State) (im : Image) : let t := s.runImage im
    let l := im.stages.filter fun t => t.pkg = s.hub.pkg.toNat
    s.SameLoad t ∧ t.image = some im ∧ t.fd.seqs = s.fd.seqs ∧ t.fd.steps = [] ∧ t.accesses = [] ∧ t.copies = [] ∧
      t.homes = [] ∧ (∀ b : BankIx, (∀ st ∈ l, st.bankNo ≠ b.val) → (t.bank b).active = false) ∧
      ∀ st ∈ l, ∀ b : BankIx, b.val = st.bankNo → (∀ u ∈ l, u.bankNo = st.bankNo → u = st) →
        BankActivated im st (t.bank b) := by
  generalize ht : s.runImage im = t
  unfold State.runImage at ht
  extract_lets me empty hub fd u v w at ht
  intro t l
  have hsu : s.SameLoad u := ⟨rfl, rfl⟩
  have huw : u.Loads w := ((u.placeSections_loads im).trans (State.ensureRoot_loads _)).trans
    (.foldl _ v fun t r => t.mapRun_loads ..)
  have hclear (b : BankIx) : (w.bank b).active = false := by
    rw [State.bank, huw.banks]
    exact cleared_bank_inactive s.banks b
  obtain ⟨⟨bs, hbs⟩, hother, hown⟩ := w.activateStages im l
  rw [show l.foldl _ w = t from ht] at hbs hother hown
  refine ⟨?_, ?_, ?_, ?_, ?_, ?_, ?_, fun b hb => ?_, hown⟩
  · exact (hsu.trans huw.toSameLoad).trans (.of_hub (by rw [hbs]))
  · rw [hbs]; exact huw.image
  · rw [hbs]
    show w.fd.seqs = s.fd.seqs
    rw [huw.fd]
  · rw [hbs]
    show w.fd.steps = []
    rw [huw.fd]
  · rw [hbs]; exact huw.accesses
  · rw [hbs]; exact huw.copies
  · rw [hbs]; exact huw.homes
  · rw [hother b hb]; exact hclear b

/-! ## IMAGE_ACTIVATE (R389) -/

theorem State.ready_of_activateDue {s : State} (h : s.activateDue = true) : s.hub.imgState = .ready :=
  of_decide_eq_true (Bool.and_eq_true_iff.1 h).1

section
variable {s : State} {im : Image} (him : s.boot.image = some im)
include him

theorem imageActivate_early (h : s.activateDue = false) : exec .imageActivate s = .next s := by
  show execImageActivate s = _
  simp only [execImageActivate, him, h, Bool.not_false, if_true]

theorem imageActivate_waits (h : s.activateDue = true) {a : Nat}
    (ha : s.shut ((imageFrames im s.hub.pkg.toNat).map fun f => (f, 65536)) = some a) :
    exec .imageActivate s = .next (s.askExit a) := by
  show execImageActivate s = _
  simp only [execImageActivate, him, h, Bool.not_true, Bool.false_eq_true, if_false, ha]

theorem imageActivate_runs (h : s.activateDue = true)
    (hn : s.shut ((imageFrames im s.hub.pkg.toNat).map fun f => (f, 65536)) = none) :
    ∃ t, exec .imageActivate s = .next t ∧ t.hub.imgState = .active ∧ t.hub.imgReason = 0 ∧ t.image = some im ∧
      t.fd.seqs = [] ∧ t.fd.steps = [] ∧ t.accesses = [] ∧ t.copies = [] ∧ t.homes = [] ∧ t.td.stepped = true ∧
      Out.msix 2 ∈ t.outbox ∧
      (∀ b : BankIx, (∀ st ∈ im.stages, st.pkg = s.hub.pkg.toNat → st.bankNo ≠ b.val) → (t.bank b).active = false) ∧
      ∀ st ∈ im.stages, st.pkg = s.hub.pkg.toNat → ∀ b : BankIx, b.val = st.bankNo →
        (∀ u ∈ im.stages, u.pkg = st.pkg → u.bankNo = st.bankNo → u = st) → BankActivated im st (t.bank b) := by
  have hexec : exec .imageActivate s = execImageActivate s := rfl
  simp only [execImageActivate, him, h, Bool.not_true, Bool.false_eq_true, if_false, hn] at hexec
  have hend := s.endLive_sameLoad.trans (s.endLive.moveHold_sameLoad im)
  generalize s.endLive.moveHold im = u at hexec hend
  have hrun := State.runImage_effect { u with fd := { u.fd with seqs := [], steps := [] } } im
  generalize ({ u with fd := { u.fd with seqs := [], steps := [] } } : State).runImage im = v at hexec hrun
  obtain ⟨hload, himage, hseqs, hsteps, hacc, hcop, hhomes, hother, hown⟩ := hrun
  have hready : v.hub.imgState ≠ .active := by
    rw [hload.imgState, hend.imgState, State.ready_of_activateDue h]; decide
  rw [State.setImg_changed _ _ _ _ (by show v.hub.imgState ≠ .active; exact hready)] at hexec
  obtain ⟨p, out, a, hpoll⟩ := State.pollAll_frame { v with
    td := { v.td with stepped := true }
    boot := { Boot.reset with root := v.boot.root, source := v.boot.root }
    hub := v.hub.outcome .active 0 0
    outbox := v.outbox ++ [.msix 2] }
  have hmem (st : Stage) : st ∈ im.stages.filter (fun t => t.pkg = u.hub.pkg.toNat) ↔
      st ∈ im.stages ∧ st.pkg = s.hub.pkg.toNat := by
    rw [List.mem_filter, decide_eq_true_eq, hend.pkg]
  refine ⟨_, hexec.trans (congrArg Host.Outcome.next hpoll), rfl, rfl, himage, hseqs, hsteps, hacc, hcop, hhomes, rfl,
    ?_, fun b hb => hother b fun st hst => ?_, fun st hst hpkg b hb huniq => hown st ((hmem st).2 ⟨hst, hpkg⟩) b hb ?_⟩
  · exact List.mem_append_left _ (List.mem_append_right _ List.mem_cons_self)
  · obtain ⟨hst, hpkg⟩ := (hmem st).1 hst
    exact hb st hst hpkg
  · intro w hw hwb
    obtain ⟨hw, hwpkg⟩ := (hmem w).1 hw
    exact huniq w hw (hwpkg.trans hpkg.symm) hwb

end

/-- Settles O58: each clause is what the lemmas of its event say. -/
theorem boot : Obligations.Boot := by
  refine ⟨?_, ?_, ?_, ?_, ?_, ?_, ?_⟩
  · intro s root off data h
    exact bootChunk_resent h
  · intro s root off data h
    exact ⟨bootChunk_begins h, fun hst => ⟨bootChunk_clash h hst, fun hc hall => by
      rw [bootChunk_more h hst, State.bootPiece_held hc hall]⟩, fun _ => bootChunk_repeats h⟩
  · intro s msg
    exact ⟨bootMessage_ignored, bootMessage_begins⟩
  · intro s src id reason
    exact ⟨readyReport_counts, fun hid => ⟨readyReport_other hid, failReport_other hid⟩, Boot.mayBe_iff _ _,
      fun hroot hid hst => ⟨failReport_refuses hroot hid hst, failReport_kept hroot hid hst⟩,
      fun hroot hst => ⟨failReport_lower hroot hst, failReport_notLower hroot hst⟩,
      fun p hid hroot hp => failReport_passed hid hroot hp⟩
  · intro s t0 reason pkg
    exact ⟨activate_waits, abandon_ends reason pkg⟩
  · intro s im him
    exact ⟨imageActivate_early him, fun a h => imageActivate_waits him h, imageActivate_runs him⟩
  · intro s
    exact ⟨imageLoadStart_busy, imageLoadStart_reads, imageLoadStart_empty⟩

end Sys2Proof.Machine
end

section
/-! O48: what a CSR reads after a write (R68, R166, R253, R328). -/

namespace Sys2Proof.Machine

@[simp] theorem State.me_modMe (s : State) (f : Bank → Bank) : (s.modMe f).me = f s.me :=
  s.bank_modBank_self s.cur f

/-! ## What a CSR write leaves in each field of its bank (R166, R253) -/

section
variable (b : Bank) (n : BitVec 16) (w : Word)

theorem Bank.writeCsr_rot : (b.writeCsr n w).rot =
    if n.toNat = 0x02 then BitVec.ofNat 64 ((w.extractLsb' 16 6).toNat * 2 ^ 16 + (w.extractLsb' 8 5).toNat * 2 ^ 8 +
      (w.extractLsb' 0 5).toNat) else b.rot := by
  unfold Bank.writeCsr
  split <;> simp_all <;> rfl

theorem Bank.writeCsr_arflags :
    (b.writeCsr n w).arflags = if n.toNat = 0x10 then b.arflags &&& ~~~ w.extractLsb' 0 5 else b.arflags := by
  unfold Bank.writeCsr
  split <;> simp_all

theorem Bank.writeCsr_arcnt (i : Nat) (hi : i < 5) :
    (b.writeCsr n w).arcnt[i] = if n.toNat = 0x11 + i then w else b.arcnt[i] := by
  unfold Bank.writeCsr
  have hcases : i = 0 ∨ i = 1 ∨ i = 2 ∨ i = 3 ∨ i = 4 := by omega
  rcases hcases with rfl | rfl | rfl | rfl | rfl <;> split <;> simp_all <;> tauto

theorem Bank.writeCsr_asidcur :
    (b.writeCsr n w).asidcur = if n.toNat = 0x20 then w.extractLsb' 0 12 else b.asidcur := by
  unfold Bank.writeCsr
  split <;> simp_all

theorem Bank.writeCsr_memdbg : (b.writeCsr n w).memdbg = if n.toNat = 0x21 then w.getLsbD 0 else b.memdbg := by
  unfold Bank.writeCsr
  split <;> simp_all

theorem Bank.writeCsr_tvec : (b.writeCsr n w).tvec = if n.toNat = 0x30 then w &&& ~~~ 7#64 else b.tvec := by
  unfold Bank.writeCsr
  split <;> simp_all

theorem Bank.writeCsr_tscr0 : (b.writeCsr n w).tscr0 = if n.toNat = 0x35 then w else b.tscr0 := by
  unfold Bank.writeCsr
  split <;> simp_all

theorem Bank.writeCsr_tscr1 : (b.writeCsr n w).tscr1 = if n.toNat = 0x36 then w else b.tscr1 := by
  unfold Bank.writeCsr
  split <;> simp_all

/-- A CSR write leaves the read-only registers, the handler's flags, the waiting events and the register files. -/
theorem Bank.writeCsr_frame : let c := b.writeCsr n w
    (c.rstpt = b.rstpt ∧ c.budcnt = b.budcnt ∧ c.tcause = b.tcause ∧ c.tepc = b.tepc ∧ c.tval = b.tval) ∧
    (c.hmode = b.hmode ∧ c.aband = b.aband ∧ c.pend = b.pend) ∧ c.s = b.s ∧ c.v = b.v ∧ c.p = b.p := by
  unfold Bank.writeCsr
  split <;> exact ⟨⟨rfl, rfl, rfl, rfl, rfl⟩, ⟨rfl, rfl, rfl⟩, rfl, rfl, rfl⟩

end

/-! ## What a CSR reads after the write -/

/-- ROT holds its three fields in their places (R166). -/
theorem rotFields_eq (w : Word) : BitVec.ofNat 64 ((w.extractLsb' 16 6).toNat * 2 ^ 16 +
    (w.extractLsb' 8 5).toNat * 2 ^ 8 + (w.extractLsb' 0 5).toNat) = w &&& 0x3F1F1F := by
  have mask : ∀ i < 64, (0x3F1F1F : Word).getLsbD i = if i < 16 then (if i < 8 then decide (i < 5) else decide (i - 8 < 5))
      else decide (i - 16 < 6) := by decide
  refine BitVec.eq_of_getLsbD_eq fun i hi => ?_
  have low : (w.extractLsb' 8 5).toNat * 2 ^ 8 + (w.extractLsb' 0 5).toNat < 2 ^ 16 := by omega
  rw [BitVec.getLsbD_and, mask i hi, BitVec.getLsbD_ofNat, decide_eq_true hi, Bool.true_and, Nat.add_assoc, Nat.mul_comm,
    Nat.testBit_two_pow_mul_add _ low, Nat.mul_comm, Nat.testBit_two_pow_mul_add _ (by omega)]
  simp only [BitVec.testBit_toNat, BitVec.getLsbD_extractLsb', Bool.and_comm]
  split
  · split
    · simp
    · simp [show 8 + (i - 8) = i by omega]
  · simp [show 16 + (i - 16) = i by omega]

theorem flagsCleared_eq (w : Word) (f : BitVec 5) :
    (f &&& ~~~ w.extractLsb' 0 5).setWidth 64 = f.setWidth 64 &&& ~~~ w := by
  refine BitVec.eq_of_getLsbD_eq fun i hi => ?_
  by_cases h : i < 5
  · simp [h, hi]
  · simp [h, BitVec.getLsbD_of_ge f i (by omega)]

theorem lowBits_eq (w : Word) : (w.extractLsb' 0 12).setWidth 64 = w &&& 0xFFF := by
  have mask : ∀ i < 64, (0xFFF : Word).getLsbD i = decide (i < 12) := by decide
  refine BitVec.eq_of_getLsbD_eq fun i hi => ?_
  rw [BitVec.getLsbD_and, mask i hi]
  simp [hi, Bool.and_comm]

theorem lowBit_eq (w : Word) : (if w.getLsbD 0 then 1 else 0) = w &&& 1 := by
  refine BitVec.eq_of_getLsbD_eq fun i hi => ?_
  by_cases h : i = 0 <;> cases hw : w.getLsbD 0 <;> simp_all

section
variable (s : State) (n : BitVec 16) (w : Word)

/-- TSTAT rests on the handler's flags, the waiting events and the copies (R328). -/
theorem State.tstat_modMe {f : Bank → Bank}
    (h : (f s.me).hmode = s.me.hmode ∧ (f s.me).aband = s.me.aband ∧ (f s.me).pend = s.me.pend) :
    (s.modMe f).tstat s.cur = s.tstat s.cur := by
  obtain ⟨hh, ha, hp⟩ := h
  have hb : (s.modMe f).bank s.cur = f s.me := s.bank_modBank_self s.cur f
  have hme : s.bank s.cur = s.me := rfl
  simp only [State.tstat, hb, hme, hh, ha, hp]
  rfl

theorem State.tstat_writeCsr : (s.modMe fun b => b.writeCsr n w).tstat s.cur = s.tstat s.cur :=
  s.tstat_modMe (s.me.writeCsr_frame n w).2.1

/-- The registers that no write changes (R166, R253). -/
theorem Bank.writeCsr_readOnly (b : Bank) (h : n ∈ [0x00, 0x03, 0x04, 0x31, 0x32, 0x33, 0x34]) : b.writeCsr n w = b := by
  simp only [List.mem_cons, List.not_mem_nil, or_false] at h
  rcases h with rfl | rfl | rfl | rfl | rfl | rfl | rfl <;> rfl

/-- A bank left as it was reads as it did. -/
theorem State.readCsr_modMe_self {f : Bank → Bank} (k : BitVec 16) (h : f s.me = s.me) :
    (s.modMe f).readCsr k = s.readCsr k := by
  have hid : (s.modMe f).bankId s.cur = s.bankId s.cur := rfl
  have hstat : (s.modMe f).tstat s.cur = s.tstat s.cur := s.tstat_modMe (by simp [h])
  simp only [State.readCsr, State.me_modMe, State.modMe_cur, h, hid, hstat]

/-- A CSR write leaves what every other CSR reads. -/
theorem State.readCsr_writeCsr_ne {n k : BitVec 16} (h : k ≠ n) :
    (s.modMe fun b => b.writeCsr n w).readCsr k = s.readCsr k := by
  have hne : n.toNat ≠ k.toNat := fun e => h (BitVec.eq_of_toNat_eq e.symm)
  obtain ⟨⟨hr, hb, hc, he, hv⟩, -⟩ := s.me.writeCsr_frame n w
  have hid : (s.modMe fun b => b.writeCsr n w).bankId s.cur = s.bankId s.cur := rfl
  simp only [State.readCsr, State.me_modMe, State.modMe_cur, State.tstat_writeCsr, hid, Bank.writeCsr_rot,
    Bank.writeCsr_arflags, Bank.writeCsr_arcnt, Bank.writeCsr_asidcur, Bank.writeCsr_memdbg, Bank.writeCsr_tvec,
    Bank.writeCsr_tscr0, Bank.writeCsr_tscr1, hr, hb, hc, he, hv]
  split <;> simp_all

end

/-- Settles O48: a CSR reads its fields, which `Bank.writeCsr` gives one by one. -/
theorem csrWrites : Obligations.CsrWrites := by
  intro s n k w t
  have hread : t = s.modMe fun b => b.writeCsr n w := rfl
  obtain ⟨-, -, hs, hvec, hp⟩ := s.me.writeCsr_frame n w
  refine ⟨?_, ?_, ?_, ?_, ?_, ?_, ?_, fun h => s.readCsr_writeCsr_ne w h, ?_, ?_, ?_, rfl⟩
  · rintro rfl
    simp only [hread, State.readCsr, State.me_modMe, ← rotFields_eq]
    rfl
  · rintro rfl
    simp only [hread, State.readCsr, State.me_modMe]
    exact flagsCleared_eq w s.me.arflags
  · simp only [List.mem_cons, List.not_mem_nil, or_false]
    rintro (rfl | rfl | rfl | rfl | rfl | rfl | rfl) <;> simp [hread, State.readCsr, Bank.writeCsr]
  · rintro rfl
    simp only [hread, State.readCsr, State.me_modMe]
    exact lowBits_eq w
  · rintro rfl
    simp only [hread, State.readCsr, State.me_modMe]
    exact lowBit_eq w
  · rintro rfl
    simp [hread, State.readCsr, Bank.writeCsr]
  · exact fun h => s.readCsr_modMe_self n (Bank.writeCsr_readOnly n w _ h)
  · rw [hread, State.me_modMe]; exact hs
  · rw [hread, State.me_modMe]; exact hvec
  · rw [hread, State.me_modMe]; exact hp

end Sys2Proof.Machine
end

section
/-! O8: when the results of a bank are written, in which order, and what they leave (R69, R156, R157, R225, R254). -/

namespace Sys2Proof.Machine

/-! ## One result (R157, R161, R254) -/

theorem Bank.writeCsr_withInflight (b : Bank) (l : List Pending) (n : BitVec 16) (w : Word) :
    ({ b with inflight := l } : Bank).writeCsr n w = { b.writeCsr n w with inflight := l } := by
  unfold Bank.writeCsr
  split <;> rfl

/-- What a result writes does not depend on the results that are still in flight. -/
theorem Bank.writeRes_withInflight (b : Bank) (l : List Pending) (r : Res) :
    ({ b with inflight := l } : Bank).writeRes r = { b.writeRes r with inflight := l } := by
  cases r with
  | csr n v => exact b.writeCsr_withInflight l n v
  | s n v | p n v | win o n v => simp only [Bank.writeRes]; split <;> rfl
  | _ => rfl

theorem Bank.writeRes_foldl_withInflight (l : List Pending) (rs : List Res) (b : Bank) :
    rs.foldl Bank.writeRes { b with inflight := l } = { rs.foldl Bank.writeRes b with inflight := l } := by
  induction rs generalizing b with
  | nil => rfl
  | cons r rs ih => rw [List.foldl_cons, List.foldl_cons, Bank.writeRes_withInflight, ih]

/-- A result changes no more than the register files, the flags and the CSRs. -/
theorem Bank.writeRes_frame (b : Bank) (r : Res) : (b.writeRes r).pc = b.pc ∧ (b.writeRes r).mode = b.mode ∧
    (b.writeRes r).ports = b.ports ∧ (b.writeRes r).busy = b.busy ∧ (b.writeRes r).inflight = b.inflight := by
  cases r with
  | csr n v => simp only [Bank.writeRes]; unfold Bank.writeCsr; split <;> exact ⟨rfl, rfl, rfl, rfl, rfl⟩
  | s n v | p n v | win o n v => simp only [Bank.writeRes]; split <;> exact ⟨rfl, rfl, rfl, rfl, rfl⟩
  | _ => exact ⟨rfl, rfl, rfl, rfl, rfl⟩

theorem Bank.writeRes_foldl_frame (rs : List Res) (b : Bank) : let c := rs.foldl Bank.writeRes b
    c.pc = b.pc ∧ c.mode = b.mode ∧ c.ports = b.ports ∧ c.busy = b.busy ∧ c.inflight = b.inflight := by
  induction rs generalizing b with
  | nil => exact ⟨rfl, rfl, rfl, rfl, rfl⟩
  | cons r rs ih =>
    obtain ⟨hpc, hmode, hports, hbusy, hin⟩ := b.writeRes_frame r
    have h := ih (b.writeRes r)
    rwa [hpc, hmode, hports, hbusy, hin] at h

/-! ## The results of a cycle (R69, R156, R157) -/

/-- The bank in which a result in flight has been written, the registers of its request free. -/
theorem Bank.retireOne_eq (b : Bank) (p : Pending) : b.retireOne p =
    { (p.res.foldl Bank.writeRes b).addCauses p.causes with
      busy := match p.req with
        | none => b.busy
        | some id => b.busy.filter (·.2 ≠ id) } := by
  obtain ⟨-, -, -, hbusy, -⟩ := b.writeRes_foldl_frame p.res
  cases hreq : p.req <;> simp only [Bank.retireOne, hreq, Bank.addCauses, hbusy]

theorem inOrder_singleton (p : Pending) : inOrder [p] = [p] := rfl

/-- Two results of a cycle that are no CSR writes are written in the order of their issue. -/
theorem inOrder_pair {p q : Pending} (h : p.seq < q.seq) (horder : p.order ≤ q.order) :
    inOrder [p, q] = [p, q] ∧ inOrder [q, p] = [p, q] := by
  have hne : ¬ q.seq < p.seq := by omega
  have hne' : ¬ q.order < p.order := by omega
  simp [inOrder, sortBy, insertBy, h, hne, hne']

/-- A CSR write comes before the results that are none, whichever was issued first. -/
theorem inOrder_csr {p q : Pending} (hp : p.order = 0) (hq : q.order = 1) :
    inOrder [p, q] = [p, q] ∧ inOrder [q, p] = [p, q] := by
  constructor <;> simp only [inOrder, sortBy, insertBy, List.foldl] <;> split <;> simp [insertBy, hp, hq]

theorem Bank.retire_early (b : Bank) {clk : Nat} {p : Pending} (h : clk < p.due) :
    ({ b with inflight := [p] } : Bank).retire clk = { b with inflight := [p] } := by
  have hd : ¬ p.due ≤ clk := by omega
  simp [Bank.retire, h, hd, inOrder, sortBy]

theorem Bank.retire_due (b : Bank) {clk : Nat} {p : Pending} (h : p.due ≤ clk) :
    ({ b with inflight := [p] } : Bank).retire clk = ({ b with inflight := [] } : Bank).retireOne p := by
  simp [Bank.retire, h, inOrder_singleton]

/-- Two results that are due in one cycle. -/
theorem Bank.retire_pair (b : Bank) {clk : Nat} {p q : Pending} {l : List Pending} (hp : p.due ≤ clk) (hq : q.due ≤ clk)
    (hl : l = [p, q] ∨ l = [q, p]) (h : inOrder [p, q] = [p, q] ∧ inOrder [q, p] = [p, q]) :
    ({ b with inflight := l } : Bank).retire clk = (({ b with inflight := [] } : Bank).retireOne p).retireOne q := by
  rcases hl with rfl | rfl <;> simp [Bank.retire, hp, hq, h]

/-- A result that is due is written, with its flag and counter events, and frees its request's registers. -/
theorem Bank.retire_due_effect (b : Bank) {clk : Nat} {p : Pending} (h : p.due ≤ clk) :
    let x := ({ b with inflight := [p] } : Bank).retire clk
    x.inflight = [] ∧ x.pc = b.pc ∧ x.mode = b.mode ∧ x.ports = b.ports ∧
      x.regs = ((p.res.foldl Bank.writeRes b).addCauses p.causes).regs ∧
      (p.req = none → x.busy = b.busy) ∧ ∀ id, p.req = some id → x.busy = b.busy.filter (·.2 ≠ id) := by
  intro x
  have hx : x = ({ b with inflight := [] } : Bank).retireOne p := b.retire_due h
  rw [Bank.retireOne_eq, Bank.writeRes_foldl_withInflight] at hx
  obtain ⟨hpc, hmode, hports, hbusy, -⟩ := b.writeRes_foldl_frame p.res
  rw [hx]
  exact ⟨rfl, hpc, hmode, hports, rfl, fun hr => by simp only [hr], fun id hr => by simp only [hr]⟩

/-! ## A scalar register read back (R157, R161) -/

theorem Bank.readS_writeRes (b : Bank) (n : SReg) (v : Word) (h : b.physS n ≠ 0) :
    (b.writeRes (.s (b.physS n) v)).readS n = v := by
  have hphys : (b.writeRes (.s (b.physS n) v)).physS n = b.physS n := by simp only [Bank.writeRes, h, if_false]; rfl
  simp only [Bank.readS, hphys, if_neg h]
  simp [Bank.writeRes, h]

theorem Bank.readP_writeRes (b : Bank) (n : PReg) (v : Bool) (h : b.physP n ≠ 0) :
    (b.writeRes (.p (b.physP n) v)).readP n = v := by
  have hphys : (b.writeRes (.p (b.physP n) v)).physP n = b.physP n := by simp only [Bank.writeRes, h, if_false]; rfl
  simp only [Bank.readP, hphys, if_neg h]
  simp [Bank.writeRes, h]

/-- A scalar result written last is what the register holds. -/
theorem Bank.retireOne_s (b : Bank) {p : Pending} {n : Fin 64} {v : Word} (hn : n ≠ 0) (h : p.res = [.s n v]) :
    (b.retireOne p).s[n] = v := by
  rw [Bank.retireOne_eq, h]
  simp [Bank.addCauses, Bank.writeRes, hn]

/-- An event of INV sets its flag (R67). -/
theorem Bank.retireOne_inv (b : Bank) {p : Pending} (h : p.causes.inv = 1) : (b.retireOne p).arflags.getLsbD 0 = true := by
  rw [Bank.retireOne_eq]
  simp only [Bank.addCauses, h, BitVec.getLsbD_or, BitVec.getLsbD_ofNat, Nat.testBit_zero]
  split_ifs <;> simp_all

/-! ## Windows of the cog's other bank (R254) -/

theorem BankIx.other_ne (b : BankIx) : b.other ≠ b := by
  intro h
  have hv : 2 * (b.val / 2) + (decide (b.val % 2 = 0)).toNat = b.val := congrArg Fin.val h
  by_cases h0 : b.val % 2 = 0 <;> simp [h0] at hv <;> omega

theorem State.retireBank_otherWindow (s : State) (b : BankIx) {p : Pending} {n : Fin 64} {w : Win}
    (hin : (s.bank b).inflight = [p]) (hdue : p.due ≤ s.clk) (hres : p.res = [.win true n w]) :
    s.retireBank b = (s.modBank b fun x => ({ x with inflight := [] } : Bank).retireOne p).modBank b.other
      fun y => { y with windows := y.windows.set n w } := by
  have hb : (s.bank b).retire s.clk = ({ s.bank b with inflight := [] } : Bank).retireOne p := by
    rw [← Bank.retire_due _ hdue, ← hin]
  simp [State.retireBank, hin, hdue, Bank.winOther, hres, hb, Bank.setWins, State.modBank]

theorem State.retireBank_otherWindow_effect (s : State) (b : BankIx) {p : Pending} {n : Fin 64} {w : Win}
    (hin : (s.bank b).inflight = [p]) (hdue : p.due ≤ s.clk) (hres : p.res = [.win true n w]) :
    let t := s.retireBank b
    (t.bank b.other).windows = (s.bank b.other).windows.set n w ∧ (t.bank b).windows = (s.bank b).windows ∧
      (t.bank b).inflight = [] ∧ (∀ c, c ≠ b → c ≠ b.other → t.bank c = s.bank c) ∧ t.mem = s.mem := by
  intro t
  have ht : t = _ := s.retireBank_otherWindow b hin hdue hres
  have hother : b.other ≠ b := BankIx.other_ne b
  have hmine : t.bank b = ({ s.bank b with inflight := [] } : Bank).retireOne p := by
    rw [ht, State.bank_modBank_ne _ _ hother, State.bank_modBank_self]
  have hwritten : p.res.foldl Bank.writeRes { s.bank b with inflight := [] } = { s.bank b with inflight := [] } := by
    rw [hres]; rfl
  rw [Bank.retireOne_eq, hwritten] at hmine
  refine ⟨?_, by rw [hmine]; rfl, by rw [hmine]; rfl, fun c hc hco => ?_, by rw [ht]; rfl⟩
  · rw [ht, State.bank_modBank_self, State.bank_modBank_ne _ _ hother.symm]
  · rw [ht, State.bank_modBank_ne _ _ hco.symm, State.bank_modBank_ne _ _ hc.symm]

/-! ## Every kind of result (R157, R161, R188, R225, R254) -/

theorem Pending.order_csr {p : Pending} {n : BitVec 16} {v : Word} (h : p.res = [.csr n v]) : p.order = 0 := by
  simp [Pending.order, Pending.isCsr, h]

theorem Pending.order_s {p : Pending} {n : Fin 64} {v : Word} (h : p.res = [.s n v]) : p.order = 1 := by
  simp [Pending.order, Pending.isCsr, h]

/-- Settles O8: the order of a cycle's results, and what the last of them leaves. -/
theorem resultsArrive : Obligations.ResultsArrive := by
  refine ⟨⟨fun b n h => ?_, fun b n h => ?_, fun _ _ => rfl, fun _ _ => rfl, Bank.readS_writeRes, Bank.readP_writeRes⟩,
    fun b clk p => ⟨b.retire_early, b.retire_due_effect⟩, fun b => ⟨fun n v hn => ?_, fun n v hn => ?_, fun _ _ _ => rfl, fun _ _ _ => rfl, fun _ _ => rfl,
      fun _ _ _ => rfl, fun _ _ => rfl, fun _ _ => rfl, fun _ _ => rfl, fun _ _ => rfl, fun _ _ => rfl, fun _ _ => rfl⟩, ?_, ?_,
    fun s b p n w hin hdue hres => s.retireBank_otherWindow_effect b hin hdue hres⟩
  · simp [Bank.readS, h]
  · simp [Bank.readP, h]
  · simp only [Bank.writeRes, if_neg hn]
    rfl
  · simp only [Bank.writeRes, if_neg hn]
    rfl
  · intro b clk p q n v w hn hp hq hpd hqd hseq
    have horder := inOrder_pair hseq (by rw [Pending.order_s hp, Pending.order_s hq])
    rw [b.retire_pair hpd hqd (.inl rfl) horder, b.retire_pair hpd hqd (.inr rfl) horder]
    exact ⟨Bank.retireOne_s _ hn hq, Bank.retireOne_s _ hn hq⟩
  · intro b clk p q n v w hp hq hpd hqd hinv _
    have horder := inOrder_csr (Pending.order_csr hp) (Pending.order_s hq)
    rw [b.retire_pair hpd hqd (.inl rfl) horder, b.retire_pair hpd hqd (.inr rfl) horder]
    exact ⟨Bank.retireOne_inv _ hinv, Bank.retireOne_inv _ hinv⟩

end Sys2Proof.Machine
end

section
/-! O29: one rounding places a magnitude between two neighbouring patterns of its format (R59, R60). -/

namespace Sys2Proof.Machine

/-! ## The value of a magnitude's pattern (R54, R55) -/

/-- The magnitude of a pattern, in units of the least one: the pattern itself below 2^f, else the fraction with its
hidden bit at its exponent. -/
def patternMag (f c : Nat) : Nat := if c < 2 ^ f then c else (2 ^ f + c % 2 ^ f) * 2 ^ (c / 2 ^ f - 1)

/-- Patterns rise with their magnitudes, by one step of the exponent in use; a carry into the next exponent included. -/
theorem patternMag_place {f k n : Nat} (hn : n ≤ 2 ^ (f + 1)) (hk : k = 0 ∨ 2 ^ f ≤ n) :
    patternMag f (k * 2 ^ f + n) = n * 2 ^ k := by
  have hpos : 0 < 2 ^ f := Nat.two_pow_pos f
  rw [Nat.pow_succ] at hn
  unfold patternMag
  rcases Nat.lt_or_ge n (2 ^ f) with hlt | hge
  · obtain rfl : k = 0 := by omega
    simp [hlt]
  have hnot : ¬ k * 2 ^ f + n < 2 ^ f := by omega
  rw [if_neg hnot]
  rcases Nat.lt_or_ge n (2 * 2 ^ f) with hlt | hge'
  · obtain ⟨r, rfl⟩ := Nat.exists_eq_add_of_le hge
    have hsplit : k * 2 ^ f + (2 ^ f + r) = r + (k + 1) * 2 ^ f := by ring
    rw [hsplit, Nat.add_mul_mod_self_right, Nat.add_mul_div_right _ _ hpos, Nat.mod_eq_of_lt (by omega),
      Nat.div_eq_of_lt (by omega)]
    simp
  · obtain rfl : n = 2 * 2 ^ f := by omega
    have hsplit : k * 2 ^ f + 2 * 2 ^ f = (k + 2) * 2 ^ f := by ring
    rw [hsplit, Nat.mul_mod_left, Nat.mul_div_left _ hpos, Nat.add_zero, Nat.add_sub_cancel (m := 1) (n := k + 1)]
    ring

/-- Every pattern is an exponent step and a mantissa. -/
theorem exists_place (f c : Nat) : ∃ k n, c = k * 2 ^ f + n ∧ n < 2 ^ (f + 1) ∧ (k = 0 ∨ 2 ^ f ≤ n) := by
  have hpos : 0 < 2 ^ f := Nat.two_pow_pos f
  have hdiv := Nat.div_add_mod' c (2 ^ f)
  have hmod := Nat.mod_lt c hpos
  rw [Nat.pow_succ]
  by_cases h : c / 2 ^ f = 0
  · exact ⟨0, c, by simp, by rw [h] at hdiv; omega, .inl rfl⟩
  · obtain ⟨k, hk⟩ := Nat.exists_eq_succ_of_ne_zero h
    rw [hk, Nat.succ_mul] at hdiv
    exact ⟨k, 2 ^ f + c % 2 ^ f, by omega, by omega, .inr (by omega)⟩

theorem patternMag_strictMono (f : Nat) : StrictMono (patternMag f) := by
  refine strictMono_nat_of_lt_succ fun c => ?_
  obtain ⟨k, n, rfl, hn, hk⟩ := exists_place f c
  rw [Nat.add_assoc, patternMag_place (by omega) hk, patternMag_place (by omega) (by omega)]
  exact Nat.mul_lt_mul_of_pos_right (by omega) (Nat.two_pow_pos k)

/-! ## What is left of a quotient (R59) -/

/-- How a rest compares with half of its unit. -/
def restOf (r u : Nat) : Nat := if r = 0 then 0 else if 2 * r < u then 1 else if 2 * r = u then 2 else 3

theorem restOf_mul (r u : Nat) {s : Nat} (hs : 0 < s) : restOf (r * s) (u * s) = restOf r u := by
  have h0 : r * s = 0 ↔ r = 0 := by simp [Nat.pos_iff_ne_zero.1 hs]
  have hlt : 2 * (r * s) < u * s ↔ 2 * r < u := by rw [← Nat.mul_assoc]; exact Nat.mul_lt_mul_right hs
  have heq : 2 * (r * s) = u * s ↔ 2 * r = u := by rw [← Nat.mul_assoc]; exact Nat.mul_right_cancel_iff hs
  simp only [restOf, h0, hlt, heq]

theorem restOf_zero {r u : Nat} : restOf r u = 0 ↔ r = 0 := by
  unfold restOf
  split
  · simp [*]
  · split <;> [skip; split] <;> simp [*]

/-- The quotient and its rest, exactly. -/
theorem splitAt_exact (m k : Nat) : splitAt m k false = (m / 2 ^ k, restOf (m % 2 ^ k) (2 ^ k)) := by
  unfold splitAt restOf
  cases k with
  | zero => simp [Nat.mod_one]
  | succ k =>
    have hpow : 2 ^ (k + 1) = 2 * 2 ^ k := by rw [Nat.pow_succ, Nat.mul_comm]
    simp only [Nat.add_one_ne_zero, if_false, Nat.add_sub_cancel, Bool.false_eq_true, not_false_eq_true, and_true, hpow]
    generalize m % (2 * 2 ^ k) = r
    have hpos : 0 < 2 ^ k := Nat.two_pow_pos k
    refine Prod.ext rfl ?_
    split_ifs <;> omega

/-- An even unit keeps the parity on which a tie turns. -/
theorem roundsUp_congr {rm : RMode} {neg : Bool} {n n' rest : Nat} (h : n % 2 = n' % 2) :
    roundsUp rm neg n rest = roundsUp rm neg n' rest := by
  cases rm <;> simp [roundsUp, h]

end Sys2Proof.Machine
end

section
/-! O29: the patterns of the floating formats, and the rounding of a finite value to one of them (R54 to R60). -/

namespace Sys2Proof.Machine

/-- The floating formats of R54 and R55. -/
def floatFormats : List EType := [.fp32, .bf16, .fp8e4, .fp8e5, .mxfp4]

theorem floatFormats_cases {t : EType} (h : t ∈ floatFormats) :
    t = .fp32 ∨ t = .bf16 ∨ t = .fp8e4 ∨ t = .fp8e5 ∨ t = .mxfp4 := by
  simpa [floatFormats] using h

/-- The exponent of the least magnitude of a format. -/
def leastExp (t : EType) : Int := 1 - expBias t - fracBits t

/-- The exponent of the unit in which a pattern's mantissa counts. -/
def patternExp (t : EType) (c : Nat) : Int := leastExp t + (c / 2 ^ fracBits t - 1 : Nat)

/-- The mantissa of a pattern, its hidden bit in place. -/
def patternMant (t : EType) (c : Nat) : Nat :=
  if c < 2 ^ fracBits t then c else 2 ^ fracBits t + c % 2 ^ fracBits t

/-! ## What a pattern is worth (R54, R55, R58) -/

/-- The three fields of a pattern are read back. -/
theorem decodeF_fields (t : EType) (n : Bool) {ex fr : Nat} (hex : ex < 2 ^ expBits t) (hfr : fr < 2 ^ fracBits t) :
    decodeF t (withSign t n (ex * 2 ^ fracBits t + fr)) =
      if hasInf t = true ∧ ex = 2 ^ expBits t - 1 then
        if fr = 0 then .inf n else .nan (t ≠ .fp8e5 && fr < 2 ^ (fracBits t - 1))
      else if t = .fp8e4 ∧ ex = 15 ∧ fr = 7 then .nan false
      else if ex = 0 then .num n fr (leastExp t)
      else .num n (2 ^ fracBits t + fr) ((ex : Int) - expBias t - fracBits t) := by
  have hf : 0 < 2 ^ fracBits t := Nat.two_pow_pos _
  have hw : 0 < 2 ^ expBits t := Nat.two_pow_pos _
  have hbits : withSign t n (ex * 2 ^ fracBits t + fr) = fr + (ex + n.toNat * 2 ^ expBits t) * 2 ^ fracBits t := by
    cases n <;> simp [withSign, signBit, Nat.pow_add] <;> ring
  have hsign : withSign t n (ex * 2 ^ fracBits t + fr) / signBit t = n.toNat := by
    rw [hbits, signBit, Nat.pow_add, ← Nat.div_div_eq_div_mul, Nat.add_mul_div_right _ _ hf, Nat.div_eq_of_lt hfr,
      Nat.zero_add, Nat.add_mul_div_right _ _ hw, Nat.div_eq_of_lt hex, Nat.zero_add]
  have hn : decide (n.toNat % 2 = 1) = n := by cases n <;> rfl
  unfold decodeF
  simp only [hsign, hn]
  simp only [hbits, Nat.add_mul_mod_self_right, Nat.mod_eq_of_lt hfr, Nat.add_mul_div_right _ _ hf, Nat.div_eq_of_lt hfr,
    Nat.zero_add, Nat.mod_eq_of_lt hex]
  rfl

/-- A pattern up to the greatest finite one is a number with the pattern's mantissa and exponent. -/
theorem decodeF_finite {t : EType} (ht : t ∈ floatFormats) (n : Bool) {c : Nat} (hc : c ≤ maxFinite t) :
    decodeF t (withSign t n c) = .num n (patternMant t c) (patternExp t c) := by
  have hf : 0 < 2 ^ fracBits t := Nat.two_pow_pos _
  have hsplit := Nat.div_add_mod' c (2 ^ fracBits t)
  have hfr := Nat.mod_lt c hf
  have hlt : c < 2 ^ fracBits t ↔ c / 2 ^ fracBits t = 0 := by rw [Nat.div_eq_zero_iff]; omega
  have hfinite : c / 2 ^ fracBits t < 2 ^ expBits t ∧ ¬ (hasInf t = true ∧ c / 2 ^ fracBits t = 2 ^ expBits t - 1) ∧
      ¬ (t = .fp8e4 ∧ c / 2 ^ fracBits t = 15 ∧ c % 2 ^ fracBits t = 7) := by
    rcases floatFormats_cases ht with rfl | rfl | rfl | rfl | rfl <;> simp only [maxFinite] at hc <;>
      simp [fracBits, expBits, hasInf] <;> omega
  obtain ⟨hex, hinf, hnan⟩ := hfinite
  have h := decodeF_fields t n hex hfr
  rw [hsplit, if_neg hinf, if_neg hnan] at h
  rw [h, patternMant, patternExp]
  by_cases h0 : c / 2 ^ fracBits t = 0
  · rw [if_pos h0, if_pos (hlt.2 h0), Nat.mod_eq_of_lt (hlt.2 h0), h0]
    simp
  · rw [if_neg h0, if_neg fun h => h0 (hlt.1 h), leastExp, Nat.cast_sub (Nat.one_le_iff_ne_zero.2 h0)]
    congr 1
    push_cast
    ring

/-- A pattern's magnitude, counted at an exponent that no pattern falls short of. -/
def magAt (t : EType) (q : Int) (c : Nat) : Nat := patternMag (fracBits t) c * 2 ^ (leastExp t - q).toNat

theorem patternMag_eq (t : EType) {c : Nat} {q : Int} (hq : q ≤ leastExp t) :
    patternMant t c * 2 ^ (patternExp t c - q).toNat = magAt t q c := by
  have hexp : (patternExp t c - q).toNat = (c / 2 ^ fracBits t - 1) + (leastExp t - q).toNat := by
    rw [patternExp]; omega
  rw [magAt, patternMag, patternMant, hexp, Nat.pow_add, ← Nat.mul_assoc]
  split
  · next h => simp [Nat.div_eq_of_lt h]
  · rfl

theorem magAt_strictMono (t : EType) (q : Int) : StrictMono (magAt t q) := fun _ _ h =>
  Nat.mul_lt_mul_of_pos_right (patternMag_strictMono _ h) (Nat.two_pow_pos _)

/-! ## Rounding a finite value (R59, R60) -/

/-- What a magnitude's pattern delivers: itself while it is finite, else what lies beyond. -/
def deliverMag (t : EType) (rm : RMode) (neg : Bool) (c : Nat) (inx : Causes) : Nat × Causes :=
  if maxFinite t < c then overflowTo t rm neg else (withSign t neg c, inx)

/-- The test of the exponent, and of fp8e4's NaN, is the test of the pattern. -/
theorem beyond_iff {t : EType} (ht : t ∈ floatFormats) {k n : Nat} (hn : n < 2 ^ (fracBits t + 1))
    (hk : 2 ^ fracBits t ≤ n) :
    (leastExp t + k + fracBits t > maxExp t ∨ (t = .fp8e4 ∧ leastExp t + k + fracBits t = 8 ∧ n = 15)) ↔
      maxFinite t < k * 2 ^ fracBits t + n := by
  rcases floatFormats_cases ht with rfl | rfl | rfl | rfl | rfl <;>
    simp only [fracBits, leastExp, expBias, maxExp, maxFinite, reduceCtorEq, false_and, true_and, or_false] at * <;> omega

theorem pow_fracBits_le_maxFinite {t : EType} (ht : t ∈ floatFormats) : 2 ^ fracBits t ≤ maxFinite t := by
  rcases floatFormats_cases ht with rfl | rfl | rfl | rfl | rfl <;> decide

/-- A rounded mantissa n * 2^q is delivered, a carry into the next exponent first. -/
def deliverAt (t : EType) (rm : RMode) (neg : Bool) (n : Nat) (q : Int) (inx : Causes) : Nat × Causes :=
  let (n, q) := if n = 2 ^ (fracBits t + 1) then (2 ^ fracBits t, q + 1) else (n, q)
  if n < 2 ^ fracBits t then (withSign t neg n, inx)
  else if q + fracBits t > maxExp t ∨ (t = .fp8e4 ∧ q + fracBits t = 8 ∧ n = 15) then overflowTo t rm neg
  else (withSign t neg ((q + fracBits t + expBias t).toNat * 2 ^ fracBits t + (n - 2 ^ fracBits t)), inx)

theorem deliverAt_carry (t : EType) (rm : RMode) (neg : Bool) (q : Int) (inx : Causes) :
    deliverAt t rm neg (2 ^ (fracBits t + 1)) q inx = deliverAt t rm neg (2 ^ fracBits t) (q + 1) inx := by
  simp [deliverAt, Nat.pow_succ]

/-- A mantissa at its exponent is delivered as the pattern of its place. -/
theorem deliverAt_fits {t : EType} (ht : t ∈ floatFormats) (rm : RMode) (neg : Bool) (inx : Causes) {k n : Nat}
    (hn : n < 2 ^ (fracBits t + 1)) (hk : k = 0 ∨ 2 ^ fracBits t ≤ n) :
    deliverAt t rm neg n (leastExp t + k) inx = deliverMag t rm neg (k * 2 ^ fracBits t + n) inx := by
  have hmax := pow_fracBits_le_maxFinite ht
  unfold deliverAt deliverMag
  simp only [if_neg hn.ne]
  rcases Nat.lt_or_ge n (2 ^ fracBits t) with hlt | hge
  · obtain rfl : k = 0 := by omega
    have hfin : ¬ maxFinite t < 0 * 2 ^ fracBits t + n := by omega
    rw [if_pos hlt, if_neg hfin, Nat.zero_mul, Nat.zero_add]
  · have hfield : (leastExp t + k + fracBits t + expBias t).toNat = k + 1 := by rw [leastExp]; omega
    have hplace : (k + 1) * 2 ^ fracBits t + (n - 2 ^ fracBits t) = k * 2 ^ fracBits t + n := by
      rw [Nat.succ_mul]; omega
    rw [if_neg (by omega), if_congr (beyond_iff ht hn hge) rfl rfl, hfield, hplace]

theorem deliverAt_place {t : EType} (ht : t ∈ floatFormats) (rm : RMode) (neg : Bool) (inx : Causes) {k n : Nat}
    (hn : n ≤ 2 ^ (fracBits t + 1)) (hk : k = 0 ∨ 2 ^ fracBits t ≤ n) :
    deliverAt t rm neg n (leastExp t + k) inx = deliverMag t rm neg (k * 2 ^ fracBits t + n) inx := by
  rcases Nat.lt_or_eq_of_le hn with hlt | rfl
  · exact deliverAt_fits ht rm neg inx hlt hk
  · have hexp : leastExp t + k + 1 = leastExp t + (k + 1 : Nat) := by push_cast; ring
    have hplace : k * 2 ^ fracBits t + 2 ^ (fracBits t + 1) = (k + 1) * 2 ^ fracBits t + 2 ^ fracBits t := by
      rw [Nat.pow_succ]; ring
    rw [deliverAt_carry, hexp, deliverAt_fits ht rm neg inx (Nat.pow_lt_pow_succ (by decide)) (.inr le_rfl), hplace]

/-- The exponent at which a value is rounded. -/
def unitExp (t : EType) (m : Nat) (e : Int) : Int := max ((bitLen m : Int) - 1 + e - fracBits t) (leastExp t)

/-- The mantissa at that exponent, and how the rest compares with half of its unit. -/
def mantissaAt (m : Nat) (e q : Int) : Nat × Nat :=
  if q ≤ e then splitAt (m * 2 ^ (e - q).toNat) 0 false else splitAt m (q - e).toNat false

theorem roundTo_eq (t : EType) (rm : RMode) (neg : Bool) {m : Nat} (e : Int) (hm : m ≠ 0) {n rest : Nat}
    (h : mantissaAt m e (unitExp t m e) = (n, rest)) :
    roundTo t rm neg m e = deliverAt t rm neg (n + (roundsUp rm neg n rest).toNat) (unitExp t m e)
      { inx := if rest = 0 then 0 else 1 } := by
  have hup (b : Bool) : n + b.toNat = if b = true then n + 1 else n := by cases b <;> rfl
  have hn : n = (mantissaAt m e (unitExp t m e)).1 := by rw [h]
  have hrest : rest = (mantissaAt m e (unitExp t m e)).2 := by rw [h]
  unfold roundTo
  rw [if_neg (by simp [hm]), hup, hn, hrest]
  rfl

theorem bitLen_bounds {m : Nat} (hm : m ≠ 0) : 0 < bitLen m ∧ 2 ^ (bitLen m - 1) ≤ m ∧ m < 2 ^ bitLen m := by
  rw [bitLen, if_neg hm]
  exact ⟨Nat.succ_pos _, Nat.log2_self_le hm, Nat.lt_log2_self⟩

/-- The mantissa fits its format, and fills it above the least exponent. -/
theorem mantissaAt_bounds (t : EType) {m : Nat} (e : Int) (hm : m ≠ 0) :
    (mantissaAt m e (unitExp t m e)).1 < 2 ^ (fracBits t + 1) ∧
      (unitExp t m e = leastExp t ∨ 2 ^ fracBits t ≤ (mantissaAt m e (unitExp t m e)).1) := by
  obtain ⟨hpos, hlow, hhigh⟩ := bitLen_bounds hm
  have hunit : unitExp t m e = leastExp t ∨ unitExp t m e = (bitLen m : Int) - 1 + e - fracBits t := by
    unfold unitExp; omega
  have hge : (bitLen m : Int) - 1 + e - fracBits t ≤ unitExp t m e := le_max_left _ _
  generalize unitExp t m e = q at *
  unfold mantissaAt
  split
  · next hq =>
    simp only [splitAt_exact, Nat.pow_zero, Nat.div_one]
    refine ⟨?_, hunit.imp_right fun h => ?_⟩
    · calc m * 2 ^ (e - q).toNat < 2 ^ bitLen m * 2 ^ (e - q).toNat := Nat.mul_lt_mul_of_pos_right hhigh (Nat.two_pow_pos _)
        _ = 2 ^ (bitLen m + (e - q).toNat) := (Nat.pow_add ..).symm
        _ ≤ 2 ^ (fracBits t + 1) := Nat.pow_le_pow_right (by omega) (by omega)
    · calc 2 ^ fracBits t = 2 ^ (bitLen m - 1 + (e - q).toNat) := by congr 1; omega
        _ = 2 ^ (bitLen m - 1) * 2 ^ (e - q).toNat := Nat.pow_add ..
        _ ≤ m * 2 ^ (e - q).toNat := Nat.mul_le_mul_right _ hlow
  · next hq =>
    simp only [splitAt_exact]
    refine ⟨?_, hunit.imp_right fun h => ?_⟩
    · rw [Nat.div_lt_iff_lt_mul (Nat.two_pow_pos _), ← Nat.pow_add]
      exact hhigh.trans_le (Nat.pow_le_pow_right (by omega) (by omega))
    · rw [Nat.le_div_iff_mul_le (Nat.two_pow_pos _), ← Nat.pow_add]
      exact (Nat.pow_le_pow_right (by omega) (by omega)).trans hlow

/-- The value is the mantissa in its unit and a rest below the unit, counted at an exponent that both reach. -/
theorem mantissaAt_exact {m : Nat} {e q u : Int} (hq : q ≤ e) (hu : q ≤ u) : ∃ r,
    m * 2 ^ (e - q).toNat = (mantissaAt m e u).1 * 2 ^ (u - q).toNat + r ∧ r < 2 ^ (u - q).toNat ∧
      (mantissaAt m e u).2 = restOf r (2 ^ (u - q).toNat) := by
  unfold mantissaAt
  split
  · next h =>
    refine ⟨0, ?_, Nat.two_pow_pos _, by simp [splitAt_exact, Nat.mod_one, restOf]⟩
    have hsum : (e - q).toNat = (e - u).toNat + (u - q).toNat := by omega
    simp [splitAt_exact, hsum, Nat.pow_add, Nat.mul_assoc]
  · next h =>
    have hsum : (u - q).toNat = (u - e).toNat + (e - q).toNat := by omega
    have hpos : 0 < 2 ^ (e - q).toNat := Nat.two_pow_pos _
    simp only [splitAt_exact, hsum, Nat.pow_add]
    refine ⟨m % 2 ^ (u - e).toNat * 2 ^ (e - q).toNat, ?_, ?_, (restOf_mul _ _ hpos).symm⟩
    · rw [← Nat.mul_assoc, ← Nat.add_mul, Nat.div_add_mod']
    · exact Nat.mul_lt_mul_of_pos_right (Nat.mod_lt _ (Nat.two_pow_pos _)) hpos

/-- One rounding: the value lies a rest r above the magnitude of a pattern c, the next one a step u above, and c or the next
pattern is delivered, as r compares with u. -/
theorem roundTo_between {t : EType} (ht : t ∈ floatFormats) (rm : RMode) (neg : Bool) {m : Nat} {e q : Int} (hm : m ≠ 0)
    (hq : q ≤ e) (hl : q ≤ leastExp t) : ∃ c r u,
      m * 2 ^ (e - q).toNat = magAt t q c + r ∧ r < u ∧ magAt t q (c + 1) = magAt t q c + u ∧
      roundTo t rm neg m e = deliverMag t rm neg (c + (roundsUp rm neg c (restOf r u)).toNat) { inx := if r = 0 then 0 else 1 } := by
  obtain ⟨hlt, hfull⟩ := mantissaAt_bounds t e hm
  have hleast : leastExp t ≤ unitExp t m e := le_max_right _ _
  obtain ⟨r, hval, hr, hrest⟩ := mantissaAt_exact (m := m) hq (hl.trans hleast)
  have hround := roundTo_eq t rm neg e hm (Prod.eta (mantissaAt m e (unitExp t m e))).symm
  generalize unitExp t m e = x at *
  generalize mantissaAt m e x = p at *
  obtain ⟨n, rest⟩ := p
  simp only at hlt hfull hval hrest hround
  obtain ⟨k, hk⟩ : ∃ k : Nat, x = leastExp t + k := ⟨(x - leastExp t).toNat, by omega⟩
  subst hk
  have hfull : k = 0 ∨ 2 ^ fracBits t ≤ n := hfull.imp_left fun h => by omega
  have hexp : (leastExp t + k - q).toNat = k + (leastExp t - q).toNat := by omega
  have hmag (i : Nat) (hi : i ≤ 2 ^ (fracBits t + 1)) (hi' : k = 0 ∨ 2 ^ fracBits t ≤ i) :
      magAt t q (k * 2 ^ fracBits t + i) = i * 2 ^ (leastExp t + k - q).toNat := by
    rw [magAt, patternMag_place hi hi', hexp, Nat.pow_add, Nat.mul_assoc]
  refine ⟨k * 2 ^ fracBits t + n, r, 2 ^ (leastExp t + k - q).toNat, ?_, hr, ?_, ?_⟩
  · rw [hmag n hlt.le hfull]; exact hval
  · rw [Nat.add_assoc, hmag n hlt.le hfull, hmag (n + 1) hlt (by omega), Nat.succ_mul]
  · have heven : 2 ^ fracBits t % 2 = 0 := by
      rcases floatFormats_cases ht with rfl | rfl | rfl | rfl | rfl <;> rfl
    have hparity : (k * 2 ^ fracBits t + n) % 2 = n % 2 := by simp [Nat.add_mod, Nat.mul_mod, heven]
    have hb := (roundsUp rm neg n rest).toNat_le
    rw [hround, roundsUp_congr hparity, ← hrest, Nat.add_assoc, deliverAt_place ht rm neg _ (by omega) (by omega),
      if_congr (hrest ▸ restOf_zero) rfl rfl]

end Sys2Proof.Machine
end

section
/-! O29: the neighbours of a value decide what it rounds to; every pattern is what its value rounds to (R59, R60, R66). -/

namespace Sys2Proof.Machine

/-- Between two neighbouring magnitudes the mode names the upper one; of a tie the one with an even pattern (R59). -/
def StepsUp (rm : RMode) (n : Bool) (v lo hi : Int) (odd : Prop) : Prop :=
  match rm with
  | .rne => lo + hi < 2 * v ∨ (lo + hi = 2 * v ∧ odd)
  | .rtz => False
  | .rdn => n = true
  | .rup => n = false

/-- A rest that is not zero is rounded as its neighbours say. -/
theorem roundsUp_iff (rm : RMode) (n : Bool) (c : Nat) {r u lo v hi : Nat} (h0 : r ≠ 0) (hv : v = lo + r) (hhi : hi = lo + u) :
    roundsUp rm n c (restOf r u) = true ↔ StepsUp rm n v lo hi (c % 2 = 1) := by
  subst hv hhi
  cases rm with
  | rtz => simp [roundsUp, StepsUp]
  | rdn => simp [roundsUp, StepsUp, restOf_zero, h0]
  | rup => simp [roundsUp, StepsUp, restOf_zero, h0]
  | rne =>
    simp only [roundsUp, StepsUp, restOf, if_neg h0, Bool.or_eq_true, Bool.and_eq_true, decide_eq_true_eq]
    split_ifs <;> simp <;> omega

section
variable {t : EType} (ht : t ∈ floatFormats) (rm : RMode) (n : Bool) {m : Nat} {e q : Int} (hm : m ≠ 0) (hq : q ≤ e)
  (hl : q ≤ leastExp t)
include ht hm hq hl

/-- The rounding of a value whose neighbours are known. -/
theorem roundTo_neighbours {c : Nat} (hlo : magAt t q c ≤ m * 2 ^ (e - q).toNat)
    (hhi : m * 2 ^ (e - q).toNat < magAt t q (c + 1)) :
    (magAt t q c = m * 2 ^ (e - q).toNat → roundTo t rm n m e = deliverMag t rm n c {}) ∧
    (magAt t q c < m * 2 ^ (e - q).toNat →
      (StepsUp rm n (m * 2 ^ (e - q).toNat : Nat) (magAt t q c) (magAt t q (c + 1)) (c % 2 = 1) →
        roundTo t rm n m e = deliverMag t rm n (c + 1) { inx := 1 }) ∧
      (¬ StepsUp rm n (m * 2 ^ (e - q).toNat : Nat) (magAt t q c) (magAt t q (c + 1)) (c % 2 = 1) →
        roundTo t rm n m e = deliverMag t rm n c { inx := 1 })) := by
  obtain ⟨c', r, u, hval, hr, hnext, hround⟩ := roundTo_between ht rm n hm hq hl
  have hc : c = c' := by
    have h₁ : c < c' + 1 := (magAt_strictMono t q).lt_iff_lt.1 (by omega)
    have h₂ : c' < c + 1 := (magAt_strictMono t q).lt_iff_lt.1 (by omega)
    omega
  subst hc
  rw [hround]
  refine ⟨fun h => ?_, fun h => ?_⟩
  · obtain rfl : r = 0 := by omega
    have hexact : roundsUp rm n c 0 = false := by cases rm <;> simp [roundsUp]
    rw [restOf_zero.2 rfl, hexact]
    rfl
  · have h0 : r ≠ 0 := by omega
    rw [← roundsUp_iff rm n c h0 hval hnext, if_neg h0]
    refine ⟨fun hup => ?_, fun hup => ?_⟩
    · rw [hup]; rfl
    · rw [Bool.eq_false_iff.2 hup]; rfl

/-- A value past the greatest magnitude by a step or more goes beyond the format. -/
theorem roundTo_beyond (h : magAt t q (maxFinite t + 1) ≤ m * 2 ^ (e - q).toNat) :
    roundTo t rm n m e = overflowTo t rm n := by
  obtain ⟨c, r, u, hval, hr, hnext, hround⟩ := roundTo_between ht rm n hm hq hl
  have hc : maxFinite t + 1 < c + 1 := (magAt_strictMono t q).lt_iff_lt.1 (by omega)
  rw [hround, deliverMag, if_pos (by omega)]

end

theorem deliverMag_finite {t : EType} (rm : RMode) (n : Bool) {c : Nat} (inx : Causes) (h : c ≤ maxFinite t) :
    deliverMag t rm n c inx = (withSign t n c, inx) := if_neg (by omega)

theorem overflowTo_eq {t : EType} (ht : t ∈ floatFormats) (rm : RMode) (n : Bool) : overflowTo t rm n =
    if t = .fp8e4 ∨ t = .mxfp4 then (withSign t n (maxFinite t), { sat := 1, inx := 1 })
      else (withSign t n (match rm with
        | .rne => infBits t
        | .rtz => maxFinite t
        | .rdn => if n then infBits t else maxFinite t
        | .rup => if n then maxFinite t else infBits t), { ovf := 1, inx := 1 }) := by
  rcases floatFormats_cases ht with rfl | rfl | rfl | rfl | rfl <;> cases rm <;> cases n <;> rfl

/-- The step above the greatest magnitude is as high as the one below it. -/
theorem magAt_next {t : EType} (ht : t ∈ floatFormats) (q : Int) :
    magAt t q (maxFinite t + 1) + magAt t q (maxFinite t - 1) = 2 * magAt t q (maxFinite t) := by
  have hunits : patternMag (fracBits t) (maxFinite t + 1) + patternMag (fracBits t) (maxFinite t - 1) =
      2 * patternMag (fracBits t) (maxFinite t) := by
    rcases floatFormats_cases ht with rfl | rfl | rfl | rfl | rfl <;> decide
  rw [magAt, magAt, magAt, ← Nat.add_mul, hunits, Nat.mul_assoc]

/-- What `Rounding` reads off a pattern is its magnitude. -/
theorem magAt_decodeF {t : EType} (ht : t ∈ floatFormats) {q : Int} (hl : q ≤ leastExp t) {c : Nat} (hc : c ≤ maxFinite t) :
    (match decodeF t c with
      | .num _ k x => signedAt false k x q
      | _ => 0) = (magAt t q c : Int) := by
  have h : decodeF t c = .num false (patternMant t c) (patternExp t c) := decodeF_finite ht false hc
  rw [h, ← patternMag_eq t hl]
  rfl

theorem rounding {t : EType} (ht : t ∈ floatFormats) (rm : RMode) : Rounding t rm := by
  intro n m e q hm hq hl v mag r up top next
  have hmag (c : Nat) (hc : c ≤ top) : mag c = (magAt t q c : Int) := magAt_decodeF ht hl hc
  have hv : v = (m * 2 ^ (e - q).toNat : Nat) := rfl
  have hr : r = roundTo t rm n m e := rfl
  have htop := hmag top le_rfl
  have hnext : next = (magAt t q (top + 1) : Int) := by
    have h : magAt t q (top + 1) + magAt t q (top - 1) = 2 * magAt t q top := magAt_next ht q
    have h' : next = 2 * mag top - mag (top - 1) := rfl
    rw [h', htop, hmag _ (Nat.sub_le _ _)]
    omega
  have hmono : magAt t q top < magAt t q (top + 1) := magAt_strictMono t q (Nat.lt_succ_self _)
  have hnear {c : Nat} := roundTo_neighbours ht rm n hm hq hl (c := c)
  rw [hr, htop, hnext]
  refine ⟨fun c hc hlo hhi => ?_, fun h => ?_, fun h h' hup => ?_, fun h hup => ?_⟩
  · rw [hmag c hc.le, hv] at hlo
    rw [hmag (c + 1) hc, hv] at hhi
    obtain ⟨hexact, hbetween⟩ := hnear (by exact_mod_cast hlo) (by exact_mod_cast hhi)
    rw [deliverMag_finite rm n _ hc.le] at hexact hbetween
    rw [deliverMag_finite rm n _ (show c + 1 ≤ maxFinite t from hc)] at hbetween
    rw [hmag c hc.le, hmag (c + 1) hc, hv]
    exact ⟨fun h => hexact (by exact_mod_cast h), fun h => (hbetween (by exact_mod_cast h)).1,
      fun h => (hbetween (by exact_mod_cast h)).2⟩
  · have h : magAt t q top = m * 2 ^ (e - q).toNat := by rw [hv] at h; exact_mod_cast h.symm
    rw [(hnear h.le (h ▸ hmono)).1 h]
    exact deliverMag_finite rm n _ le_rfl
  · rw [hv] at h h'
    rw [((hnear (by omega) (by omega)).2 (by omega)).2 hup]
    exact deliverMag_finite rm n _ le_rfl
  · rw [hv] at h hup
    refine Eq.trans ?_ (overflowTo_eq ht rm n)
    rcases le_or_gt (magAt t q (top + 1)) (m * 2 ^ (e - q).toNat) with hge | hlt
    · exact roundTo_beyond ht rm n hm hq hl hge
    · have hup := hup.resolve_left (by omega)
      rw [((hnear (by omega) hlt).2 (by omega)).1 hup]
      exact if_pos (Nat.lt_succ_self _)

/-! ## Values of patterns, and patterns of values (R54, R55, R58 to R61) -/

theorem hasInf_iff {t : EType} (ht : t ∈ floatFormats) : hasInf t = true ↔ t = .fp32 ∨ t = .bf16 ∨ t = .fp8e5 := by
  rcases floatFormats_cases ht with rfl | rfl | rfl | rfl | rfl <;> decide

theorem formatValue {t : EType} (ht : t ∈ floatFormats) : FormatValue t (fracBits t) (expBits t) (expBias t) := by
  intro n ex fr hex hfr
  have hbits : n.toNat * 2 ^ (fracBits t + expBits t) + ex * 2 ^ fracBits t + fr =
      withSign t n (ex * 2 ^ fracBits t + fr) := by
    cases n <;> simp [withSign, signBit]
    omega
  simp only [hbits, decodeF_fields t n hex hfr, hasInf_iff ht, and_comm (a := ex = _)]
  split_ifs <;> simp_all [leastExp]

/-- A pattern is its sign and its magnitude. -/
theorem withSign_split {t : EType} {a : Nat} (h : a < 2 * signBit t) :
    withSign t (decide (signBit t ≤ a)) (a % signBit t) = a := by
  unfold withSign
  by_cases hs : signBit t ≤ a
  · rw [Nat.mod_eq_sub_mod hs, Nat.mod_eq_of_lt (by omega)]
    simp [hs]
  · rw [Nat.mod_eq_of_lt (by omega)]
    simp [hs]

/-- A magnitude is finite, the NaN of fp8e4, or of an infinity's exponent. -/
theorem magnitude_cases {t : EType} (ht : t ∈ floatFormats) {c : Nat} (hc : c < signBit t) :
    c ≤ maxFinite t ∨ (t = .fp8e4 ∧ c = 127) ∨
      (hasInf t = true ∧ ∃ fr, c = (2 ^ expBits t - 1) * 2 ^ fracBits t + fr ∧ fr < 2 ^ fracBits t) := by
  refine or_iff_not_imp_left.2 fun h => ?_
  cases hinf : hasInf t with
  | true =>
    have hmax : maxFinite t + 1 = infBits t := by
      rcases (hasInf_iff ht).1 hinf with rfl | rfl | rfl <;> rfl
    have hsize : infBits t + 2 ^ fracBits t = signBit t := by
      rw [infBits, signBit, Nat.add_comm (fracBits t), Nat.pow_add, ← Nat.succ_mul, Nat.succ_eq_add_one,
        Nat.sub_add_cancel (Nat.two_pow_pos _)]
    have hle : infBits t ≤ c := by omega
    exact .inr ⟨rfl, c - infBits t, (Nat.add_sub_cancel' hle).symm, by omega⟩
  | false =>
    rcases floatFormats_cases ht with rfl | rfl | rfl | rfl | rfl
    case inr.inr.inl => exact .inl ⟨rfl, by simp only [maxFinite, signBit, fracBits, expBits] at hc h; omega⟩
    case inr.inr.inr.inr => simp only [maxFinite, signBit, fracBits, expBits] at hc h; omega
    all_goals cases hinf

/-- A finite pattern is what its value rounds to, exactly (R60). -/
theorem roundTo_pattern {t : EType} (ht : t ∈ floatFormats) (rm : RMode) (n : Bool) {c : Nat} (hc : c ≤ maxFinite t) :
    roundTo t rm n (patternMant t c) (patternExp t c) = (withSign t n c, {}) := by
  by_cases h0 : patternMant t c = 0
  · have hzero : c = 0 := by
      have hpos := Nat.two_pow_pos (fracBits t)
      unfold patternMant at h0
      split at h0 <;> omega
    rw [h0, hzero]
    rfl
  · have hexp : leastExp t ≤ patternExp t c := by unfold patternExp; omega
    have hval := patternMag_eq t (c := c) le_rfl
    have hmono : magAt t (leastExp t) c < magAt t (leastExp t) (c + 1) := magAt_strictMono t _ (Nat.lt_succ_self c)
    have hnear := roundTo_neighbours ht rm n h0 hexp le_rfl hval.ge (hval ▸ hmono)
    rw [hnear.1 hval.symm, deliverMag_finite rm n _ hc]

theorem encodeF_decodeF {t : EType} (ht : t ∈ floatFormats) (rm : RMode) {a : Nat} (ha : a < 2 * signBit t)
    (hnan : (decodeF t a).isNan = false) : encodeF t rm (decodeF t a) = (a, {}) := by
  have hc : a % signBit t < signBit t := Nat.mod_lt _ (Nat.two_pow_pos _)
  have hsplit := withSign_split ha
  generalize decide (signBit t ≤ a) = n at hsplit
  rw [← hsplit] at hnan ⊢
  generalize a % signBit t = c at hc hnan
  rcases magnitude_cases ht hc with hfin | ⟨rfl, rfl⟩ | ⟨hinf, fr, rfl, hfr⟩
  · rw [decodeF_finite ht n hfin]
    exact roundTo_pattern ht rm n hfin
  · cases n <;> exact absurd hnan (by decide)
  · have hdec := decodeF_fields t n (ex := 2 ^ expBits t - 1) (by have := Nat.two_pow_pos (expBits t); omega) hfr
    rw [if_pos ⟨hinf, rfl⟩] at hdec
    rw [hdec] at hnan ⊢
    by_cases h0 : fr = 0
    · simp [h0, encodeF, hinf, infBits]
    · simp [h0, FVal.isNan] at hnan

/-- Settles O29: `rounding` places a value between its neighbours, of which a pattern's own value is one. -/
theorem formatsRoundTrip : Obligations.FormatsRoundTrip := by
  refine ⟨formatValue (t := .fp32) (by decide), formatValue (t := .bf16) (by decide), formatValue (t := .fp8e4) (by decide),
    formatValue (t := .fp8e5) (by decide), formatValue (t := .mxfp4) (by decide), fun t rm ht =>
    ⟨fun a ha hnan => encodeF_decodeF ht rm ha hnan, rounding ht rm, fun n e => rfl, fun _ sig => rfl, fun n => ?_⟩⟩
  rcases floatFormats_cases ht with rfl | rfl | rfl | rfl | rfl <;> rfl

end Sys2Proof.Machine
end

section
/-! O24: the arithmetic of class V by element: its special operands, exact results rounded once, and the integer that
VROUND gives (R58, R60, R260 to R265). -/

namespace Sys2Proof.Machine

/-! ## Vector instructions by element (R259, R260) -/

section
variable {L : Nat} {t : EType}

theorem lanes1_of {mk : VReg → VReg → VMask → Instr} {f : Nat → Nat × Causes}
    (h : ∀ s d a m, exec (mk d a m) s = issue (vec1 L t d a m f) s) : Lanes1 mk L t f := by
  intro s d a m x hx
  rw [h]
  exact issue_ok (by simp [vec1, hx, pure, Except.pure, State.vres])

theorem lanes2_of {mk : VReg → VReg → VReg → VMask → Instr} {f : Nat → Nat → Nat × Causes}
    (h : ∀ s d a b m, exec (mk d a b m) s = issue (vec2 L t d a b m f) s) : Lanes2 mk L t f := by
  intro s d a b m x y hx hy
  rw [h]
  exact issue_ok (by simp [vec2, hx, hy, pure, Except.pure, State.vres])

theorem lanes3_of {mk : VReg → VReg → VReg → VReg → VMask → Instr} {f : Nat → Nat → Nat → Nat × Causes}
    (h : ∀ s d a b c m, exec (mk d a b c m) s = issue (vec3 L t d a b c m f) s) : Lanes3 mk L t f := by
  intro s d a b c m x y z hx hy hz
  rw [h]
  exact issue_ok (by simp [vec3, hx, hy, hz, pure, Except.pure, State.vres])

end

/-- VADD, VSUB, VMUL and VABSD of integers: exact, then wrapped or clamped (R264). -/
theorem arithOp_int {t : EType} (ht : t.isInt = true) (rm : RMode) (sat : Bool)
    (f : EType → RMode → Nat → Nat → Nat × Causes) (g : Int → Int → Int) :
    arithOp t rm sat f g = fun x y => intOut t sat (g (intVal t x) (intVal t y)) := by
  have hf : t.isFloat = false := by cases t <;> simp_all [EType.isInt, EType.isFloat]
  funext x y
  simp [arithOp, hf]

theorem arithOp_float {t : EType} (ht : t.isFloat = true) (rm : RMode) (sat : Bool)
    (f : EType → RMode → Nat → Nat → Nat × Causes) (g : Int → Int → Int) : arithOp t rm sat f g = f t rm := by
  funext x y
  simp [arithOp, ht]

theorem lanes_int {t : EType} (ht : t.isInt = true) (rm : RMode) (sat : Bool) :
    Lanes2 (.vadd t rm sat) 4 t (fun x y => intOut t sat (intVal t x + intVal t y)) ∧
    Lanes2 (.vsub t rm sat) 4 t (fun x y => intOut t sat (intVal t x - intVal t y)) ∧
    Lanes2 (.vmul t rm sat) 4 t (fun x y => intOut t sat (intVal t x * intVal t y)) ∧
    Lanes2 (.vabsd t rm sat) 4 t (fun x y => intOut t sat (intVal t x - intVal t y).natAbs) := by
  have hop (f g) := arithOp_int ht rm sat f g
  exact ⟨hop fAdd (· + ·) ▸ lanes2_of fun _ _ _ _ _ => rfl, hop fSub (· - ·) ▸ lanes2_of fun _ _ _ _ _ => rfl,
    hop fMul (· * ·) ▸ lanes2_of fun _ _ _ _ _ => rfl,
    hop fAbsDiff (fun x y => (x - y).natAbs) ▸ lanes2_of fun _ _ _ _ _ => rfl⟩

theorem lanes_float {t : EType} (ht : t.isFloat = true) (rm : RMode) :
    Lanes2 (.vadd t rm false) 4 t (fAdd t rm) ∧ Lanes2 (.vsub t rm false) 4 t (fSub t rm) ∧
    Lanes2 (.vmul t rm false) 4 t (fMul t rm) ∧ Lanes2 (.vabsd t rm false) 4 t (fAbsDiff t rm) := by
  have hop (f g) := arithOp_float ht rm false f g
  exact ⟨hop fAdd (· + ·) ▸ lanes2_of fun _ _ _ _ _ => rfl, hop fSub (· - ·) ▸ lanes2_of fun _ _ _ _ _ => rfl,
    hop fMul (· * ·) ▸ lanes2_of fun _ _ _ _ _ => rfl,
    hop fAbsDiff (fun x y => (x - y).natAbs) ▸ lanes2_of fun _ _ _ _ _ => rfl⟩

/-! ## Special operands (R58, R262) -/

/-- A NaN operand gives the canonical NaN, with INV where one signals. -/
theorem arith_nan (t : EType) (rm : RMode) {ops : List FVal} (v : Option FVal) (h : ops.any FVal.isNan = true) :
    arith t rm ops v = (canonNan t, if ops.any FVal.isSig then invalid else {}) := if_pos h

theorem arith_invalid (t : EType) (rm : RMode) {ops : List FVal} (h : ops.any FVal.isNan = false) :
    arith t rm ops none = (canonNan t, invalid) := by simp [arith, h]

theorem arith_exact (t : EType) (rm : RMode) {ops : List FVal} (v : FVal) (h : ops.any FVal.isNan = false) :
    arith t rm ops (some v) = encodeF t rm v := by simp [arith, h]

theorem encodeF_inf {t : EType} (ht : t.isFloat = true) (rm : RMode) (n : Bool) :
    encodeF t rm (.inf n) = (withSign t n (infBits t), {}) := by
  have hinf : hasInf t = true := by cases t <;> simp_all [EType.isFloat, hasInf]
  simp [encodeF, hinf]

section
variable {t : EType} (ht : t.isFloat = true) (rm : RMode) {a b c : Nat}

theorem arith_nan2 (h : (decodeF t a).isNan = true ∨ (decodeF t b).isNan = true) (v : Option FVal) :
    arith t rm [decodeF t a, decodeF t b] v =
      (canonNan t, if (decodeF t a).isSig || (decodeF t b).isSig then invalid else {}) := by
  rw [arith_nan t rm v (by simpa using h)]
  simp

theorem arith_nan3 (h : (decodeF t a).isNan = true ∨ (decodeF t b).isNan = true ∨ (decodeF t c).isNan = true)
    (v : Option FVal) : arith t rm [decodeF t a, decodeF t b, decodeF t c] v =
      (canonNan t, if (decodeF t a).isSig || (decodeF t b).isSig || (decodeF t c).isSig then invalid else {}) := by
  rw [arith_nan t rm v (by simpa using h)]
  simp [Bool.or_assoc]

theorem fRound_nan (h : (decodeF t a).isNan = true) :
    fRound t rm a = (canonNan t, if (decodeF t a).isSig then invalid else {}) := by
  cases hx : decodeF t a with
  | nan sig => simp only [fRound, hx, FVal.isSig]; rfl
  | inf n => simp [hx, FVal.isNan] at h
  | num n m e => simp [hx, FVal.isNan] at h

include ht

theorem arith_infinities {p q : Bool} (hx : decodeF t a = .inf p) (hy : decodeF t b = .inf q) :
    fAdd t rm a b = (if p = q then (withSign t p (infBits t), {}) else (canonNan t, invalid)) ∧
    fSub t rm a b = (if p = q then (canonNan t, invalid) else (withSign t p (infBits t), {})) ∧
    fMul t rm a b = (withSign t (p != q) (infBits t), {}) ∧
    fAbsDiff t rm a b = if p = q then (canonNan t, invalid) else (withSign t false (infBits t), {}) := by
  simp only [fAdd, fSub, fMul, fAbsDiff, hx, hy]
  cases p <;> cases q <;> simp [arith, exactAdd, exactMul, FVal.neg, FVal.isNan, encodeF_inf ht]

/-- An infinity and a finite operand. -/
theorem arith_inf_finite {p n : Bool} {m : Nat} {e : Int} (hx : decodeF t a = .inf p) (hy : decodeF t b = .num n m e) :
    let inf (s : Bool) : Nat × Causes := (withSign t s (infBits t), {})
    fAdd t rm a b = inf p ∧ fAdd t rm b a = inf p ∧ fSub t rm a b = inf p ∧ fSub t rm b a = inf (!p) ∧
      fAbsDiff t rm a b = inf false ∧ fAbsDiff t rm b a = inf false := by
  simp only [fAdd, fSub, fAbsDiff, hx, hy]
  simp [arith, exactAdd, FVal.neg, FVal.isNan, encodeF_inf ht]

theorem fMul_inf_finite {p n : Bool} {m : Nat} {e : Int} (hx : decodeF t a = .inf p) (hy : decodeF t b = .num n m e) :
    (m = 0 → fMul t rm a b = (canonNan t, invalid) ∧ fMul t rm b a = (canonNan t, invalid)) ∧
    (m ≠ 0 → fMul t rm a b = (withSign t (p != n) (infBits t), {}) ∧
      fMul t rm b a = (withSign t (p != n) (infBits t), {})) := by
  simp only [fMul, hx, hy]
  refine ⟨fun h => ?_, fun h => ?_⟩ <;> simp [arith, exactMul, FVal.isNan, encodeF_inf ht, h, bne_comm]

omit ht in
/-- A product and a sum, each with its sign, rounded together. -/
theorem fFma_eq (np nc : Bool) (a b c : Nat) : fFma t rm np nc a b c =
    arith t rm [decodeF t a, decodeF t b, decodeF t c] ((exactMul (decodeF t a) (decodeF t b)).bind fun p =>
      exactAdd rm (if np then p.neg else p) (if nc then (decodeF t c).neg else decodeF t c)) := rfl

omit ht in
theorem FVal.signed_inf (n q : Bool) : (if n then FVal.neg (.inf q) else .inf q) = .inf (q != n) := by
  cases n <;> simp [FVal.neg]

omit ht in
theorem FVal.signed_num (n q : Bool) (m : Nat) (e : Int) :
    (if n then FVal.neg (.num q m e) else .num q m e) = .num (q != n) m e := by
  cases n <;> simp [FVal.neg]

/-- The product of an infinity and a finite operand, and a third operand. -/
theorem fFma_inf_finite {p n : Bool} {m : Nat} {e : Int} (np nc : Bool) (hx : decodeF t a = .inf p)
    (hy : decodeF t b = .num n m e) :
    (m = 0 → (decodeF t c).isNan = false →
      fFma t rm np nc a b c = (canonNan t, invalid) ∧ fFma t rm np nc b a c = (canonNan t, invalid)) ∧
    (m ≠ 0 → (∀ q, decodeF t c = .inf q → fFma t rm np nc a b c =
        if ((p != n) != np) = (q != nc) then (withSign t (q != nc) (infBits t), {}) else (canonNan t, invalid)) ∧
      ∀ k l r, decodeF t c = .num k l r → fFma t rm np nc a b c = (withSign t ((p != n) != np) (infBits t), {})) := by
  simp only [fFma_eq, hx, hy]
  refine ⟨fun h hz => ?_, fun h => ⟨fun q hz => ?_, fun k l r hz => ?_⟩⟩
  · simp only [exactMul, h, if_true, Option.bind_none]
    exact ⟨arith_invalid t rm (by simp only [List.any, hz]; rfl), arith_invalid t rm (by simp only [List.any, hz]; rfl)⟩
  · simp only [hz, exactMul, if_neg h, Option.bind_some, FVal.signed_inf, exactAdd]
    split
    · next heq => rw [arith_exact t rm _ rfl, encodeF_inf ht, heq]
    · exact arith_invalid t rm rfl
  · simp only [hz, exactMul, if_neg h, Option.bind_some, FVal.signed_inf, FVal.signed_num, exactAdd]
    rw [arith_exact t rm _ rfl, encodeF_inf ht]

/-- A finite product and an infinity. -/
theorem fFma_finite_inf {n n' q : Bool} {m m' : Nat} {e e' : Int} (np nc : Bool) (hx : decodeF t a = .num n m e)
    (hy : decodeF t b = .num n' m' e') (hz : decodeF t c = .inf q) :
    fFma t rm np nc a b c = (withSign t (q != nc) (infBits t), {}) := by
  simp only [fFma_eq, hx, hy, hz, exactMul, Option.bind_some, FVal.signed_inf, FVal.signed_num, exactAdd]
  rw [arith_exact t rm _ rfl, encodeF_inf ht]

end

/-! ## Finite operands (R60, R262) -/

theorem encodeF_zero (t : EType) (rm : RMode) (n : Bool) (e : Int) : encodeF t rm (.num n 0 e) = (withSign t n 0, {}) := rfl

theorem signedAt_zero (n : Bool) (e q : Int) : signedAt n 0 e q = 0 := by simp [signedAt]

theorem signedAt_not (n : Bool) (m : Nat) (e q : Int) : signedAt (!n) m e q = -signedAt n m e q := by
  cases n <;> simp [signedAt]

/-- A sum of finite values, which is exact before its one rounding. -/
theorem exactAdd_num (t : EType) (rm : RMode) (n : Bool) (m : Nat) (e : Int) (n' : Bool) (m' : Nat) (e' : Int) :
    ∃ v, exactAdd rm (.num n m e) (.num n' m' e') = some v ∧ encodeF t rm v = finiteSum t rm n m e n' m' e' := by
  unfold exactAdd finiteSum
  by_cases hzeros : m = 0 ∧ m' = 0 ∧ n = n'
  · obtain ⟨rfl, rfl, rfl⟩ := hzeros
    exact ⟨.num n 0 0, by simp, by simp [signedAt_zero, encodeF_zero]⟩
  · simp only [if_neg hzeros]
    split
    · next h => exact ⟨_, rfl, by simp [h, encodeF_zero]⟩
    · next h => exact ⟨_, rfl, by simp⟩

section
variable {t : EType} (rm : RMode) {a b c : Nat} {n n' : Bool} {m m' : Nat} {e e' : Int}
  (hx : decodeF t a = .num n m e) (hy : decodeF t b = .num n' m' e')
include hx hy

theorem fAdd_finite : fAdd t rm a b = finiteSum t rm n m e n' m' e' := by
  obtain ⟨v, hv, hsum⟩ := exactAdd_num t rm n m e n' m' e'
  simp only [fAdd, hx, hy, hv]
  rw [arith_exact t rm _ rfl, hsum]

theorem fSub_finite : fSub t rm a b = finiteSum t rm n m e (!n') m' e' := by
  obtain ⟨v, hv, hsum⟩ := exactAdd_num t rm n m e (!n') m' e'
  simp only [fSub, hx, hy, FVal.neg, hv]
  rw [arith_exact t rm _ rfl, hsum]

theorem fMul_finite : fMul t rm a b = encodeF t rm (.num (n != n') (m * m') (e + e')) := by
  simp only [fMul, hx, hy, exactMul]
  exact arith_exact t rm _ rfl

theorem fFma_finite (np nc : Bool) {k : Bool} {l : Nat} {r : Int} (hz : decodeF t c = .num k l r) :
    fFma t rm np nc a b c = finiteSum t rm ((n != n') != np) (m * m') (e + e') (k != nc) l r := by
  obtain ⟨v, hv, hsum⟩ := exactAdd_num t rm ((n != n') != np) (m * m') (e + e') (k != nc) l r
  simp only [fFma_eq, hx, hy, hz, exactMul, Option.bind_some, FVal.signed_num, hv]
  rw [arith_exact t rm _ rfl, hsum]

theorem fAbsDiff_finite : let q := min e e'
    fAbsDiff t rm a b = encodeF t rm (.num false (signedAt n m e q - signedAt n' m' e' q).natAbs q) := by
  intro q
  have hsum : signedAt n m e q - signedAt n' m' e' q = signedAt n m e q + signedAt (!n') m' e' q := by
    rw [signedAt_not, Int.sub_eq_add_neg]
  simp only [fAbsDiff, hx, hy, FVal.neg, exactAdd, hsum]
  split
  · next hzeros =>
    obtain ⟨rfl, rfl, -⟩ := hzeros
    simp only [Option.map_some, signedAt_zero]
    exact arith_exact t rm _ rfl
  · split
    · next h =>
      rw [show signedAt n m e q + signedAt (!n') m' e' q = 0 from h]
      exact arith_exact t rm _ rfl
    · exact arith_exact t rm _ rfl

end

/-! ## VROUND (R59, R262) -/

/-- The whole quotient, or the next integer as the rest says. -/
theorem roundInt_eq (rm : RMode) (n : Bool) (m : Nat) {e : Int} (he : e < 0) : let h := 2 ^ (-e).toNat
    roundInt rm n m e =
      (m / h + (roundsUp rm n (m / h) (restOf (m % h) h)).toNat, decide (restOf (m % h) h ≠ 0)) := by
  intro h
  have hup (k : Nat) (b : Bool) : (if b = true then k + 1 else k) = k + b.toNat := by cases b <;> rfl
  rw [roundInt, if_neg (by omega), splitAt_exact]
  simp only [hup]
  rfl

theorem roundsUp_exact (rm : RMode) (n : Bool) (k u : Nat) : roundsUp rm n k (restOf 0 u) = false := by
  cases rm <;> simp [roundsUp, restOf]

/-- A fraction is rounded to an integer as the mode says (R59). -/
theorem roundsTo_roundInt (rm : RMode) (n : Bool) (m : Nat) {e : Int} (he : e < 0) :
    RoundsTo rm n m e (roundInt rm n m e).1 := by
  rw [roundInt_eq rm n m he]
  refine ⟨fun h => by omega, fun _ => ?_⟩
  have hpos : 0 < 2 ^ (-e).toNat := Nat.two_pow_pos _
  generalize 2 ^ (-e).toNat = h at *
  have hval := Nat.div_add_mod' m h
  have hr := Nat.mod_lt m hpos
  generalize m / h = k at *
  generalize m % h = r at *
  have hup (h0 : r ≠ 0) := roundsUp_iff rm n k (r := r) (u := h) (lo := k * h) h0 hval.symm rfl
  rcases Nat.eq_zero_or_pos r with rfl | h0
  · rw [roundsUp_exact]
    cases rm <;> cases n <;> simp [Nat.add_mul, Nat.mul_assoc] <;> omega
  · have hup := hup (by omega)
    cases hb : roundsUp rm n k (restOf r h)
    · rw [hb] at hup
      cases rm <;> cases n <;> simp [StepsUp, Nat.add_mul, Nat.mul_assoc] at * <;> omega
    · have hup := hup.1 hb
      cases rm <;> cases n <;> simp [StepsUp, Nat.add_mul, Nat.mul_assoc] at * <;> omega

/-- The result differs from the value exactly where the value is no integer. -/
theorem roundInt_inexact (rm : RMode) (n : Bool) (m : Nat) {e : Int} (he : e < 0) :
    (roundInt rm n m e).2 = true ↔ ¬ IsInteger m e (roundInt rm n m e).1 := by
  rw [roundInt_eq rm n m he]
  have hpos : 0 < 2 ^ (-e).toNat := Nat.two_pow_pos _
  have hneg : ¬ 0 ≤ e := by omega
  simp only [IsInteger, decide_eq_true_eq, ne_eq, restOf_zero, hneg, false_or]
  generalize 2 ^ (-e).toNat = h at *
  have hval := Nat.div_add_mod' m h
  have hr := Nat.mod_lt m hpos
  generalize m / h = k at *
  generalize m % h = r at *
  rcases Nat.eq_zero_or_pos r with rfl | h0
  · rw [roundsUp_exact]
    simpa using hval
  · cases roundsUp rm n k (restOf r h) <;> simp [Nat.add_mul] <;> omega

theorem fRound_finite (t : EType) (rm : RMode) {a : Nat} {n : Bool} {m : Nat} {e : Int} (hx : decodeF t a = .num n m e) :
    (m = 0 ∨ 0 ≤ e → fRound t rm a = (a, {})) ∧
    (m ≠ 0 → e < 0 → ∃ k : Nat, RoundsTo rm n m e k ∧ (fRound t rm a).1 = (encodeF t .rne (.num n k 0)).1 ∧
      (IsInteger m e k → (fRound t rm a).2 = {}) ∧ (¬ IsInteger m e k → (fRound t rm a).2 = { inx := 1 })) := by
  refine ⟨fun h => by simp [fRound, hx, h], fun hm he => ⟨(roundInt rm n m e).1, roundsTo_roundInt rm n m he, ?_⟩⟩
  have hfrac : ¬ (m = 0 ∨ 0 ≤ e) := by omega
  have hround : fRound t rm a = ((roundTo t .rne n (roundInt rm n m e).1 0).1,
      { inx := if (roundInt rm n m e).2 then 1 else 0 }) := by simp [fRound, hx, hfrac]
  have hinexact := roundInt_inexact rm n m he
  rw [hround]
  refine ⟨rfl, fun h => ?_, fun h => ?_⟩
  · simp [Bool.eq_false_iff.2 fun hb => hinexact.1 hb h]
  · simp [hinexact.2 h]

/-- Settles O24: every arithmetic instruction by its element function, and each of these by the kinds of its operands. -/
theorem laneArithmetic : Obligations.LaneArithmetic := by
  refine ⟨fun t rm sat ht => lanes_int ht rm sat, fun t rm ht => lanes_float ht rm, ?_, fun t rm =>
    ⟨lanes3_of fun _ _ _ _ _ _ => rfl, lanes3_of fun _ _ _ _ _ _ => rfl, lanes3_of fun _ _ _ _ _ _ => rfl,
      lanes3_of fun _ _ _ _ _ _ => rfl, lanes1_of fun _ _ _ _ => rfl⟩,
    fun t => lanes2_of fun _ _ _ _ _ => rfl, fun t sat => lanes3_of fun _ _ _ _ _ _ => rfl, ?_⟩
  · intro t rm np nc a b c ht x y z nan inf
    refine ⟨fun h => ⟨arith_nan2 rm h _, arith_nan2 rm h _, arith_nan2 rm h _, arith_nan2 rm h _⟩,
      fun h => arith_nan3 rm h _, fRound_nan rm, fun p hx => ⟨?_, fun q hy => arith_infinities ht rm hx hy, ?_⟩, ?_,
      fun n m e hx => fRound_finite t rm hx⟩
    · simp [fRound, show decodeF t a = .inf p from hx]
    · intro n m e hy
      obtain ⟨hadd, hadd', hsub, hsub', habs, habs'⟩ := arith_inf_finite ht rm hx hy
      obtain ⟨hmul0, hmul⟩ := fMul_inf_finite ht rm hx hy
      obtain ⟨hfma0, hfma⟩ := fFma_inf_finite ht rm (c := c) np nc hx hy
      exact ⟨hadd, hadd', hsub, hsub', habs, habs',
        fun h => ⟨(hmul0 h).1, (hmul0 h).2, hfma0 h⟩, fun h => ⟨(hmul h).1, (hmul h).2, (hfma h).1, (hfma h).2⟩⟩
    · intro n m e n' m' e' hx hy
      exact ⟨fAdd_finite rm hx hy, fSub_finite rm hx hy, fMul_finite rm hx hy, fAbsDiff_finite rm hx hy,
        fun q hz => fFma_finite_inf ht rm np nc hx hy hz, fun k l r hz => fFma_finite rm hx hy np nc hz⟩
  · intro s t bu sat d a b c m x y z hx hy hz bt p
    have harm : exec (.vdot4 t bu sat d a b c m) s = execVdot4 t bu sat d a b c m s := rfl
    rw [harm, execVdot4]
    exact issue_ok (by simp [hx, hy, hz, pure, Except.pure, State.vres, List.range_succ, p, bt])

end Sys2Proof.Machine
end

section
/-! O35: lanes of vectors, rows and poison bits of tiles, and what the operations on them leave (R53, R162, R304). -/

namespace Sys2Proof.Machine

/-! ## Fields of numbers -/

/-- A field of a number is a field of the word that holds it. -/
theorem toNat_extractLsb'_ofNat (x : Nat) {n s w : Nat} (h : s + w ≤ n) :
    ((BitVec.ofNat n x).extractLsb' s w).toNat = x / 2 ^ s % 2 ^ w := by
  refine Nat.eq_of_testBit_eq fun i => ?_
  simp only [BitVec.testBit_toNat, BitVec.getLsbD_extractLsb', BitVec.getLsbD_ofNat, Nat.testBit_mod_two_pow,
    Nat.testBit_div_two_pow, Nat.add_comm i]
  by_cases hi : i < w
  · simp [hi, show s + i < n by omega]
  · simp [hi]

/-- Digits joined, the least significant first, are read back one by one. -/
theorem foldr_digit {b : Nat} (hb : 0 < b) (xs : List Nat) (i : Nat) :
    xs.foldr (fun x acc => x % b + b * acc) 0 / b ^ i % b = xs.getD i 0 % b := by
  induction xs generalizing i with
  | nil => simp
  | cons x xs ih =>
    cases i with
    | zero => simp
    | succ i =>
      rw [List.foldr_cons, Nat.pow_succ', ← Nat.div_div_eq_div_mul, Nat.add_mul_div_left _ _ hb,
        Nat.div_eq_of_lt (Nat.mod_lt x hb), Nat.zero_add, ih, List.getD_cons_succ]

theorem getD_map_range {α : Type} (f : Nat → α) {n i : Nat} (hi : i < n) (d : α) :
    ((List.range n).map f).getD i d = f i := by
  rw [List.getD_eq_getElem _ _ (by simpa using hi), List.getElem_map, List.getElem_range]

/-! ## Lanes (R53) -/

theorem lane_lt (w : Nat) (v : Vec) (i : Nat) : lane w v i < 2 ^ w := BitVec.isLt _

@[simp] theorem lane_mod (w : Nat) (v : Vec) (i : Nat) : lane w v i % 2 ^ w = lane w v i := Nat.mod_eq_of_lt (lane_lt w v i)

/-- A packed element is read back from its lane. -/
theorem lane_pack {w i : Nat} (xs : List Nat) (h : i * w + w ≤ 4096) : lane w (pack w xs) i = xs.getD i 0 % 2 ^ w := by
  rw [lane, pack, toNat_extractLsb'_ofNat _ h, Nat.mul_comm i, Nat.pow_mul, foldr_digit (Nat.two_pow_pos w)]

theorem lane32_pack_range {i : Nat} (f : Nat → Nat) (hi : i < 128) :
    lane 32 (pack 32 ((List.range 128).map f)) i = f i % 2 ^ 32 := by
  rw [lane_pack _ (by omega), getD_map_range f hi]

theorem getLsbD_setLane (v : Vec) {n p : Nat} (x : Nat) (hp : p < 4096) : (setLane v n x).getLsbD p =
    if 32 * n ≤ p ∧ p - 32 * n < 32 then x.testBit (p - 32 * n) else v.getLsbD p := by
  simp only [setLane, maskedSet, BitVec.getLsbD_or, BitVec.getLsbD_and, BitVec.getLsbD_not, BitVec.getLsbD_ofNat, hp,
    Nat.testBit_mul_two_pow, Nat.testBit_mod_two_pow, Nat.testBit_two_pow_sub_one]
  by_cases h : 32 * n ≤ p <;> by_cases h' : p - 32 * n < 32 <;> simp [h, h']

theorem testBit_lane (v : Vec) (i k : Nat) : (lane 32 v i).testBit k = (decide (k < 32) && v.getLsbD (i * 32 + k)) := by
  rw [lane, BitVec.testBit_toNat, BitVec.getLsbD_extractLsb']

/-- The lane that is set takes its value, the others stay. -/
theorem lane_setLane (v : Vec) {n i : Nat} (x : Nat) (hi : i < 128) :
    lane 32 (setLane v n x) i = if i = n then x % 2 ^ 32 else lane 32 v i := by
  refine Nat.eq_of_testBit_eq fun k => ?_
  have hx : (x % 2 ^ 32).testBit k = (decide (k < 32) && x.testBit k) := Nat.testBit_mod_two_pow ..
  rw [testBit_lane, apply_ite (Nat.testBit · k), hx, testBit_lane]
  by_cases hk : k < 32
  · rw [getLsbD_setLane v x (by omega)]
    by_cases hin : i = n
    · subst hin
      simp [hk, show 32 * i ≤ i * 32 + k by omega, show i * 32 + k - 32 * i = k by omega]
    · rw [if_neg (by omega), if_neg hin]
  · simp [hk]

/-! ## Rows and poison bits of tiles (R162, R304) -/

/-- The rows that a function gives. -/
theorem Tile.mapRows_row (t : Tile) (f : Nat → Vec → Vec) {r : Nat} (hr : r < 128) :
    (t.mapRows f).row r = f r (t.row r) := by
  have hrow : (t.mapRows f).rows.toList = (List.range 128).map fun r => f r (t.row r) := rfl
  rw [Tile.row, hrow, getD_map_range _ hr]

theorem psnOf_sum (f : Nat → Bool) (n : Nat) : let s := (List.range n).foldl (fun acc r => acc + (if f r then 2 ^ r else 0)) 0
    s < 2 ^ n ∧ ∀ r, s.testBit r = (decide (r < n) && f r) := by
  induction n with
  | zero => simp
  | succ n ih =>
    obtain ⟨hlt, hbit⟩ := ih
    simp only [List.range_succ, List.foldl_append, List.foldl_cons, List.foldl_nil]
    generalize (List.range n).foldl (fun acc r => acc + (if f r then 2 ^ r else 0)) 0 = s at *
    refine ⟨by rw [Nat.pow_succ]; split <;> omega, fun r => ?_⟩
    have hsum : s + (if f n then 2 ^ n else 0) = 2 ^ n * (f n).toNat + s := by cases f n <;> simp [Nat.add_comm]
    rw [hsum, Nat.testBit_two_pow_mul_add _ hlt, hbit]
    rcases Nat.lt_trichotomy r n with h | rfl | h
    · simp [h, show r < n + 1 by omega]
    · cases f r <;> simp
    · have hhigh : (f n).toNat.testBit (r - n) = false :=
        Nat.testBit_lt_two_pow (lt_of_le_of_lt (f n).toNat_le (Nat.one_lt_two_pow (by omega)))
      simp [hhigh, show ¬ r < n by omega, show ¬ r < n + 1 by omega]

/-- The poison bits that a function gives. -/
theorem getLsbD_psnOf (f : Nat → Bool) {r : Nat} (hr : r < 128) : (psnOf f).getLsbD r = f r := by
  obtain ⟨-, hbit⟩ := psnOf_sum f 128
  rw [psnOf, BitVec.getLsbD_ofNat, hbit]
  simp [hr]

theorem getLsbD_rowBits (lo n : Nat) {r : Nat} (hr : r < 128) :
    (rowBits lo n).getLsbD r = (decide (lo ≤ r) && decide (r < lo + n)) := getLsbD_psnOf _ hr

/-! ## Lines of tiles (R304, R308) -/

theorem cellOf_eq (dir : Dir) {k i : Nat} (hk : k < 128) (hi : i < 128) : cellOf dir k i = match dir with
    | .row => (k, i)
    | .col => (i, k)
    | .dia => (i, (i + k) % 128)
    | .adi => (i, (k + 128 - i) % 128) := by
  cases dir <;> simp [cellOf, Nat.mod_eq_of_lt hk, Nat.mod_eq_of_lt hi]

/-- A lane of a line is its cell's element, of a poisoned row the canonical NaN. -/
theorem Tile.lane_line (t : Tile) (dir : Dir) (k : Nat) {i : Nat} (hi : i < 128) :
    lane 32 (t.line dir k) i =
      if t.bad (cellOf dir k i).1 then 0x7FC00000 else t.elem (cellOf dir k i).1 (cellOf dir k i).2 := by
  have hline : t.line dir k = pack 32 ((List.range 128).map fun n =>
      if t.bad (cellOf dir k n).1 then canonNan .fp32 else t.elem (cellOf dir k n).1 (cellOf dir k n).2) := rfl
  rw [hline, lane32_pack_range _ hi]
  split
  · rfl
  · exact lane_mod 32 _ _

@[simp] theorem Tile.setLine_bad (t : Tile) (dir : Dir) (k : Nat) (v : Vec) (r : Nat) : (t.setLine dir k v).bad r = t.bad r := by
  cases dir <;> rfl

theorem Tile.setLine_row_elem (t : Tile) {k r : Nat} (v : Vec) (n : Nat) (hk : k < 128) (hr : r < 128) :
    (t.setLine .row k v).elem r n = if r = k then lane 32 v n else t.elem r n := by
  rw [Tile.setLine, Tile.elem, Tile.mapRows_row _ _ hr, Nat.mod_eq_of_lt hk, apply_ite (lane 32 · n), Tile.elem]

/-- Outside .ROW a line takes one element of each row. -/
theorem Tile.setLine_elem (t : Tile) {dir : Dir} (k : Nat) {r n : Nat} (v : Vec) (hdir : dir ≠ .row) (hr : r < 128)
    (hn : n < 128) : (t.setLine dir k v).elem r n = if n = (cellOf dir k r).2 then lane 32 v r else t.elem r n := by
  have hset : t.setLine dir k v = t.mapRows fun r x => setLane x (cellOf dir k r).2 (lane 32 v r) := by
    cases dir with
    | row => exact absurd rfl hdir
    | col => rfl
    | dia => rfl
    | adi => rfl
  rw [hset, Tile.elem, Tile.mapRows_row _ _ hr, lane_setLane _ _ hn, lane_mod, Tile.elem]

/-- TWR writes the line's cells and no other. -/
theorem Tile.setLine_cells (t : Tile) (dir : Dir) {k r n : Nat} (v : Vec) (hk : k < 128) (hr : r < 128) (hn : n < 128) :
    (∀ i, i < 128 → cellOf dir k i = (r, n) → (t.setLine dir k v).elem r n = lane 32 v i) ∧
      ((∀ i, i < 128 → cellOf dir k i ≠ (r, n)) → (t.setLine dir k v).elem r n = t.elem r n) := by
  by_cases hdir : dir = .row
  · subst hdir
    rw [Tile.setLine_row_elem t v n hk hr]
    refine ⟨fun i hi h => ?_, fun h => if_neg fun hrk => h n hn ?_⟩
    · rw [cellOf_eq .row hk hi] at h
      obtain ⟨rfl, rfl⟩ := Prod.mk.inj h
      exact if_pos rfl
    · rw [cellOf_eq .row hk hn, hrk]
  · have hcell (i : Nat) (hi : i < 128) : (cellOf dir k i).1 = i := by
      rw [cellOf_eq dir hk hi]
      cases dir with
      | row => exact absurd rfl hdir
      | col => rfl
      | dia => rfl
      | adi => rfl
    rw [Tile.setLine_elem t k v hdir hr hn]
    refine ⟨fun i hi h => ?_, fun h => if_neg fun hc => h r hr (Prod.ext (hcell r hr) hc.symm)⟩
    obtain rfl : i = r := by rw [← hcell i hi, h]
    rw [h, if_pos rfl]

/-! ## Tile arithmetic (R309, R310) -/

/-- A tile made element by element, and the causes of every element together. -/
theorem Tile.mapElems_has (t : Tile) (f : Nat → Nat → Nat → Nat × Causes) :
    (t.mapElems f).1.Has (fun r n => (f r n (t.elem r n)).1) t.bad ∧
      (t.mapElems f).2 = elemCauses fun r n => (f r n (t.elem r n)).2 := by
  refine ⟨fun r hr => ⟨rfl, fun n hn => ?_⟩, ?_⟩
  · rw [Tile.mapElems, Tile.elem, Tile.mapRows_row _ _ hr, getD_map_range _ hr, rowMap, List.map_map]
    exact lane32_pack_range _ hn
  · have hrow (r : Nat) : (rowMap fun n => f r n (t.elem r n)).2 =
        ((List.range 128).map fun n => (f r n (t.elem r n)).2).foldl Causes.plus {} :=
      congrArg (List.foldl Causes.plus {}) List.map_map
    refine congrArg (List.foldl Causes.plus {}) (List.map_map.trans (List.map_congr_left fun r _ => hrow r))

theorem Tile.scale_has (t : Tile) (rm : RMode) (m : Nat → Nat) :
    (t.scale rm m).1.Has (fun r n => (fMul .fp32 rm (t.elem r n) (m r)).1) t.bad ∧
      (t.scale rm m).2 = elemCauses fun r n => (fMul .fp32 rm (t.elem r n) (m r)).2 := t.mapElems_has _

theorem Tile.add_has (t src : Tile) (rm : RMode) :
    (t.add src rm).1.Has (fun r n => (fAdd .fp32 rm (t.elem r n) (src.elem r n)).1) (fun r => t.bad r || src.bad r) ∧
      (t.add src rm).2 = elemCauses fun r n => (fAdd .fp32 rm (t.elem r n) (src.elem r n)).2 := by
  obtain ⟨hhas, hcs⟩ := t.mapElems_has fun r n x => fAdd .fp32 rm x (src.elem r n)
  exact ⟨fun r hr => ⟨BitVec.getLsbD_or, (hhas r hr).2⟩, hcs⟩

theorem Tile.move_has (t src : Tile) (tr : Bool) : (t.move src tr).Has
    (fun r n => if tr then src.elem n r else src.elem r n)
    (fun r => t.bad r || if tr then src.psn ≠ 0 else src.bad r) := by
  refine fun r hr => ⟨?_, fun n hn => ?_⟩
  · rw [Tile.move, Tile.bad, BitVec.getLsbD_or]
    cases tr with
    | false => rfl
    | true =>
      by_cases h : src.psn = 0
      · simp [h, Tile.bad]
      · rw [if_pos rfl, if_neg h, BitVec.getLsbD_allOnes, decide_eq_true hr]
        exact congrArg (t.bad r || ·) (decide_eq_true h).symm
  · cases tr with
    | false => exact (lane_mod 32 _ _).symm
    | true =>
      have hrow : (t.move src true).row r =
          (t.mapRows fun r _ => pack 32 ((List.range 128).map fun n => src.elem n r)).row r := rfl
      rw [Tile.elem, hrow, Tile.mapRows_row _ _ hr, lane32_pack_range _ hn]
      rfl

end Sys2Proof.Machine
end

section
/-! O35: the head of the queue in its turn: what its start leaves, its tile, and its result in queue order (R290, R291,
R303 to R318). -/

namespace Sys2Proof.Machine

/-! ## A turn (R290) -/

/-- The head of the queue has been taken. -/
def State.taken (s : State) (c : CogIx) : State := s.modCog c fun x => { x with mq := x.mq.tail, mLast := s.clk }

/-- From s to v the head of the queue has been taken, the tiles of its bank are as given, and no result is in flight yet. -/
structure State.Turned (s v : State) (c : CogIx) (e : MEntry) (tiles : Vector Tile 4) : Prop where
  clk   : v.clk = s.clk
  queue : (v.cog c).mq = (s.cog c).mq.tail ∧ (v.cog c).mLast = s.clk
  order : (v.cog c).mOrder = (s.cog c).mOrder
  bank  : v.bank e.bank = { s.bank e.bank with t := tiles }
  other : ∀ b, b ≠ e.bank → v.bank b = s.bank b
  mem   : v.mem = s.mem ∧ v.poison = s.poison

namespace State.Turned
variable {s v : State} {c : CogIx} {e : MEntry} {tiles : Vector Tile 4}

theorem taken (s : State) (c : CogIx) (e : MEntry) : s.Turned (s.taken c) c e (s.bank e.bank).t where
  clk   := rfl
  queue := by simp [State.taken]
  order := by simp [State.taken]
  bank  := rfl
  other := fun _ _ => rfl
  mem   := ⟨rfl, rfl⟩

theorem setTile (h : s.Turned v c e tiles) (t : TReg) (x : Tile) : s.Turned (v.setTile e t x) c e (tiles.set t x) where
  clk   := h.clk
  queue := h.queue
  order := h.order
  bank  := by rw [State.setTile, State.bank_modBank_self, h.bank]
  other := fun b hb => by rw [State.setTile, State.bank_modBank_ne _ _ hb.symm, h.other b hb]
  mem   := h.mem

theorem tiles_of (h : s.Turned v c e tiles) : s.Tiles v e tiles := by
  obtain ⟨hmem, hpsn⟩ := h.mem
  exact ⟨by rw [h.bank]; rfl, h.other, hmem, hpsn⟩

end State.Turned

/-! ## The end of a turn (R291) -/

section
variable (s : State) (c : CogIx) (e : MEntry) (n : Nat) (res : List Res) (cs : Causes)

theorem State.mResult_cog : (s.mResult c e n res cs).cog c = { s.cog c with mOrder := s.mDue c n } := by
  simp [State.mResult]

theorem State.mResult_bank : (s.mResult c e n res cs).bank e.bank = { s.bank e.bank with
    mDone := Nat.max (s.bank e.bank).mDone (s.mDue c n)
    inflight := (s.bank e.bank).inflight ++ if res = [] ∧ cs = {} then []
      else [{ due := s.mDue c n, res := res, causes := cs, seq := e.ticket, req := some e.ticket }] } := by
  simp only [State.mResult, State.bank_modBank_self, State.bank_modCog, List.isEmpty_iff]
  split <;> simp

theorem State.mResult_other {b : BankIx} (hb : b ≠ e.bank) : (s.mResult c e n res cs).bank b = s.bank b := by
  rw [State.mResult, State.bank_modBank_ne _ _ hb.symm, State.bank_modCog]

end

/-- What a turn that ends with a result leaves: the queue, the tiles, and the result behind those before it. -/
theorem State.Turned.ends {s v : State} {c : CogIx} {e : MEntry} {tiles : Vector Tile 4} (h : s.Turned v c e tiles)
    (n : Nat) (res : List Res) (cs : Causes) : let u := v.mResult c e n res cs
    ((u.cog c).mq = (s.cog c).mq.tail ∧ (u.cog c).mLast = s.clk) ∧ s.Tiles u e tiles ∧ s.Ends u c e n res cs := by
  intro u
  have hdue : v.mDue c n = Nat.max (s.clk + n) (s.cog c).mOrder := by rw [State.mDue, h.clk, h.order]
  have hbank : u.bank e.bank = _ := v.mResult_bank c e n res cs
  have hcog : u.cog c = _ := v.mResult_cog c e n res cs
  obtain ⟨hmem, hpsn⟩ := h.mem
  rw [h.bank, hdue] at hbank
  rw [hdue] at hcog
  refine ⟨by rw [hcog]; exact h.queue, ⟨by rw [hbank]; rfl, fun b hb => ?_, hmem, hpsn⟩, by rw [hcog], ?_, ?_⟩
  · rw [v.mResult_other c e n res cs hb, h.other b hb]
  · rw [hbank]
  · rw [hbank]

/-! ## The turn of each instruction -/

section
variable {s : State} {c : CogIx} {e : MEntry}

/-- What an entry leaves that ends with a result: an equation of its start, and its tiles. -/
theorem State.startEntry_ends {v : State} {tiles : Vector Tile 4} {n : Nat} {res : List Res} {cs : Causes}
    (hv : s.Turned v c e tiles) (h : s.startEntry c e = v.mResult c e n res cs) : let u := s.startEntry c e
    ((u.cog c).mq = (s.cog c).mq.tail ∧ (u.cog c).mLast = s.clk) ∧ s.Tiles u e tiles ∧ s.Ends u c e n res cs := by
  rw [h]; exact hv.ends n res cs

theorem State.tile_taken (t : TReg) : (s.taken c).tile e t = (s.bank e.bank).t[t] := rfl

/-- The factor of a row of TSCALE. -/
def MEntry.factor (e : MEntry) (by_ : TscaleSrc) (r : Nat) : Nat :=
  match by_ with
  | .v _ => lane 32 e.va r
  | .k _ => e.kv.toNat

theorem State.startEntry_tscale {t : TReg} {rm : RMode} {src : TscaleSrc} (h : e.instr = .tscale t rm src) {x : Tile}
    {cs : Causes} (hx : (s.bank e.bank).t[t].scale rm (e.factor src) = (x, cs)) :
    s.startEntry c e = ((s.taken c).setTile e t x).mResult c e 16 [] cs := by
  rw [← State.tile_taken (c := c)] at hx
  cases src with
  | v n =>
    have hfactor : e.factor (.v n) = fun r => lane 32 e.va r := rfl
    simp only [State.startEntry, h]
    rw [State.taken, hfactor] at hx
    rw [State.taken, hx]
  | k n =>
    have hfactor : e.factor (.k n) = fun _ => e.kv.toNat := rfl
    simp only [State.startEntry, h]
    rw [State.taken, hfactor] at hx
    rw [State.taken, hx]

theorem State.startEntry_tadd {t src : TReg} {rm : RMode} (h : e.instr = .tadd t src rm) {x : Tile} {cs : Causes}
    (hx : (s.bank e.bank).t[t].add (s.bank e.bank).t[src] rm = (x, cs)) :
    s.startEntry c e = ((s.taken c).setTile e t x).mResult c e 16 [] cs := by
  rw [← State.tile_taken (c := c), ← State.tile_taken (c := c)] at hx
  simp only [State.startEntry, h]
  rw [State.taken] at hx ⊢
  rw [hx]

theorem State.startEntry_tmov {t src : TReg} {tr : Bool} (h : e.instr = .tmov t src tr) :
    s.startEntry c e =
      ((s.taken c).setTile e t ((s.bank e.bank).t[t].move (s.bank e.bank).t[src] tr)).mResult c e 16 [] {} := by
  rw [← State.tile_taken (c := c), ← State.tile_taken (c := c)]
  simp only [State.startEntry, h, State.taken]

theorem State.startEntry_mwswap (h : e.instr = .mwswap) : s.startEntry c e = (s.taken c).mResult c e 4 [] {} := by
  simp only [State.startEntry, h, State.taken]

theorem State.startEntry_mchk {d : SReg} {form : MchkForm} (h : e.instr = .mchk d form) :
    s.startEntry c e = (s.taken c).mResult c e 4 (e.res ((s.taken c).mchkWord c e form)) {} := by
  simp only [State.startEntry, h, State.taken]

theorem State.startEntry_tzero {t : TReg} (h : e.instr = .tzero t none) :
    s.startEntry c e = ((s.taken c).setTile e t Tile.reset).mResult c e 16 [] {} := by
  simp only [State.startEntry, h, State.taken, State.runTzero]

theorem State.startEntry_tzero_row {t : TReg} {k : Fin 128} (h : e.instr = .tzero t (some k)) :
    s.startEntry c e = ((s.taken c).setTile e t { (s.bank e.bank).t[t].mapRows (fun r v => if r = k.val then 0 else v) with
      psn := (s.bank e.bank).t[t].psn &&& ~~~ rowBits k.val 1 }).mResult c e 4 [] {} := by
  rw [← State.tile_taken (c := c)]
  simp only [State.startEntry, h, State.taken, State.runTzero]

/-- The tile that TLD leaves. -/
def Tile.loaded (t : Tile) (e : MEntry) (row0 n : Nat) : Tile :=
  { t.mapRows fun r v => if row0 ≤ r && r < row0 + n then BitVec.ofNat 4096 (natOf (e.rowBytes 512 (r - row0))) else v with
    psn := (t.psn &&& ~~~ rowBits row0 n) ||| psnOf fun r => row0 ≤ r && r < row0 + n && e.rowBad 512 (r - row0) }

theorem State.startEntry_tld {t : TReg} {row0 : Fin 128} {a n : SReg} (h : e.instr = .tld t row0 a n) :
    s.startEntry c e =
      ((s.taken c).setTile e t ((s.bank e.bank).t[t].loaded e row0.val e.b.toNat)).mResult c e (e.b.toNat + 3) [] {} := by
  rw [← State.tile_taken (c := c)]
  simp only [State.startEntry, h, State.taken, State.runTld, Tile.loaded]

theorem State.startEntry_trd {d : VReg} {t : TReg} {dir : Dir} {k : Fin 128} (h : e.instr = .trd d t dir k) :
    s.startEntry c e = (s.taken c).mResult c e 4 (e.vres ((s.bank e.bank).t[t].line dir k.val)) {} := by
  rw [← State.tile_taken (c := c)]
  simp only [State.startEntry, h, State.taken]

theorem State.startEntry_twr {t : TReg} {dir : Dir} {k : Fin 128} {a : VReg} (h : e.instr = .twr t dir k a) :
    s.startEntry c e =
      ((s.taken c).setTile e t ((s.bank e.bank).t[t].setLine dir k.val e.va)).mResult c e 4 [] {} := by
  rw [← State.tile_taken (c := c)]
  simp only [State.startEntry, h, State.taken]

/-- The tile with one row replaced. -/
def Tile.withRow (t : Tile) (k : Nat) (v : Vec) : Tile := t.mapRows fun r x => if r = k then v else x

theorem State.setRow_eq (t : TReg) (k : Fin 128) (v : Vec) :
    (s.taken c).setRow e t k v = (s.taken c).setTile e t ((s.bank e.bank).t[t].withRow k.val v) := rfl

theorem State.startEntry_rsvInit {t : TReg} {k : Fin 128} {x y z : SReg} (h : e.instr = .rsvInit t k x y z) :
    s.startEntry c e =
      ((s.taken c).setTile e t ((s.bank e.bank).t[t].withRow k.val (rsvInit e.a e.b e.c))).mResult c e 8 [] {} := by
  rw [← State.setRow_eq]
  simp only [State.startEntry, h, State.taken]

theorem State.startEntry_rsvFeed {t : TReg} {k : Fin 128} {a : VReg} (h : e.instr = .rsvFeed t k a) {v : Vec} {cs : Causes}
    (hv : rsvFeed ((s.bank e.bank).t[t].row k.val) e.va none = (v, cs)) :
    s.startEntry c e = ((s.taken c).setTile e t ((s.bank e.bank).t[t].withRow k.val v)).mResult c e 12 [] cs := by
  rw [← State.tile_taken (c := c)] at hv
  rw [← State.setRow_eq]
  simp only [State.startEntry, h]
  rw [State.taken] at hv ⊢
  rw [hv]

theorem State.startEntry_rsvFeed2 {t : TReg} {k : Fin 128} {a b : VReg} (h : e.instr = .rsvFeed2 t k a b) {v : Vec}
    {cs : Causes} (hv : rsvFeed ((s.bank e.bank).t[t].row k.val) e.va (some e.vb) = (v, cs)) :
    s.startEntry c e = ((s.taken c).setTile e t ((s.bank e.bank).t[t].withRow k.val v)).mResult c e 12 [] cs := by
  rw [← State.tile_taken (c := c)] at hv
  rw [← State.setRow_eq]
  simp only [State.startEntry, h]
  rw [State.taken] at hv ⊢
  rw [hv]

theorem State.startEntry_rsvDraw {d : SReg} {t : TReg} {k : Fin 128} (h : e.instr = .rsvDraw d t k) {w : Word} {cs : Causes}
    (hw : rsvDraw ((s.bank e.bank).t[t].row k.val) ((s.bank e.bank).t[t].bad k.val) = (w, cs)) :
    s.startEntry c e = (s.taken c).mResult c e 8 (e.res w) cs := by
  rw [← State.tile_taken (c := c)] at hw
  simp only [State.startEntry, h]
  rw [State.taken] at hw ⊢
  rw [hw]

theorem State.startEntry_mwload {fmt : EType} {cvt w : Bool} {a b : SReg} (h : e.instr = .mwload fmt cvt w a b) :
    s.startEntry c e = (s.taken c).runLoad c e fmt cvt := by
  simp only [State.startEntry, h, State.taken]

theorem State.startEntry_mmul {t : TReg} {row0 : Fin 128} {g : GReg} {n : SReg} {fmt : EType} {w adv : Bool}
    {k : Option KReg} (h : e.instr = .mmul t row0 g n fmt w k adv) :
    s.startEntry c e = (s.taken c).runMmul c e t row0.val e.b.toNat fmt k := by
  simp only [State.startEntry, h, State.taken]

theorem State.startEntry_tst {t : TReg} {row0 : Fin 128} {a n : SReg} (h : e.instr = .tst t row0 a n) :
    s.startEntry c e =
      (s.taken c).runStore c e t row0.val e.b.toNat 512 fun v => (bytesOf 512 v.toNat, {}) := by
  simp only [State.startEntry, h, State.taken]

theorem State.startEntry_tcst {t : TReg} {row0 : Fin 128} {a n : SReg} {fmt : EType} {rm : RMode} {k : Option KReg}
    (h : e.instr = .tcst t row0 a n fmt rm k) : s.startEntry c e =
      (s.taken c).runStore c e t row0.val e.b.toNat (16 * fmt.width) fun v => tcstRow fmt rm v e.kv.toNat := by
  simp only [State.startEntry, h, State.taken]

end

end Sys2Proof.Machine
end

section
/-! O35: the tiles that each instruction leaves, and the end of the loads and of MMUL (R303 to R312, R331). -/

namespace Sys2Proof.Machine

/-! ## Tiles that are left -/

theorem Tile.reset_is : Tile.reset.Is (fun _ => 0) (fun _ => false) := by
  refine fun r hr => ⟨?_, BitVec.getLsbD_zero⟩
  have hrows : Tile.reset.rows.toList = List.replicate 128 0 := rfl
  rw [Tile.row, hrows, List.getD_eq_getElem _ _ (by rwa [List.length_replicate]), List.getElem_replicate]

theorem Tile.zeroRow_is (t : Tile) (k : Nat) :
    Tile.Is { t.mapRows (fun r v => if r = k then 0 else v) with psn := t.psn &&& ~~~ rowBits k 1 }
      (fun r => if r = k then 0 else t.row r) (fun r => r ≠ k && t.bad r) := by
  refine fun r hr => ⟨Tile.mapRows_row t _ hr, ?_⟩
  have hone : (decide (k ≤ r) && decide (r < k + 1)) = decide (r = k) := by
    rw [← Bool.decide_and]
    exact decide_eq_decide.2 (by omega)
  simp only [Tile.bad, BitVec.getLsbD_and, BitVec.getLsbD_not, getLsbD_rowBits _ _ hr, hone, hr, decide_true, Bool.true_and,
    Bool.and_comm, ne_eq, decide_not]

theorem Tile.loaded_is (t : Tile) (e : MEntry) (row0 n : Nat) :
    let mine (r : Nat) : Prop := row0 ≤ r ∧ r < row0 + n
    (t.loaded e row0 n).Is
      (fun r => if mine r then BitVec.ofNat 4096 (natOf (e.rowBytes 512 (r - row0))) else t.row r)
      (fun r => if mine r then e.rowBad 512 (r - row0) else t.bad r) := by
  intro mine r hr
  refine ⟨?_, ?_⟩
  · have hrow : (t.loaded e row0 n).row r = (if row0 ≤ r && r < row0 + n then
        BitVec.ofNat 4096 (natOf (e.rowBytes 512 (r - row0))) else t.row r) := Tile.mapRows_row t _ hr
    rw [hrow]
    simp [mine]
  · have hmine : decide (mine r) = (decide (row0 ≤ r) && decide (r < row0 + n)) := Bool.decide_and ..
    have hbad : (t.loaded e row0 n).bad r = ((t.bad r && !decide (mine r)) || (decide (mine r) && e.rowBad 512 (r - row0))) := by
      simp only [Tile.bad, Tile.loaded, BitVec.getLsbD_or, BitVec.getLsbD_and, BitVec.getLsbD_not, getLsbD_rowBits _ _ hr,
        getLsbD_psnOf _ hr, hr, decide_true, Bool.true_and, hmine]
    rw [hbad]
    by_cases hm : mine r <;> simp [hm]

theorem Tile.withRow_is (t : Tile) (k : Nat) (v : Vec) :
    (t.withRow k v).Is (fun r => if r = k then v else t.row r) t.bad :=
  fun _ hr => ⟨Tile.mapRows_row t _ hr, rfl⟩

/-! ## Loads (R297, R303) -/

/-- Changing one physical buffer leaves the other. -/
theorem Cog.buffer_setBuffer (x : Cog) (w v : Bool) (f : WBuf → WBuf) :
    (x.setBuffer w f).buffer v = if v = w then f (x.buffer w) else x.buffer v := by
  cases w <;> cases v <;> simp [Cog.buffer, Cog.setBuffer]

@[simp] theorem State.cog_schedule (s : State) (due : Nat) (ev : Instr) (c : CogIx) : (s.schedule due ev).cog c = s.cog c := rfl

/-- MWLOAD in its turn leaves every bank and byte, and its buffer LOADING until the engine is done. -/
theorem State.runLoad_effect {s v : State} {c : CogIx} {e : MEntry} (h : s.Turned v c e (s.bank e.bank).t)
    (hcog : v.cog c = { s.cog c with mq := (s.cog c).mq.tail, mLast := s.clk }) (fmt : EType) (cvt : Bool) :
    let u := v.runLoad c e fmt cvt
    ((u.cog c).mq = (s.cog c).mq.tail ∧ (u.cog c).mLast = s.clk) ∧ ∃ due, s.Tiles u e (s.bank e.bank).t ∧
      due = Nat.max (s.clk + loadCycles fmt cvt ((e.segs.map fun g => physStk g.addr).headD true)) (s.cog c).mOrder ∧
      (u.cog c).mLoads = (s.cog c).mLoads ++ [(e, due)] ∧ (u.cog c).loadFree = due ∧
      (due, .mwloadDone c e.buf) ∈ u.agenda ∧
      (u.cog c).buffer e.buf =
        { (s.cog c).buffer e.buf with state := .loading, own := decide (e.bank.num = 1), fmt := fmt } ∧
      (u.cog c).buffer (!e.buf) = (s.cog c).buffer (!e.buf) := by
  intro u
  have hdue : Nat.max (v.clk + loadCycles fmt cvt ((e.segs.map fun g => physStk g.addr).headD true)) (v.cog c).mOrder =
      Nat.max (s.clk + loadCycles fmt cvt ((e.segs.map fun g => physStk g.addr).headD true)) (s.cog c).mOrder := by
    rw [h.clk, h.order]
  have hu : u.cog c = _ := (State.cog_schedule ..).trans (State.cog_modCog_self v c _)
  have hagenda : u.agenda = v.agenda ++ [(_, .mwloadDone c e.buf)] := rfl
  rw [hdue] at hu hagenda
  rw [hcog] at hu
  refine ⟨by rw [hu]; exact ⟨rfl, rfl⟩, _, h.tiles_of, rfl, by rw [hu]; rfl, by rw [hu]; rfl, by rw [hagenda]; simp,
    ?_, ?_⟩
  · rw [hu, Cog.buffer_setBuffer, if_pos rfl]
    rfl
  · rw [hu, Cog.buffer_setBuffer, if_neg (by cases e.buf <;> decide)]
    rfl

end Sys2Proof.Machine
end

section
/-! O35: MMUL in its turn: its rows, its causes in queue order, its machine check (R303, R304, R331). -/

namespace Sys2Proof.Machine

/-! ## The rows of an MMUL (R301, R303) -/

/-- What the array makes of tile row r: its new contents, its causes, its mismatching groups. -/
def mmulAt (w : WBuf) (tl : Tile) (fmt : EType) (k : Option KReg) (e : MEntry) (row0 r : Nat) : Vec × Causes × Nat :=
  let bs := e.rowBytes (actBytes fmt k.isSome) (r - row0)
  mmulRow w fmt (elemsOf fmt.width 128 bs) (actScale fmt k e.kv bs) (tl.row r)

section
variable (w : WBuf) (tl : Tile) (fmt : EType) (k : Option KReg) (e : MEntry) (row0 n : Nat)

theorem mmulRows_eq : mmulRows w tl fmt k e row0 n =
    (List.range n).map fun j => (row0 + j, mmulAt w tl fmt k e row0 (row0 + j)) := by
  simp only [mmulRows, mmulAt, Nat.add_sub_cancel_left]

end

/-- Of numbered rows the one of a number is found exactly where it is among them. -/
theorem find?_numbered {α : Type} (g : Nat → α) (row0 n r : Nat) :
    ((List.range n).map fun j => (row0 + j, g (row0 + j))).find? (fun x => x.1 = r) =
      if row0 ≤ r ∧ r < row0 + n then some (r, g r) else none := by
  induction n with
  | zero => simp
  | succ n ih =>
    rw [List.range_succ, List.map_append, List.find?_append, ih]
    by_cases hlt : row0 ≤ r ∧ r < row0 + n
    · rw [if_pos hlt, if_pos (by omega)]; rfl
    · rw [if_neg hlt]
      by_cases hr : row0 + n = r
      · subst hr; simp
      · rw [if_neg (by omega)]; simp [hr]

theorem any_numbered {α : Type} (g : Nat → α) (p : α → Bool) (row0 n r : Nat) :
    ((List.range n).map fun j => (row0 + j, g (row0 + j))).any (fun x => x.1 = r && p x.2) =
      (decide (row0 ≤ r ∧ r < row0 + n) && p (g r)) := by
  rw [Bool.eq_iff_iff]
  simp only [List.any_map, List.any_eq_true, List.mem_range, Function.comp_apply, Bool.and_eq_true, decide_eq_true_eq]
  constructor
  · rintro ⟨j, hj, rfl, hp⟩
    exact ⟨by omega, hp⟩
  · rintro ⟨hr, hp⟩
    obtain ⟨j, rfl⟩ := Nat.exists_eq_add_of_le hr.1
    exact ⟨j, by omega, rfl, hp⟩

/-- The tile that an MMUL leaves. -/
def Tile.promoted (tl : Tile) (w : WBuf) (fmt : EType) (k : Option KReg) (e : MEntry) (row0 n : Nat) : Tile :=
  let rs := mmulRows w tl fmt k e row0 n
  { tl.mapRows (fun r v => ((rs.find? fun x => x.1 = r).map fun x => x.2.1).getD v) with
    psn := tl.psn ||| psnOf fun r => rs.any fun x => x.1 = r &&
      (0 < x.2.2.2 || w.psn || e.rowBad (actBytes fmt k.isSome) (r - row0)) }

/-- Each row named is promoted, and poisoned where it mismatches or its operands are poisoned. -/
theorem Tile.promoted_is (tl : Tile) (w : WBuf) (fmt : EType) (k : Option KReg) (e : MEntry) (row0 n : Nat) :
    let mine (r : Nat) : Prop := row0 ≤ r ∧ r < row0 + n
    (tl.promoted w fmt k e row0 n).Is (fun r => if mine r then (mmulAt w tl fmt k e row0 r).1 else tl.row r)
      (fun r => tl.bad r || (decide (mine r) && (0 < (mmulAt w tl fmt k e row0 r).2.2 || w.psn ||
        e.rowBad (actBytes fmt k.isSome) (r - row0)))) := by
  intro mine r hr
  refine ⟨?_, ?_⟩
  · have hrow : (tl.promoted w fmt k e row0 n).row r =
        (((mmulRows w tl fmt k e row0 n).find? fun x => x.1 = r).map fun x => x.2.1).getD (tl.row r) := Tile.mapRows_row tl _ hr
    rw [hrow, mmulRows_eq, find?_numbered (mmulAt w tl fmt k e row0)]
    split
    · next h => exact (if_pos h).symm
    · next h => exact (if_neg h).symm
  · have hbad : (tl.promoted w fmt k e row0 n).bad r = (tl.bad r || (mmulRows w tl fmt k e row0 n).any fun x => x.1 = r &&
        (0 < x.2.2.2 || w.psn || e.rowBad (actBytes fmt k.isSome) (r - row0))) := by
      rw [← getLsbD_psnOf (fun r => (mmulRows w tl fmt k e row0 n).any fun x => x.1 = r &&
        (0 < x.2.2.2 || w.psn || e.rowBad (actBytes fmt k.isSome) (r - row0))) hr]
      exact BitVec.getLsbD_or
    rw [hbad, mmulRows_eq, any_numbered (mmulAt w tl fmt k e row0)
      fun x => 0 < x.2.2 || w.psn || e.rowBad (actBytes fmt k.isSome) (r - row0)]

/-! ## What changes beside the cores -/

/-- From s to t no more than banks and cogs have changed. -/
def State.OnlyCores (s t : State) : Prop := ∃ bs cs, t = { s with banks := bs, cogs := cs }

namespace State.OnlyCores
variable {s t u : State}

theorem refl (s : State) : s.OnlyCores s := ⟨s.banks, s.cogs, rfl⟩
theorem trans (h : s.OnlyCores t) (h' : t.OnlyCores u) : s.OnlyCores u := by
  obtain ⟨bs, cs, rfl⟩ := h
  obtain ⟨bs', cs', rfl⟩ := h'
  exact ⟨bs', cs', rfl⟩
theorem modBank (h : s.OnlyCores t) (b : BankIx) (f : Bank → Bank) : s.OnlyCores (t.modBank b f) := h.trans ⟨_, t.cogs, rfl⟩
theorem modCog (h : s.OnlyCores t) (c : CogIx) (f : Cog → Cog) : s.OnlyCores (t.modCog c f) := h.trans ⟨t.banks, _, rfl⟩
end State.OnlyCores

/-- The fault queue sees neither the banks nor the cogs. -/
theorem State.fqDrain_withCores (s : State) (bs : Vector Bank 640) (cs : Vector Cog 320) (l : List (List Byte)) :
    ({ s with banks := bs, cogs := cs } : State).fqDrain l = { s.fqDrain l with banks := bs, cogs := cs } := by
  induction l generalizing s with
  | nil => rfl
  | cons e es ih =>
    simp only [State.fqDrain]
    split
    · exact ih (s.fqWrite e)
    · rfl

theorem State.record_withCores (s : State) (bs : Vector Bank 640) (cs : Vector Cog 320) (type : Nat) (rec : List Byte) :
    ({ s with banks := bs, cogs := cs } : State).record type rec = { s.record type rec with banks := bs, cogs := cs } := by
  rw [State.record_eq, State.record_eq, State.fqDrain_withCores]
  unfold State.fqTrim
  split <;> rfl

/-! ## The turn of an MMUL (R290, R303) -/

/-- The causes of an MMUL's rows join the results in flight of its bank, row by row. -/
def State.flyCauses (s : State) (e : MEntry) (due : Nat → Nat) (rs : List (Nat × Vec × Causes × Nat)) : State :=
  rs.foldl (fun s x => s.modBank e.bank fun b =>
    if x.2.2.1 = {} then b
    else { b with inflight := b.inflight ++ [{ due := due x.1, res := [], causes := x.2.2.1, seq := e.ticket }] }) s

theorem State.flyCauses_effect (e : MEntry) (due : Nat → Nat) (rs : List (Nat × Vec × Causes × Nat)) (s : State) :
    s.OnlyCores (s.flyCauses e due rs) ∧ (∀ c, (s.flyCauses e due rs).cog c = s.cog c) ∧
    (∀ b, b ≠ e.bank → (s.flyCauses e due rs).bank b = s.bank b) ∧
    (s.flyCauses e due rs).bank e.bank = { s.bank e.bank with inflight := (s.bank e.bank).inflight ++
      ((rs.filter fun x => x.2.2.1 ≠ {}).map fun x => { due := due x.1, res := [], causes := x.2.2.1, seq := e.ticket }) } := by
  induction rs generalizing s with
  | nil => exact ⟨.refl s, fun _ => rfl, fun _ _ => rfl, by simp [State.flyCauses]⟩
  | cons x rs ih =>
    obtain ⟨hcores, hcog, hother, hbank⟩ := ih (s.modBank e.bank fun b =>
      if x.2.2.1 = {} then b
      else { b with inflight := b.inflight ++ [{ due := due x.1, res := [], causes := x.2.2.1, seq := e.ticket }] })
    refine ⟨((State.OnlyCores.refl s).modBank _ _).trans hcores, hcog, fun b hb => ?_, ?_⟩
    · exact (hother b hb).trans (State.bank_modBank_ne _ _ hb.symm)
    · refine hbank.trans ?_
      rw [State.bank_modBank_self]
      by_cases hx : x.2.2.1 = {} <;> simp [hx]

/-- The tile promoted, the array and the buffer taken until the rows have streamed. -/
def State.streamed (s : State) (c : CogIx) (e : MEntry) (t : TReg) (row0 n : Nat) (fmt : EType) (k : Option KReg) : State :=
  let endS := s.clk + n * rowCycles fmt
  (s.setTile e t ((s.tile e t).promoted ((s.cog c).buffer e.buf) fmt k e row0 n)).modCog c fun x =>
    ({ x with arrayFree := endS } : Cog).setBuffer e.buf fun q => { q with streamEnd := Nat.max q.streamEnd endS }

/-- MMUL in its turn, but for a machine check. -/
def State.promotes (s : State) (c : CogIx) (e : MEntry) (t : TReg) (row0 n : Nat) (fmt : EType) (k : Option KReg) : State :=
  let v := s.streamed c e t row0 n fmt k
  let due (r : Nat) : Nat := Nat.max (s.clk + (r - row0) * rowCycles fmt + 14) (v.cog c).mOrder
  (v.flyCauses e due (mmulRows ((s.cog c).buffer e.buf) (s.tile e t) fmt k e row0 n)).mResult c e
    ((n - 1) * rowCycles fmt + (if n = 0 then 1 else 14)) [] {}

/-- The rows of an MMUL that mismatch. -/
def missOf (rs : List (Nat × Vec × Causes × Nat)) : List Nat := (rs.filter fun x => 0 < x.2.2.2).map fun x => x.1

theorem State.runMmul_eq (s : State) (c : CogIx) (e : MEntry) (t : TReg) (row0 n : Nat) (fmt : EType) (k : Option KReg) :
    s.runMmul c e t row0 n fmt k =
      let miss := missOf (mmulRows ((s.cog c).buffer e.buf) (s.tile e t) fmt k e row0 n)
      if miss.isEmpty then s.promotes c e t row0 n fmt k
      else (s.promotes c e t row0 n fmt k).machineCheck c e t miss := rfl

theorem State.mResult_onlyCores (s : State) (c : CogIx) (e : MEntry) (n : Nat) (res : List Res) (cs : Causes) :
    s.OnlyCores (s.mResult c e n res cs) := by
  rw [State.mResult]
  exact ((State.OnlyCores.refl s).modCog _ _).modBank _ _

section
variable {s v : State} {c : CogIx} {e : MEntry} (h : s.Turned v c e (s.bank e.bank).t)
  (hbuf : ∀ w, (v.cog c).buffer w = (s.cog c).buffer w) (hchecks : (v.cog c).mchecks = (s.cog c).mchecks) (t : TReg)
  (row0 n : Nat) (fmt : EType) (k : Option KReg)

/-- What the streaming of the rows leaves of its bank and its cog. -/
theorem State.streamed_effect (v : State) (c : CogIx) (e : MEntry) : let u := v.streamed c e t row0 n fmt k
    v.OnlyCores u ∧ (∀ x, x ≠ e.bank → u.bank x = v.bank x) ∧
    u.bank e.bank = { v.bank e.bank with
      t := (v.bank e.bank).t.set t ((v.tile e t).promoted ((v.cog c).buffer e.buf) fmt k e row0 n) } ∧
    ((u.cog c).mq = (v.cog c).mq ∧ (u.cog c).mLast = (v.cog c).mLast) ∧ (u.cog c).arrayFree = v.clk + n * rowCycles fmt ∧
    (u.cog c).mOrder = (v.cog c).mOrder ∧ (u.cog c).mchecks = (v.cog c).mchecks := by
  simp only [State.streamed, State.setTile, State.cog_modCog_self, State.bank_modCog]
  exact ⟨((State.OnlyCores.refl v).modBank _ _).modCog _ _, fun x hx => State.bank_modBank_ne _ _ hx.symm,
    State.bank_modBank_self .., ⟨rfl, rfl⟩, rfl, rfl, rfl⟩

include h hbuf hchecks

/-- What MMUL leaves of its bank, its cog and the rest. -/
theorem State.promotes_effect : let u := v.promotes c e t row0 n fmt k
    let b := s.bank e.bank
    let w := (s.cog c).buffer e.buf
    let f := mmulAt w b.t[t] fmt k e row0
    let last := Nat.max (s.clk + ((n - 1) * rowCycles fmt + if n = 0 then 1 else 14)) (s.cog c).mOrder
    let due (j : Nat) : Nat := Nat.max (s.clk + j * rowCycles fmt + 14) (s.cog c).mOrder
    v.OnlyCores u ∧ (∀ x, x ≠ e.bank → u.bank x = s.bank x) ∧
    u.bank e.bank = { b with
      t := b.t.set t (b.t[t].promoted w fmt k e row0 n)
      mDone := Nat.max b.mDone last
      inflight := b.inflight ++ (((List.range n).filter fun j => (f (row0 + j)).2.1 ≠ {}).map fun j =>
        { due := due j, res := [], causes := (f (row0 + j)).2.1, seq := e.ticket }) } ∧
    ((u.cog c).mq = (s.cog c).mq.tail ∧ (u.cog c).mLast = s.clk) ∧ (u.cog c).arrayFree = s.clk + n * rowCycles fmt ∧
    (u.cog c).mOrder = last ∧ (u.cog c).mchecks = (s.cog c).mchecks := by
  intro u b w f last due
  have htile : v.tile e t = b.t[t] := by rw [State.tile, h.bank]
  obtain ⟨hcores, hother, hbank, hqueue, hfree, horder, hmchecks⟩ := State.streamed_effect t row0 n fmt k v c e
  rw [htile, hbuf, h.bank] at hbank
  rw [h.clk] at hfree
  rw [h.order] at horder
  rw [hchecks] at hmchecks
  have hclk : (v.streamed c e t row0 n fmt k).clk = s.clk := h.clk
  have hu : u = (State.flyCauses (v.streamed c e t row0 n fmt k) e
      (fun r => Nat.max (s.clk + (r - row0) * rowCycles fmt + 14) (s.cog c).mOrder) (mmulRows w b.t[t] fmt k e
        row0 n)).mResult c e
      ((n - 1) * rowCycles fmt + (if n = 0 then 1 else 14)) [] {} := by
    have hw : (v.cog c).buffer e.buf = w := hbuf _
    rw [← h.clk, ← horder, ← htile, ← hw]; rfl
  generalize v.streamed c e t row0 n fmt k = x at *
  obtain ⟨hcores', hcog', hother', hbank'⟩ := State.flyCauses_effect e
    (fun r => Nat.max (s.clk + (r - row0) * rowCycles fmt + 14) (s.cog c).mOrder) (mmulRows w b.t[t] fmt k e row0 n) x
  generalize State.flyCauses x e _ (mmulRows w b.t[t] fmt k e row0 n) = y at *
  rw [hbank] at hbank'
  have hdue : y.mDue c ((n - 1) * rowCycles fmt + (if n = 0 then 1 else 14)) = last := by
    obtain ⟨_, _, rfl⟩ := hcores'
    rw [State.mDue, hcog' c, horder]
    exact congrArg (fun m => Nat.max (m + _) _) hclk
  have hfly : (((mmulRows w b.t[t] fmt k e row0 n).filter fun x => x.2.2.1 ≠ {}).map fun x =>
        ({ due := Nat.max (s.clk + (x.1 - row0) * rowCycles fmt + 14) (s.cog c).mOrder, res := [], causes := x.2.2.1,
           seq := e.ticket } : Pending)) =
      ((List.range n).filter fun j => (f (row0 + j)).2.1 ≠ {}).map fun j =>
        { due := due j, res := [], causes := (f (row0 + j)).2.1, seq := e.ticket } := by
    rw [mmulRows_eq, List.filter_map, List.map_map]
    simp only [Function.comp_def, Nat.add_sub_cancel_left]
    rfl
  have hcog : u.cog c = _ := hu ▸ y.mResult_cog c e _ [] {}
  rw [hdue, hcog'] at hcog
  refine ⟨?_, fun b hb => ?_, ?_, ?_, ?_, ?_, ?_⟩
  · rw [hu]; exact (hcores.trans hcores').trans (State.mResult_onlyCores ..)
  · rw [hu, State.mResult_other _ _ _ _ _ _ hb, hother' b hb, hother b hb, h.other b hb]
  · rw [hu, State.mResult_bank, hdue, hbank', hfly, if_pos ⟨rfl, rfl⟩, List.append_nil]
  · rw [hcog]
    exact ⟨hqueue.1.trans h.queue.1, hqueue.2.trans h.queue.2⟩
  · rw [hcog]; exact hfree
  · rw [hcog]
  · rw [hcog]; exact hmchecks

end

/-! ## A machine check (R331) -/

/-- The record of a machine check of an MMUL. -/
def State.checkRecord (s : State) (e : MEntry) (t : TReg) (rows : List Nat) : State :=
  s.record 3 (bytesOf 8 s.time.toNat ++ bytesOf 8 (s.bankId e.bank).toNat ++
    bytesOf 8 (rows.length * 2 ^ 24 + (rows.headD 0) * 2 ^ 8 + t.val * 2 ^ 6 + 1) ++ bytesOf 8 e.epc.toNat)

theorem State.checkRecord_cons (s : State) (e : MEntry) (t : TReg) {rows : List Nat} {r : Nat} {rs : List Nat}
    (h : rows = r :: rs) : s.checkRecord e t rows =
      s.record 3 (bytesOf 8 s.time.toNat ++ bytesOf 8 (s.bankId e.bank).toNat ++
        bytesOf 8 (rows.length * 2 ^ 24 + r * 2 ^ 8 + t.val * 2 ^ 6 + 1) ++ bytesOf 8 e.epc.toNat) := by
  rw [h]; rfl

/-- The wait for a boundary and the count of a machine check, once it is recorded. -/
def State.countCheck (s : State) (c : CogIx) (e : MEntry) : State :=
  let x := s.bank e.bank
  let s := if x.live && x.iter = e.iter then
      s.modBank e.bank fun b => { b with pend := { b.pend with mcheck := b.pend.mcheck ++ [e.epc] } }
    else s
  let times := ((s.cog c).mchecks.filter fun n => s.clk < n + 2 ^ 32) ++ [s.clk]
  let s := s.modCog c fun y => { y with mchecks := times }
  if 4 ≤ times.length then s.schedule s.clk (.cogFailure c) else s

theorem State.machineCheck_eq (s : State) (c : CogIx) (e : MEntry) (t : TReg) (rows : List Nat) :
    s.machineCheck c e t rows = (s.checkRecord e t rows).countCheck c e := rfl

/-- The bank after a machine check: it waits for the boundary of its iteration. -/
def Bank.checked (b : Bank) (e : MEntry) : Bank :=
  { b with pend := { b.pend with mcheck := b.pend.mcheck ++ if b.live && b.iter = e.iter then [e.epc] else [] } }

/-- The check waits for the boundary of its iteration, and it counts toward the cog's failure. -/
theorem State.countCheck_effect (s : State) (c : CogIx) (e : MEntry) :
    let m := s.countCheck c e
    let times := ((s.cog c).mchecks.filter fun y => s.clk < y + 2 ^ 32) ++ [s.clk]
    (m.hub = s.hub ∧ m.outbox = s.outbox) ∧ m.cog c = { s.cog c with mchecks := times } ∧
    (4 ≤ times.length → (s.clk, .cogFailure c) ∈ m.agenda) ∧ (∀ b, b ≠ e.bank → m.bank b = s.bank b) ∧
    m.bank e.bank = (s.bank e.bank).checked e ∧
    m.mem = s.mem ∧ m.poison = s.poison := by
  intro m times
  obtain ⟨z, hz⟩ : ∃ z : State, z = if (s.bank e.bank).live && (s.bank e.bank).iter = e.iter then
      s.modBank e.bank fun b => { b with pend := { b.pend with mcheck := b.pend.mcheck ++ [e.epc] } } else s := ⟨_, rfl⟩
  have hcog : z.cog c = s.cog c := by rw [hz]; split <;> rfl
  have hclk : z.clk = s.clk := by rw [hz]; split <;> rfl
  have hrest : (z.hub = s.hub ∧ z.outbox = s.outbox) ∧ z.mem = s.mem ∧ z.poison = s.poison := by
    rw [hz]; split <;> exact ⟨⟨rfl, rfl⟩, rfl, rfl⟩
  have hother (b : BankIx) (hb : b ≠ e.bank) : z.bank b = s.bank b := by
    rw [hz]; split
    · exact State.bank_modBank_ne _ _ hb.symm
    · rfl
  have hbank : z.bank e.bank = (s.bank e.bank).checked e := by
    rw [hz, Bank.checked]; split
    · exact State.bank_modBank_self ..
    · exact congrArg (fun l => { s.bank e.bank with pend := { (s.bank e.bank).pend with mcheck := l } })
        (List.append_nil _).symm
  have hm : m = if 4 ≤ times.length then (z.modCog c fun x => { x with mchecks := times }).schedule s.clk (.cogFailure c)
      else z.modCog c fun x => { x with mchecks := times } := by
    unfold m times
    rw [← hcog, ← hclk, hz]; rfl
  have hself : (z.modCog c fun x => { x with mchecks := times }).cog c = { s.cog c with mchecks := times } := by
    rw [State.cog_modCog_self, hcog]
  obtain ⟨hshow, hmem⟩ := hrest
  rw [hm]
  split
  · exact ⟨hshow, hself, fun _ => by simp [State.schedule], hother, hbank, hmem⟩
  · next hlt => exact ⟨hshow, hself, fun h => absurd h hlt, hother, hbank, hmem⟩

/-- The record shows, and nothing else has changed but what the wait and the count leave. -/
theorem State.machineCheck_effect {s u : State} (h : s.OnlyCores u) (c : CogIx) (e : MEntry) (t : TReg) (rows : List Nat) :
    let m := u.machineCheck c e t rows
    let v := s.checkRecord e t rows
    let times := ((u.cog c).mchecks.filter fun y => s.clk < y + 2 ^ 32) ++ [s.clk]
    (m.hub = v.hub ∧ m.outbox = v.outbox) ∧ m.cog c = { u.cog c with mchecks := times } ∧
    (4 ≤ times.length → (s.clk, .cogFailure c) ∈ m.agenda) ∧ (∀ b, b ≠ e.bank → m.bank b = u.bank b) ∧
    m.bank e.bank = (u.bank e.bank).checked e ∧
    m.mem = s.mem ∧ m.poison = s.poison := by
  obtain ⟨bs, cs, rfl⟩ := h
  intro m v times
  obtain ⟨id, out, hub, hv⟩ : ∃ id out hub, v = { s with nextId := id, outbox := out, hub := hub } := s.record_frame ..
  have hrec : ({ s with banks := bs, cogs := cs } : State).checkRecord e t rows =
      { s with nextId := id, outbox := out, hub := hub, banks := bs, cogs := cs } :=
    (s.record_withCores ..).trans (congrArg (fun x : State => { x with banks := bs, cogs := cs }) hv)
  have hm : m = _ := (State.machineCheck_eq ..).trans (congrArg (fun x : State => x.countCheck c e) hrec)
  rw [hm, hv]
  exact State.countCheck_effect ..

/-! ## MMUL (R303, R304, R331) -/

theorem missOf_mmulRows (w : WBuf) (tl : Tile) (fmt : EType) (k : Option KReg) (e : MEntry) (row0 n : Nat) :
    missOf (mmulRows w tl fmt k e row0 n) =
      ((List.range n).map (row0 + ·)).filter fun r => 0 < (mmulAt w tl fmt k e row0 r).2.2 := by
  rw [missOf, mmulRows_eq, List.filter_map, List.map_map, List.filter_map]
  rfl

/-- MMUL promotes its rows, its causes in flight row by row, and checks the rows that mismatch. -/
theorem State.runMmul_effect {s v : State} {c : CogIx} {e : MEntry} (h : s.Turned v c e (s.bank e.bank).t)
    (hcog : v.cog c = { s.cog c with mq := (s.cog c).mq.tail, mLast := s.clk }) (hv : s.OnlyCores v) (t : TReg)
    (row0 n : Nat) (fmt : EType) (k : Option KReg) :
    let u := v.runMmul c e t row0 n fmt k
    let b := s.bank e.bank
    let w := (s.cog c).buffer e.buf
    let f := mmulAt w b.t[t] fmt k e row0
    let miss := ((List.range n).map (row0 + ·)).filter fun r => 0 < (f r).2.2
    let due (j : Nat) : Nat := Nat.max (s.clk + j * rowCycles fmt + 14) (s.cog c).mOrder
    ((u.cog c).mq = (s.cog c).mq.tail ∧ (u.cog c).mLast = s.clk) ∧
    s.Tiles u e (b.t.set t (b.t[t].promoted w fmt k e row0 n)) ∧ (u.cog c).arrayFree = s.clk + n * rowCycles fmt ∧
    (u.cog c).mOrder = Nat.max (s.clk + ((n - 1) * rowCycles fmt + if n = 0 then 1 else 14)) (s.cog c).mOrder ∧
    (u.bank e.bank).inflight = b.inflight ++ (((List.range n).filter fun j => (f (row0 + j)).2.1 ≠ {}).map fun j =>
      { due := due j, res := [], causes := (f (row0 + j)).2.1, seq := e.ticket }) ∧
    (miss = [] → u.hub = s.hub ∧ u.outbox = s.outbox ∧ (u.cog c).mchecks = (s.cog c).mchecks ∧
      (u.bank e.bank).pend = b.pend) ∧
    (∀ r rs, miss = r :: rs →
      let times := ((s.cog c).mchecks.filter fun y => s.clk < y + 2 ^ 32) ++ [s.clk]
      u.hub = (s.checkRecord e t miss).hub ∧ u.outbox = (s.checkRecord e t miss).outbox ∧ (u.cog c).mchecks = times ∧
      (4 ≤ times.length → (s.clk, .cogFailure c) ∈ u.agenda) ∧
      (u.bank e.bank).pend.mcheck = b.pend.mcheck ++ if b.live && b.iter = e.iter then [e.epc] else []) := by
  intro u b w f miss due
  have hbuf (x : Bool) : (v.cog c).buffer x = (s.cog c).buffer x := by rw [hcog]; rfl
  have htile : v.tile e t = b.t[t] := by rw [State.tile, h.bank]
  have hu : u = if miss.isEmpty then v.promotes c e t row0 n fmt k
      else (v.promotes c e t row0 n fmt k).machineCheck c e t miss := by
    have hmiss : miss = missOf (mmulRows ((v.cog c).buffer e.buf) (v.tile e t) fmt k e row0 n) := by
      rw [missOf_mmulRows, hbuf, htile]
    rw [hmiss]
    exact State.runMmul_eq ..
  obtain ⟨hcores, hother, hbank, hqueue, hfree, horder, hchecks⟩ := State.promotes_effect h hbuf (by rw [hcog]) t row0 n fmt k
  generalize v.promotes c e t row0 n fmt k = p at *
  have hp := hv.trans hcores
  cases hms : miss with
  | nil =>
    rw [hms, if_pos List.isEmpty_nil] at hu
    obtain ⟨bs, cs, hps⟩ := hp
    refine ⟨by rwa [hu], ⟨by rw [hu, hbank]; rfl, by rwa [hu], by rw [hu, hps]; exact ⟨rfl, rfl⟩⟩, by rwa [hu],
      by rwa [hu],
      by rw [hu, hbank], fun _ => ⟨by rw [hu, hps], by rw [hu, hps], by rwa [hu], by rw [hu, hbank]⟩, nofun⟩
  | cons r rs =>
    rw [hms, if_neg (by simp)] at hu
    obtain ⟨⟨hhub, hout⟩, hmcog, hagenda, hmother, hmbank, hmmem, hmpsn⟩ := State.machineCheck_effect hp c e t (r :: rs)
    rw [hchecks, ← hu] at hmcog
    rw [hchecks, ← hu] at hagenda
    rw [hbank, ← hu] at hmbank
    rw [← hu] at hhub hout hmother hmmem hmpsn
    exact ⟨by rwa [hmcog], ⟨by rw [hmbank]; rfl, fun y hy => by rw [hmother y hy, hother y hy], hmmem, hmpsn⟩,
      by rwa [hmcog], by rwa [hmcog], by rw [hmbank]; rfl, nofun,
      fun _ _ _ => ⟨hhub, hout, by rw [hmcog], hagenda, by rw [hmbank]; rfl⟩⟩

end Sys2Proof.Machine
end

section
/-! O35: tile stores: what a write to this package's memory keeps, and TST and TCST in their turn (R304, R306, R307). -/

namespace Sys2Proof.Machine

/-! ## What a write to memory keeps (R104, R112) -/

/-- From s to t no more than memory, poison and registers of the package outside its banks and queues have changed. -/
structure State.Written (s t : State) : Prop where
  clk      : t.clk = s.clk
  bank     : ∀ b, t.bank b = s.bank b
  accesses : t.accesses = s.accesses
  queue    : ∀ c, (t.cog c).mq = (s.cog c).mq ∧ (t.cog c).mLast = (s.cog c).mLast ∧ (t.cog c).mOrder = (s.cog c).mOrder

namespace State.Written
variable {s t u : State}

theorem refl (s : State) : s.Written s := ⟨rfl, fun _ => rfl, rfl, fun _ => ⟨rfl, rfl, rfl⟩⟩

theorem trans (h : s.Written t) (h' : t.Written u) : s.Written u where
  clk      := h'.clk.trans h.clk
  bank     := fun b => (h'.bank b).trans (h.bank b)
  accesses := h'.accesses.trans h.accesses
  queue    := fun c => by
    obtain ⟨hq, hl, ho⟩ := h.queue c
    obtain ⟨hq', hl', ho'⟩ := h'.queue c
    exact ⟨hq'.trans hq, hl'.trans hl, ho'.trans ho⟩

theorem modCog (s : State) (c : CogIx) (f : Cog → Cog)
    (hf : ∀ x, (f x).mq = x.mq ∧ (f x).mLast = x.mLast ∧ (f x).mOrder = x.mOrder) : s.Written (s.modCog c f) where
  clk      := rfl
  bank     := fun _ => rfl
  accesses := rfl
  queue    := fun d => by
    rw [State.cog_modCog]
    split
    · next h => rw [h]; exact hf _
    · exact ⟨rfl, rfl, rfl⟩

theorem of_cores (hbanks : t.banks = s.banks) (hcogs : t.cogs = s.cogs) (hclk : t.clk = s.clk)
    (hacc : t.accesses = s.accesses) : s.Written t where
  clk      := hclk
  bank     := fun b => by rw [State.bank, hbanks]; rfl
  accesses := hacc
  queue    := fun c => by rw [State.cog, hcogs]; exact ⟨rfl, rfl, rfl⟩

theorem schedule (s : State) (due : Nat) (ev : Instr) : s.Written (s.schedule due ev) := .of_cores rfl rfl rfl rfl

end State.Written

theorem State.retStart_written (s : State) (c : CogIx) : s.Written (s.retStart c) := by
  unfold State.retStart
  split
  · exact .refl s
  · have hdraw : s.Written s.draw.2 := .of_cores rfl rfl rfl rfl
    refine .trans (hdraw.trans ?_) (.schedule ..)
    exact .modCog _ c _ fun _ => ⟨rfl, rfl, rfl⟩

theorem State.setRetreq_written (s : State) (c : CogIx) (r : BitVec 9) : s.Written (s.setRetreq c r) :=
  (State.Written.modCog s c (fun x => { x with retreq := r }) fun _ => ⟨rfl, rfl, rfl⟩).trans (State.retStart_written ..)

theorem State.devWrite_written (s : State) (r : Nat) (w : Word) : s.Written (s.devWrite r w) := by
  unfold State.devWrite
  generalize r % 65536 = off
  dsimp only
  split
  · split
    · exact .modCog _ _ _ fun _ => ⟨rfl, rfl, rfl⟩
    · exact .modCog _ _ _ fun _ => ⟨rfl, rfl, rfl⟩
    · exact .modCog _ _ _ fun _ => ⟨rfl, rfl, rfl⟩
    · exact State.setRetreq_written ..
    · exact .refl s
  · split
    · exact .of_cores rfl rfl rfl rfl
    · split
      · split
        · exact .of_cores rfl rfl rfl rfl
        · split
          · exact .of_cores rfl rfl rfl rfl
          · exact .refl s
      · exact .refl s

theorem State.writeSeg_written (s : State) (g : Seg) (bs : List Byte) (psn : Bool) : s.Written (s.writeSeg g bs psn) := by
  unfold State.writeSeg
  split
  · exact State.devWrite_written ..
  · exact .of_cores rfl rfl rfl rfl

/-- Where the memory is the same, a write below the device registers makes the same memory. -/
theorem State.writeSeg_same {s v : State} {g : Seg} (hg : g.addr < devBase) (h : v.mem = s.mem ∧ v.poison = s.poison)
    (bs : List Byte) (psn : Bool) :
    (v.writeSeg g bs psn).mem = (s.writeSeg g bs psn).mem ∧ (v.writeSeg g bs psn).poison = (s.writeSeg g bs psn).poison := by
  obtain ⟨hmem, hpsn⟩ := h
  rw [State.writeSeg, State.writeSeg, if_neg (by omega), if_neg (by omega)]
  exact ⟨congrArg (memSets · g.addr bs) hmem, congrArg (poisonWrite · g.addr bs.length psn) hpsn⟩

/-! ## A store place by place -/

/-- Every piece of a store is a store to one of its places. -/
theorem mem_gopSplit_store {segs : List Seg} {data : List Byte} {psn : List Bool} {o : GOp}
    (h : o ∈ gopSplit (.store segs data psn)) : ∃ g ∈ segs, ∃ d p, o = .store [g] d p := by
  change o ∈ gopSplit.splitStore segs data psn at h
  induction segs generalizing data psn with
  | nil => exact absurd h List.not_mem_nil
  | cons g gs ih =>
    rcases List.mem_cons.1 h with rfl | h
    · exact ⟨g, List.mem_cons_self, _, _, rfl⟩
    · obtain ⟨g', hg', hd⟩ := ih h
      exact ⟨g', List.mem_cons_of_mem g hg', hd⟩

/-- The pieces of a store performed one after another. -/
theorem State.serve_pieces (segs : List Seg) (ops : List GOp) (hops : ∀ o ∈ ops, ∃ g ∈ segs, ∃ d p, o = .store [g] d p)
    (k : Nat) (a : Word) {s v : State} : let f (bank : Option Nat) (s : State) := ops.foldl (fun s o => (s.serve 0 bank a o).2) s
    v.Written (f (some k) v) ∧ ((∀ g ∈ segs, g.addr < devBase) → v.mem = s.mem ∧ v.poison = s.poison →
      (f (some k) v).mem = (f none s).mem ∧ (f (some k) v).poison = (f none s).poison) := by
  induction ops generalizing s v with
  | nil => exact ⟨.refl v, fun _ h => h⟩
  | cons o ops ih =>
    obtain ⟨g, hg, d, p, rfl⟩ := hops o List.mem_cons_self
    obtain ⟨hw, hsame⟩ := @ih (fun o ho => hops o (List.mem_cons_of_mem _ ho))
      (s.serve 0 none a (.store [g] d p)).2 (v.serve 0 (some k) a (.store [g] d p)).2
    exact ⟨(State.writeSeg_written ..).trans hw, fun hlow h => hsame hlow (State.writeSeg_same (hlow g hg) h _ _)⟩

/-! ## Where a place lies (R104, R113) -/

/-- Taking the head of the queue changes the retention of no region. -/
theorem State.regionShut_taken (s : State) (c : CogIx) (o : GOp) : (s.taken c).regionShut o = s.regionShut o := by
  have hcog (d : CogIx) : ((s.taken c).cog d).regions = (s.cog d).regions := by
    rw [State.taken, State.cog_modCog]
    split
    · next h => rw [h]
    · rfl
  have hret : (s.taken c).retState = s.retState := by
    funext a
    simp only [State.retState, hcog]
  have hruns : (s.taken c).runsTouched = s.runsTouched := rfl
  simp only [State.regionShut, State.shut, hret, hruns]
  rfl

/-! ## TST and TCST in their turn (R304, R306, R307) -/

/-- The near pieces of a store performed, and an access for the others. -/
def State.storePieces (s : State) (e : MEntry) (near : GOp → Bool) (ops : List GOp) : State :=
  let far := ops.filter fun o => !near o
  let s := (ops.filter near).foldl (fun s o => (s.serve 0 (some e.bank.num) e.a o).2) s
  if far.isEmpty then s
  else { s with accesses := s.accesses ++ [
    { id := e.ticket, bank := e.bank, owner := .munit e.ticket, kind := .store,
      cls := ((e.segs.map (·.cls)).head?).getD .strong, acq := false, after := [], due := s.clk, todo := far, got := [],
      psn := false, lost := false, dst := .none, sent := false, epc := e.epc, addr := e.a, gs := none }] }

theorem State.tileStore_eq (s : State) (e : MEntry) (data : List Byte) (psn : List Bool) : s.tileStore e data psn =
    s.storePieces e (fun o => (gopSegs o).all s.here && (s.regionShut o).isNone) (gopSplit (.store e.segs data psn)) := rfl

/-- What a tile store leaves: what its near pieces write, and an access for the others. -/
theorem State.tileStore_effect (s : State) (c : CogIx) (e : MEntry) (data : List Byte) (psn : List Bool) :
    let u := (s.taken c).tileStore e data psn
    let ops := gopSplit (.store e.segs data psn)
    let near (o : GOp) : Bool := (gopSegs o).all s.here && (s.regionShut o).isNone
    let done := (ops.filter near).foldl (fun s o => (s.serve 0 none e.a o).2) s
    u.clk = s.clk ∧ (∀ b, u.bank b = s.bank b) ∧
    ((u.cog c).mq = (s.cog c).mq.tail ∧ (u.cog c).mLast = s.clk ∧ (u.cog c).mOrder = (s.cog c).mOrder) ∧
    ((∀ g ∈ e.segs, g.addr < devBase) → u.mem = done.mem ∧ u.poison = done.poison) ∧
    ((∀ o ∈ ops, near o = true) → u.accesses = s.accesses) ∧
    (∀ o ∈ ops, near o = false → ∃ x, u.accesses = s.accesses ++ [x] ∧ x.id = e.ticket ∧ x.owner = .munit e.ticket ∧
      x.kind = .store ∧ x.todo = ops.filter fun o => !near o) := by
  intro u ops near done
  let w := (ops.filter near).foldl (fun s o => (s.serve 0 (some e.bank.num) e.a o).2) (s.taken c)
  have hnear : (fun o => (gopSegs o).all (s.taken c).here && ((s.taken c).regionShut o).isNone) = near := by
    funext o; rw [State.regionShut_taken]; rfl
  obtain ⟨hw, hmem⟩ := @State.serve_pieces e.segs (ops.filter near) (fun o ho => mem_gopSplit_store (List.mem_filter.1 ho).1)
    e.bank.num e.a s (s.taken c)
  have hu : u = (s.taken c).storePieces e near ops := hnear ▸ State.tileStore_eq ..
  have hbank (b : BankIx) : w.bank b = s.bank b := hw.bank b
  have hqueue : (w.cog c).mq = (s.cog c).mq.tail ∧ (w.cog c).mLast = s.clk ∧ (w.cog c).mOrder = (s.cog c).mOrder := by
    obtain ⟨hq, hl, ho⟩ := hw.queue c
    rw [State.taken, State.cog_modCog_self] at hq hl ho
    exact ⟨hq, hl, ho⟩
  have hmem' (hlow : ∀ g ∈ e.segs, g.addr < devBase) : w.mem = done.mem ∧ w.poison = done.poison := hmem hlow ⟨rfl, rfl⟩
  have hfar : (ops.filter fun o => !near o).isEmpty = true ↔ ∀ o ∈ ops, near o = true := by
    simp only [List.isEmpty_iff, List.filter_eq_nil_iff, Bool.not_eq_true', Bool.not_eq_false]
  rw [hu, State.storePieces]
  split
  · next hnone =>
    exact ⟨hw.clk, hbank, hqueue, hmem', fun _ => hw.accesses,
      fun o ho hno => absurd (hfar.1 hnone o ho) (by rw [hno]; decide)⟩
  · next hsome =>
    exact ⟨hw.clk, hbank, hqueue, hmem', fun hall => absurd (hfar.2 hall) hsome,
      fun _ _ _ => ⟨_, congrArg (· ++ _) hw.accesses, rfl, rfl, rfl, rfl⟩⟩

/-- TST and TCST leave their bytes, and the end of their entry. -/
theorem State.runStore_effect (s : State) (c : CogIx) (e : MEntry) (t : TReg) (row0 bytes : Nat)
    (f : Vec → List Byte × Causes) :
    let u := (s.taken c).runStore c e t row0 e.b.toNat bytes f
    ((u.cog c).mq = (s.cog c).mq.tail ∧ (u.cog c).mLast = s.clk) ∧ s.TileStores u c e (s.bank e.bank).t[t] row0 bytes f := by
  intro u
  let rs := (List.range e.b.toNat).map fun j => f ((s.bank e.bank).t[t].row (row0 + j))
  obtain ⟨hclk, hbank, ⟨hmq, hlast, horder⟩, hmem, hnear, hfar⟩ :=
    s.tileStore_effect c e (rs.map Prod.fst).flatten (rowPoison (s.bank e.bank).t[t] row0 bytes e.segs)
  have hu : u = State.mResult ((s.taken c).tileStore e (rs.map Prod.fst).flatten
      (rowPoison (s.bank e.bank).t[t] row0 bytes e.segs)) c e (Nat.max e.b.toNat 1) []
      ((rs.map Prod.snd).foldl Causes.plus {}) := rfl
  generalize (s.taken c).tileStore e (rs.map Prod.fst).flatten (rowPoison (s.bank e.bank).t[t] row0 bytes e.segs) = w at *
  have hdue : w.mDue c (Nat.max e.b.toNat 1) = Nat.max (s.clk + Nat.max e.b.toNat 1) (s.cog c).mOrder := by
    rw [State.mDue, hclk, horder]
  have hcog : u.cog c = _ := hu ▸ w.mResult_cog c e _ [] _
  have hub : u.bank e.bank = _ := hu ▸ w.mResult_bank c e _ [] _
  have hother (b : BankIx) (hb : b ≠ e.bank) : u.bank b = s.bank b := by rw [hu, w.mResult_other _ _ _ _ _ hb, hbank b]
  rw [hdue] at hcog hub
  rw [hbank] at hub
  refine ⟨by rw [hcog]; exact ⟨hmq, hlast⟩, ⟨by rw [hcog], by rw [hub], by rw [hub]⟩, fun hlow => ?_⟩
  obtain ⟨hm, hp⟩ := hmem hlow
  obtain ⟨hum, hup, hua⟩ : u.mem = w.mem ∧ u.poison = w.poison ∧ u.accesses = w.accesses := by
    rw [hu]; exact ⟨rfl, rfl, rfl⟩
  rw [hub, hum, hup, hua]
  exact ⟨rfl, hother, hm, hp, hnear, hfar⟩

end Sys2Proof.Machine
end

section
/-! O35: the end of a load: the buffer that its bytes make (R74, R297, R303), and the elements that TCST stores (R307). -/

namespace Sys2Proof.Machine

/-! ## The buffer that bytes make (R297) -/

/-- An element of a packed row of bytes. -/
theorem elemsOf_getD (w : Nat) {n i : Nat} (bs : List Byte) (hi : i < n) :
    (elemsOf w n bs).getD i 0 = natOf bs / 2 ^ (w * i) % 2 ^ w := getD_map_range _ hi 0

/-- An element of a buffer filled by rows, kept in 16 bits. -/
theorem WBuf.elem_rowVec {w : WBuf} {rows : List (List Nat)} (h : w.rows = rowVec rows) {k n : Nat} (hk : k < 128)
    (hn : n < 128) : w.elem k n = (rows.getD k []).getD n 0 % 2 ^ 16 := by
  have hrow : w.rows.toList = (List.range 128).map fun k => packRow (rows.getD k []) := by rw [h]; rfl
  rw [WBuf.elem, hrow, getD_map_range _ hk, packRow, toNat_extractLsb'_ofNat _ (by omega), Nat.pow_mul]
  exact foldr_digit (by decide) _ n

theorem wordVec_getD (bs : List Byte) (o : Nat) {k : Nat} (hk : k < 128) : (wordVec (bs.drop o)).toList.getD k 0 =
    BitVec.ofNat 64 (natOf ((bs.drop (o + 8 * k)).take 8)) := by
  have hlist : (wordVec (bs.drop o)).toList =
      (List.range 128).map fun k => BitVec.ofNat 64 (natOf (((bs.drop o).drop (8 * k)).take 8)) := rfl
  rw [hlist, getD_map_range _ hk, List.drop_drop]

/-- No causes leave a bank as it is. -/
theorem Bank.addCauses_none (b : Bank) : b.addCauses {} = b := by
  have hcnt (v : Vector Word 5) (i : Fin 5) : satCnt v i 0 = v := by
    have hsat (w : Word) : satAdd w 0 = w := by
      have hmin : Nat.min (w.toNat + 0) (2 ^ 64 - 1) = w.toNat := Nat.min_eq_left (by omega)
      rw [satAdd, hmin, BitVec.ofNat_toNat, BitVec.setWidth_eq]
    rw [satCnt, hsat]
    exact Vector.set_getElem_self ..
  simp only [Bank.addCauses, hcnt]
  exact congrArg (fun f => { b with arflags := f }) (BitVec.or_zero)

section
variable (w : WBuf) (e : MEntry) (fmt : EType) (cvt : Bool)

/-- What every load leaves of its buffer. -/
theorem fillBuf_head : let q := (fillBuf w e fmt cvt).1
    q.state = .full ∧ q.fmt = fmt ∧ q.psn = e.anyBad ∧ q.tag = w.tag := by
  intro q
  unfold q fillBuf
  dsimp only
  split
  · exact ⟨rfl, rfl, rfl, rfl⟩
  · split
    · exact ⟨rfl, rfl, rfl, rfl⟩
    · exact ⟨rfl, rfl, rfl, rfl⟩

/-- mxfp4: 256 blocks of 64 elements of a column, its scales and check entries. -/
theorem fillBuf_mxfp4 : let q := (fillBuf w e .mxfp4 cvt).1
    let bs (o n : Nat) : Nat := natOf ((e.bytes.drop o).take n)
    (fillBuf w e .mxfp4 cvt).2 = {} ∧
    (∀ k n, k < 128 → n < 128 → q.elem k n = bs (32 * (2 * n + k / 64)) 32 / 2 ^ (4 * (k % 64)) % 16) ∧
    q.e8m0 = BitVec.ofNat 2048 (bs 8192 256) ∧
    ∀ k, k < 128 → q.check.toList.getD k 0 = BitVec.ofNat 64 (bs (8448 + 8 * k) 8) := by
  refine ⟨rfl, fun k n hk hn => ?_, rfl, fun k hk => wordVec_getD e.bytes 8448 hk⟩
  rw [WBuf.elem_rowVec rfl hk hn, getD_map_range _ hk, getD_map_range _ hn, getD_map_range _ (by omega),
    elemsOf_getD _ _ (Nat.mod_lt _ (by decide))]
  exact Nat.mod_eq_of_lt (by omega)

/-- A format loaded as it is: its rows, the scale and the check entries behind them. -/
theorem fillBuf_plain (hf : fmt ≠ .mxfp4) : let q := (fillBuf w e fmt false).1
    let bs (o n : Nat) : Nat := natOf ((e.bytes.drop o).take n)
    let wd := fmt.width
    (fillBuf w e fmt false).2 = {} ∧ q.scale = BitVec.ofNat 32 (bs (128 * (16 * wd)) 4) ∧
    (∀ k n, k < 128 → n < 128 → q.elem k n = bs (16 * wd * k) (16 * wd) / 2 ^ (wd * n) % 2 ^ wd % 2 ^ 16) ∧
    ∀ k, k < 128 → q.check.toList.getD k 0 = BitVec.ofNat 64 (bs (128 * (16 * wd) + 4 + 8 * k) 8) := by
  rw [fillBuf, if_neg hf, if_neg (by decide)]
  refine ⟨rfl, rfl, fun k n hk hn => ?_, fun k hk => wordVec_getD e.bytes _ hk⟩
  rw [WBuf.elem_rowVec rfl hk hn, getD_map_range _ hk, elemsOf_getD _ _ hn]
  rfl

/-- A format converted from bf16: the converted elements, their causes, and the check entries made from them. -/
theorem fillBuf_converted (hf : fmt ≠ .mxfp4) : let q := (fillBuf w e fmt true).1
    let bs (o n : Nat) : Nat := natOf ((e.bytes.drop o).take n)
    let conv (k n : Nat) : Nat × Causes := convert fmt .bf16 .rne (bs (16 * 16 * k) (16 * 16) / 2 ^ (16 * n) % 2 ^ 16)
    (fillBuf w e fmt true).2 = elemCauses (fun k n => (conv k n).2) ∧ q.scale = BitVec.ofNat 32 (bs (128 * (16 * 16)) 4) ∧
    ∀ k, k < 128 → (∀ n, n < 128 → q.elem k n = (conv k n).1 % 2 ^ 16) ∧
      q.check.toList.getD k 0 = checkOf fmt ((List.range 128).map fun n => (conv k n).1) := by
  intro q bs conv
  let rows : List (List Nat) := (List.range 128).map fun k => (List.range 128).map fun n => (conv k n).1
  have hfill : fillBuf w e fmt true =
      ({ w with state := .full, psn := e.anyBad, fmt := fmt, rows := rowVec rows,
                scale := BitVec.ofNat 32 (bs (128 * (16 * 16)) 4),
                check := Vector.mk ((List.range 128).map fun k => checkOf fmt (rows.getD k [])).toArray (by simp) },
        elemCauses fun k n => (conv k n).2) := by
    rw [fillBuf, if_neg hf, if_pos rfl]
    simp only [List.map_map, elemsOf, Function.comp_def, if_true]
    rfl
  have hq : q = _ := congrArg Prod.fst hfill
  have hrow (k : Nat) (hk : k < 128) : rows.getD k [] = (List.range 128).map fun n => (conv k n).1 := getD_map_range _ hk []
  refine ⟨congrArg Prod.snd hfill, by rw [hq], fun k hk => ⟨fun n hn => ?_, ?_⟩⟩
  · rw [WBuf.elem_rowVec (rows := rows) (by rw [hq]) hk hn, hrow k hk, getD_map_range _ hn]
  · have hlist : q.check.toList = (List.range 128).map fun k => checkOf fmt (rows.getD k []) := by rw [hq]; rfl
    rw [hlist, getD_map_range _ hk, hrow k hk]

end

/-! ## The end of a load (R297) -/

/-- The load that is due ends: its buffer is filled, it leaves the engine, its causes join its bank's. -/
theorem execMwloadDone_eq {s : State} {c : CogIx} {buf : Bool} {e : MEntry} {due : Nat} {fmt : EType} {cvt w : Bool}
    {a a' : SReg} (h : (s.cog c).mLoads.find? (fun x => x.1.buf = buf && x.2 ≤ s.clk && !(s.cog c).failed) = some (e, due))
    (hi : e.instr = .mwload fmt cvt w a a') : ∃ u, exec (.mwloadDone c buf) s = .next u ∧
      (u.cog c).buffer buf = (fillBuf ((s.cog c).buffer buf) e fmt cvt).1 ∧
      (u.cog c).buffer (!buf) = (s.cog c).buffer (!buf) ∧ u.mem = s.mem ∧
      (u.cog c).mLoads = (s.cog c).mLoads.filter (fun y => y.1.ticket ≠ e.ticket) ∧
      u.bank e.bank = (s.bank e.bank).addCauses (fillBuf ((s.cog c).buffer buf) e fmt cvt).2 := by
  let q := fillBuf ((s.cog c).buffer buf) e fmt cvt
  let v := s.modCog c fun x =>
    { x.setBuffer buf (fun _ => q.1) with mLoads := x.mLoads.filter fun y => y.1.ticket ≠ e.ticket }
  have hcog : v.cog c = { (s.cog c).setBuffer buf (fun _ => q.1) with
      mLoads := (s.cog c).mLoads.filter fun y => y.1.ticket ≠ e.ticket } := State.cog_modCog_self ..
  have hbuf (x : Bool) : (v.cog c).buffer x = if x = buf then q.1 else (s.cog c).buffer x := by
    rw [hcog]
    exact Cog.buffer_setBuffer (s.cog c) buf x fun _ => q.1
  have hexec : exec (.mwloadDone c buf) s = .next (v.modBank e.bank fun b => b.addCauses q.2) := by
    show execMwloadDone c buf s = _
    unfold execMwloadDone
    rw [h]
    dsimp only
    rw [hi]
  exact ⟨_, hexec, (hbuf buf).trans (if_pos rfl), (hbuf !buf).trans (if_neg (by cases buf <;> decide)), rfl,
    congrArg Cog.mLoads hcog, State.bank_modBank_self ..⟩

/-! ## The elements that TCST stores (R307) -/

section
variable (fmt : EType) (rm : RMode) (x m : Nat)

theorem tcstElem_finite {n n' : Bool} {l l' : Nat} {e e' : Int} (hp : decodeF .fp32 x = .num n l e)
    (hq : decodeF .fp32 m = .num n' l' e') : let v := FVal.num (n != n') (l * l') (e + e')
    tcstElem fmt rm x m = if fmt.isInt then floatToInt fmt rm v else encodeF fmt rm v := by
  simp only [tcstElem, hp, hq]
  split
  · rfl
  · exact arith_exact fmt rm _ rfl

theorem tcstElem_nan (hnan : (decodeF .fp32 x).isNan = true ∨ (decodeF .fp32 m).isNan = true) :
    tcstElem fmt rm x m = if fmt.isInt then (0, invalid)
      else (canonNan fmt, if (decodeF .fp32 x).isSig || (decodeF .fp32 m).isSig then invalid else {}) := by
  have hor : ((decodeF .fp32 x).isNan || (decodeF .fp32 m).isNan) = true := by simpa using hnan
  simp only [tcstElem, hor, if_true]
  split
  · rfl
  · rw [arith_nan fmt rm _ (by simpa using hnan)]
    simp

end

end Sys2Proof.Machine
end

section
/-! O35: the sums of groups: exact, with infinities and invalid products, and cut in BF16 mode (R70, R72). -/

namespace Sys2Proof.Machine

/-! ## Values in a common unit -/

/-- A value in units of 2^q counts 2^(q' - q) for each unit of 2^q'. -/
theorem signedAt_lower (n : Bool) (m : Nat) {e q q' : Int} (hq : q ≤ q') (he : q' ≤ e) :
    signedAt n m e q = signedAt n m e q' * 2 ^ (q' - q).toNat := by
  have hexp : (e - q).toNat = (e - q').toNat + (q' - q).toNat := by omega
  cases n <;> simp [signedAt, hexp, pow_add, mul_assoc]

theorem signedAt_sign (s : Int) (q : Int) : signedAt (s < 0) s.natAbs q q = s := by
  by_cases h : s < 0
  · simp [signedAt, h, abs_of_neg h]
  · simp [signedAt, h, abs_of_nonneg (Int.not_lt.1 h)]

/-- Finite values add up exactly: to a value in the smaller of their units, or to zero. -/
theorem exactAdd_finite (n : Bool) (m : Nat) (e : Int) (n' : Bool) (m' : Nat) (e' : Int) :
    ∃ k l r, exactAdd .rne (.num n m e) (.num n' m' e') = some (.num k l r) ∧ (r = 0 ∨ r = min e e') ∧
      ∀ q, q ≤ e → q ≤ e' → signedAt k l r q = signedAt n m e q + signedAt n' m' e' q := by
  unfold exactAdd
  by_cases hzeros : m = 0 ∧ m' = 0 ∧ n = n'
  · obtain ⟨rfl, rfl, rfl⟩ := hzeros
    exact ⟨n, 0, 0, by simp, .inl rfl, fun q _ _ => by simp [signedAt_zero]⟩
  · simp only [if_neg hzeros]
    have hlow (q : Int) (hq : q ≤ e) (hq' : q ≤ e') : signedAt n m e q + signedAt n' m' e' q =
        (signedAt n m e (min e e') + signedAt n' m' e' (min e e')) * 2 ^ (min e e' - q).toNat := by
      rw [signedAt_lower n m (le_min hq hq') (min_le_left e e'), signedAt_lower n' m' (le_min hq hq') (min_le_right e e'),
        add_mul]
    generalize signedAt n m e (min e e') + signedAt n' m' e' (min e e') = z at hlow ⊢
    split
    · next hz =>
      refine ⟨_, 0, 0, rfl, .inl rfl, fun q hq hq' => ?_⟩
      rw [signedAt_zero, hlow q hq hq', hz, zero_mul]
    · refine ⟨_, _, _, rfl, .inr rfl, fun q hq hq' => ?_⟩
      rw [hlow q hq hq', signedAt_lower _ _ (le_min hq hq') le_rfl, signedAt_sign]

/-! ## The sum of a group, product by product (R70) -/

/-- One product added to the sum so far; an invalid sum or product stays invalid. -/
def addTo (acc p : Option FVal) : Option FVal :=
  match acc, p with
  | some a, some b => exactAdd .rne a b
  | _, _ => none

/-- A group's products, in BF16 mode cut below the greatest. -/
def cutGroup (bf : Bool) (ps : List (Option FVal)) : List (Option FVal) :=
  if bf then
    match topExp ps with
    | some t => ps.map fun p => p.map (cut48 t)
    | none => ps
  else ps

theorem groupSum_eq (bf : Bool) (ps : List (Option FVal)) :
    groupSum bf ps = (cutGroup bf ps).foldl addTo (some (.num false 0 0)) := rfl

@[simp] theorem addTo_none (p : Option FVal) : addTo none p = none := rfl

@[simp] theorem foldl_addTo_none (ps : List (Option FVal)) : ps.foldl addTo none = none := by
  induction ps with
  | nil => rfl
  | cons p ps ih => exact ih

/-- An invalid product makes the sum invalid. -/
theorem foldl_addTo_invalid {ps : List (Option FVal)} (h : none ∈ ps) (acc : Option FVal) : ps.foldl addTo acc = none := by
  induction ps generalizing acc with
  | nil => exact absurd h List.not_mem_nil
  | cons p ps ih =>
    rcases List.mem_cons.1 h with rfl | h
    · cases acc <;> exact foldl_addTo_none ps
    · exact ih h _

/-- Finite products add up exactly; the unit of the sum is not above 1. -/
theorem foldl_addTo_finite (ps : List (Bool × Nat × Int)) (n : Bool) (m : Nat) {e : Int} (he : e ≤ 0) :
    ∃ k l r, (ps.map finite).foldl addTo (some (.num n m e)) = some (.num k l r) ∧ r ≤ 0 ∧
      ∀ q, q ≤ 0 → q ≤ e → (∀ p ∈ ps, q ≤ p.2.2) → q ≤ r ∧ signedAt k l r q = signedAt n m e q + (ps.map (atExp q)).sum := by
  induction ps generalizing n m e with
  | nil => exact ⟨n, m, e, rfl, he, fun q _ hq _ => ⟨hq, by simp⟩⟩
  | cons p ps ih =>
    obtain ⟨k, l, r, hadd, hr, hsum⟩ := exactAdd_finite n m e p.1 p.2.1 p.2.2
    have hr0 : r ≤ 0 := by
      rcases hr with rfl | rfl
      · exact le_rfl
      · exact (min_le_left _ _).trans he
    obtain ⟨k', l', r', hfold, hr0', hsum'⟩ := ih k l hr0
    refine ⟨k', l', r', (congrArg (List.foldl addTo · (ps.map finite)) hadd).trans hfold, hr0', fun q hq hqe hqs => ?_⟩
    have hqp := hqs p List.mem_cons_self
    have hqr : q ≤ r := by
      rcases hr with rfl | rfl
      · exact hq
      · exact le_min hqe hqp
    obtain ⟨hqr', hs⟩ := hsum' q hq hqr fun x hx => hqs x (List.mem_cons_of_mem p hx)
    refine ⟨hqr', ?_⟩
    rw [hs, hsum q hqe hqp, List.map_cons, List.sum_cons, add_assoc]
    rfl

/-- The sum of finite products, in any unit that holds them all. -/
theorem groupSum_finite (ps : List (Bool × Nat × Int)) : ∃ n m e, groupSum false (ps.map finite) = some (.num n m e) ∧
    e ≤ 0 ∧ ∀ q : Int, q ≤ 0 → (∀ p ∈ ps, q ≤ p.2.2) → q ≤ e ∧ signedAt n m e q = (ps.map (atExp q)).sum := by
  obtain ⟨n, m, e, hfold, he, hsum⟩ := foldl_addTo_finite ps false 0 le_rfl
  refine ⟨n, m, e, hfold, he, fun q hq hqs => ?_⟩
  obtain ⟨hqe, hs⟩ := hsum q hq hq hqs
  exact ⟨hqe, by rw [hs, signedAt_zero, zero_add]⟩

/-! ## Infinities (R58, R70) -/

/-- An infinity stands, until one of the other sign meets it. -/
theorem foldl_addTo_inf {ps : List (Option FVal)} (hnan : ∀ p ∈ ps, ∀ b, p ≠ some (.nan b)) (hnone : none ∉ ps) (n : Bool) :
    ps.foldl addTo (some (.inf n)) = if some (.inf !n) ∈ ps then none else some (.inf n) := by
  induction ps with
  | nil => rfl
  | cons p ps ih =>
    replace ih := ih (fun x hx => hnan x (List.mem_cons_of_mem p hx)) fun h => hnone (List.mem_cons_of_mem p h)
    rw [List.foldl_cons]
    match p with
    | none => exact absurd List.mem_cons_self hnone
    | some (.nan b) => exact absurd rfl (hnan _ List.mem_cons_self b)
    | some (.num k l x) => simpa [addTo, exactAdd] using ih
    | some (.inf k) =>
      by_cases hk : n = k
      · subst hk
        simpa [addTo, exactAdd] using ih
      · obtain rfl : k = !n := by cases n <;> cases k <;> simp_all
        simp [addTo, exactAdd]

/-- The first infinity met becomes the sum. -/
theorem foldl_addTo_num {ps : List (Option FVal)} (hnan : ∀ p ∈ ps, ∀ b, p ≠ some (.nan b)) (hnone : none ∉ ps) {n : Bool}
    (hinf : some (.inf n) ∈ ps) (k : Bool) (l : Nat) (x : Int) :
    ps.foldl addTo (some (.num k l x)) = if some (.inf !n) ∈ ps then none else some (.inf n) := by
  induction ps generalizing k l x with
  | nil => exact absurd hinf List.not_mem_nil
  | cons p ps ih =>
    have hnan' : ∀ p ∈ ps, ∀ b, p ≠ some (.nan b) := fun x hx => hnan x (List.mem_cons_of_mem p hx)
    have hnone' : none ∉ ps := fun h => hnone (List.mem_cons_of_mem p h)
    rw [List.foldl_cons]
    match p with
    | none => exact absurd List.mem_cons_self hnone
    | some (.nan b) => exact absurd rfl (hnan _ List.mem_cons_self b)
    | some (.num k' l' x') =>
      obtain ⟨k₁, l₁, x₁, hadd, -⟩ := exactAdd_finite k l x k' l' x'
      have hin : some (.inf n) ∈ ps := by simpa using hinf
      simpa [addTo, hadd] using ih hnan' hnone' hin k₁ l₁ x₁
    | some (.inf k') =>
      have hstep : addTo (some (.num k l x)) (some (.inf k')) = some (.inf k') := rfl
      rw [hstep, foldl_addTo_inf hnan' hnone']
      by_cases hk : n = k'
      · subst hk
        simp
      · obtain rfl : k' = !n := by cases n <;> cases k' <;> simp_all
        have hin : some (.inf n) ∈ ps := by simpa using hinf
        simp [hin]

/-- A cut moves no infinity and makes no product invalid or a NaN. -/
theorem cut48_special (t : Int) (p : Option FVal) : (p.map (cut48 t) = none ↔ p = none) ∧
    (∀ n, p.map (cut48 t) = some (.inf n) ↔ p = some (.inf n)) ∧
    ∀ b, p.map (cut48 t) = some (.nan b) ↔ p = some (.nan b) := by
  match p with
  | none => simp
  | some (.nan b) => simp [cut48]
  | some (.inf n) => simp [cut48]
  | some (.num n m e) => simp only [Option.map_some, cut48]; split <;> simp

theorem cutGroup_special (bf : Bool) (ps : List (Option FVal)) : (none ∈ cutGroup bf ps ↔ none ∈ ps) ∧
    (∀ n, some (.inf n) ∈ cutGroup bf ps ↔ some (.inf n) ∈ ps) ∧
    ∀ b, some (.nan b) ∈ cutGroup bf ps ↔ some (.nan b) ∈ ps := by
  unfold cutGroup
  split
  · split
    · next t _ =>
      have hcut := cut48_special t
      refine ⟨?_, fun n => ?_, fun b => ?_⟩
      · simp only [List.mem_map, (hcut _).1, exists_eq_right]
      · simp only [List.mem_map, (hcut _).2.1, exists_eq_right]
      · simp only [List.mem_map, (hcut _).2.2, exists_eq_right]
    · exact ⟨Iff.rfl, fun _ => Iff.rfl, fun _ => Iff.rfl⟩
  · exact ⟨Iff.rfl, fun _ => Iff.rfl, fun _ => Iff.rfl⟩

/-- An invalid product or infinities of both signs make a group's sum invalid, else an infinity stands. -/
theorem groupSum_special (bf : Bool) {ps : List (Option FVal)} (hnan : ∀ p ∈ ps, ∀ b, p ≠ some (.nan b)) :
    (none ∈ ps → groupSum bf ps = none) ∧
    (some (.inf true) ∈ ps → some (.inf false) ∈ ps → groupSum bf ps = none) ∧
    ∀ n, none ∉ ps → some (.inf n) ∈ ps → some (.inf !n) ∉ ps → groupSum bf ps = some (.inf n) := by
  obtain ⟨hcnone, hcinf, hcnan⟩ := cutGroup_special bf ps
  have hnan' : ∀ p ∈ cutGroup bf ps, ∀ b, p ≠ some (.nan b) := fun p hp b h => hnan p ((hcnan b).1 (h ▸ hp) |> (h ▸ ·)) b h
  have hinvalid (h : none ∈ ps) : groupSum bf ps = none := foldl_addTo_invalid (hcnone.2 h) _
  have hsum {n : Bool} (hnone : none ∉ ps) (h : some (.inf n) ∈ ps) :
      groupSum bf ps = if some (.inf !n) ∈ ps then none else some (.inf n) := by
    rw [groupSum_eq, foldl_addTo_num hnan' (hnone ∘ hcnone.1) ((hcinf n).2 h)]
    simp only [hcinf]
  refine ⟨hinvalid, fun ht hf => ?_, fun n hnone h hn => (hsum hnone h).trans (if_neg hn)⟩
  by_cases hnone : none ∈ ps
  · exact hinvalid hnone
  · exact (hsum hnone ht).trans (if_pos hf)

/-- A sum that is not finite stays so. -/
theorem foldl_addTo_notFinite {ps : List (Option FVal)} {acc : Option FVal}
    (h : (∀ n m e, acc ≠ some (.num n m e)) ∨ ∃ p ∈ ps, ∀ n m e, p ≠ some (.num n m e)) (hacc : ∀ b, acc ≠ some (.nan b))
    (n : Bool) (m : Nat) (e : Int) : ps.foldl addTo acc ≠ some (.num n m e) := by
  induction ps generalizing acc with
  | nil => exact h.elim (· n m e) fun ⟨_, hp, _⟩ => absurd hp List.not_mem_nil
  | cons p ps ih =>
    rw [List.foldl_cons]
    match acc with
    | none => simp
    | some (.nan b) => exact absurd rfl (hacc b)
    | some (.inf k) =>
      have hstep : addTo (some (.inf k)) p = none ∨ addTo (some (.inf k)) p = some (.inf k) := by
        match p with
        | none => exact .inl rfl
        | some (.nan _) => exact .inr rfl
        | some (.num _ _ _) => exact .inr rfl
        | some (.inf k') => simp only [addTo, exactAdd]; split <;> simp
      rcases hstep with h | h <;> rw [h] <;> exact ih (.inl (by simp)) (by simp)
    | some (.num k l x) =>
      match p with
      | none => simp [addTo]
      | some (.nan b) => simp [addTo, exactAdd]
      | some (.inf k') => exact ih (.inl (by simp [addTo, exactAdd])) (by simp [addTo, exactAdd])
      | some (.num k' l' x') =>
        obtain ⟨k₁, l₁, x₁, hadd, -⟩ := exactAdd_finite k l x k' l' x'
        have hrest : ∃ p ∈ ps, ∀ n m e, p ≠ some (.num n m e) := by simpa using h
        exact ih (.inr hrest) (by simp [addTo, hadd])

/-! ## The cut of BF16 mode (R72) -/

/-- The greatest exponent so far. -/
def topStep (acc : Option Int) (p : Bool × Nat × Int) : Option Int :=
  if p.2.1 = 0 then acc
  else
    match acc with
    | some a => some (max a (FVal.num p.1 p.2.1 p.2.2).logb)
    | none => some (FVal.num p.1 p.2.1 p.2.2).logb

theorem topExp_finite (ps : List (Bool × Nat × Int)) : topExp (ps.map finite) = ps.foldl topStep none := by
  rw [topExp, List.foldl_map]
  rfl

theorem topStep_zero {p : Bool × Nat × Int} (h : p.2.1 = 0) (acc : Option Int) : topStep acc p = acc := if_pos h

theorem foldl_topStep_zero {ps : List (Bool × Nat × Int)} (h : ∀ p ∈ ps, p.2.1 = 0) (acc : Option Int) :
    ps.foldl topStep acc = acc := by
  induction ps with
  | nil => rfl
  | cons p ps ih =>
    rw [List.foldl_cons, topStep_zero (h p List.mem_cons_self)]
    exact ih fun x hx => h x (List.mem_cons_of_mem p hx)

/-- The greatest exponent of the non-zero products and of what came before. -/
theorem foldl_topStep_max {ps : List (Bool × Nat × Int)} {t : Int} {acc : Option Int}
    (hin : acc = some t ∨ ∃ p ∈ ps, p.2.1 ≠ 0 ∧ (FVal.num p.1 p.2.1 p.2.2).logb = t)
    (hacc : ∀ a, acc = some a → a ≤ t) (hle : ∀ p ∈ ps, p.2.1 ≠ 0 → (FVal.num p.1 p.2.1 p.2.2).logb ≤ t) :
    ps.foldl topStep acc = some t := by
  induction ps generalizing acc with
  | nil => simpa using hin
  | cons p ps ih =>
    have hle' : ∀ x ∈ ps, x.2.1 ≠ 0 → (FVal.num x.1 x.2.1 x.2.2).logb ≤ t := fun x hx => hle x (List.mem_cons_of_mem p hx)
    rw [List.foldl_cons]
    by_cases hp : p.2.1 = 0
    · rw [topStep_zero hp]
      refine ih (hin.imp_right ?_) hacc hle'
      rintro ⟨x, hx, hx0, hxt⟩
      rcases List.mem_cons.1 hx with rfl | hx
      · exact absurd hp hx0
      · exact ⟨x, hx, hx0, hxt⟩
    · have hpt := hle p List.mem_cons_self hp
      obtain ⟨b, hb, hbt, hpb, hab⟩ : ∃ b, topStep acc p = some b ∧ b ≤ t ∧ (FVal.num p.1 p.2.1 p.2.2).logb ≤ b ∧
          ∀ a, acc = some a → a ≤ b := by
        unfold topStep
        rw [if_neg hp]
        cases acc with
        | none => exact ⟨_, rfl, hpt, le_rfl, nofun⟩
        | some a => exact ⟨_, rfl, max_le (hacc a rfl) hpt, le_max_right .., fun a' h => by cases h; exact le_max_left ..⟩
      rw [hb]
      refine ih ?_ (fun a h => by cases h; exact hbt) hle'
      rcases hin with h | ⟨x, hx, hx0, hxt⟩
      · exact .inl (congrArg some (le_antisymm hbt (hab t h)))
      · rcases List.mem_cons.1 hx with rfl | hx
        · exact .inl (congrArg some (le_antisymm hbt (hxt ▸ hpb)))
        · exact .inr ⟨x, hx, hx0, hxt⟩

/-- In BF16 mode a group of zeros is summed as it is, another one cut at 48 fraction bits below its greatest. -/
theorem groupSum_cut (ps : List (Bool × Nat × Int)) :
    ((∀ p ∈ ps, p.2.1 = 0) → groupSum true (ps.map finite) = groupSum false (ps.map finite)) ∧
    ∀ t : Int, (∃ p ∈ ps, p.2.1 ≠ 0 ∧ (FVal.num p.1 p.2.1 p.2.2).logb = t) →
      (∀ p ∈ ps, p.2.1 ≠ 0 → (FVal.num p.1 p.2.1 p.2.2).logb ≤ t) →
      groupSum true (ps.map finite) = groupSum false (ps.map fun p =>
        if t - 48 ≤ p.2.2 then finite p else finite (p.1, p.2.1 / 2 ^ (t - 48 - p.2.2).toNat, t - 48)) := by
  have hcut : cutGroup true (ps.map finite) = match topExp (ps.map finite) with
    | some t => (ps.map finite).map fun p => p.map (cut48 t)
    | none => ps.map finite := rfl
  rw [topExp_finite] at hcut
  refine ⟨fun hzero => ?_, fun t hin hle => ?_⟩
  · rw [foldl_topStep_zero hzero] at hcut
    rw [groupSum_eq, hcut]
    rfl
  · rw [foldl_topStep_max (.inr hin) (by simp) hle] at hcut
    dsimp only at hcut
    rw [List.map_map] at hcut
    have hone (p : Bool × Nat × Int) : (finite p).map (cut48 t) =
        if t - 48 ≤ p.2.2 then finite p else finite (p.1, p.2.1 / 2 ^ (t - 48 - p.2.2).toNat, t - 48) := by
      rw [finite, Option.map_some, cut48]
      split <;> rfl
    rw [groupSum_eq, hcut, groupSum_eq]
    exact congrArg (List.foldl addTo _) (List.map_congr_left fun p _ => hone p)

end Sys2Proof.Machine
end

section
/-! O35: promotion, rows of activations, check entries and their comparison (R70, R71, R74, R75, R77). -/

namespace Sys2Proof.Machine

/-! ## Promotion (R71) -/

theorem exactMul_nan_right (x : FVal) (b : Bool) : exactMul x (.nan b) = none := by cases x <;> rfl

theorem FVal.isNan_iff {v : FVal} : v.isNan = true ↔ ∃ b, v = .nan b := by cases v <;> simp [FVal.isNan]

theorem FVal.isZero_iff {v : FVal} : v.isZero = true ↔ ∃ n e, v = .num n 0 e := by
  cases v with
  | nan _ => simp [FVal.isZero]
  | inf _ => simp [FVal.isZero]
  | num n m e => cases m <;> simp [FVal.isZero]

theorem FVal.isZero_num (n : Bool) (m : Nat) (e : Int) : (FVal.num n m e).isZero = decide (m = 0) := by
  cases m <;> simp [FVal.isZero]

/-- A scaled sum added to the accumulator. -/
def accumulate (acc : Nat) (v : FVal) : Nat × Causes :=
  match decodeF .fp32 acc with
  | .nan s => (canonNan .fp32, if s then invalid else {})
  | a => arith .fp32 .rne [] (exactAdd .rne a (if v.isZero then FVal.num false 0 0 else v))

section
variable {acc : Nat} {g : Option FVal} {sa sw : FVal}

/-- A scaled sum that has no value gives the canonical NaN. -/
theorem promote_none (h : (g.bind fun x => (exactMul x sa).bind fun y => exactMul y sw) = none) :
    promote acc g sa sw = (canonNan .fp32, invalid) := by
  rw [promote, h]

theorem promote_some {v : FVal} (h : (g.bind fun x => (exactMul x sa).bind fun y => exactMul y sw) = some v) :
    promote acc g sa sw = accumulate acc v := by
  rw [promote, h]
  rfl

theorem promote_nan (x : FVal) (h : sa.isNan = true ∨ sw.isNan = true) :
    promote acc (some x) sa sw = (canonNan .fp32, invalid) := by
  refine promote_none ?_
  rcases h with h | h
  · obtain ⟨b, rfl⟩ := FVal.isNan_iff.1 h
    rw [Option.bind_some, exactMul_nan_right, Option.bind_none]
  · obtain ⟨b, rfl⟩ := FVal.isNan_iff.1 h
    simp only [exactMul_nan_right, Option.bind_fun_none]

/-- 0 x inf is invalid in either place. -/
theorem promote_inf_zero (n : Bool) (h : sa.isZero = true ∨ sw.isZero = true) :
    promote acc (some (.inf n)) sa sw = (canonNan .fp32, invalid) := by
  refine promote_none ?_
  rw [Option.bind_some]
  rcases h with h | h
  · obtain ⟨k, e, rfl⟩ := FVal.isZero_iff.1 h
    rfl
  · obtain ⟨k, e, rfl⟩ := FVal.isZero_iff.1 h
    cases sa with
    | nan b => rfl
    | inf l => rfl
    | num l m x => simp only [exactMul]; split <;> rfl

end

section
variable (acc : Nat) (n na nw : Bool) (m ma mw : Nat) (e ea ew : Int)

/-- A finite group with finite scales. -/
theorem promote_finite : let r := promote acc (some (.num n m e)) (.num na ma ea) (.num nw mw ew)
    (∀ sig, decodeF .fp32 acc = .nan sig → r = (canonNan .fp32, if sig then invalid else {})) ∧
    (∀ k, decodeF .fp32 acc = .inf k → r = (withSign .fp32 k (infBits .fp32), {})) ∧
    ∀ k l x, decodeF .fp32 acc = .num k l x → r =
      if m * ma * mw = 0 then finiteSum .fp32 .rne k l x false 0 0
      else finiteSum .fp32 .rne k l x ((n != na) != nw) (m * ma * mw) (e + ea + ew) := by
  intro r
  have hr : r = _ := promote_some (v := .num ((n != na) != nw) (m * ma * mw) (e + ea + ew)) rfl
  rw [accumulate, FVal.isZero_num] at hr
  refine ⟨fun sig h => by rw [hr, h], fun k h => ?_, fun k l x h => ?_⟩
  · rw [hr, h]
    generalize decide (m * ma * mw = 0) = z
    cases z <;> exact encodeF_inf (t := .fp32) rfl .rne k
  · rw [hr, h]
    by_cases hz : m * ma * mw = 0
    · obtain ⟨v, hv, hs⟩ := exactAdd_num .fp32 .rne k l x false 0 0
      rw [if_pos hz, if_pos (decide_eq_true hz)]
      exact (congrArg (arith .fp32 .rne []) hv).trans hs
    · obtain ⟨v, hv, hs⟩ := exactAdd_num .fp32 .rne k l x ((n != na) != nw) (m * ma * mw) (e + ea + ew)
      rw [if_neg hz, if_neg (by simpa using hz)]
      exact (congrArg (arith .fp32 .rne []) hv).trans hs

/-- An infinite group with finite scales other than zero. -/
theorem promote_inf (ha : ma ≠ 0) (hw : mw ≠ 0) : let r := promote acc (some (.inf n)) (.num na ma ea) (.num nw mw ew)
    let v := (n != na) != nw
    (∀ k l x, decodeF .fp32 acc = .num k l x → r = (withSign .fp32 v (infBits .fp32), {})) ∧
    ∀ k, decodeF .fp32 acc = .inf k → r =
      if k = v then (withSign .fp32 v (infBits .fp32), {}) else (canonNan .fp32, invalid) := by
  intro r v
  have hr : r = _ := promote_some (v := .inf v) (by simp [exactMul, ha, hw, v])
  rw [accumulate] at hr
  refine ⟨fun k l x h => ?_, fun k h => ?_⟩
  · rw [hr, h]
    exact encodeF_inf (t := .fp32) rfl .rne v
  · rw [hr, h]
    by_cases hk : k = v
    · rw [if_pos hk, hk]
      exact (congrArg (arith .fp32 .rne []) (if_pos rfl)).trans (encodeF_inf (t := .fp32) rfl .rne v)
    · rw [if_neg hk]
      exact congrArg (arith .fp32 .rne []) (if_neg hk)

end

/-! ## A row of activations (R70, R77, R303) -/

theorem rowMap_lane (f : Nat → Nat × Causes) {n : Nat} (hn : n < 128) : lane 32 (rowMap f).1 n = (f n).1 % 2 ^ 32 := by
  rw [rowMap, List.map_map]
  exact lane32_pack_range _ hn

/-- The exact sum of a group of len products from reduction index lo on, at tile column n. -/
def groupAt (w : WBuf) (t : EType) (a : List Nat) (n lo len : Nat) : Option FVal :=
  groupSum (t = .bf16) ((List.range len).map fun k =>
    exactMul (elemVal t (a.getD (lo + k) 0)) (elemVal w.fmt (w.elem (lo + k) n)))

/-- The scale of a group of weights of a tile column. -/
def weightScale (w : WBuf) (t : EType) (n h : Nat) : FVal :=
  if t = .mxfp4 then e8Val (w.e8m0.extractLsb' (8 * (2 * n + h)) 8).toNat else decodeF .fp32 w.scale.toNat

/-- One group accumulated into a row. -/
def mmulStep (w : WBuf) (t : EType) (a : List Nat) (sa : Nat → FVal) (acc : Vec × Causes × Nat) (gi : (Nat × Nat) × Nat) :
    Vec × Causes × Nat :=
  let (lo, len) := gi.1
  let ks := (List.range len).map (lo + ·)
  let av := ks.map fun k => elemVal t (a.getD k 0)
  let gs := (List.range 128).map fun n =>
    groupSum (t = .bf16) (List.zipWith (fun k x => exactMul x (elemVal w.fmt (w.elem k n))) ks av)
  let (v, c) := rowMap fun n => promote (lane 32 acc.1 n) (gs.getD n none) (sa gi.2) (weightScale w t n gi.2)
  let bad : Bool := !decide (t = .bf16) && mismatch av (ks.map fun k => w.check.toList.getD k 0) gs
  (v, (acc.2.1.plus c).plus { chk := if bad then 1 else 0 }, acc.2.2 + bad.toNat)

section
variable (w : WBuf) (t : EType) (a : List Nat) (sa : Nat → FVal)

theorem mmulRow_eq (row : Vec) :
    mmulRow w t a sa row = ((groupsOf t).zipIdx).foldl (mmulStep w t a sa) (row, {}, 0) := rfl

theorem mmulStep_lane (acc : Vec × Causes × Nat) (lo len i : Nat) {n : Nat} (hn : n < 128) :
    lane 32 (mmulStep w t a sa acc ((lo, len), i)).1 n =
      (promote (lane 32 acc.1 n) (groupAt w t a n lo len) (sa i) (weightScale w t n i)).1 % 2 ^ 32 := by
  have hzip : List.zipWith (fun k x => exactMul x (elemVal w.fmt (w.elem k n))) ((List.range len).map (lo + ·))
      (((List.range len).map (lo + ·)).map fun k => elemVal t (a.getD k 0)) =
      (List.range len).map fun k => exactMul (elemVal t (a.getD (lo + k) 0)) (elemVal w.fmt (w.elem (lo + k) n)) := by
    rw [List.map_map, List.zipWith_map, List.zipWith_self]
    rfl
  rw [mmulStep]
  refine (rowMap_lane _ hn).trans ?_
  rw [getD_map_range _ hn, hzip]
  rfl

/-- Its groups in ascending order. -/
theorem mmulRow_lane (row : Vec) {n : Nat} (hn : n < 128) : lane 32 (mmulRow w t a sa row).1 n = if t = .mxfp4 then
      (promote ((promote (lane 32 row n) (groupAt w t a n 0 64) (sa 0) (weightScale w t n 0)).1 % 2 ^ 32)
        (groupAt w t a n 64 64) (sa 1) (weightScale w t n 1)).1 % 2 ^ 32
    else (promote (lane 32 row n) (groupAt w t a n 0 128) (sa 0) (weightScale w t n 0)).1 % 2 ^ 32 := by
  rw [mmulRow_eq, groupsOf]
  split
  · exact (mmulStep_lane w t a sa _ 64 64 1 hn).trans (by rw [mmulStep_lane w t a sa _ 0 64 0 hn])
  · exact mmulStep_lane w t a sa _ 0 128 0 hn

end

/-! ## Check entries (R74) -/

/-- One value added to the sum so far, unless it has none. -/
def checkStep (t : EType) (acc : Option Int) (x : Nat) : Option Int :=
  match acc, fix16 (elemVal t x) with
  | some a, some b => some (a + b)
  | _, _ => none

theorem checkOf_eq (t : EType) (row : List Nat) : checkOf t row = match row.foldl (checkStep t) (some 0) with
    | some s => BitVec.ofInt 64 s
    | none => 0x8000000000000000 := rfl

theorem foldl_checkStep_none (t : EType) (row : List Nat) : row.foldl (checkStep t) none = none := by
  induction row with
  | nil => rfl
  | cons x row ih => exact ih

theorem checkOf_marker {t : EType} {row : List Nat} (h : ∃ x ∈ row, ∀ n m e, elemVal t x ≠ .num n m e) :
    checkOf t row = 0x8000000000000000 := by
  have hfold (acc : Option Int) : row.foldl (checkStep t) acc = none := by
    obtain ⟨x, hx, hnum⟩ := h
    obtain ⟨l, l', rfl⟩ := List.append_of_mem hx
    have hfix : fix16 (elemVal t x) = none := by
      cases hv : elemVal t x with
      | nan _ => rfl
      | inf _ => rfl
      | num n m e => exact absurd hv (hnum n m e)
    have hstep (y : Option Int) : checkStep t y x = none := by
      unfold checkStep
      rw [hfix]
      cases y <;> rfl
    rw [List.foldl_append, List.foldl_cons, hstep, foldl_checkStep_none]
  rw [checkOf_eq, hfold]

theorem fix16_num (p : Bool × Nat × Int) : fix16 (.num p.1 p.2.1 p.2.2) = some (atExp (-16) p) := by
  rw [fix16, atExp, signedAt, Int.sub_neg]

theorem foldl_checkStep_finite {t : EType} {row : List Nat} {ps : List (Bool × Nat × Int)}
    (h : (row.map fun x => some (elemVal t x)) = ps.map finite) (s : Int) :
    row.foldl (checkStep t) (some s) = some (s + (ps.map (atExp (-16))).sum) := by
  induction row generalizing ps s with
  | nil =>
    obtain rfl : ps = [] := List.map_eq_nil_iff.1 h.symm
    simp
  | cons x row ih =>
    cases ps with
    | nil => exact absurd h (by simp)
    | cons p ps =>
      rw [List.map_cons, List.map_cons, List.cons.injEq] at h
      obtain ⟨hx, hrest⟩ := h
      have hstep : checkStep t (some s) x = some (s + atExp (-16) p) := by
        unfold checkStep
        rw [Option.some.inj hx, fix16_num]
      rw [List.foldl_cons, hstep, ih hrest, List.map_cons, List.sum_cons, Int.add_assoc]

theorem checkOf_sum {t : EType} {row : List Nat} {ps : List (Bool × Nat × Int)}
    (h : (row.map fun x => some (elemVal t x)) = ps.map finite) :
    checkOf t row = BitVec.ofInt 64 (ps.map (atExp (-16))).sum := by
  rw [checkOf_eq, foldl_checkStep_finite h, Int.zero_add]

/-! ## The comparison of a group with its check entries (R75) -/

/-- The check sum of a group: activations times check entries. -/
def checkSum (av : List FVal) (ck : List Word) : Option FVal :=
  groupSum false (List.zipWith (fun a c => exactMul a (match checkVal c with
    | some x => .num (x < 0) x.natAbs (-16)
    | none => .nan false)) av ck)

/-- Two sums differ, or one of them is not finite. -/
def differ : Option FVal → Option FVal → Bool
  | some (.num n a e), some (.num n' a' e') => signedAt n a e (min e e') ≠ signedAt n' a' e' (min e e')
  | _, _ => true

/-- An activation or a check entry leaves a group uncompared. -/
def uncompared (av : List FVal) (ck : List Word) : Bool :=
  av.any (fun a => match a with | .num _ _ _ => false | _ => true) || ck.any (·.toNat = 2 ^ 63)

theorem mismatch_eq (av : List FVal) (ck : List Word) (gs : List (Option FVal)) : mismatch av ck gs =
    if uncompared av ck then false else differ (groupSum false gs) (checkSum av ck) := rfl

theorem uncompared_iff (av : List FVal) (ck : List Word) : uncompared av ck = true ↔
    (∃ a ∈ av, ∀ n m e, a ≠ .num n m e) ∨ 0x8000000000000000 ∈ ck := by
  have hmarker (c : Word) : c.toNat = 2 ^ 63 ↔ c = 0x8000000000000000 := BitVec.toNat_inj (y := 0x8000000000000000)
  have hval (a : FVal) : (match a with | .num _ _ _ => false | _ => true) = true ↔ ∀ n m e, a ≠ .num n m e := by
    cases a <;> simp
  simp only [uncompared, Bool.or_eq_true, List.any_eq_true, hval, decide_eq_true_eq, hmarker, exists_eq_right]

theorem not_uncompared {av : List FVal} {ck : List Word} {ps : List (Bool × Nat × Int)} (h : av.map some = ps.map finite)
    (hck : 0x8000000000000000 ∉ ck) : ¬ uncompared av ck = true := by
  rw [uncompared_iff]
  rintro (⟨a, ha, hnum⟩ | hm)
  · have hmem : some a ∈ av.map some := List.mem_map_of_mem ha
    rw [h] at hmem
    obtain ⟨p, -, hp⟩ := List.mem_map.1 hmem
    exact hnum _ _ _ (Option.some.inj hp).symm
  · exact hck hm

/-- A product of an activation and a check entry. -/
def checkProduct (p : Bool × Nat × Int) (c : Word) : Bool × Nat × Int := (p.1 != decide (c.toInt < 0), p.2.1 * c.toInt.natAbs, p.2.2 - 16)

theorem atExp_checkProduct (q : Int) (p : Bool × Nat × Int) (c : Word) :
    atExp q (checkProduct p c) = atExp (q + 16) p * c.toInt := by
  obtain ⟨n, m, e⟩ := p
  have hexp : e - 16 - q = e - (q + 16) := by omega
  generalize hx : c.toInt = x
  simp only [atExp, checkProduct, signedAt, hx, hexp]
  push_cast
  by_cases hneg : x < 0
  · cases n <;> simp [hneg, abs_of_neg hneg] <;> ring
  · cases n <;> simp [hneg, abs_of_nonneg (Int.not_lt.1 hneg)] <;> ring

theorem checkSum_finite {av : List FVal} {ck : List Word} {ps : List (Bool × Nat × Int)} (h : av.map some = ps.map finite)
    (hck : 0x8000000000000000 ∉ ck) : checkSum av ck = groupSum false ((List.zipWith checkProduct ps ck).map finite) := by
  have hval (c : Word) (hc : c ∈ ck) : checkVal c = some c.toInt := if_neg fun hm : c = 0x8000000000000000 => hck (hm ▸ hc)
  rw [checkSum]
  refine congrArg (groupSum false) ?_
  induction av generalizing ps ck with
  | nil =>
    obtain rfl : ps = [] := List.map_eq_nil_iff.1 h.symm
    rfl
  | cons a av ih =>
    cases ps with
    | nil => exact absurd h (by simp)
    | cons p ps =>
      rw [List.map_cons, List.map_cons, List.cons.injEq] at h
      obtain ⟨ha, hrest⟩ := h
      cases ck with
      | nil => rfl
      | cons c ck =>
        obtain rfl : a = .num p.1 p.2.1 p.2.2 := Option.some.inj ha
        rw [List.zipWith_cons_cons, List.zipWith_cons_cons, List.map_cons, hval c List.mem_cons_self,
          ih hrest (fun h => hck (List.mem_cons_of_mem c h)) fun x hx => hval x (List.mem_cons_of_mem c hx)]
        rfl

/-- A compared group mismatches exactly when the exact sums differ. -/
theorem mismatch_finite {av : List FVal} {ck : List Word} {ps ls : List (Bool × Nat × Int)} (h : av.map some = ps.map finite)
    (hck : 0x8000000000000000 ∉ ck) {q : Int} (hq : q ≤ 0) (hls : ∀ l ∈ ls, q ≤ l.2.2) (hps : ∀ p ∈ ps, q ≤ p.2.2 - 16) :
    mismatch av ck (ls.map finite) = true ↔
      (ls.map (atExp q)).sum ≠ (List.zipWith (fun p (c : Word) => atExp (q + 16) p * c.toInt) ps ck).sum := by
  obtain ⟨n, m, e, hl, -, hsum⟩ := groupSum_finite ls
  obtain ⟨n', m', e', hr, -, hsum'⟩ := groupSum_finite (List.zipWith checkProduct ps ck)
  obtain ⟨hqe, hs⟩ := hsum q hq hls
  obtain ⟨hqe', hs'⟩ := hsum' q hq fun x hx => by
    rw [← List.map_uncurry_zip_eq_zipWith] at hx
    obtain ⟨⟨p, c⟩, hpc, rfl⟩ := List.mem_map.1 hx
    exact hps p (List.of_mem_zip hpc).1
  have hprod : ((List.zipWith checkProduct ps ck).map (atExp q)).sum =
      (List.zipWith (fun p (c : Word) => atExp (q + 16) p * c.toInt) ps ck).sum := by
    rw [List.map_zipWith]
    simp only [atExp_checkProduct]
  have hle := le_min hqe hqe'
  have hpos : (2 ^ (min e e' - q).toNat : Int) ≠ 0 := by positivity
  rw [mismatch_eq, if_neg (not_uncompared h hck), checkSum_finite h hck, hl, hr, differ, ← hs, ← hprod, ← hs',
    signedAt_lower n m hle (min_le_left e e'), signedAt_lower n' m' hle (min_le_right e e'), decide_eq_true_eq]
  exact not_congr (mul_left_inj' hpos).symm

/-- Where a group's sum is not finite it mismatches, if it is compared. -/
theorem mismatch_notFinite {av : List FVal} {ck : List Word} {ps : List (Bool × Nat × Int)} (h : av.map some = ps.map finite)
    (hck : 0x8000000000000000 ∉ ck) {gs : List (Option FVal)} (hgs : ∃ g ∈ gs, ∀ n m e, g ≠ some (.num n m e)) :
    mismatch av ck gs = true := by
  have hl : ∀ n m e, groupSum false gs ≠ some (.num n m e) := foldl_addTo_notFinite (.inr hgs) (by simp)
  rw [mismatch_eq, if_neg (not_uncompared h hck)]
  unfold differ
  split
  · next hx _ => exact absurd hx (hl _ _ _)
  · rfl

/-! ## The arithmetic of a matrix product (R70 to R75, R77) -/

theorem matrixArithmetic : MatrixArithmetic := by
  refine ⟨fun ps => ?_, fun bf ps hnan => groupSum_special bf hnan, groupSum_cut, fun acc sa sw => ?_,
    fun w t a sa row n hn => ?_, fun t row => ⟨checkOf_marker, fun ps h => checkOf_sum h⟩, fun av ck gs _ => ⟨fun h => ?_, ?_⟩⟩
  · obtain ⟨n, m, e, hsum, he, hq⟩ := groupSum_finite ps
    exact ⟨n, m, e, hsum, fun q hqe hqs => (hq q (hqe.trans he) hqs).2⟩
  · refine ⟨promote_none rfl, fun g h => promote_nan g h, fun n h => promote_inf_zero n h, ?_⟩
    rintro n m e na ma ea nw mw ew rfl rfl
    obtain ⟨hnan, hinf, hnum⟩ := promote_finite acc n na nw m ma mw e ea ew
    exact ⟨hnan, hinf, hnum, fun ha hw => promote_inf acc n na nw ma mw ea ew ha hw⟩
  · intro g sw
    refine (mmulRow_lane w t a sa row hn).trans ?_
    split
    · next ht => simp only [weightScale, if_pos ht]; rfl
    · next ht => simp only [weightScale, if_neg ht]; rfl
  · rw [mismatch_eq, if_pos ((uncompared_iff av ck).2 h)]
  · intro ps h hck
    refine ⟨mismatch_notFinite h hck, ?_⟩
    rintro ls rfl q hq hls hps
    exact mismatch_finite h hck hq hls hps

end Sys2Proof.Machine
end

section
/-! O35: reservoirs: weights, the chunk that a reservoir takes, feeds, and draws (R313 to R318, R404). -/

namespace Sys2Proof.Machine

/-! ## Columns (R313) -/

/-- The column that is set takes its value, the others stay. -/
theorem col_setLane (v : Vec) {n k : Nat} (x : Nat) (hk : k < 128) :
    col (setLane v n x) k = if k = n then x % 2 ^ 32 else col v k := lane_setLane v x hk

/-! ## Weights (R316, R404) -/

theorem weight_num {x : Nat} {n : Bool} {m : Nat} {e : Int} (h : decodeF .fp32 x = .num n m e) :
    weight x = if n = true ∧ m ≠ 0 then (0, invalid) else (m * 2 ^ (e + 149).toNat, {}) := by
  rw [weight, h]

theorem weight_notFinite {x : Nat} (h : ∀ n m e, decodeF .fp32 x ≠ .num n m e) : weight x = (0, invalid) := by
  unfold weight
  split
  · next hx => exact absurd hx (h _ _ _)
  · rfl

/-! ## A chunk (R316) -/

/-- The search for the winner: the first index whose running sum is beyond the bound. -/
def winStep (bound : Nat) (acc : Option Nat × Nat × Nat) (w : Nat) : Option Nat × Nat × Nat :=
  let p := acc.2.1 + w
  (match acc.1 with
    | some i => some i
    | none => if bound < p * 2 ^ 32 then some acc.2.2 else none, p, acc.2.2 + 1)

theorem foldl_winStep_some (bound i : Nat) (ws : List Nat) (y : Nat × Nat) :
    (ws.foldl (winStep bound) (some i, y)).1 = some i := by
  induction ws generalizing y with
  | nil => rfl
  | cons w ws ih => exact ih _

theorem foldl_winStep (bound : Nat) {ws : List Nat} {i : Nat} (hi : i < ws.length) (p k : Nat)
    (hwin : bound < (p + (ws.take (i + 1)).sum) * 2 ^ 32)
    (hbefore : ∀ j, j < i → (p + (ws.take (j + 1)).sum) * 2 ^ 32 ≤ bound) :
    (ws.foldl (winStep bound) (none, p, k)).1 = some (k + i) := by
  induction ws generalizing i p k with
  | nil => exact absurd hi (Nat.not_lt_zero i)
  | cons w ws ih =>
    cases i with
    | zero =>
      have hstep : winStep bound (none, p, k) w = (some k, p + w, k + 1) := by
        rw [winStep]
        exact congrArg (·, _) (if_pos (by simpa using hwin))
      rw [List.foldl_cons, hstep, foldl_winStep_some, Nat.add_zero]
    | succ i =>
      have hle : (p + w) * 2 ^ 32 ≤ bound := by simpa using hbefore 0 (Nat.succ_pos i)
      have hstep : winStep bound (none, p, k) w = (none, p + w, k + 1) := by
        rw [winStep]
        exact congrArg (·, _) (if_neg (Nat.not_lt.2 hle))
      rw [List.foldl_cons, hstep, ih (Nat.lt_of_succ_lt_succ hi) (p + w) (k + 1), Nat.add_right_comm, Nat.add_assoc]
      · simpa [Nat.add_assoc] using hwin
      · intro j hj
        simpa [Nat.add_assoc] using hbefore (j + 1) (Nat.succ_lt_succ hj)

section
variable (row : Vec) (cc mc c : Nat) (ws : List Nat) (uw ur : Nat)

/-- A chunk of no mass leaves the row. -/
theorem weigh_zero (h : ws.sum = 0) : weigh row cc mc c ws uw ur = (row, {}) := by
  rw [weigh, ← List.sum_eq_foldl]
  exact if_pos h

/-- A chunk that has mass: its mass column, and its candidate column where the chunk is taken. -/
theorem weigh_pos (h : ws.sum ≠ 0) : let wc := roundMass ws.sum
    let m := roundMass ((weight (col row mc)).1 + (weight wc.1).1)
    let win := (ws.foldl (winStep (uw * ws.sum)) (none, 0, 0)).1
    weigh row cc mc c ws uw ur = (setLane (if ur * (weight m.1).1 < (weight wc.1).1 * 2 ^ 32 then
      setLane row cc ((c * 128 + win.getD 127) % 2 ^ 32) else row) mc m.1,
      ((weight (col row mc)).2.plus wc.2).plus m.2) := by
  rw [weigh, ← List.sum_eq_foldl]
  exact if_neg h

end

theorem weigh_takes (row : Vec) {cc mc : Nat} (c : Nat) (ws : List Nat) (uw ur : Nat) (hcc : cc < 128) (hmc : mc < 128)
    (hne : cc ≠ mc) : let r := weigh row cc mc c ws uw ur
    let wc := roundMass ws.sum
    let m := roundMass ((weight (col row mc)).1 + (weight wc.1).1)
    (ws.sum = 0 → r = (row, {})) ∧
    (ws.sum ≠ 0 → col r.1 mc = m.1 % 2 ^ 32 ∧ r.2 = ((weight (col row mc)).2.plus wc.2).plus m.2 ∧
      (∀ k, k < 128 → k ≠ cc → k ≠ mc → col r.1 k = col row k) ∧
      (∀ i, i < ws.length → uw * ws.sum < (ws.take (i + 1)).sum * 2 ^ 32 →
        (∀ j, j < i → (ws.take (j + 1)).sum * 2 ^ 32 ≤ uw * ws.sum) →
        col r.1 cc = if ur * (weight m.1).1 < (weight wc.1).1 * 2 ^ 32 then (c * 128 + i) % 2 ^ 32 else col row cc)) := by
  intro r wc m
  refine ⟨weigh_zero row cc mc c ws uw ur, fun h => ?_⟩
  have hr : r = _ := weigh_pos row cc mc c ws uw ur h
  rw [hr]
  refine ⟨?_, rfl, fun k hk hkc hkm => ?_, fun i hi hwin hbefore => ?_⟩
  · rw [col_setLane _ _ hmc, if_pos rfl]
  · rw [col_setLane _ _ hk, if_neg hkm]
    split
    · rw [col_setLane _ _ hk, if_neg hkc]
    · rfl
  · rw [foldl_winStep _ hi 0 0 (by simpa using hwin) (by simpa using hbefore), col_setLane _ _ hcc, if_neg hne]
    split
    · rw [col_setLane _ _ hcc, if_pos rfl, Nat.mod_mod, Option.getD_some, Nat.zero_add]
    · rfl

/-! ## Feeds (R316, R317) -/

section
variable (row p q : Vec)

/-- The weights of a vector's lanes. -/
def weights (v : Vec) : List (Nat × Causes) := (List.range 128).map fun i => weight (lane 32 v i)

theorem weights_fst (v : Vec) : (weights v).map Prod.fst = (List.range 128).map fun i => (weight (lane 32 v i)).1 := by
  rw [weights, List.map_map]; rfl

theorem weights_snd (v : Vec) : (weights v).map Prod.snd = (List.range 128).map fun i => (weight (lane 32 v i)).2 := by
  rw [weights, List.map_map]; rfl

theorem weights_sub : List.zipWith (fun (x y : Nat × Causes) => x.1 - y.1) (weights p) (weights q) =
    (List.range 128).map fun i => (weight (lane 32 p i)).1 - (weight (lane 32 q i)).1 := by
  rw [weights, weights, List.zipWith_map, List.zipWith_self]

/-- A uniform word of the row's draw. -/
def drawn (row : Vec) (i : Nat) : Nat :=
  (w32 (chacha8 ([5, 6, 7, 8].map (fun n => BitVec.ofNat 32 (col row n)) ++ [0, 0, 0, 0]) (BitVec.ofNat 32 (col row 2)) 0)
    i).toNat

theorem drawn_eq (row : Vec) (i : Nat) : drawn row i = (w32 (rsvBlock row (col row 2) 0) i).toNat := rfl

/-- What a captured lane reads: no value where it weighs nothing. -/
def captured (v : Vec) (d : Nat) : Nat := if (weight (lane 32 v (d % 128))).1 = 0 then 0 else lane 32 v (d % 128)

theorem captured_lt (v : Vec) (d : Nat) : captured v d < 2 ^ 32 := by
  rw [captured]
  split
  · decide
  · exact lane_lt ..

theorem rsvFeed_full (q : Option Vec) (h : 2 ^ 24 ≤ col row 2) : rsvFeed row p q = (row, { sat := 1 }) := if_pos h

theorem rsvFeed_one (h : col row 2 < 2 ^ 24) {r : Vec} {c1 : Causes}
    (ha : weigh row 0 1 (col row 2) ((weights p).map Prod.fst) (drawn row 0) (drawn row 1) = (r, c1)) :
    rsvFeed row p none = (setLane r 2 (col row 2 + 1), (((weights p).map Prod.snd).foldl Causes.plus {}).plus c1) := by
  rw [rsvFeed, if_neg (Nat.not_le.2 h)]
  extract_lets read ps blk u cs
  simp only [drawn_eq] at ha
  have ha' : weigh row 0 1 (col row 2) (ps.map Prod.fst) (u 0) (u 1) = (r, c1) := ha
  rw [ha']
  rfl

theorem rsvFeed_two (h : col row 2 < 2 ^ 24) {r r' : Vec} {c1 c2 : Causes}
    (hb : weigh row 0 1 (col row 2) (List.zipWith (fun (x y : Nat × Causes) => x.1 - y.1) (weights p) (weights q))
      (drawn row 0) (drawn row 1) = (r, c1))
    (hf : weigh r 3 4 (col row 2) ((weights p).map Prod.fst) (drawn row 2) (drawn row 3) = (r', c2)) :
    rsvFeed row p (some q) =
      (setLane (if col row 9 / 128 = col row 2 then
          setLane (setLane r' 10 (captured p (col row 9))) 11 (captured q (col row 9)) else r') 2 (col row 2 + 1),
        (((((weights p).map Prod.snd).foldl Causes.plus {}).plus (((weights q).map Prod.snd).foldl Causes.plus {})).plus
          c1).plus c2) := by
  have hlane (v : Vec) (d : Nat) : (weights v).getD (d % 128) (0, {}) = weight (lane 32 v (d % 128)) :=
    getD_map_range _ (Nat.mod_lt d (by decide)) _
  simp only [captured, ← hlane]
  rw [rsvFeed, if_neg (Nat.not_le.2 h)]
  extract_lets read ps blk u cs d at_
  simp only [drawn_eq] at hb hf
  have hb' : weigh row 0 1 (col row 2) (List.zipWith (fun (x y : Nat × Causes) => x.1 - y.1) ps (read q)) (u 0) (u 1) =
    (r, c1) := hb
  have hf' : weigh r 3 4 (col row 2) (ps.map Prod.fst) (u 2) (u 3) = (r', c2) := hf
  dsimp only
  rw [hb', hf']
  rfl

end

end Sys2Proof.Machine
end

section
/-! O35: what a feed leaves column by column, the reset of a reservoir, draws (R314 to R318, R404). -/

namespace Sys2Proof.Machine

/-! ## What a feed leaves (R316, R317) -/

section
variable (row p q : Vec)

theorem rsvFeed_one_cols (h : col row 2 < 2 ^ 24) :
    let a := weigh row 0 1 (col row 2) ((List.range 128).map fun i => (weight (lane 32 p i)).1) (drawn row 0) (drawn row 1)
    (rsvFeed row p none).2 = (((List.range 128).map fun i => (weight (lane 32 p i)).2).foldl Causes.plus {}).plus a.2 ∧
    col (rsvFeed row p none).1 2 = col row 2 + 1 ∧
    ∀ k, k < 128 → k ≠ 2 → col (rsvFeed row p none).1 k = col a.1 k := by
  rw [← weights_fst, ← weights_snd]
  cases ha : weigh row 0 1 (col row 2) ((weights p).map Prod.fst) (drawn row 0) (drawn row 1) with
  | mk r c1 =>
    rw [rsvFeed_one row p h ha]
    refine ⟨rfl, ?_, fun k hk hk2 => ?_⟩
    · rw [col_setLane _ _ (by decide), if_pos rfl, Nat.mod_eq_of_lt (by omega)]
    · rw [col_setLane _ _ hk, if_neg hk2]

theorem rsvFeed_two_cols (h : col row 2 < 2 ^ 24) :
    let b := weigh row 0 1 (col row 2)
      ((List.range 128).map fun i => (weight (lane 32 p i)).1 - (weight (lane 32 q i)).1) (drawn row 0) (drawn row 1)
    let f := weigh b.1 3 4 (col row 2) ((List.range 128).map fun i => (weight (lane 32 p i)).1) (drawn row 2) (drawn row 3)
    let bad (v : Vec) : Causes := ((List.range 128).map fun i => (weight (lane 32 v i)).2).foldl Causes.plus {}
    let d := col row 9
    (rsvFeed row p (some q)).2 = (((bad p).plus (bad q)).plus b.2).plus f.2 ∧
    col (rsvFeed row p (some q)).1 2 = col row 2 + 1 ∧
    ∀ k, k < 128 → k ≠ 2 → col (rsvFeed row p (some q)).1 k =
      if d / 128 = col row 2 ∧ k = 10 then captured p d else if d / 128 = col row 2 ∧ k = 11 then captured q d
      else col f.1 k := by
  simp only [← weights_fst, ← weights_sub, ← weights_snd]
  cases hb : weigh row 0 1 (col row 2) (List.zipWith (fun (x y : Nat × Causes) => x.1 - y.1) (weights p) (weights q))
    (drawn row 0) (drawn row 1) with
  | mk r c1 =>
    dsimp only
    cases hf : weigh r 3 4 (col row 2) ((weights p).map Prod.fst) (drawn row 2) (drawn row 3) with
    | mk r' c2 =>
      rw [rsvFeed_two row p q h hb hf]
      refine ⟨rfl, ?_, fun k hk hk2 => ?_⟩
      · rw [col_setLane _ _ (by decide), if_pos rfl, Nat.mod_eq_of_lt (by omega)]
      · rw [col_setLane _ _ hk, if_neg hk2]
        by_cases hd : col row 9 / 128 = col row 2
        · rw [if_pos hd, col_setLane _ _ hk, col_setLane _ _ hk, Nat.mod_eq_of_lt (captured_lt p _),
            Nat.mod_eq_of_lt (captured_lt q _)]
          simp only [hd, true_and]
          by_cases h10 : k = 10
          · rw [if_neg (by omega), if_pos h10, if_pos h10]
          · rw [if_neg h10, if_neg h10]
        · simp only [hd, false_and, if_false]

end

/-! ## The reset of a row (R315) -/

theorem rsvInit_col (a b c : Word) {k : Nat} (hk : k < 128) : col (rsvInit a b c) k =
    if k = 12 then b.toNat / 65536 % 2 else if k = 9 then c.toNat / 2 ^ 32 else if k = 8 then c.toNat % 2 ^ 32
    else if k = 7 then b.toNat % 4096 else if k = 6 then a.toNat / 2 ^ 32 else if k = 5 then a.toNat % 2 ^ 32
    else if k = 3 then 0xFFFFFFFF else if k = 0 then 0xFFFFFFFF else 0 := by
  have hzero : col 0 k = 0 := by simp [col, lane]
  have h12 : b.toNat / 65536 % 2 < 2 ^ 32 := by omega
  have h9 : c.toNat / 2 ^ 32 < 2 ^ 32 := by omega
  have h7 : b.toNat % 4096 < 2 ^ 32 := by omega
  have h6 : a.toNat / 2 ^ 32 < 2 ^ 32 := by omega
  have hones : 0xFFFFFFFF < 2 ^ 32 := by decide
  simp only [rsvInit, setCols, List.foldl_cons, List.foldl_nil, col_setLane _ _ hk, Nat.mod_eq_of_lt h12,
    Nat.mod_eq_of_lt h9, Nat.mod_eq_of_lt h7, Nat.mod_eq_of_lt h6, Nat.mod_eq_of_lt hones, Nat.mod_mod, hzero]

/-! ## Draws (R318, R404) -/

/-- The result word of a draw. -/
def drawWord (tok : Nat) (fb acc : Bool) : Word :=
  BitVec.ofNat 64 (tok + (if acc then 2 ^ 32 else 0) + (if fb then 2 ^ 33 else 0) + (if tok = 0xFFFFFFFF then 2 ^ 34 else 0))

section
variable (row : Vec)

theorem rsvDraw_bad : rsvDraw row true = (BitVec.ofNat 64 (0xFFFFFFFF + 2 ^ 34 + 2 ^ 35), {}) := rfl

theorem rsvDraw_plain (h : col row 12 % 2 = 0) : rsvDraw row false =
    (drawWord (col row 0) false (col row 9 ≠ 0xFFFFFFFF && col row 0 = col row 9), {}) := by
  rw [rsvDraw, if_neg (by decide)]
  exact if_pos h

theorem rsvDraw_noDraft (h : col row 12 % 2 = 1) (hd : col row 9 = 0xFFFFFFFF) :
    rsvDraw row false = (drawWord (col row 3) true false, {}) := by
  rw [rsvDraw, if_neg (by decide)]
  dsimp only
  rw [if_neg (by omega), if_pos hd]
  rfl

theorem rsvDraw_draft (h : col row 12 % 2 = 1) (hd : col row 9 ≠ 0xFFFFFFFF) :
    let px := weight (col row 10)
    let qx := weight (col row 11)
    let m := weight (col row 1)
    rsvDraw row false = if (w32 (rsvBlock row 0 1) 0).toNat * qx.1 < px.1 * 2 ^ 32 then
        (drawWord (col row 9) false true, px.2.plus qx.2)
      else (if m.1 ≠ 0 then drawWord (col row 0) false false else drawWord (col row 3) true false,
        (px.2.plus qx.2).plus m.2) := by
  rw [rsvDraw, if_neg (by decide)]
  dsimp only
  rw [if_neg (by omega), if_neg hd]
  rfl

end

/-! ## The arithmetic of a reservoir (R313 to R318, R404) -/

theorem roundMass_eq (x : Nat) : roundMass x = if (encodeF .fp32 .rne (.num false x (-149))).2.ovf = 0
    then ((encodeF .fp32 .rne (.num false x (-149))).1, {}) else (maxFinite .fp32, { sat := 1 }) := rfl

theorem reservoirArithmetic : ReservoirArithmetic := by
  refine ⟨fun x n m e h => ?_, fun x h => weight_notFinite h, roundMass_eq,
    fun row cc mc c ws uw ur hcc hmc hne _ => weigh_takes row c ws uw ur hcc hmc hne, fun row p q => ?_,
    fun a b c k hk => ?_, fun row => ⟨rsvDraw_bad row, ?_⟩⟩
  · rw [weight_num h]
    refine ⟨fun hn => ?_, fun hn hm => if_pos ⟨hn, hm⟩⟩
    rw [if_neg (by rcases hn with rfl | rfl <;> simp)]
    exact ⟨rfl, rfl⟩
  · intro c blk w l bad a b f
    refine ⟨fun h => ⟨rsvFeed_full row p none h, rsvFeed_full row p (some q) h⟩, fun h => ?_⟩
    have hw (v : Vec) (i : Nat) : weight (lane 32 v i) = w v i := rfl
    have hblk (i : Nat) : drawn row i = blk i := rfl
    have hone := rsvFeed_one_cols row p h
    have htwo := rsvFeed_two_cols row p q h
    simp only [captured, hw, hblk] at hone htwo
    clear_value w blk
    obtain ⟨hcs, hc, hcols⟩ := hone
    obtain ⟨hcs', hc', hcols'⟩ := htwo
    exact ⟨hcs, hc, hcols, hcs', hc', hcols'⟩
  · split
    case h_9 _ h0 h3 h5 h6 h7 h8 h9 h12 =>
      rw [rsvInit_col a b c hk, if_neg h12, if_neg h9, if_neg h8, if_neg h7, if_neg h6, if_neg h5, if_neg h3, if_neg h0]
    all_goals exact rsvInit_col a b c hk
  · intro none32 d px qx m u none cand fb accept
    refine ⟨fun h => ?_, fun h hd => ?_, fun h hd => ⟨fun hlt => ?_, fun hle => ?_⟩⟩
    · rw [rsvDraw_plain row h, ← Bool.decide_and]
      by_cases hd : col row 9 ≠ 0xFFFFFFFF ∧ col row 0 = col row 9
      · obtain ⟨hd9, hd0⟩ := hd
        rw [decide_eq_true ⟨hd9, hd0⟩, if_pos ⟨hd9, hd0⟩, hd0]
        rfl
      · rw [decide_eq_false hd, if_neg hd]
        rfl
    · exact rsvDraw_noDraft row h hd
    · exact (rsvDraw_draft row h hd).trans (if_pos hlt)
    · refine (rsvDraw_draft row h hd).trans ((if_neg (Nat.not_lt.2 hle)).trans ?_)
      rfl

end Sys2Proof.Machine
end

section
/-! O35: the M unit (R70 to R77, R290, R291, R297, R303 to R318, R331, R404). -/

namespace Sys2Proof.Machine

/-! ## The queue after a turn (R290) -/

/-- The head of the queue has gone, whatever it did. -/
theorem State.startEntry_queue (s : State) (c : CogIx) (e : MEntry) :
    ((s.startEntry c e).cog c).mq = (s.cog c).mq.tail ∧ ((s.startEntry c e).cog c).mLast = s.clk := by
  have h : s.Turned (s.taken c) c e (s.bank e.bank).t := .taken s c e
  have hcog : (s.taken c).cog c = { s.cog c with mq := (s.cog c).mq.tail, mLast := s.clk } := State.cog_modCog_self ..
  unfold State.startEntry
  split
  · exact (State.runLoad_effect h hcog _ _).1
  · exact (State.runMmul_effect h hcog ((State.OnlyCores.refl s).modCog _ _) _ _ _ _ _).1
  · exact (h.ends _ _ _).1
  · unfold State.runTzero
    split
    · exact ((h.setTile _ _).ends _ _ _).1
    · exact ((h.setTile _ _).ends _ _ _).1
  · exact ((h.setTile _ _).ends _ _ _).1
  · exact (s.runStore_effect c e _ _ _ _).1
  · exact (s.runStore_effect c e _ _ _ _).1
  · exact (h.ends _ _ _).1
  · exact ((h.setTile _ _).ends _ _ _).1
  · exact ((h.setTile _ _).ends _ _ _).1
  · exact ((h.setTile _ _).ends _ _ _).1
  · exact ((h.setTile _ _).ends _ _ _).1
  · exact ((h.setTile _ _).ends _ _ _).1
  · extract_lets v
    split
    exact ((h.setTile _ _).ends _ _ _).1
  · extract_lets v
    split
    exact ((h.setTile _ _).ends _ _ _).1
  · extract_lets v
    split
    exact (h.ends _ _ _).1
  · exact (h.ends _ _ _).1

/-! ## Words and vectors that a turn delivers (R308, R312) -/

theorem WBuf.word_eq (q : WBuf) : q.word = (match q.state with | .empty => 0 | .loading => 1 | .full => 2) +
    (if q.state ≠ .empty ∧ q.own = true then 4 else 0) + (if q.psn then 8 else 0) + 16 * q.fmt.code := by
  unfold WBuf.word bufCode
  cases q.state <;> cases q.own <;> rfl

theorem MEntry.vres_v {e : MEntry} {n : Fin 64} (h : e.dst = some (.v n)) (v : Vec) :
    e.vres v = [.v n v (BitVec.allOnes 4096)] := by
  rw [MEntry.vres, h]

/-! ## Tiles scaled and added in their turn (R309, R310) -/

section
variable {s : State} {c : CogIx} {e : MEntry} {t src : TReg} {rm : RMode}

theorem State.start_tscale {by_ : TscaleSrc} (hi : e.instr = .tscale t rm by_) : ∃ x : Tile,
    let f (r n : Nat) : Nat × Causes := fMul .fp32 rm ((s.bank e.bank).t[t].elem r n) (e.factor by_ r)
    x.Has (fun r n => (f r n).1) (s.bank e.bank).t[t].bad ∧
    s.Tiles (s.startEntry c e) e ((s.bank e.bank).t.set t x) ∧
    s.Ends (s.startEntry c e) c e 16 [] (elemCauses fun r n => (f r n).2) := by
  obtain ⟨hhas, hcs⟩ := (s.bank e.bank).t[t].scale_has rm (e.factor by_)
  cases hx : (s.bank e.bank).t[t].scale rm (e.factor by_) with
  | mk x cs =>
    rw [hx] at hhas hcs
    obtain rfl : cs = _ := hcs
    exact ⟨x, hhas, (State.startEntry_ends ((State.Turned.taken s c e).setTile t x)
      (State.startEntry_tscale hi hx)).2⟩

theorem State.start_tadd (hi : e.instr = .tadd t src rm) : ∃ x : Tile,
    let f (r n : Nat) : Nat × Causes := fAdd .fp32 rm ((s.bank e.bank).t[t].elem r n) ((s.bank e.bank).t[src].elem r n)
    x.Has (fun r n => (f r n).1) (fun r => (s.bank e.bank).t[t].bad r || (s.bank e.bank).t[src].bad r) ∧
    s.Tiles (s.startEntry c e) e ((s.bank e.bank).t.set t x) ∧
    s.Ends (s.startEntry c e) c e 16 [] (elemCauses fun r n => (f r n).2) := by
  obtain ⟨hhas, hcs⟩ := (s.bank e.bank).t[t].add_has (s.bank e.bank).t[src] rm
  cases hx : (s.bank e.bank).t[t].add (s.bank e.bank).t[src] rm with
  | mk x cs =>
    rw [hx] at hhas hcs
    obtain rfl : cs = _ := hcs
    exact ⟨x, hhas, (State.startEntry_ends ((State.Turned.taken s c e).setTile t x) (State.startEntry_tadd hi hx)).2⟩

end

/-! ## The M unit (R290) -/

theorem exec_mUnitStart (s : State) (c : CogIx) : exec (.mUnitStart c) s = match (s.cog c).mq with
    | [] => .next s
    | e :: _ => .next (if s.mayStart c e then s.startEntry c e else s) := rfl

/-- Settles O35: the head of the queue has its effect by `startEntry` and the end of a load by `fillBuf`, an equation an
instruction; what they leave is read off field by field, and the arithmetic is that of `matrixArithmetic` and
`reservoirArithmetic`. -/
theorem mUnitWorks : Obligations.MUnitWorks := by
  unfold Obligations.MUnitWorks
  refine ⟨fun s c => ⟨fun h => ?_, fun e r h hmay => ?_, fun e r h hmay => ⟨s.startEntry c e, ?_, ?_, ?_, ?_⟩,
    fun e due buf fmt cvt w a a' h hi => ?_⟩, fun fmt rm x m _ => ?_, matrixArithmetic, reservoirArithmetic⟩
  · rw [exec_mUnitStart, h]
  · rw [exec_mUnitStart, h]
    exact congrArg Host.Outcome.next (if_neg (by simp [hmay]))
  · rw [exec_mUnitStart, h]
    exact congrArg Host.Outcome.next (if_pos hmay)
  · rw [(s.startEntry_queue c e).1, h, List.tail_cons]
  · exact (s.startEntry_queue c e).2
  · intro b old word row
    have ht : s.Turned (s.taken c) c e b.t := .taken s c e
    have hcog : (s.taken c).cog c = { s.cog c with mq := (s.cog c).mq.tail, mLast := s.clk } := State.cog_modCog_self ..
    split
    · next hi =>
      rw [State.startEntry_mwload hi]
      exact (State.runLoad_effect ht hcog _ _).2
    · next hi => exact (State.startEntry_ends ht (State.startEntry_mwswap hi)).2
    · next t row0 _ _ fmt _ k _ hi =>
      have hcores : s.OnlyCores (s.taken c) := (State.OnlyCores.refl s).modCog _ _
      obtain ⟨-, heffect⟩ := State.runMmul_effect ht hcog hcores t row0.val e.b.toNat fmt k
      rw [State.startEntry_mmul hi]
      refine ⟨(old t).promoted ((s.cog c).buffer e.buf) fmt k e row0.val e.b.toNat, ?_⟩
      have his := (s.bank e.bank).t[t].promoted_is ((s.cog c).buffer e.buf) fmt k e row0.val e.b.toNat
      intro n w len bs f mine per due miss
      have hf (r : Nat) : mmulAt ((s.cog c).buffer e.buf) (s.bank e.bank).t[t] fmt k e row0.val r = f r := rfl
      simp only [hf] at his heffect
      clear_value f
      obtain ⟨htiles, hfree, horder, hfly, hnone, hsome⟩ := heffect
      refine ⟨his, htiles, hfree, horder, hfly, hnone, fun r rs hmiss => ?_⟩
      have hcheck := hsome r rs hmiss
      rw [State.checkRecord_cons s e t hmiss] at hcheck
      exact hcheck
    · next form hi =>
      intro half
      have hhalf (q : WBuf) : q.word = half q := q.word_eq
      have hends := (State.startEntry_ends ht (State.startEntry_mchk (c := c) hi)).2
      cases form with
      | lo t => exact hends
      | hi t => exact hends
      | buf =>
        have hbuf (x : Bool) : ((s.taken c).cog c).buffer x = (s.cog c).buffer x := by rw [hcog]; rfl
        rw [State.mchkWord, hbuf, hbuf, hhalf, hhalf] at hends
        exact hends
    · next hi => exact ⟨_, Tile.reset_is, (State.startEntry_ends (ht.setTile _ _) (State.startEntry_tzero hi)).2⟩
    · next hi => exact ⟨_, Tile.zeroRow_is _ _, (State.startEntry_ends (ht.setTile _ _) (State.startEntry_tzero_row hi)).2⟩
    · next hi => exact ⟨_, Tile.loaded_is _ _ _ _, (State.startEntry_ends (ht.setTile _ _) (State.startEntry_tld hi)).2⟩
    · next hi =>
      rw [State.startEntry_tst hi]
      exact (s.runStore_effect c e _ _ _ _).2
    · next hi =>
      rw [State.startEntry_tcst hi]
      exact (s.runStore_effect c e _ _ _ _).2
    · next t dir k hi =>
      obtain ⟨htiles, hends⟩ := (State.startEntry_ends ht (State.startEntry_trd hi)).2
      refine ⟨htiles, fun n hn => ⟨(old t).line dir k.val, ?_, fun i hk => ⟨cellOf_eq dir k.isLt hk, ?_⟩⟩⟩
      · rw [MEntry.vres_v hn] at hends
        exact hends
      · exact Tile.lane_line _ _ _ hk
    · next t dir k _ hi =>
      obtain ⟨htiles, hends⟩ := (State.startEntry_ends (ht.setTile _ _) (State.startEntry_twr hi)).2
      exact ⟨_, htiles, hends, fun r hr => ⟨Tile.setLine_bad .., fun n hn => Tile.setLine_cells _ dir e.va k.isLt hr hn⟩⟩
    · next hi => exact State.start_tscale hi
    · next hi => exact ⟨_, Tile.move_has _ _ _, (State.startEntry_ends (ht.setTile _ _) (State.startEntry_tmov hi)).2⟩
    · next hi => exact State.start_tadd hi
    · next hi => exact ⟨_, Tile.withRow_is _ _ _, (State.startEntry_ends (ht.setTile _ _) (State.startEntry_rsvInit hi)).2⟩
    · next hi =>
      exact ⟨_, Tile.withRow_is _ _ _,
        (State.startEntry_ends (ht.setTile _ _) (State.startEntry_rsvFeed hi Prod.mk.eta.symm)).2⟩
    · next hi =>
      exact ⟨_, Tile.withRow_is _ _ _,
        (State.startEntry_ends (ht.setTile _ _) (State.startEntry_rsvFeed2 hi Prod.mk.eta.symm)).2⟩
    · next hi => exact (State.startEntry_ends ht (State.startEntry_rsvDraw hi Prod.mk.eta.symm)).2
    · trivial
  · obtain ⟨u, hexec, hbuf, hother, hmem, hloads, hbank⟩ := execMwloadDone_eq h hi
    refine ⟨u, hexec, ?_⟩
    intro q bs wd raw conv check
    have hq : q = (fillBuf ((s.cog c).buffer buf) e fmt cvt).1 := hbuf
    obtain ⟨hstate, hfmt, hpsn, htag⟩ := fillBuf_head ((s.cog c).buffer buf) e fmt cvt
    clear_value q
    subst hq
    refine ⟨hstate, hfmt, hpsn, htag, hother, hmem, hloads, ?_, fun hf => ?_, ?_, ?_⟩
    · rintro rfl
      obtain ⟨hcs, hfill⟩ := fillBuf_mxfp4 ((s.cog c).buffer buf) e cvt
      exact ⟨by rw [hbank, hcs, Bank.addCauses_none], hfill⟩
    · cases cvt with
      | false => exact (fillBuf_plain ((s.cog c).buffer buf) e fmt hf).2.1
      | true => exact (fillBuf_converted ((s.cog c).buffer buf) e fmt hf).2.1
    · rintro hf rfl hwd
      obtain ⟨hcs, -, helem, hcheck⟩ := fillBuf_plain ((s.cog c).buffer buf) e fmt hf
      refine ⟨by rw [hbank, hcs, Bank.addCauses_none], fun k n hk hn => (helem k n hk hn).trans (Nat.mod_eq_of_lt ?_), hcheck⟩
      exact (Nat.mod_lt _ (Nat.two_pow_pos _)).trans_le (Nat.pow_le_pow_right (by decide) hwd)
    · rintro hf rfl
      obtain ⟨hcs, -, helem⟩ := fillBuf_converted ((s.cog c).buffer buf) e fmt hf
      exact ⟨by rw [hbank, hcs]; rfl, helem⟩
  · intro p q
    refine ⟨fun n l e n' l' e' hp hq => tcstElem_finite fmt rm x m hp hq, fun hint hnan => ?_, fun hint hnan => ?_⟩
    · exact (tcstElem_nan fmt rm x m hnan).trans (if_neg (by simp [hint]))
    · exact (tcstElem_nan fmt rm x m hnan).trans (if_pos hint)

end Sys2Proof.Machine
end

section
/-! O39: what an atomic and a store change in this package's memory (R101, R105, R114, R229). -/

namespace Sys2Proof.Machine

/-! ## Bytes and numbers (R149) -/

theorem length_memBytes (m : List Host.Cell) (a n : Nat) : (memBytes m a n).length = n := by
  induction n generalizing a with
  | zero => rfl
  | succ n ih => exact congrArg Nat.succ (ih (a + 1))

theorem two_pow_bits_succ (n : Nat) : 2 ^ (8 * (n + 1)) = 256 * 2 ^ (8 * n) := by
  rw [Nat.mul_succ, Nat.pow_add]
  omega

/-- Bytes hold a number below the power of two of their bits. -/
theorem natOf_lt (bs : List Byte) : natOf bs < 2 ^ (8 * bs.length) := by
  induction bs with
  | nil => decide
  | cons b bs ih =>
    have hb : b.toNat < 256 := b.isLt
    rw [natOf, List.length_cons, two_pow_bits_succ]
    omega

theorem natOf_memBytes_lt (m : List Host.Cell) (a n : Nat) : natOf (memBytes m a n) < 2 ^ (8 * n) := by
  simpa [length_memBytes] using natOf_lt (memBytes m a n)

/-- The bytes of a number give back its low bits. -/
theorem natOf_bytesOf (n w : Nat) : natOf (bytesOf n w) = w % 2 ^ (8 * n) := by
  induction n generalizing w with
  | zero => simp [bytesOf, natOf, Nat.mod_one]
  | succ n ih =>
    rw [bytesOf, natOf, ih, two_pow_bits_succ, Nat.mod_mul, BitVec.toNat_ofNat]
    omega

/-! ## Atomics (R229) -/

section
variable {s : State} {g : Seg} {op : AtomicOp} {x y : Word} (src : Nat) (bank : Option Nat) (addr : Word)

/-- An atomic at clean memory of this package answers the old bytes, and stores where its operation writes. -/
theorem State.serve_atomic_clean (hview : g.view = .plain) (hdev : g.addr < devBase)
    (hclean : poisoned s g.addr g.len = false) (hecc : s.ecc = []) :
    s.serve src bank addr (.atomic g op x y) = (⟨memBytes s.mem g.addr g.len, false, false⟩,
      match atomicNew op (8 * g.len) (natOf (memBytes s.mem g.addr g.len)) x.toNat y.toNat with
      | some n => s.store g.addr (bytesOf g.len n) false
      | none => s) := by
  have hread : s.readSeg src bank addr g = (memBytes s.mem g.addr g.len, false, s) := by
    rw [State.readSeg, if_neg (Nat.not_le.2 hdev), hview]
    simp only [s.eccRead_of_no_errors _ _ _ _ _ hecc, hclean]
    rfl
  simp only [State.serve, hread]
  cases atomicNew op (8 * g.len) (natOf (memBytes s.mem g.addr g.len)) x.toNat y.toNat with
  | none => rfl
  | some n => simp [State.writeSeg, Nat.not_le.2 hdev]

/-- Where the operation writes a number, the place holds its low bits, and no other byte has changed. -/
theorem State.store_number (hwf : s.Inv) (a len n : Nat) :
    natOf (memBytes (s.store a (bytesOf len n) false).mem a len) = n % 2 ^ (8 * len) ∧
      ∀ k, k < a ∨ a + len ≤ k → memByte (s.store a (bytesOf len n) false).mem k = memByte s.mem k := by
  have hback := memBytes_memSets a (bytesOf len n) hwf
  rw [length_bytesOf] at hback
  exact ⟨(congrArg natOf hback).trans (natOf_bytesOf len n),
    fun k hk => memByte_memSets_other a k _ hwf (by rwa [length_bytesOf])⟩

end

/-- The value that a place of w bits holds after an atomic: the new one, or the old one where nothing is stored. -/
def atomicLeaves (op : AtomicOp) (w old a b : Nat) : Nat :=
  match atomicNew op w old a b with
  | some n => n % 2 ^ w
  | none => old

theorem sext64_mod (w x : Nat) : sext64 w (x % 2 ^ w) = sext64 w x := by simp [sext64]

/-- The new value of each operation (R229). -/
theorem atomicLeaves_eq (op : AtomicOp) {w old : Nat} (a b : Nat) (h : old < 2 ^ w) :
    atomicLeaves op w old a b = match op with
      | .add => (old + a) % 2 ^ w
      | .swap => a % 2 ^ w
      | .cas => if old = a % 2 ^ w then b % 2 ^ w else old
      | .and => old &&& (a % 2 ^ w)
      | .or => old ||| (a % 2 ^ w)
      | .xor => old ^^^ (a % 2 ^ w)
      | .min true => Nat.min old (a % 2 ^ w)
      | .max true => Nat.max old (a % 2 ^ w)
      | .min false => if (sext64 w a).slt (sext64 w old) then a % 2 ^ w else old
      | .max false => if (sext64 w old).slt (sext64 w a) then a % 2 ^ w else old
      | .fadd => (fAdd .fp32 .rne old (a % 2 ^ w)).1 % 2 ^ w := by
  have ha : a % 2 ^ w < 2 ^ w := Nat.mod_lt _ (Nat.two_pow_pos w)
  have keep (c : Prop) [Decidable c] : (if c then a % 2 ^ w else old) % 2 ^ w = if c then a % 2 ^ w else old := by
    split <;> exact Nat.mod_eq_of_lt ‹_›
  cases op with
  | add => simp [atomicLeaves, atomicNew]
  | swap => simp [atomicLeaves, atomicNew]
  | cas =>
    simp only [atomicLeaves, atomicNew]
    by_cases hc : old = a % 2 ^ w
    · simp [← hc]
    · simp [hc]
  | and => exact Nat.mod_eq_of_lt (Nat.and_lt_two_pow _ ha)
  | or => exact Nat.mod_eq_of_lt (Nat.or_lt_two_pow h ha)
  | xor => exact Nat.mod_eq_of_lt (Nat.xor_lt_two_pow h ha)
  | min u =>
    cases u with
    | true =>
      refine (keep _).trans ?_
      simp only [if_true, decide_eq_true_eq, Nat.min_def]
      split <;> split <;> omega
    | false => exact (keep _).trans (by simp only [sext64_mod, Bool.false_eq_true, if_false])
  | max u =>
    cases u with
    | true =>
      refine (keep _).trans ?_
      simp only [if_true, decide_eq_true_eq, Nat.max_def]
      split <;> split <;> omega
    | false => exact (keep _).trans (by simp only [sext64_mod, Bool.false_eq_true, if_false])
  | fadd => rfl

/-- What an atomic at clean memory leaves: the value of its operation in its place, every other byte as it was. -/
theorem State.serve_atomic_effect {s : State} {g : Seg} (op : AtomicOp) (x y : Word) (src : Nat) (bank : Option Nat)
    (addr : Word) (hwf : s.Inv) (hview : g.view = .plain) (hdev : g.addr < devBase)
    (hclean : poisoned s g.addr g.len = false) (hecc : s.ecc = []) :
    let r := s.serve src bank addr (.atomic g op x y)
    let old := natOf (memBytes s.mem g.addr g.len)
    r.1.data = memBytes s.mem g.addr g.len ∧
    (∀ a, a < g.addr ∨ g.addr + g.len ≤ a → memByte r.2.mem a = memByte s.mem a) ∧
    natOf (memBytes r.2.mem g.addr g.len) = atomicLeaves op (8 * g.len) old x.toNat y.toNat := by
  intro r old
  have hr : r = _ := State.serve_atomic_clean src bank addr hview hdev hclean hecc
  rw [hr]
  refine ⟨rfl, ?_⟩
  unfold atomicLeaves
  cases atomicNew op (8 * g.len) old x.toNat y.toNat with
  | none => exact ⟨fun _ _ => rfl, rfl⟩
  | some n =>
    obtain ⟨hval, hother⟩ := State.store_number hwf g.addr g.len n
    exact ⟨hother, hval⟩

/-! ## Stores (R101, R105, R114) -/

/-- A device register that is written changes no byte of memory. -/
theorem State.devWrite_mem (s : State) (r : Nat) (w : Word) : (s.devWrite r w).mem = s.mem := by
  unfold State.devWrite
  generalize r % 65536 = off
  dsimp only
  split
  · split
    · rfl
    · rfl
    · rfl
    · exact State.setRetreq_mem ..
    · rfl
  · split
    · rfl
    · split
      · split
        · rfl
        · split <;> rfl
      · rfl

/-- A write to a place keeps the memory's form, and every byte that is not one of the place. -/
theorem State.writeSeg_mem (s : State) (g : Seg) (bs : List Byte) (psn : Bool) (hwf : s.Inv) (hlen : bs.length ≤ g.len) :
    (s.writeSeg g bs psn).Inv ∧ ∀ a, a < g.addr ∨ g.addr + g.len ≤ a →
      memByte (s.writeSeg g bs psn).mem a = memByte s.mem a := by
  unfold State.writeSeg
  split
  · exact ⟨by rw [State.Inv, State.devWrite_mem]; exact hwf, fun _ _ => by rw [State.devWrite_mem]⟩
  · exact ⟨State.store_wf s _ _ _ hwf, fun a ha => memByte_memSets_other _ _ _ hwf (by omega)⟩

/-- Performing one piece of a store. -/
def storePiece (s : State) (o : GOp) : State :=
  match o with
  | .store [g] d p => s.writeSeg g d (p.head?.getD false)
  | _ => s

theorem State.serve_store (s : State) (src : Nat) (bank : Option Nat) (addr : Word) (gs : List Seg) (data : List Byte)
    (psn : List Bool) : (s.serve src bank addr (.store gs data psn)).2 =
      (gopSplit.splitStore gs data psn).foldl storePiece s := rfl

/-- The pieces of a store change no byte that lies in none of its places. -/
theorem storePieces_other (gs : List Seg) (data : List Byte) (psn : List Bool) {s : State} (hwf : s.Inv) {a : Nat}
    (ha : ∀ g ∈ gs, a < g.addr ∨ g.addr + g.len ≤ a) :
    memByte ((gopSplit.splitStore gs data psn).foldl storePiece s).mem a = memByte s.mem a := by
  induction gs generalizing s data psn with
  | nil => rfl
  | cons g gs ih =>
    obtain ⟨hinv, hsame⟩ := s.writeSeg_mem g (data.take g.len) ((psn.take 1).head?.getD false) hwf (List.length_take_le ..)
    exact (ih _ _ hinv fun g' hg' => ha g' (List.mem_cons_of_mem g hg')).trans (hsame a (ha g List.mem_cons_self))

/-- Settles O39: an atomic leaves its operation's value in its place, a store its bytes, and neither anything else. -/
theorem memoryTurns : Obligations.MemoryTurns := by
  refine ⟨?_, fun s src bank addr hwf => ⟨fun gs data psn a ha => ?_, fun g data psn hdev hlen => ?_, fun g data psn hdev => ?_⟩⟩
  · intro s g op x y src bank addr hwf hview hdev hlen hclean hecc r old
    obtain ⟨hdata, hother, hval⟩ :=
      s.serve_atomic_effect op x y src bank addr hwf hview (by omega) hclean hecc
    exact ⟨hdata, hother, hval.trans (atomicLeaves_eq op _ _ (natOf_memBytes_lt ..))⟩
  · rw [State.serve_store]
    exact storePieces_other gs data psn hwf ha
  · have hstore : (s.serve src bank addr (.store [g] data psn)).2.mem = memSets s.mem g.addr (data.take g.len) := by
      rw [State.serve_store]
      simp only [gopSplit.splitStore, List.foldl_cons, List.foldl_nil, storePiece, State.writeSeg]
      rw [if_neg (Nat.not_le.2 hdev)]
      rfl
    rw [hstore, List.take_of_length_le (Nat.le_of_eq hlen), ← hlen]
    exact memBytes_memSets g.addr data hwf
  · rw [State.serve_store]
    simp only [gopSplit.splitStore, List.foldl_cons, List.foldl_nil, storePiece, State.writeSeg]
    rw [if_pos hdev]
    exact State.devWrite_mem ..

end Sys2Proof.Machine
end

section
/-! O46 fails: of an element type of 4 bits VGATHER makes accesses of no bytes, and one of those that starts where near SRAM
ends has an address error in the model, where R84, stated for the end of an access, has none (R84, R104, R289). -/

namespace Sys2Proof.Machine

/-- The state after reset, but for s1, which holds the first address past near SRAM. -/
def pastNearState : State := State.reset.modMe fun b => { b with s := b.s.set 1 0x200000 }

theorem pastNearState_me : pastNearState.me = { Bank.reset with s := Bank.reset.s.set 1 0x200000 } := by
  have hme : State.reset.bank State.reset.cur = Bank.reset := Vector.getElem_replicate _
  exact (State.bank_modBank_self ..).trans (by rw [hme])

theorem pastNearState_rdS : pastNearState.rdS 1 = .ok 0x200000 := by
  simp only [State.rdS, State.free?, pastNearState_me]
  rfl

theorem pastNearState_rdV (n : VReg) (h : n.val < 32) : pastNearState.rdV n = .ok 0 := by
  simp only [State.rdV, State.free?, pastNearState_me, Bank.physV, if_pos h, Bank.readV]
  exact congrArg Except.ok (Vector.getElem_replicate _)

/-- Elements of 4 bits with no mask: the first of them at the base, when every offset is zero. -/
theorem elemAddrs_head (base : Word) : ∃ r, elemAddrs none 4 base 0 = (0, base) :: r := by
  have hrange : List.range (4096 / 4) = 0 :: (List.range 1023).map Nat.succ := List.range_succ_eq_map
  have hfirst : base + sext64 32 (lane 32 (0 : Vec) (0 * 4 / 32)) = base := by
    have hlane : lane 32 (0 : Vec) (0 * 4 / 32) = 0 := by simp [lane]
    rw [hlane]
    exact BitVec.add_zero base
  rw [elemAddrs, hrange]
  simp only [active, if_true, List.filterMap_cons, hfirst]
  exact ⟨_, rfl⟩

/-- The element's own check finds an address error. -/
theorem pastNearState_elemSeg : pastNearState.elemSeg .load 5 0x200000 0 =
    .error (.trap { cause := 0x14, val := 0x200000 }) := by
  simp only [State.elemSeg, pastNearState_me]
  rfl

/-- By R84, which looks at the end of the access, the address has no error. -/
theorem pastNear_not_bad (handler : Bool) : ¬ BadAddress handler 0 0x200000 0 := by
  simp [BadAddress]

/-- What has stopped the bundle of an outcome. -/
def stopOf (o : Host.Outcome State Fault Refusal) : Option Stop :=
  match o with
  | .next t => t.stop
  | _ => none

/-- Refutes O46: a VGATHER of elements of 4 bits at the end of near SRAM stops with cause 0x14, by its element's own check;
the clause on addresses gives it cause 0x15. -/
theorem not_gatherScatter : ¬ Obligations.GatherScatter := by
  intro h
  obtain ⟨-, -, hload, -⟩ := h pastNearState .mxfp4 0 2 1 3 none 0x200000 0 0 pastNearState_rdS
    (pastNearState_rdV 3 (by decide)) (pastNearState_rdV 2 (by decide))
  obtain ⟨r, hes⟩ := elemAddrs_head 0x200000
  obtain ⟨⟨-, hskew, -⟩, hown⟩ := hload [] (0, 0x200000) r hes (fun z hz => absurd hz List.not_mem_nil)
  have h15 := hskew (pastNear_not_bad _) (by decide)
  have h14 := hown _ pastNearState_elemSeg
  exact absurd (congrArg stopOf (h15.symm.trans h14)) (by decide)

end Sys2Proof.Machine
end

section
/-! O53 fails: a copy whose write another package has refused is said to fail; a CPY.GS of an epoch that is known to abort
stops and raises nothing, in the model as in R140 and R247 (R89, R110, R140, R247). -/

namespace Sys2Proof.Machine

/-- A writer handle of ASID 0, name 0, epoch 0. -/
def abortingHandle : Handle :=
  { v := true, snap := false, asid := 0, name := 0, home := 0, pcnt := 0, epoch := 0 }

/-- A CPY.GS under that handle, with one unit on its way. -/
def abortingCopy : Copy :=
  { id := 0, bank := 0, iter := 0, kind := .gs abortingHandle, dst := 0, src := 0, len := 32, count := 0, tbl := 0,
    asid := 0, windows := Vector.replicate 64 Win.reset, promise := 0, missed := false, after := [], index := some [],
    todo := [], waiting := [1], nextAt := 0, held := false, failed := false, epc := 0 }

/-- The write of its unit, sent to another package and not answered. -/
def sentWrite : Access :=
  { id := 1, bank := 0, owner := .copy 0 0 true, kind := .store, cls := .unordered, acq := false, after := [], due := 0,
    todo := [], got := [], psn := false, lost := false, dst := .none, sent := true, epc := 0, addr := 0,
    gs := some abortingHandle }

/-- The state after reset with that copy and that write, in which the package knows that the epoch aborts. -/
def abortingState : State :=
  { State.reset with
    accesses := [sentWrite]
    copies := [abortingCopy]
    wlists := [{ asid := 0, name := 0, epoch := 0, lines := [], aborting := true }] }

/-- The refusal of that write. -/
def refusal : GResp := { id := 1, data := [], psn := false, lost := false, bad := true }

/-- The copy has nothing more to move, and has not failed. -/
theorem abortingState_refused : ∃ u, exec (.globalResponse refusal) abortingState = .next u ∧
    ∃ c ∈ u.copies, c.id = 0 ∧ c.failed = false :=
  ⟨_, rfl, _, List.mem_singleton_self _, rfl, rfl⟩

/-- Refutes O53: another package refuses a write of a CPY.GS whose epoch is known to abort, and the copy does not fail. -/
theorem not_homesAnswer : ¬ Obligations.HomesAnswer := by
  intro h
  obtain ⟨-, -, -, -, -, -, -, -, -, -, -, -, hresponse⟩ := h
  obtain ⟨-, hrefused⟩ := hresponse abortingState refusal sentWrite rfl
  obtain ⟨t, ht, -, -, -, hfailed⟩ := hrefused 0 0 true rfl rfl
  obtain ⟨u, hu, c, hc, hid, hgood⟩ := abortingState_refused
  obtain rfl : t = u := Host.Outcome.next.inj (ht.symm.trans hu)
  exact absurd (hfailed c hc hid) (by rw [hgood]; decide)

end Sys2Proof.Machine
end

section
/-! Where an access stops, check by check: address, alignment and path, the window table, the page walk, and the poison and
pending words that a load meets (R84 to R89, R92 to R96, R103, R104, R107, R112, R113). -/

namespace Sys2Proof.Machine

/-! ## Stops -/

/-- A syllable that stops leaves its bundle stopped. -/
theorem issue_stopped {f : Core} {s : State} {e : Stop} (h : f s = .error e) : issue f s = .next (s.stopped e) :=
  issue_error h

/-! ## Address, alignment, path (R84 to R86) -/

/-- An access of some bytes has the address error of R84. -/
theorem addrError_iff {handler : Bool} {a : Word} {n : Nat} (hn : 0 < n) :
    addrError handler a n = true ↔ BadAddress handler (pathOf a) (a.toNat % 2 ^ 60) n := by
  have hcog : a.toNat % 2 ^ 60 / 2 ^ 51 = cogField a := by unfold cogField; omega
  have hlow : a.toNat % 2 ^ 60 % 2 ^ 51 = a.toNat % 2 ^ 51 := by omega
  unfold addrError BadAddress
  rw [hcog, hlow]
  generalize pathOf a = p
  split
  · simp [sramSize]; omega
  · simp [sramSize]; omega
  · simp only [sramSize, decide_eq_true_eq, Bool.or_eq_true]
    split <;> simp <;> (intro; right; omega)
  · simp; omega
  · simp; omega
  · simp; omega
  · simp; omega
  · simp [or_assoc]
  next h0 h1 h2 h3 h4 h5 h6 h7 =>
    have hbig : 7 < p := by
      rw [← Nat.not_le]
      intro hle
      interval_cases p <;> simp_all
    simp [hbig]

section
variable {handler : Bool} {k : AKind} {a : Word} {n align : Nat}

theorem checkAddr_address (h : addrError handler a n = true) :
    checkAddr handler k a n align = .error (.trap { cause := 0x14, val := a }) := by
  simp [checkAddr, h]

theorem checkAddr_alignment (h : addrError handler a n = false) (hal : a.toNat % align ≠ 0) :
    checkAddr handler k a n align = .error (.trap { cause := 0x15, val := a }) := by
  simp [checkAddr, h, hal]

theorem checkAddr_path (h : addrError handler a n = false) (hal : a.toNat % align = 0) :
    checkAddr handler k a n align = check (kindPath k (pathOf a)) (.trap { cause := 0x16, val := a }) := by
  simp [checkAddr, h, hal]

end

/-- What a load and a store do on a path that is not theirs, and an atomic: the path fault, by the first table of R85 or by
the instruction's own paths. -/
theorem kindPath_load {p : Nat} (h : p ≤ 7) : kindPath .load p = true := decide_eq_true h

/-! ## The window table (R87 to R89) -/

theorem Win.hits_iff {w : Win} {a : Word} {n : Nat} : w.hits a.toNat n = true ↔ w.Holds a n := by
  simp only [Win.hits, Bool.and_eq_true, decide_eq_true_eq]
  exact and_assoc

section
variable {ws : Vector Win 64} {a : Word} {n : Nat}

theorem winFind_none (h : ∀ i : Fin 64, ¬ ws[i].Holds a n) : winFind ws a.toNat n = none := by
  rw [winFind, List.find?_eq_none]
  intro w hw hhit
  obtain ⟨i, hi, rfl⟩ := List.getElem_of_mem hw
  have hi' : i < 64 := by simpa using hi
  exact h ⟨i, hi'⟩ (by simpa using Win.hits_iff.1 hhit)

theorem winFind_first {i : Fin 64} (h : ws[i].Holds a n) (hfirst : ∀ j < i, ¬ ws[j].Holds a n) :
    winFind ws a.toNat n = some ws[i] := by
  rw [winFind, List.find?_eq_some_iff_getElem]
  refine ⟨Win.hits_iff.2 h, i.val, by simp, by simp, fun j hj => ?_⟩
  have hlt : j < 64 := Nat.lt_trans hj i.isLt
  have hno := hfirst ⟨j, hlt⟩ hj
  rw [← Win.hits_iff] at hno
  simpa using hno

end

/-- The kinds of access whose stops this file states. -/
def AKind.plain : AKind → Bool
  | .load | .store | .atomic _ => true
  | _ => false

theorem winPerm_eq_lets {k : AKind} (hk : k.plain = true) (w : Win) : winPerm k w = w.lets k := by
  cases k <;> simp_all [AKind.plain, winPerm, Win.lets, AKind.reads, AKind.writes, Win.bit]

theorem fmtFits_plain {k : AKind} (hk : k.plain = true) (w : Word) : fmtFits k w = true := by
  cases k with
  | fmt f g => cases hk
  | _ => rfl

/-- The place of a program address, as R88 gives it. -/
theorem Win.target_eq (w : Win) (cog a : Nat) : w.target cog a =
    (let off := w.w2.toNat % 2 ^ 25 + (a - w.w0.toNat)
     match w.w0.toNat / 2 ^ 60 with
     | 0 => physAddr cog false off
     | 1 => physAddr cog true off
     | _ => physAddr (w.w2.toNat / 2 ^ 51 % 512) (w.w2.toNat.testBit 50) off) := by
  simp only [Nat.testBit_eq_decide_div_mod_eq]
  rfl

/-! ## Retention (R113) -/

section
variable {s : State} {addr : Word}

theorem State.checkByte_active {x : Nat} (h : s.retState x = .active) : s.checkByte addr x = .ok () := by
  simp [State.checkByte, h]

theorem State.checkByte_retained {x : Nat} (h : s.retState x = .retained) :
    s.checkByte addr x = .error (.hub 0x33 0 (BitVec.ofNat 52 x) none addr) := by
  simp [State.checkByte, h]

theorem State.checkByte_moving {x : Nat} (h : s.retState x = .entering ∨ s.retState x = .exiting) :
    s.checkByte addr x = .error .stall := by
  rcases h with h | h <;> simp [State.checkByte, h]

theorem State.checkRet_active {a n : Nat} (h : s.retState a = .active) (h' : s.retState (a + n - 1) = .active) :
    s.checkRet addr a n = .ok () := by
  simp [State.checkRet, State.checkByte_active h, State.checkByte_active h']

theorem State.checkRet_retained {a : Nat} (n : Nat) (h : s.retState a = .retained) :
    s.checkRet addr a n = .error (.hub 0x33 0 (BitVec.ofNat 52 a) none addr) := by
  simp [State.checkRet, State.checkByte_retained h]

theorem State.checkRet_moving {a : Nat} (n : Nat) (h : s.retState a = .entering ∨ s.retState a = .exiting) :
    s.checkRet addr a n = .error .stall := by
  simp [State.checkRet, State.checkByte_moving h]

end

/-! ## Poison and pending words (R104 items 8 and 9) -/

section
variable {s : State} {a : Word} {g : Seg}

theorem State.checkRead_eq : s.checkRead a g = s.poisonPart (a, g) >>= fun _ => s.pendPart (a, g) := by
  simp only [State.checkRead, State.checkParts, List.forM_eq_forM, List.forM_cons, List.forM_nil]
  cases s.poisonPart (a, g) with
  | error e => rfl
  | ok u => cases s.pendPart (a, g) <;> rfl

theorem State.poisonPart_here (h : s.here g = true) (hdev : g.addr < devBase) : s.poisonPart (a, g) =
    check (!((s.runsRead g).any s.badRun || s.unpackBad g)) (.trap { cause := 0x18, val := a, reads := s.runsRead g }) := by
  have hhost : g.host = false := by
    have := h; simp only [State.here, Bool.and_eq_true, Bool.not_eq_true'] at this; exact this.1
  simp [State.poisonPart, hhost, h, State.checkPoison, hdev]

theorem State.pendPart_here (h : s.here g = true) (hdbg : s.me.memdbg = true) :
    s.pendPart (a, g) = check (!s.coversPending g) (.trap { cause := 0x19, val := a }) := by
  have hhost : g.host = false := by
    have := h; simp only [State.here, Bool.and_eq_true, Bool.not_eq_true'] at this; exact this.1
  simp [State.pendPart, hhost, h, hdbg]

/-- A plain place that lies in a poisoned line, or in a codeword past correction, is bad. -/
theorem State.badRun_plain (hview : g.view = .plain)
    (h : poisoned s g.addr g.len = true ∨ ∃ e ∈ s.ecc, 2 ≤ e.bits ∧ e.meets g.addr g.len = true) :
    s.runsRead g = [(g.addr, g.len)] ∧ (s.runsRead g).any s.badRun = true := by
  have hr : s.runsRead g = [(g.addr, g.len)] := by simp [State.runsRead, hview]
  refine ⟨hr, ?_⟩
  rw [hr]
  simpa [State.badRun] using h

/-- A store on its way to a byte of the same 64-bit word makes the word pending. -/
theorem State.coversPending_of (hhere : s.here g = true) (hdev : g.addr < devBase) (hstk : physStk g.addr = false)
    {x : Access} (hx : x ∈ s.accesses) {hs : List Seg} {bs : List Byte} {psn : List Bool}
    (hop : GOp.store hs bs psn ∈ x.todo)
    {h : Seg} (hh : h ∈ hs) (hthere : s.here h = true) (hlen : 0 < g.len) (hlen' : 0 < h.len)
    (hlo : h.addr / 8 ≤ (g.addr + g.len - 1) / 8) (hhi : g.addr / 8 ≤ (h.addr + h.len - 1) / 8) :
    s.coversPending g = true := by
  have hg : g.addr / 8 ≤ (g.addr + g.len - 1) / 8 := Nat.div_le_div_right (by omega)
  have hh' : h.addr / 8 ≤ (h.addr + h.len - 1) / 8 := Nat.div_le_div_right (by omega)
  have hword : pendingWord s (Nat.max (g.addr / 8) (h.addr / 8)) = true := by
    simp only [pendingWord, Bool.or_eq_true, List.any_eq_true]
    refine .inl ⟨x, hx, .store hs bs psn, hop, List.any_eq_true.2 ⟨h, hh, ?_⟩⟩
    simp only [hthere, Bool.true_and, Bool.and_eq_true, decide_eq_true_eq]
    exact ⟨Nat.le_max_right .., Nat.max_le.2 ⟨hhi, hh'⟩⟩
  simp only [State.coversPending, hhere, hdev, hstk, decide_true, Bool.not_false, Bool.true_and, List.any_eq_true,
    List.mem_range]
  have hmax : Nat.max (g.addr / 8) (h.addr / 8) ≤ (g.addr + g.len - 1) / 8 := Nat.max_le.2 ⟨hg, hlo⟩
  refine ⟨Nat.max (g.addr / 8) (h.addr / 8) - g.addr / 8, by omega, ?_⟩
  rwa [Nat.add_sub_cancel' (Nat.le_max_left ..)]

/-- A load whose stops are those of its part's checks meets items 8 and 9 of R104. -/
theorem State.loadMeets_of {o : Host.Outcome State Fault Refusal}
    (hstop : ∀ e, s.checkRead a g = .error e → o = .next (s.stopped e)) : s.LoadMeets o a g := by
  have hpsn {e : Stop} (h : s.poisonPart (a, g) = .error e) : o = .next (s.stopped e) :=
    hstop e (by rw [State.checkRead_eq, h]; rfl)
  have hpend {e : Stop} (h : s.poisonPart (a, g) = .ok ()) (h' : s.pendPart (a, g) = .error e) : o = .next (s.stopped e) :=
    hstop e (by rw [State.checkRead_eq, h]; exact h')
  refine ⟨fun hhere hdev => ?_, fun hhere hhost => ?_, fun hhost => ?_⟩
  · have hpart := State.poisonPart_here (a := a) hhere hdev
    refine ⟨fun hbad => hpsn ?_, fun hview hbad => ?_,
      fun hgood hdbg hlen hstk x hx hs bs psn hop h hh hthere hl hlo hhi => ?_⟩
    · rw [hpart]
      exact check_error (by rw [Bool.not_eq_false', Bool.or_eq_true]; exact hbad)
    · obtain ⟨hr, hany⟩ := State.badRun_plain hview hbad
      rw [← hr]
      refine hpsn (hpart.trans (check_error ?_))
      rw [hany]; rfl
    · refine hpend (hpart.trans (check_ok ?_)) ((State.pendPart_here hhere hdbg).trans (check_error ?_))
      · simpa [not_or] using hgood
      · rw [State.coversPending_of hhere hdev hstk hx hop hh hthere hlen hl hlo hhi]; rfl
  · have hasked : s.poisonPart (a, g) = s.asked .load (.probe [g]) a [] >>= fun r =>
        check (!r.psn) (.trap { cause := 0x18, val := a }) := by
      simp [State.poisonPart, hhost, hhere]
    refine ⟨fun hnone => hpsn ?_, fun x hx => ⟨fun hp => hpsn ?_, fun hp hdbg hlost => hpend ?_ ?_⟩⟩
    · rw [hasked, State.asked, hnone]; rfl
    · rw [hasked, State.asked, hx]; exact check_error (by simp [hp])
    · rw [hasked, State.asked, hx]; exact check_ok (by simp [hp])
    · simp [State.pendPart, hdbg, hhost, hhere, State.asked, hx, hlost, Except.bind, bind]
  · have hasked : s.poisonPart (a, g) =
        s.asked .load (.load [g]) a (s.after { kind := .load, addr := a } [g]) >>= fun r =>
        if r.fail then hostTrap a else check (!r.lost) (.trap { cause := 0x18, val := a }) := by
      simp [State.poisonPart, hhost]
    refine ⟨fun hnone => hpsn ?_, fun x hx => ⟨fun hf => hpsn ?_, fun hf hl => hpsn ?_⟩⟩
    · rw [hasked, State.asked, hnone]; rfl
    · rw [hasked, State.asked, hx]; exact if_pos hf
    · rw [hasked, State.asked, hx]
      exact (if_neg (by simp [hf])).trans (check_error (by simp [hl]))

end

end Sys2Proof.Machine
end

section
/-! Where an access stops once its path has passed: the places of a near access through the window table, and those of a
global one through the TLB and the page walk (R87 to R89, R92 to R96, R99, R103, R104, R113, R115, R137, R390). -/

namespace Sys2Proof.Machine

/-! ## One part -/

section
variable {s : State} {c : XCtx} {k : AKind} {a : Word} {n : Nat} {more : Word → Seg → Except Stop Unit}

theorem State.xlateWith_local (hn : n ≠ 0) (hp : pathOf a ≤ 2) :
    s.xlateWith c k a n more = s.xlateLocal c k a n >>= fun g => more a g >>= fun _ => pure [g] := by
  have h7 : pathOf a ≠ 7 := by omega
  simp [State.xlateWith, hn, h7, hp]

/-- An access within one granule has one part. -/
theorem parts_one {off n k : Nat} (hn : n ≠ 0) (h : off % 65536 + n ≤ 65536) : parts off n (k + 2) = [(off, n)] := by
  have hm : Nat.min n (65536 - off % 65536) = n := Nat.min_eq_left (by omega)
  simp [parts, hn, hm]

/-- The address of the first part of an access on a global path is the access's own. -/
theorem partAddr_self (a : Word) : BitVec.ofNat 64 (a.toNat / 2 ^ 52 * 2 ^ 52 + a.toNat % 2 ^ 52) = a := by
  rw [Nat.div_add_mod', BitVec.ofNat_toNat, BitVec.setWidth_eq]

theorem State.xlateWith_global (hn : n ≠ 0) (hlo : 3 ≤ pathOf a) (hhi : pathOf a ≤ 6)
    (hone : a.toNat % 2 ^ 52 % 65536 + n ≤ 65536) :
    s.xlateWith c k a n more =
      s.xlatePart c k a (a.toNat % 2 ^ 52) n >>= fun g => more a g >>= fun _ => pure [g] := by
  have h7 : pathOf a ≠ 7 := by omega
  have h2 : ¬ pathOf a ≤ 2 := by omega
  simp only [State.xlateWith, hn, h7, h2, if_false, parts_one hn hone, List.mapM_cons, List.mapM_nil, partAddr_self]
  cases s.xlatePart c k a (a.toNat % 2 ^ 52) n with
  | error e => rfl
  | ok g => rw [ok_bind, ok_bind]; cases more a g <;> rfl

end

/-! ## Near places -/

/-- The place that an entry of the window table gives n bytes at a. -/
def State.winSeg (s : State) (c : XCtx) (w : Win) (a : Word) (n : Nat) : Seg :=
  { pkg := s.hub.pkg.toNat, host := false, addr := w.target c.cog.val a.toNat, len := n, cls := ordOf w.w3, view := .plain }

section
variable {s : State} {k : AKind} {a : Word} {n : Nat} {w : Win}

theorem State.xlateLocal_miss {c : XCtx} (h : winFind c.wins a.toNat n = none) :
    s.xlateLocal c k a n = .error (.trap { cause := 0x10, val := a }) := by
  simp [State.xlateLocal, h, memTrap, trapOf]

theorem State.xlateLocal_denied {c : XCtx} (h : winFind c.wins a.toNat n = some w) (hw : winPerm k w = false) :
    s.xlateLocal c k a n = .error (.trap { cause := 0x11, val := a }) := by
  simp [State.xlateLocal, h, hw, memTrap, trapOf]

theorem State.xlateLocal_found {c : XCtx} (hk : k.plain = true) (hc : ∀ x, c.place x = true)
    (h : winFind c.wins a.toNat n = some w) (hw : winPerm k w = true) :
    s.xlateLocal c k a n = s.checkRet a (w.target c.cog.val a.toNat) n >>= fun _ => pure (s.winSeg c w a n) := by
  simp [State.xlateLocal, h, hw, fmtFits_plain hk, hc, State.winSeg]

/-- A plain access on paths 0x0 to 0x2 stops where translation and its further check stop it. -/
theorem State.localStops_of {o : Host.Outcome State Fault Refusal} {more : Word → Seg → Except Stop Unit}
    (hk : k.plain = true) (hn : n ≠ 0) (hp : pathOf a ≤ 2)
    (hstop : ∀ e, s.xlateWith s.ctx k a n more = .error e → o = .next (s.stopped e))
    (hmore : k = .load → more = s.checkRead) : s.LocalStops k a n o := by
  have hlocal {e : Stop} (h : s.xlateLocal s.ctx k a n = .error e) : o = .next (s.stopped e) :=
    hstop e (by rw [State.xlateWith_local hn hp, h]; rfl)
  refine ⟨fun hnone => hlocal (State.xlateLocal_miss (winFind_none hnone)), fun i => ?_⟩
  intro w hhold hfirst
  have hfind : winFind s.ctx.wins a.toNat n = some w := winFind_first hhold hfirst
  have hfound (hlets : w.lets k = true) : s.xlateLocal s.ctx k a n =
      s.checkRet a (w.target s.cur.cog.val a.toNat) n >>= fun _ => pure (s.winSeg s.ctx w a n) :=
    State.xlateLocal_found hk (fun _ => rfl) hfind ((winPerm_eq_lets hk w).trans hlets)
  refine ⟨fun hlets => hlocal (State.xlateLocal_denied hfind ((winPerm_eq_lets hk w).trans hlets)), fun hlets => ?_⟩
  specialize hfound hlets
  intro off p g
  have hpt : w.target s.cur.cog.val a.toNat = p := Win.target_eq w s.cur.cog.val a.toNat
  have hseg : s.winSeg s.ctx w a n = g := by simp only [State.winSeg, g, ← hpt]; rfl
  rw [hpt, hseg] at hfound
  refine ⟨fun hret => hlocal ?_, fun hmov => hlocal ?_, fun hact hact' => ?_⟩
  · rw [hfound, State.checkRet_retained n hret]; rfl
  · rw [hfound, State.checkRet_moving n hmov]; rfl
  · have hok : s.xlateLocal s.ctx k a n = .ok g := by rw [hfound, State.checkRet_active hact hact']; rfl
    refine ⟨by rw [State.xlate, State.xlateWith_local hn hp, hok]; rfl, fun hload => State.loadMeets_of fun e he => ?_⟩
    refine hstop e ?_
    rw [State.xlateWith_local hn hp, hok, ok_bind, hmore hload, he]
    rfl

end

/-! ## Global places -/

/-- The place that a translation gives n bytes at an offset, on a path. -/
def TlbEntry.seg (e : TlbEntry) (path off n : Nat) : Seg :=
  let (pkg, host, x) := e.target off
  { pkg := pkg, host := host, addr := x, len := n, cls := ordOf e.w1,
    view := if e.w1.getLsbD 17 then .groupset else if path = 5 then .packed else .plain }

section
variable {s : State} {k : AKind} {a : Word} {off n : Nat} {e : TlbEntry}

theorem State.lookup_hit {c : XCtx} (h : s.tlbFind c.cog c.asid off = some e) : s.lookup c a off = .ok e := by
  simp [State.lookup, h]

theorem State.lookup_miss {c : XCtx} (h : s.tlbFind c.cog c.asid off = none) (he : c.engine = false)
    (hw : c.walked ≠ some (c.asid, off / 65536)) : s.lookup c a off = .error (.walk c.asid (BitVec.ofNat 52 off)) := by
  simp [State.lookup, h, he, hw]

theorem State.forM_checkByte {l : List Nat} (h : ∀ x ∈ l, s.retState x = .active) :
    l.forM (s.checkByte a) = .ok () := by
  induction l with
  | nil => rfl
  | cons x xs ih =>
    rw [List.forM_eq_forM, List.forM_cons, State.checkByte_active (h x (List.mem_cons_self ..)), ok_bind]
    exact ih fun y hy => h y (List.mem_cons_of_mem _ hy)

section
variable {c : XCtx} (h : s.tlbFind c.cog c.asid off = none) (hw : c.walked = some (c.asid, off / 65536))
  (hact : ∀ x ∈ s.walked c.asid off, s.retState x = .active)
include h hw hact

theorem State.lookup_leaf (hres : s.walk c.asid off = .leaf e) : s.lookup c a off = .ok e := by
  simp only [State.lookup, h, hw, decide_true, Bool.or_true, if_true, State.forM_checkByte hact, ok_bind, hres]

theorem State.lookup_notPresent (hres : s.walk c.asid off = .notPresent) :
    s.lookup c a off = .error (.hub 0x30 c.asid (BitVec.ofNat 52 off) none a) := by
  simp only [State.lookup, h, hw, decide_true, Bool.or_true, if_true, State.forM_checkByte hact, ok_bind, hres]

theorem State.lookup_malformed (hres : s.walk c.asid off = .malformed) :
    s.lookup c a off = .error (.hub 0x32 c.asid (BitVec.ofNat 52 off) none a) := by
  simp only [State.lookup, h, hw, decide_true, Bool.or_true, if_true, State.forM_checkByte hact, ok_bind, hres]

end

theorem State.lookup_of_translates (h : s.Translates off e) : s.lookup s.ctx a off = .ok e := by
  rcases h with h | ⟨hmiss, hw, hact, hleaf⟩
  · exact State.lookup_hit h
  · exact State.lookup_leaf hmiss hw hact hleaf

theorem AKind.plain_cases (hk : k.plain = true) : k = .load ∨ k = .store ∨ ∃ op, k = .atomic op := by
  cases k <;> simp [AKind.plain] at hk ⊢

/-- What the leaf refuses a plain access on paths 0x3 to 0x5: the path fault of R85, R96 and R137. -/
theorem leafPath_plain (hk : k.plain = true) (path : Nat) (w1 : Word) : leafPath k path w1 = true ↔
    ¬ ((path = 3 ∧ w1.toNat / 2 ^ 15 % 4 ≠ 0) ∨ (path = 5 ∧ w1.toNat / 2 ^ 15 % 4 = 0) ∨
      (path = 4 ∧ w1.getLsbD 3 = false) ∨ (k ≠ .load ∧ w1.getLsbD 17 = true)) := by
  change leafPath k path w1 = true ↔ ¬ ((path = 3 ∧ cmpOf w1 ≠ 0) ∨ (path = 5 ∧ cmpOf w1 = 0) ∨
    (path = 4 ∧ abit w1 3 = false) ∨ (k ≠ .load ∧ abit w1 17 = true))
  rcases AKind.plain_cases hk with rfl | rfl | ⟨op, rfl⟩ <;>
    simp [leafPath, ← Decidable.imp_iff_not_or, and_assoc]

theorem AKind.plain_writes (hk : k.plain = true) : k.writes = true ↔ k ≠ .load := by
  rcases AKind.plain_cases hk with rfl | rfl | ⟨op, rfl⟩ <;> simp [AKind.writes]

/-- One part of a plain access once its translation is known (R104 items 4 to 8). -/
theorem State.xlatePart_found (hk : k.plain = true) (h : s.lookup s.ctx a off = .ok e) :
    s.xlatePart s.ctx k a off n = (do
      check (leafPath k (pathOf a) e.w1) (.trap { cause := 0x16, val := a })
      check (!k.writes || (e.w1.getLsbD 4 && !e.w1.getLsbD 14))
        (.hub 0x31 s.me.asidcur (BitVec.ofNat 52 off)
          (if e.w1.getLsbD 14 && e.w1.getLsbD 4 then some (e.w1.toNat / 2 ^ 20 % 4096) else none) a)
      check (!e.w1.getLsbD 18) (.trap { cause := 0x18, val := a, psn := some (e.place off) })
      check (!(e.seg (pathOf a) off n).host || (s.hub.busMaster && s.hub.hostUp))
        (.trap { cause := 0x1A, sub := Config.hostCause.toNat, val := a })
      (if s.here (e.seg (pathOf a) off n) then s.checkRets a (e.seg (pathOf a) off n) else .ok ()) >>= fun _ =>
        .ok (e.seg (pathOf a) off n)) := by
  have hfits : check (fmtFits k e.w1 && s.ctx.place (off % 65536)) (.trap { cause := 0x17, val := a }) = .ok () :=
    check_ok (by rw [fmtFits_plain hk]; rfl)
  have hhere : (s.here (e.seg (pathOf a) off n) = true) = 
      ((e.target off).1 = s.hub.pkg.toNat ∧ ¬ (e.target off).2.1 = true) := propext (by simp [State.here, TlbEntry.seg, and_comm])
  simp only [State.xlatePart, h, ok_bind, hfits, hhere]
  by_cases hx : (e.target off).1 = s.hub.pkg.toNat ∧ ¬ (e.target off).2.1 = true
  · simp only [if_pos hx]; rfl
  · simp only [if_neg hx]; rfl

theorem State.here_host {g : Seg} (h : s.here g = true) : g.host = false := by
  simp only [State.here, Bool.and_eq_true, Bool.not_eq_true'] at h
  exact h.1

theorem State.checkRets_plain {g : Seg} (h : g.view ≠ .groupset) : s.checkRets a g = s.checkRet a g.addr g.len := by
  unfold State.checkRets
  split
  · contradiction
  · rfl

theorem AKind.lets_or {w1 : Word} (h : k = .load ∨ w1.getLsbD 4 = true ∧ w1.getLsbD 14 = false) :
    (!k.writes || (w1.getLsbD 4 && !w1.getLsbD 14)) = true := by
  rcases h with rfl | ⟨h4, h14⟩
  · rfl
  · simp only [h4, h14, Bool.not_false, Bool.and_true, Bool.or_true]

theorem AKind.denied_or (hk : k.plain = true) {w1 : Word}
    (h : k ≠ .load ∧ (w1.getLsbD 4 = false ∨ w1.getLsbD 14 = true)) : (!k.writes || (w1.getLsbD 4 && !w1.getLsbD 14)) = false := by
  rw [(AKind.plain_writes hk).2 h.1]
  rcases h.2 with h4 | h14
  · rw [h4]; rfl
  · rw [h14, Bool.not_true, Bool.and_false]; rfl

/-- The place of a translation, once the leaf's path, its write permission, poison and the host let the access through. -/
theorem State.xlatePart_reached (hk : k.plain = true) (h : s.lookup s.ctx a off = .ok e)
    (hpath : leafPath k (pathOf a) e.w1 = true) (hwr : k = .load ∨ e.w1.getLsbD 4 = true ∧ e.w1.getLsbD 14 = false)
    (hpsn : e.w1.getLsbD 18 = false)
    (hhost : (e.seg (pathOf a) off n).host = true → (s.hub.busMaster && s.hub.hostUp) = true) :
    s.xlatePart s.ctx k a off n = (if s.here (e.seg (pathOf a) off n) then s.checkRets a (e.seg (pathOf a) off n)
      else .ok ()) >>= fun _ => .ok (e.seg (pathOf a) off n) := by
  have hb : (!(e.seg (pathOf a) off n).host || (s.hub.busMaster && s.hub.hostUp)) = true := by
    cases hx : (e.seg (pathOf a) off n).host with
    | false => rfl
    | true => exact hhost hx
  rw [State.xlatePart_found hk h, check_ok hpath, check_ok (AKind.lets_or hwr), check_ok (by rw [hpsn]; rfl), check_ok hb]
  rfl

/-- A plain access within one granule on paths 0x3 to 0x6 stops where translation and its further check stop it. -/
theorem State.globalStops_of {n : Nat} {o : Host.Outcome State Fault Refusal} {more : Word → Seg → Except Stop Unit}
    (hk : k.plain = true) (hn : n ≠ 0) (hlo : 3 ≤ pathOf a) (hhi : pathOf a ≤ 6)
    (hone : a.toNat % 2 ^ 52 % 65536 + n ≤ 65536)
    (hstop : ∀ e, s.xlateWith s.ctx k a n more = .error e → o = .next (s.stopped e))
    (hmore : k = .load → more = s.checkRead) : s.GlobalStops k a n o := by
  set off := a.toNat % 2 ^ 52 with hoff
  have hpart {x : Stop} (h : s.xlatePart s.ctx k a off n = .error x) : o = .next (s.stopped x) :=
    hstop x (by rw [State.xlateWith_global hn hlo hhi hone, h]; rfl)
  have hlook {x : Stop} (h : s.lookup s.ctx a off = .error x) : o = .next (s.stopped x) :=
    hpart (by rw [State.xlatePart, h]; rfl)
  refine ⟨fun hmiss hwalk => hlook (State.lookup_miss hmiss rfl hwalk),
    fun hmiss hdone hact => ⟨fun hw => hlook (State.lookup_notPresent hmiss hdone hact hw),
      fun hw => hlook (State.lookup_malformed hmiss hdone hact hw)⟩, fun e he => ?_⟩
  intro bit path cmp refused denied
  have hlook' : s.lookup s.ctx a off = .ok e := State.lookup_of_translates he
  set g := e.seg (pathOf a) off n with hg
  have hfound := State.xlatePart_found (n := n) hk hlook'
  have hpass (hr : ¬ refused) : leafPath k (pathOf a) e.w1 = true := (leafPath_plain hk _ _).2 hr
  have hlets (hd : ¬ denied) : k = .load ∨ e.w1.getLsbD 4 = true ∧ e.w1.getLsbD 14 = false := by
    by_cases hl : k = .load
    · exact .inl hl
    · exact .inr ⟨Bool.not_eq_false _ ▸ fun h4 => hd ⟨hl, .inl h4⟩,
        Bool.not_eq_true _ ▸ fun h14 => hd ⟨hl, .inr h14⟩⟩
  have hplace : ¬ refused → ¬ denied → e.w1.getLsbD 18 = false → (s.here g = true → g.view ≠ .groupset →
      (s.retState g.addr = .retained → o = .next (s.stopped (.hub 0x33 0 (BitVec.ofNat 52 g.addr) none a))) ∧
      (s.retState g.addr = .entering ∨ s.retState g.addr = .exiting → o = .next (s.stopped .stall))) ∧
      (k = .load → (g.host = true → (s.hub.busMaster && s.hub.hostUp) = true) →
        (s.here g = true → s.checkRets a g = .ok ()) → s.LoadMeets o a g) := by
    intro hr hd hpsn
    have hreach := State.xlatePart_reached (n := n) hk hlook' (hpass hr) (hlets hd) hpsn
    refine ⟨fun hhere hview => ?_, fun hload hup hret => ?_⟩
    · specialize hreach fun h => absurd h (by rw [State.here_host hhere]; exact Bool.false_ne_true)
      rw [if_pos hhere, State.checkRets_plain hview] at hreach
      refine ⟨fun hx => hpart ?_, fun hx => hpart ?_⟩
      · rw [hreach, State.checkRet_retained _ hx]; rfl
      · rw [hreach, State.checkRet_moving _ hx]; rfl
    · have hok : s.xlatePart s.ctx k a off n = .ok g := by
        rw [hreach hup]
        by_cases hx : s.here g = true
        · rw [if_pos hx, hret hx]; rfl
        · rw [if_neg hx]; rfl
      refine State.loadMeets_of fun x hx => hstop x ?_
      rw [State.xlateWith_global hn hlo hhi hone, hok, ok_bind, hmore hload, hx]
      rfl
  refine ⟨fun hr => hpart ?_, fun hr hd => hpart ?_, fun hr hd => ⟨fun hpsn => hpart ?_,
    fun hpsn => ⟨fun hh hup => hpart ?_, hplace hr hd hpsn⟩⟩⟩
  · rw [hfound, check_error (Bool.eq_false_iff.2 fun h => (leafPath_plain hk (pathOf a) e.w1).1 h hr)]; rfl
  · rw [hfound, check_ok (hpass hr), check_error (AKind.denied_or hk hd)]; rfl
  · rw [hfound, check_ok (hpass hr), check_ok (AKind.lets_or (hlets hd)), show e.w1.getLsbD 18 = true from hpsn]; rfl
  · have hb : (!g.host || (s.hub.busMaster && s.hub.hostUp)) = false := by rw [show g.host = true from hh, hup]; rfl
    rw [hfound, check_ok (hpass hr), check_ok (AKind.lets_or (hlets hd)), show e.w1.getLsbD 18 = false from hpsn,
      check_error hb]; rfl

end

end Sys2Proof.Machine
end

section
/-! The order of an access's checks, and how one whose checks have passed ends its issue: what its bundle asks first, and the
access that it leaves under way (R84 to R86, R103 to R106, R121, R214, R215, R225, R226, R292). -/

namespace Sys2Proof.Machine

/-! ## The checks of one access in their order (R104) -/

section
variable {s : State} {k : AKind} {a : Word} {n align : Nat} {o : Host.Outcome State Fault Refusal}

/-- Items 1 to 3 of R104 decide in their order. -/
theorem State.rowStops_of {far : Nat → Prop} (hn : 0 < n)
    (hstop : ∀ e, checkAddr s.me.hmode k a n align = .error e → o = .next (s.stopped e))
    (hfar : ∀ p ≤ 7, far p → kindPath k p = false) : s.RowStops o a n align 0 far := by
  have hgood (h : ¬ BadAddress s.me.hmode (a.toNat / 2 ^ 60) (a.toNat % 2 ^ 60) n) :
      addrError s.me.hmode a n = false := Bool.eq_false_iff.2 fun hb => h ((addrError_iff hn).1 hb)
  have hpath (h : ¬ BadAddress s.me.hmode (a.toNat / 2 ^ 60) (a.toNat % 2 ^ 60) n) : pathOf a ≤ 7 := by
    by_contra h7
    exact h (.inr (.inr (.inr (.inr (.inr (Nat.lt_of_not_le h7))))))
  refine ⟨fun hb => hstop _ (checkAddr_address ((addrError_iff hn).2 hb)),
    fun hb hal => hstop _ (checkAddr_alignment (hgood hb) hal), fun hb hal hf => hstop _ ?_⟩
  rw [checkAddr_path (hgood hb) hal]
  exact check_error (hfar (pathOf a) (hpath hb) hf)

/-- Items 1 to 3 of R104, the instruction's own paths, and what translation finds. -/
def State.checked (s : State) (k : AKind) (a : Word) (n : Nat) (fits : Bool) (more : Word → Seg → Except Stop Unit) :
    Except Stop (List Seg) := do
  checkAddr s.me.hmode k a n n
  check fits (.trap { cause := 0x16, val := a })
  s.xlateWith s.ctx k a n more

/-- Aligned bytes lie within one granule. -/
theorem oneGranule_of_aligned (hdvd : n ∣ 65536) (hal : a.toNat % n = 0) : a.toNat % 2 ^ 52 % 65536 + n ≤ 65536 := by
  obtain ⟨q, hq⟩ := hdvd
  have hmod : a.toNat % 2 ^ 52 % 65536 = a.toNat % 65536 := Nat.mod_mod_of_dvd _ ⟨2 ^ 36, by norm_num⟩
  have hmul : a.toNat % 65536 % n = 0 := by rw [Nat.mod_mod_of_dvd _ ⟨q, hq⟩, hal]
  obtain ⟨r, hr⟩ := Nat.dvd_of_mod_eq_zero hmul
  have hlt : n * r < n * q := by rw [← hr, ← hq]; exact Nat.mod_lt _ (by norm_num)
  have hle : n * (r + 1) ≤ n * q := Nat.mul_le_mul_left n (Nat.lt_of_mul_lt_mul_left hlt)
  rw [hmod, hr, hq]
  exact hle

/-- What stops an access on the paths of its instruction, in the order of R104. -/
structure State.PathStops (s : State) (o : Host.Outcome State Fault Refusal) (k : AKind) (a : Word) (n : Nat)
    (mine : Prop) : Prop where
  address : BadAddress s.me.hmode (a.toNat / 2 ^ 60) (a.toNat % 2 ^ 60) n → s.Traps o 0x14 a
  align   : ¬ BadAddress s.me.hmode (a.toNat / 2 ^ 60) (a.toNat % 2 ^ 60) n → a.toNat % n ≠ 0 → s.Traps o 0x15 a
  path    : ¬ BadAddress s.me.hmode (a.toNat / 2 ^ 60) (a.toNat % 2 ^ 60) n → a.toNat % n = 0 → ¬ mine → s.Traps o 0x16 a
  near    : ¬ BadAddress s.me.hmode (a.toNat / 2 ^ 60) (a.toNat % 2 ^ 60) n → a.toNat % n = 0 → mine →
    a.toNat / 2 ^ 60 ≤ 2 → s.LocalStops k a n o
  far     : ¬ BadAddress s.me.hmode (a.toNat / 2 ^ 60) (a.toNat % 2 ^ 60) n → a.toNat % n = 0 → mine →
    3 ≤ a.toNat / 2 ^ 60 → a.toNat / 2 ^ 60 ≤ 6 → s.GlobalStops k a n o

theorem State.pathStops_of {fits : Bool} {mine : Prop} {more : Word → Seg → Except Stop Unit} (hk : k.plain = true)
    (hn : 0 < n) (hdvd : n ∣ 65536) (hstop : ∀ e, s.checked k a n fits more = .error e → o = .next (s.stopped e))
    (hmine : pathOf a ≤ 7 → (mine ↔ kindPath k (pathOf a) = true ∧ fits = true))
    (hmore : k = .load → more = s.checkRead) : s.PathStops o k a n mine := by
  have haddr {e : Stop} (h : checkAddr s.me.hmode k a n n = .error e) : o = .next (s.stopped e) :=
    hstop e (by rw [State.checked, h]; rfl)
  obtain ⟨h14, h15, -⟩ := State.rowStops_of (align := n) (far := fun _ => False) hn (fun e => haddr) (by simp)
  have hle (h : ¬ BadAddress s.me.hmode (a.toNat / 2 ^ 60) (a.toNat % 2 ^ 60) n) : pathOf a ≤ 7 := by
    by_contra h7
    exact h (.inr (.inr (.inr (.inr (.inr (Nat.lt_of_not_le h7))))))
  have hpath (hb : ¬ BadAddress s.me.hmode (a.toNat / 2 ^ 60) (a.toNat % 2 ^ 60) n) (hal : a.toNat % n = 0) :
      checkAddr s.me.hmode k a n n = check (kindPath k (pathOf a)) (.trap { cause := 0x16, val := a }) :=
    checkAddr_path (Bool.eq_false_iff.2 fun h => hb ((addrError_iff hn).1 h)) hal
  have hrun (hb : ¬ BadAddress s.me.hmode (a.toNat / 2 ^ 60) (a.toNat % 2 ^ 60) n) (hal : a.toNat % n = 0) (hm : mine)
      (e : Stop) (he : s.xlateWith s.ctx k a n more = .error e) : o = .next (s.stopped e) := by
    obtain ⟨hkp, hf⟩ := (hmine (hle hb)).1 hm
    exact hstop e (by rw [State.checked, hpath hb hal, check_ok hkp, ok_bind, check_ok hf, ok_bind, he])
  refine ⟨h14, h15, fun hb hal hm => ?_, fun hb hal hm hp => State.localStops_of hk hn.ne' hp (hrun hb hal hm) hmore,
    fun hb hal hm hlo hhi => State.globalStops_of hk hn.ne' hlo hhi (oneGranule_of_aligned hdvd hal) (hrun hb hal hm) hmore⟩
  rw [hmine (hle hb), not_and, Bool.not_eq_true] at hm
  refine hstop _ ?_
  rw [State.checked, hpath hb hal]
  by_cases hkp : kindPath k (pathOf a) = true
  · rw [check_ok hkp, ok_bind, check_error (hm hkp)]; rfl
  · rw [check_error (Bool.eq_false_iff.2 hkp)]; rfl

theorem State.PathStops.accessStops {glob : Bool} (h : s.PathStops o k a n
    ((if glob then 3 ≤ a.toNat / 2 ^ 60 ∧ a.toNat / 2 ^ 60 ≤ 6 else a.toNat / 2 ^ 60 ≤ 2 ∨ a.toNat / 2 ^ 60 = 7) ∧
      (k = .store → a.toNat / 2 ^ 60 ≠ 5))) : s.AccessStops k glob a n o :=
  ⟨h.address, h.align, fun hb hal => ⟨h.path hb hal, h.near hb hal, h.far hb hal⟩⟩

/-- The paths of a load or a store, and of its instruction. -/
theorem pathFits_iff {glob : Bool} (hk : k = .load ∨ k = .store) (h : pathOf a ≤ 7) :
    ((if glob then 3 ≤ a.toNat / 2 ^ 60 ∧ a.toNat / 2 ^ 60 ≤ 6 else a.toNat / 2 ^ 60 ≤ 2 ∨ a.toNat / 2 ^ 60 = 7) ∧
      (k = .store → a.toNat / 2 ^ 60 ≠ 5)) ↔ kindPath k (pathOf a) = true ∧ pathFits glob a = true := by
  change ((if glob then 3 ≤ pathOf a ∧ pathOf a ≤ 6 else pathOf a ≤ 2 ∨ pathOf a = 7) ∧ (k = .store → pathOf a ≠ 5)) ↔ _
  rcases hk with rfl | rfl <;> cases glob <;> simp [kindPath, pathFits, h] <;> tauto

/-- A load on paths 0x0 to 0x2 only. -/
theorem State.nearStops_of (hn : 0 < n)
    (haddr : ∀ e, checkAddr s.me.hmode .load a n n = .error e → o = .next (s.stopped e))
    (hpath : pathOf a ≤ 7 → 2 < pathOf a → checkAddr s.me.hmode .load a n n = .ok () →
      o = .next (s.stopped (.trap { cause := 0x16, val := a })))
    (hrun : checkAddr s.me.hmode .load a n n = .ok () → pathOf a ≤ 2 → ∀ e, s.xlateLoad .load a n = .error e →
      o = .next (s.stopped e)) : s.NearStops a n o := by
  obtain ⟨h14, h15, -⟩ := State.rowStops_of (align := n) (far := fun _ => False) hn haddr (by simp)
  have hok (hb : ¬ BadAddress s.me.hmode (a.toNat / 2 ^ 60) (a.toNat % 2 ^ 60) n) (hal : a.toNat % n = 0) :
      pathOf a ≤ 7 ∧ checkAddr s.me.hmode .load a n n = .ok () := by
    have hle : pathOf a ≤ 7 := by
      by_contra h7
      exact hb (.inr (.inr (.inr (.inr (.inr (Nat.lt_of_not_le h7))))))
    refine ⟨hle, ?_⟩
    rw [checkAddr_path (Bool.eq_false_iff.2 fun h => hb ((addrError_iff hn).1 h)) hal]
    exact check_ok (kindPath_load hle)
  refine ⟨⟨h14, h15, fun hb hal hfar => ?_⟩, fun hb hal hp => ?_⟩
  · obtain ⟨hle, hc⟩ := hok hb hal
    exact hpath hle hfar hc
  · obtain ⟨-, hc⟩ := hok hb hal
    exact State.localStops_of rfl hn.ne' hp (hrun hc hp) fun _ => rfl

end

/-! ## How an access ends its issue -/

section
variable {s v : State} {f : Core} {k : Ask} {gs : List Seg} {op : GOp} {rs : List BusyReg}

/-- An access that is performed a free time later stands in the list. -/
theorem State.later_asks (v : State) (k : Ask) (gs : List Seg) (ops : List GOp) (after : List Nat) (rs : List BusyReg) :
    Asks v (v.later.2.sendOps k gs ops after v.later.1 rs).on rs k.kind ops after k.addr k.dst :=
  State.sendOps_asks v.later.2 k gs ops after rs
    (show v.clk ≤ v.clk + 1 + Config.freeDelay v.free by omega)

theorem State.sendAccess_eq {ops : List GOp} (h : v.preOps k op (v.after k (gopSegs op)) = .ok ops) :
    v.sendAccess k op rs =
      .ok (v.later.2.sendOps k (gopSegs op) ops (v.after k (gopSegs op)) v.later.1 rs) := by
  rw [State.sendAccess, h]; rfl

/-- A syllable whose rest is an interlocked access. -/
theorem State.interlocks_of (hf : f s = v.sendAccess k op rs) : s.Interlocks v (issue f s) k op rs := by
  refine ⟨fun ops h => ⟨_, issue_ok (hf.trans (State.sendAccess_eq h)), State.later_asks ..⟩, fun e h => ?_⟩
  exact issue_error (hf.trans (by rw [State.sendAccess, h]; rfl))

/-- A load whose places do not lie in host memory has nothing to ask. -/
theorem State.preOps_load {after : List Nat} (h : ∀ g ∈ gs, g.host = false) :
    v.preOps k (.load gs) after = .ok (gs.map fun g => .load [g]) := by
  change gs.mapM (v.loadPart k.addr after) = _
  induction gs with
  | nil => rfl
  | cons g gs ih =>
    have hg : v.loadPart k.addr after g = .ok (.load [g]) := by
      rw [State.loadPart, if_neg (by rw [h g (List.mem_cons_self ..)]; exact Bool.false_ne_true)]; rfl
    rw [List.mapM_cons, hg, ok_bind, ih fun x hx => h x (List.mem_cons_of_mem _ hx)]
    rfl

/-- A load of checked places, its operands read at v (R105, R121, R143, R225, R235). -/
theorem State.loadEnds_of {res : List Byte → List Res} {cs : List Byte → Causes}
    (hf : f s = v.loadAt k gs rs res cs) : s.LoadEnds v (issue f s) k gs rs res cs := by
  refine ⟨fun hp ha => issue_ok (hf.trans ?_), fun hp ha => ?_, fun hp => ?_⟩
  · simp only [State.loadAt, if_pos hp, ha, List.isEmpty_nil, if_true]
    rfl
  · refine ⟨_, issue_ok (hf.trans ?_), v.sendOps_asks k gs [.load gs] (v.after k gs) rs (Nat.le_refl _)⟩
    simp only [State.loadAt, if_pos hp]
    rw [if_neg (by simpa using ha)]
    rfl
  · have hsend : f s = v.sendAccess k (.load gs) rs := by
      rw [hf, State.loadAt, if_neg (Nat.not_le.2 hp)]
    exact ⟨State.interlocks_of hsend, fun hh => (State.interlocks_of hsend).1 _ (State.preOps_load hh)⟩

/-- The last access is the new one, at its time; no load of the M unit is held back for a store. -/
theorem State.sendOps_getLast (hk : k.kind ≠ .load) (gs : List Seg) (ops : List GOp) (after : List Nat) (due : Nat)
    (rs : List BusyReg) :
    (v.sendOps k gs ops after due rs).on.accesses.getLast? = some (v.newAccess k gs ops after due) := by
  have h : (v.sendOps k gs ops after due rs).accesses = v.accesses ++ [v.newAccess k gs ops after due] := by
    simp only [State.sendOps, hk, if_false]; rfl
  exact (congrArg List.getLast? h).trans (List.getLast?_concat ..)

/-- A store to checked places (R105, R121). -/
theorem State.storeEnds_of {bs : List Byte} (hk : k.kind ≠ .load) (hf : f s = v.storeAt k gs bs) :
    v.StoreEnds (issue f s) k gs bs := by
  refine ⟨fun hp => ⟨_, issue_ok (hf.trans (if_pos hp)), v.sendOps_asks k gs _ _ [] (Nat.le_add_right ..),
    fun w hw => ?_⟩, fun hp => ?_⟩
  · rw [State.sendOps_getLast hk] at hw
    obtain rfl := Option.some.inj hw
    rfl
  · have hsend : f s = v.sendAccess k (.store gs bs []) [] := hf.trans (if_neg (Nat.not_le.2 hp))
    exact (State.interlocks_of hsend).1 _ rfl

end

end Sys2Proof.Machine
end

section
/-! O36: the loads, the page walk entry by entry, and what a stop leaves behind: a fault that the hub answers and an access that
the bundle makes first (R92 to R96, R99, R103 to R105, R214, R215, R226). -/

namespace Sys2Proof.Machine

/-! ## The page walk (R92 to R96) -/

section
variable {s : State} {asid : BitVec 12} {off : Nat} {table l n : Nat}

/-- The entry that a walk from a table reads at a level. -/
def State.walkEntry (s : State) (asid : BitVec 12) (off table l : Nat) : Word × Word :=
  s.entry (table + 16 * walkIndex asid off l)

theorem State.walkFrom_absent (h : (s.walkEntry asid off table l).2.getLsbD 0 = false) :
    s.walkFrom asid off table l (n + 1) = .notPresent :=
  if_pos (by rw [abit]; exact congrArg Bool.not h)

theorem State.walkFrom_bad (h : (s.walkEntry asid off table l).2.getLsbD 0 = true)
    (hbad : entryBad s l (walkIndex asid off l) (s.walkEntry asid off table l).1 (s.walkEntry asid off table l).2 = true) :
    s.walkFrom asid off table l (n + 1) = .malformed :=
  (if_neg (by rw [abit, Bool.not_eq_true', Bool.not_eq_false]; exact h)).trans (if_pos hbad)

theorem State.walkFrom_good (h : (s.walkEntry asid off table l).2.getLsbD 0 = true)
    (hbad : entryBad s l (walkIndex asid off l) (s.walkEntry asid off table l).1 (s.walkEntry asid off table l).2 = false) :
    s.walkFrom asid off table l (n + 1) =
      if (s.walkEntry asid off table l).2.toNat / 2 % 4 = 1 then
        .leaf (leafEntry asid off l (walkIndex asid off l) (s.walkEntry asid off table l).1 (s.walkEntry asid off table l).2)
      else s.walkFrom asid off (granuleAddr (s.walkEntry asid off table l).1) (l + 1) n :=
  (if_neg (by rw [abit, Bool.not_eq_true', Bool.not_eq_false]; exact h)).trans
    (if_neg (by rw [Bool.not_eq_true]; exact hbad))

/-- The index below level 0 (R93). -/
theorem walkIndex_succ (hl : l ≤ 2) : walkIndex asid off (l + 1) = off / 2 ^ (40 - 12 * l) % 4096 := by
  interval_cases l <;> rfl

/-- The walk reaches the entry that EntryAt names. -/
theorem State.walk_of_entryAt {a : Nat} (hl : l ≤ 3) (h : s.EntryAt asid off l a) :
    ∃ table, a = table + 16 * walkIndex asid off l ∧ s.walk asid off = s.walkFrom asid off table l (3 - l + 1) := by
  induction l generalizing a with
  | zero =>
    obtain ⟨hv, rfl⟩ := h
    exact ⟨granuleAddr s.ptroot, rfl, if_neg (by rw [hv]; exact Bool.false_ne_true)⟩
  | succ l ih =>
    obtain ⟨b, hb, hv, hgood, hkind, rfl⟩ := h
    obtain ⟨table, rfl, hwalk⟩ := ih (by omega) hb
    refine ⟨granuleAddr (s.walkEntry asid off table l).1, by rw [walkIndex_succ (by omega)]; rfl, ?_⟩
    rw [hwalk, State.walkFrom_good hv hgood, if_neg (fun h1 => absurd (h1.symm.trans hkind) (by decide))]
    congr 1
    omega

/-- The parts of R96 that the statement names make an entry malformed. -/
theorem entryBad_of {idx : Nat} {w0 w1 : Word}
    (h : 2 ≤ w1.toNat / 2 % 4 ∨ (w1.toNat / 2 % 4 = 1 ∧ l < 2) ∨ (w1.toNat / 2 % 4 = 0 ∧ l = 3) ∨
      w1.toNat / 64 % 4 = 3 ∨ 2 ≤ cmpOf w1 ∨ 10 ≤ fmtOf w1 ∨ (w1.getLsbD 19 = true ∧ l < 3) ∨ w1.toNat / 2 ^ 32 ≠ 0 ∨
      w1.getLsbD 5 = true ∨ entryBad s l idx w0 w1 = true) : entryBad s l idx w0 w1 = true := by
  rcases h with h | ⟨h, h'⟩ | ⟨h, h'⟩ | h | h | h | ⟨h, h'⟩ | h | h | h
  case inr.inr.inr.inr.inr.inr.inr.inr.inr => exact h
  all_goals simp_all [entryBad, abit]

/-- The page of a leaf (R95). -/
theorem leafEntry_gives {w0 w1 : Word} (hl : l = 2 ∨ l = 3) : let e := leafEntry asid off l (walkIndex asid off l) w0 w1
    e.asid = asid ∧ e.w1 = w1 ∧ e.page = off / 2 ^ e.bits ∧
    e.bits = (if l = 2 then 28 else if w1.getLsbD 19 then 21 else 16) ∧ (e.bits ≠ 21 → e.w0 = w0) ∧
    (e.bits = 21 → e.w0 = if w1.getLsbD 3 then BitVec.ofNat 64 (w0.toNat - off / 65536 % 32 * 65536)
      else BitVec.ofNat 64 (w0.toNat - off / 65536 % 32 * 2 ^ 33)) := by
  intro e
  have hidx : off / 2 ^ 16 % 4096 % 32 = off / 65536 % 32 := by omega
  rcases hl with rfl | rfl
  · have he : e = ⟨asid, 28, off / 2 ^ 28, w0, w1⟩ := rfl
    rw [he]
    exact ⟨rfl, rfl, rfl, rfl, fun _ => rfl, fun h => absurd h (by decide : (28 : Nat) ≠ 21)⟩
  · cases h19 : w1.getLsbD 19 with
    | false =>
      have he : e = ⟨asid, 16, off / 2 ^ 16, w0, w1⟩ := by
        simp only [e, leafEntry, abit, h19]; rfl
      rw [he]
      exact ⟨rfl, rfl, rfl, rfl, fun _ => rfl, fun h => absurd h (by decide : (16 : Nat) ≠ 21)⟩
    | true =>
      have he : e = ⟨asid, 21, off / 2 ^ 21, BitVec.ofNat 64 (if w1.getLsbD 3
          then w0.toNat - off / 65536 % 32 * 65536 else w0.toNat - off / 65536 % 32 * 2 ^ 33), w1⟩ := by
        simp only [e, leafEntry, abit, h19, walkIndex, hidx]; rfl
      rw [he]
      refine ⟨rfl, rfl, rfl, rfl, fun h => absurd rfl h, fun _ => ?_⟩
      exact apply_ite (BitVec.ofNat 64) _ _ _

end

theorem pageWalk : PageWalk := by
  refine fun s asid off => ⟨fun hv => if_pos (by rw [hv]; rfl), fun l a hl hat => ?_⟩
  obtain ⟨table, rfl, hwalk⟩ := State.walk_of_entryAt hl hat
  rw [hwalk]
  refine ⟨State.walkFrom_absent, fun hv => ⟨fun hbad => State.walkFrom_bad hv (entryBad_of hbad), fun hkind hgood => ?_⟩⟩
  have hleaf : l = 2 ∨ l = 3 := by
    by_contra hne
    have hbad := entryBad_of (s := s) (l := l) (idx := walkIndex asid off l)
      (w0 := (s.walkEntry asid off table l).1) (.inr (.inl ⟨hkind, by omega⟩))
    exact absurd (hgood.symm.trans hbad) Bool.false_ne_true
  exact ⟨_, (State.walkFrom_good hv hgood).trans (if_pos hkind), leafEntry_gives hleaf⟩

/-! ## A fault that the hub answers (R103) -/

/-- Nothing that a fault at the hub leaves alone differs: banks, the current bank, memory, and who holds the cores. -/
structure State.HubOnly (s t : State) : Prop where
  banks  : t.banks = s.banks
  cur    : t.cur = s.cur
  mem    : t.mem = s.mem
  holder : ∀ c, (t.cog c).holder = (s.cog c).holder
  held   : t.hub.held = s.hub.held

theorem State.HubOnly.trans {s t u : State} (h : s.HubOnly t) (h' : t.HubOnly u) : s.HubOnly u :=
  ⟨h'.banks.trans h.banks, h'.cur.trans h.cur, h'.mem.trans h.mem, fun c => (h'.holder c).trans (h.holder c),
    h'.held.trans h.held⟩

theorem State.modCog_holder (s : State) (c d : CogIx) {f : Cog → Cog} (hf : ∀ x, (f x).holder = x.holder) :
    ((s.modCog c f).cog d).holder = (s.cog d).holder := by
  rw [State.cog_modCog]
  split
  · next h => rw [hf, h]
  · rfl

theorem State.retStart_hubOnly (s : State) (c : CogIx) : s.HubOnly (s.retStart c) := by
  unfold State.retStart
  split
  · exact ⟨rfl, rfl, rfl, fun _ => rfl, rfl⟩
  · next k _ =>
    refine ⟨rfl, rfl, rfl, fun d => ?_, rfl⟩
    exact State.modCog_holder s.draw.2 c d (f := fun x => { x with
      retEnd := s.clk + 1 + Config.freeDelay s.free % 240000
      regions := x.regions.set k (if x.regions[k] = .active then .entering else .exiting) }) fun _ => rfl

theorem State.setRetreq_hubOnly (s : State) (c : CogIx) (r : BitVec 9) : s.HubOnly (s.setRetreq c r) :=
  State.HubOnly.trans (t := s.modCog c fun x => { x with retreq := r })
    ⟨rfl, rfl, rfl, fun d => State.modCog_holder s c d fun _ => rfl, rfl⟩ (State.retStart_hubOnly _ c)

/-- The state in which the hub holds one more fault. -/
def State.withHeld (s : State) (x : FaultParty × BitVec 12 × BitVec 52 × Nat) : State :=
  { s with hub := { s.hub with held := s.hub.held ++ [x] } }

theorem State.toHub_hubOnly (s : State) (p : FaultParty) (n : Nat) (a : BitVec 12) (g : BitVec 52) (o : Option Nat) :
    (s.withHeld (p, a, g, n)).HubOnly (s.toHub p n a g o) := by
  have refl (t : State) : t.HubOnly t := ⟨rfl, rfl, rfl, fun _ => rfl, rfl⟩
  unfold State.toHub
  dsimp only
  split
  · split
    · exact refl _
    · exact State.setRetreq_hubOnly _ _ _
  · split
    · split
      · exact ⟨rfl, rfl, rfl, fun _ => rfl, rfl⟩
      · exact ⟨rfl, rfl, rfl, fun _ => rfl, rfl⟩
    · split
      · exact refl _
      · exact ⟨rfl, rfl, rfl, fun _ => rfl, rfl⟩

theorem hubFaultHeld : HubFaultHeld := by
  intro s cause asid goff owner val t
  set u := s.modMe fun b => { b with mode := .waitHub cause val s.slot, walk := none } with hu
  set v := if u.draining u.cur then u else u.yield u.cur with hv
  have hon : (v.withHeld (.bank u.cur, asid, goff, cause)).HubOnly (v.toHub (.bank u.cur) cause asid goff owner) :=
    State.toHub_hubOnly ..
  have ht : t = { v.toHub (.bank u.cur) cause asid goff owner with stop := some (.hub cause asid goff owner val) } := rfl
  have hume : u.me = { s.me with mode := .waitHub cause val s.slot, walk := none } := State.bank_modBank_self ..
  have huoth (b : BankIx) (hb : b ≠ s.cur) : u.bank b = s.bank b := State.bank_modBank_ne s _ hb.symm
  have hvcur : v.cur = s.cur := by
    rw [hv]; split
    · rfl
    · exact State.yield_cur u _
  have hvmem : v.mem = s.mem := by
    rw [hv]; split
    · rfl
    · exact (u.yield_effect u.cur).1
  have hvhub : v.hub = s.hub := by
    rw [hv]; split
    · rfl
    · exact State.yield_hub u _
  have hvoth (b : BankIx) (hb : b ≠ s.cur) : v.bank b = s.bank b := by
    rw [hv]; split
    · exact huoth b hb
    · exact ((State.yield_onlyBank u _).2 b hb).trans (huoth b hb)
  have hvme : (v.bank s.cur).mode = u.me.mode ∧ (v.bank s.cur).regs = u.me.regs ∧ (v.bank s.cur).pc = u.me.pc := by
    rw [hv]; split
    · exact ⟨rfl, rfl, rfl⟩
    · obtain ⟨-, -, clk, n, hbank, -⟩ := u.yield_effect u.cur
      rw [show s.cur = u.cur from rfl, hbank]
      exact ⟨rfl, rfl, rfl⟩
  have hbank (b : BankIx) : t.bank b = v.bank b := by
    rw [ht]; simp only [State.bank]; rw [hon.banks]; rfl
  have hcur : t.cur = s.cur := by rw [ht]; exact hon.cur.trans hvcur
  obtain ⟨hmode, hregs, hpc⟩ := hvme
  refine ⟨?_, ?_, ?_, ?_, fun b hb => (hbank b).trans (hvoth b hb), ?_, fun hd => ?_⟩
  · rw [State.me, hcur, hbank, hmode, hume]
  · rw [State.me, hcur, hbank, hregs, hume]; rfl
  · rw [State.me, hcur, hbank, hpc, hume]
  · rw [ht]; exact hon.mem.trans hvmem
  · rw [ht]
    change _ ∈ (v.toHub (.bank u.cur) cause asid goff owner).hub.held
    rw [hon.held]
    exact List.mem_append_right _ (List.mem_singleton.2 rfl)
  · have hdr : u.draining u.cur = false := by
      rw [← hd]
      simp only [State.draining, State.mBusy, show u.bank u.cur = _ from hume]
      rfl
    have hvy : v = u.yield u.cur := by rw [hv, hdr]; rfl
    have hh : (t.cog s.cur.cog).holder = (v.cog s.cur.cog).holder := by rw [ht]; exact hon.holder _
    have := (u.yield_effect u.cur).2.1
    rw [← hvy] at this
    rw [State.holds, show ((t.cog s.cur.cog).holder) = _ from hh]
    exact this

/-! ## An access that the bundle makes first (R103, R104) -/

/-- The access that a bundle makes first, and the answer it waits for. -/
def State.firstAccess (s : State) (kind : AccKind) (op : GOp) (a : Word) (after : List Nat) : Access :=
  { id := s.nextId, bank := s.cur, owner := .pre, kind := kind, cls := .unordered, acq := false, after := after,
    due := s.clk + 1 + Config.freeDelay s.free, todo := [op], got := [], psn := false, lost := false, dst := .none,
    sent := false, epc := s.epc, addr := a, gs := none }

def State.firstAns (s : State) (op : GOp) : PreAns :=
  { id := s.nextId, op := op, done := false, fail := false, psn := false, lost := false, data := [] }

theorem State.askFirst_eq {s : State} {kind : AccKind} {op : GOp} {a : Word} {after : List Nat}
    (h : ∀ x ∈ s.me.pre, x.op ≠ op) : s.askFirst kind op a after =
      { s.modMe (fun b => { b with pre := b.pre ++ [s.firstAns op] }) with
        accesses := s.accesses ++ [s.firstAccess kind op a after], nextId := s.nextId + 1, free := s.free + 1 } := by
  have hnew : s.me.pre.any (·.op = op) = false := by
    rw [List.any_eq_false]
    exact fun x hx => by simpa using h x hx
  rw [State.askFirst, hnew]
  rfl

theorem State.again_me (s : State) : s.again.me = { s.me with nextIssue := s.clk + 1 } := State.bank_modBank_self ..

/-- The first ask for an operation sends its access and nothing else. -/
theorem State.askFirst_new (s : State) (kind : AccKind) (op : GOp) (a : Word) (after : List Nat)
    (h : ∀ x ∈ s.me.pre, x.op ≠ op) : ∃ x p, (s.stopped (.ask kind op a after)).accesses = s.accesses ++ [x] ∧
      x.owner = .pre ∧ x.todo = [op] ∧ x.addr = a ∧ x.after = after ∧
      (s.stopped (.ask kind op a after)).me.pre = s.me.pre ++ [p] ∧ p.id = x.id ∧ p.op = op ∧ p.done = false ∧
      (s.stopped (.ask kind op a after)).me.regs = s.me.regs ∧ (s.stopped (.ask kind op a after)).me.pc = s.me.pc ∧
      (s.stopped (.ask kind op a after)).mem = s.mem := by
  have hstop : s.stopped (.ask kind op a after) =
      { (s.askFirst kind op a after).again with stop := some (.ask kind op a after) } := rfl
  rw [State.askFirst_eq h] at hstop
  have hme : (s.stopped (.ask kind op a after)).me =
      { s.me with pre := s.me.pre ++ [s.firstAns op], nextIssue := s.clk + 1 } := by
    have hpre : (s.modMe fun b => { b with pre := b.pre ++ [s.firstAns op] }).me =
        { s.me with pre := s.me.pre ++ [s.firstAns op] } := State.bank_modBank_self ..
    rw [hstop]
    refine (State.again_me _).trans ?_
    change { (s.modMe fun b => { b with pre := b.pre ++ [s.firstAns op] }).me with nextIssue := s.clk + 1 } = _
    rw [hpre]
  refine ⟨s.firstAccess kind op a after, s.firstAns op, by rw [hstop]; rfl, rfl, rfl, rfl, rfl, by rw [hme], rfl, rfl, rfl,
    by rw [hme]; rfl, by rw [hme], by rw [hstop]; rfl⟩

/-! ## The loads (R214, R215, R226) -/

section
variable {s : State} {glob : Bool} {t : SOp} {base : SReg} {off : BitVec 18} {size : Size} {sx : Bool} {ord : MOrd}
  {scope : Scope} {b : Word}

/-- The syllable that each of LD, LDP and LDG issues. -/
theorem exec_load {i : Instr} (hi : (glob = false ∧ i = .ld t base off size sx ord scope) ∨
    (glob = false ∧ size = .b128 ∧ sx = false ∧ i = .ldp t base off ord scope) ∨
    (glob = true ∧ i = .ldg t base off size sx ord scope)) :
    exec i s = issue (loadOp glob t base off size sx ord scope) s := by
  rcases hi with ⟨rfl, rfl⟩ | ⟨rfl, rfl, rfl, rfl⟩ | ⟨rfl, rfl⟩ <;> rfl

theorem sizeBytes_pos (size : Size) : 0 < sizeBytes size := by cases size <;> decide

theorem sizeBytes_dvd (size : Size) : sizeBytes size ∣ 65536 := by cases size <;> decide

/-- The last step of a load whose places are known: a pair where 16 bytes are loaded, else one extended value. -/
theorem loadOp_eq (hb : s.rdS base = .ok b) : loadOp glob t base off size sx ord scope s =
    s.checked .load (b + off.signExtend 64) (sizeBytes size) (pathFits glob (b + off.signExtend 64)) s.checkRead >>= fun gs =>
      let pair : Bool := size = .b128
      s.loadAt { kind := .load, acq := acqOf ord scope, addr := b + off.signExtend 64,
                 dst := if pair then .pair (s.busyA t) (s.busyA (sopNext t)) else .scalar (s.busyA t) (sizeBytes size) sx }
        gs (if pair then [s.busyA t, s.busyA (sopNext t)] else [s.busyA t]) fun bs =>
        if pair then [s.dA t (wordAt bs 0), s.dA (sopNext t) (wordAt bs 1)] else [s.dA t (extend sx bs)] := by
  have ha : s.memAddr base off = .ok (b + off.signExtend 64) := by rw [State.memAddr, hb]; rfl
  simp only [loadOp, ha, ok_bind, State.checked, State.xlateLoad, bind_assoc]
  by_cases hp : size = .b128
  · simp only [hp, if_true, decide_true]
  · simp only [hp, if_false, decide_false]; rfl

end

/-- Settles O36: a load is its checks in their order and then loadAt; the walk, the fault that the hub answers, and the access
asked for first are each read off their definitions. -/
theorem loads : Obligations.Loads := by
  refine ⟨fun s i glob t base off size sx ord scope b gs hi hb hg => ?_,
    fun s i glob t base off size sx ord scope b hi hb => ?_, pageWalk, hubFaultHeld, State.askFirst_new⟩
  · obtain ⟨haddr, hfits, hrun⟩ := hg
    rw [exec_load hi]
    refine State.loadEnds_of ((loadOp_eq hb).trans ?_)
    rw [State.checked, haddr, ok_bind, check_ok hfits, ok_bind, show s.xlateWith _ _ _ _ _ = .ok gs from hrun, ok_bind]
  · rw [exec_load hi]
    refine State.PathStops.accessStops (State.pathStops_of (fits := pathFits glob (b + off.signExtend 64))
      (more := s.checkRead) rfl (sizeBytes_pos size) (sizeBytes_dvd size) (fun e he => ?_)
      (fun h7 => pathFits_iff (.inl rfl) h7) fun _ => rfl)
    exact issue_stopped ((loadOp_eq hb).trans (by rw [he]; rfl))

end Sys2Proof.Machine
end

section
/-! O37 and O38: the stores, the atomics and FENCE (R84 to R89, R92, R96, R103 to R105, R112, R121, R125, R214, R215, R226,
R228 to R231). -/

namespace Sys2Proof.Machine

/-! ## Stores (R214, R215, R226) -/

section
variable {s : State} {glob : Bool} {t : SOp} {base : SReg} {off : BitVec 18} {size : Size} {ord : MOrd} {scope : Scope}
  {b x y : Word}

/-- The syllable that each of ST, STP and STG issues. -/
theorem exec_store {i : Instr} (hi : (glob = false ∧ i = .st t base off size ord scope) ∨
    (glob = false ∧ size = .b128 ∧ i = .stp t base off ord scope) ∨
    (glob = true ∧ i = .stg t base off size ord scope)) :
    exec i s = issue (storeOp glob t base off size ord scope) s := by
  rcases hi with ⟨rfl, rfl⟩ | ⟨rfl, rfl, rfl⟩ | ⟨rfl, rfl⟩ <;> rfl

/-- A store takes the bytes of its register, or of the even pair. -/
theorem State.storeData_eq (hx : s.rdA t = .ok x) (hy : size = .b128 → s.rdA (sopNext t) = .ok y) :
    s.storeData t size =
      .ok (if size = .b128 then bytesOf 8 x.toNat ++ bytesOf 8 y.toNat else bytesOf (sizeBytes size) x.toNat) := by
  rw [State.storeData, hx, ok_bind]
  by_cases hp : size = .b128
  · rw [if_pos hp, if_pos hp, hy hp]; rfl
  · rw [if_neg hp, if_neg hp]; rfl

theorem storeOp_eq {bs : List Byte} (hb : s.rdS base = .ok b) (hd : s.storeData t size = .ok bs) :
    storeOp glob t base off size ord scope s =
      s.checked .store (b + off.signExtend 64) (sizeBytes size) (pathFits glob (b + off.signExtend 64))
        (fun _ _ => .ok ()) >>= fun gs =>
      s.storeAt { kind := .store, rel := relOf ord scope, addr := b + off.signExtend 64 } gs bs := by
  have ha : s.memAddr base off = .ok (b + off.signExtend 64) := by rw [State.memAddr, hb]; rfl
  simp only [storeOp, ha, hd, ok_bind, State.checked, State.xlate, bind_assoc]

end

/-- Settles O37: a store is its checks in their order and then storeAt. -/
theorem stores : Obligations.Stores := by
  intro s i glob t base off size ord scope b x y hi hb hx hy
  have heq := storeOp_eq (glob := glob) (off := off) (ord := ord) (scope := scope) hb (State.storeData_eq hx hy)
  rw [exec_store hi]
  refine ⟨fun gs ⟨haddr, hfits, hrun⟩ => State.storeEnds_of nofun (heq.trans ?_), State.PathStops.accessStops ?_⟩
  · have hparts : s.xlateWith s.ctx .store (b + off.signExtend 64) (sizeBytes size) (fun _ _ => .ok ()) = .ok gs := hrun
    rw [State.checked, haddr, ok_bind, check_ok hfits, ok_bind, hparts, ok_bind]
  · refine State.pathStops_of (fits := pathFits glob (b + off.signExtend 64)) (more := fun _ _ => .ok ()) rfl
      (sizeBytes_pos size) (sizeBytes_dvd size) (fun e he => ?_) (fun h7 => pathFits_iff (.inr rfl) h7) (fun h => by cases h)
    exact issue_stopped (heq.trans (by rw [he]; rfl))

/-! ## Atomics (R228 to R230) -/

section
variable {s : State} {op : AtomicOp} {size : Size} {ord : AOrd} {sc : Scope} {d base ra : SReg} {rb : Option SReg}
  {a x y : Word}

/-- The second operand of an atomic: of a compare-and-swap its register's value, else zero. -/
def State.atomicOperand (s : State) (rb : Option SReg) : Except Stop Word :=
  match rb with
  | some r => s.rdS r
  | none => pure 0

/-- What an atomic asks for. -/
def State.atomicAsk (s : State) (op : AtomicOp) (size : Size) (ord : AOrd) (sc : Scope) (d : SReg) (a x : Word) : Ask :=
  { kind := .atomic, addr := a, acq := if ord = .acq ∨ ord = .ar then some sc else none,
    rel := if ord = .rel ∨ ord = .ar then some sc else none,
    dst := .old (some (.s (s.me.physS d))) (sizeBytes size) (op = .fadd) (x.setWidth 32) }

theorem atomicOp_eq (ha : s.rdS base = .ok a) (hx : s.rdS ra = .ok x) (hy : s.atomicOperand rb = .ok y) :
    atomicOp op size ord sc d base ra rb s =
      s.checked (.atomic op) a (sizeBytes size) true (fun _ _ => .ok ()) >>= fun gs => s.checkPoison a gs >>= fun _ =>
      match gs with
      | g :: _ => s.sendAccess (s.atomicAsk op size ord sc d a x) (.atomic g op x y) [.s (s.me.physS d)]
      | [] => pure s := by
  have hacc : s.access s.ctx (.atomic op) a (sizeBytes size) (sizeBytes size) =
      s.checked (.atomic op) a (sizeBytes size) true (fun _ _ => .ok ()) := rfl
  simp only [State.atomicOperand] at hy
  simp only [atomicOp, ha, hx, ok_bind, hacc]
  cases rb with
  | none => obtain rfl := Except.ok.inj hy; rfl
  | some r =>
    change (s.rdS r >>= _) = _
    rw [show s.rdS r = .ok y from hy]
    rfl

/-- The syllable of each atomic, with its operand y. -/
theorem exec_atomic {i : Instr} {rb : SReg}
    (hi : (y = 0 ∧ ((op = .add ∧ i = .aadd size ord sc d base ra) ∨ (op = .swap ∧ i = .aswap size ord sc d base ra) ∨
       (op = .and ∧ i = .aand size ord sc d base ra) ∨ (op = .or ∧ i = .aor size ord sc d base ra) ∨
       (op = .xor ∧ i = .axor size ord sc d base ra) ∨ (∃ u, op = .min u ∧ i = .amin u size ord sc d base ra) ∨
       (∃ u, op = .max u ∧ i = .amax u size ord sc d base ra) ∨
       (op = .fadd ∧ size = .b32 ∧ i = .afadd ord sc d base ra))) ∨
       (op = .cas ∧ s.rdS rb = .ok y ∧ i = .acas size ord sc d base ra rb)) :
    ∃ r, s.atomicOperand r = .ok y ∧ exec i s = issue (atomicOp op size ord sc d base ra r) s := by
  rcases hi with ⟨rfl, h⟩ | ⟨rfl, hy, rfl⟩
  · refine ⟨none, rfl, ?_⟩
    rcases h with ⟨rfl, rfl⟩ | ⟨rfl, rfl⟩ | ⟨rfl, rfl⟩ | ⟨rfl, rfl⟩ | ⟨rfl, rfl⟩ | ⟨u, rfl, rfl⟩ | ⟨u, rfl, rfl⟩ |
      ⟨rfl, rfl, rfl⟩ <;> rfl
  · exact ⟨some rb, hy, rfl⟩

/-- The paths of an atomic (R85, R228). -/
theorem atomicPath_iff : (a.toNat / 2 ^ 60 ≤ 3 ∨ (a.toNat / 2 ^ 60 = 4 ∧ (op = .add ∨ op = .swap ∨ op = .cas))) ↔
    kindPath (.atomic op) (pathOf a) = true ∧ true = true := by
  change (pathOf a ≤ 3 ∨ (pathOf a = 4 ∧ _)) ↔ _
  cases op <;> simp [kindPath, pcieOp]

/-- A place of this package that a line's poison, or a codeword past correction, covers is data poison (R112, R230). -/
theorem State.checkPoison_plain {g : Seg} (hhere : s.here g = true) (hdev : g.addr < devBase) (hview : g.view = .plain)
    (h : poisoned s g.addr g.len = true ∨ ∃ e ∈ s.ecc, 2 ≤ e.bits ∧ e.meets g.addr g.len = true) :
    s.checkPoison a [g] = .error (.trap { cause := 0x18, val := a, reads := [(g.addr, g.len)] }) := by
  obtain ⟨hr, hany⟩ := State.badRun_plain hview h
  have hpart : s.poisonPart (a, g) = s.checkPoison a [g] := by
    simp [State.poisonPart, State.here_host hhere, hhere]
  rw [← hpart, State.poisonPart_here hhere hdev, hany, hr]
  rfl

end

/-! ## FENCE (R125, R231) -/

section
variable {s : State} {k : FenceKind} {sc : Scope}

/-- FENCE's syllable. -/
def fenceOp (k : FenceKind) (sc : Scope) : Core := fun s => check (s.fenceOpen k sc) .stall >>= fun _ => pure s

theorem exec_fence_open (h : s.fenceOpen k sc = true) : exec (.fence k sc) s = .next s.on :=
  issue_ok (f := fenceOp k sc) (by rw [fenceOp, check_ok h]; rfl)

theorem exec_fence_shut (h : s.fenceOpen k sc = false) : exec (.fence k sc) s = .next (s.stopped .stall) :=
  issue_stopped (f := fenceOp k sc) (by rw [fenceOp, check_error h]; rfl)

/-- With no access, copy or M instruction there is nothing to wait for. -/
theorem State.fenceOpen_of_idle (ha : s.accesses = []) (hc : s.copies = []) (hm : s.mycog.mq = []) :
    s.fenceOpen k sc = true := by
  have hmq : (s.cog s.cur.cog).mq = [] := hm
  cases k <;> simp [State.fenceOpen, State.nearOpen, State.pendingIn, State.mPending, State.copyIn, ha, hc, hmq]

/-- At bank scope a near store of an earlier bundle keeps the window open. -/
theorem State.fenceOpen_near {x : Access} (hx : x ∈ s.accesses) (hb : x.bank = s.cur) (ho : x.owner = .bank)
    (hk : x.kind = .store) (hp : pathOf x.addr ≤ 1) (hid : x.id < s.ownFrom) : s.fenceOpen k .bank = false := by
  have hopen : s.nearOpen .bank = true := by
    simp only [State.nearOpen, decide_true, Bool.true_and, List.any_eq_true]
    exact ⟨x, hx, by simp [hb, ho, hid, Access.isNear, hk, hp]⟩
  simp [State.fenceOpen, hopen]

end

/-- Settles O38: an atomic is its checks in their order, its line's poison, and then an interlocked access. -/
theorem atomics : Obligations.Atomics := by
  refine ⟨fun s i op size ord sc d base ra rb a x y g gs hi ha hx => ?_, fun s k sc =>
    ⟨exec_fence_open, exec_fence_shut, rfl, fun h1 h2 h3 => exec_fence_open (State.fenceOpen_of_idle h1 h2 h3),
      fun z hz hb ho hk hp hid => exec_fence_shut (State.fenceOpen_near hz hb ho hk hp hid)⟩⟩
  obtain ⟨r, hy, hexec⟩ := exec_atomic hi
  have heq := atomicOp_eq (op := op) (size := size) (ord := ord) (sc := sc) (d := d) ha hx hy
  rw [hexec]
  refine ⟨?_, fun hacc hpsn => ?_⟩
  · have hpath := State.pathStops_of (s := s) (k := .atomic op) (a := a) (fits := true) (more := fun _ _ => .ok ()) rfl
      (sizeBytes_pos size) (sizeBytes_dvd size) (fun e he => issue_stopped (heq.trans (by rw [he]; rfl)))
      (fun _ => atomicPath_iff) (fun h => by cases h)
    refine ⟨hpath.address, hpath.align, fun hb hal => ⟨hpath.path hb hal, hpath.near hb hal, fun hm hlo => ?_⟩, ?_⟩
    · exact hpath.far hb hal hm hlo (by rcases hm with h | ⟨h, -⟩ <;> omega)
    · intro g hg hhere hdev hview hbad
      refine issue_trap (heq.trans ?_)
      rw [show s.checked (.atomic op) a (sizeBytes size) true (fun _ _ => .ok ()) = .ok [g] from hg, ok_bind,
        State.checkPoison_plain hhere hdev hview hbad]
      rfl
  · have hsend : atomicOp op size ord sc d base ra r s =
        s.sendAccess (s.atomicAsk op size ord sc d a x) (.atomic g op x y) [.s (s.me.physS d)] := by
      rw [heq, show s.checked (.atomic op) a (sizeBytes size) true (fun _ _ => .ok ()) = .ok (g :: gs) from hacc, ok_bind,
        hpsn, ok_bind]
    have hinter := State.interlocks_of hsend
    refine ⟨hinter, fun hhere => hinter.1 _ ?_⟩
    simp only [State.preOps, State.here_host hhere, hhere, if_true, Bool.false_eq_true, if_false]
    rfl

end Sys2Proof.Machine
end

section
/-! What reading memory leaves alone: the banks, the current bank, the bytes of memory, and the holders of the cores (R111,
R112, R115). -/

namespace Sys2Proof.Machine

/-- From s to t no bank, no byte of memory and no holder of a core has changed, and the current bank is the same. -/
structure State.Reads (s t : State) : Prop extends s.SameBanks t where
  cur : t.cur = s.cur

namespace State.Reads
variable {s t u : State}

theorem refl (s : State) : s.Reads s := ⟨.refl s, rfl⟩

theorem trans (h : s.Reads t) (h' : t.Reads u) : s.Reads u := ⟨h.toSameBanks.trans h'.toSameBanks, h'.cur.trans h.cur⟩

theorem foldl {α β : Type} (g : β → State) {f : β → α → β} (l : List α) (b : β) (h : ∀ b x, (g b).Reads (g (f b x))) :
    (g b).Reads (g (l.foldl f b)) := by
  induction l generalizing b with
  | nil => exact refl _
  | cons x xs ih => exact (h b x).trans (ih (f b x))

theorem me (h : s.Reads t) : t.me = s.me := by rw [State.me, h.cur, h.bank]; rfl

end State.Reads

section
variable (s : State)

theorem State.record_cur (n : Nat) (l : List Byte) : (s.record n l).cur = s.cur := by
  obtain ⟨_, _, _, h⟩ := s.record_frame n l
  rw [h]

theorem State.eccWord_reads (k : Nat) (b : Option Nat) (a : Word) (e : EccError) : s.Reads (s.eccWord k b a e) := by
  refine ⟨s.eccWord_sameBanks k b a e, ?_⟩
  unfold State.eccWord
  dsimp only
  split
  · rfl
  · split
    · split
      · rfl
      · exact State.record_cur ..
    · split <;> rfl

theorem State.eccRead_reads (k : Nat) (b : Option Nat) (a : Word) (x n : Nat) : s.Reads (s.eccRead k b a x n) :=
  .foldl id _ s fun t e => t.eccWord_reads k b a e

theorem State.eccRuns_reads (k : Nat) (b : Option Nat) (a : Word) (l : List (Nat × Nat)) : s.Reads (s.eccRuns k b a l) :=
  .foldl id _ s fun t r => t.eccRead_reads k b a r.1 r.2

theorem State.devRead_reads (r : Nat) : s.Reads (s.devRead r).2 := by
  unfold State.devRead
  dsimp only
  repeat' split
  all_goals exact ⟨.of_cogs rfl rfl rfl, rfl⟩

theorem State.readSeg_reads (k : Nat) (b : Option Nat) (a : Word) (g : Seg) : s.Reads (s.readSeg k b a g).2.2 := by
  unfold State.readSeg
  split
  · have h := s.devRead_reads (g.addr - devBase)
    revert h
    rcases s.devRead (g.addr - devBase) with ⟨w, t⟩
    exact id
  · split
    · exact s.eccRead_reads ..
    · refine State.Reads.foldl (fun x : List Byte × Bool × State => x.2.2) _ ([], false, s) fun acc p => ?_
      exact (acc.2.2.eccRead_reads ..).trans (State.eccRead_reads ..)
    · exact s.eccRuns_reads ..

theorem State.serve_load_reads (k : Nat) (b : Option Nat) (a : Word) (gs : List Seg) :
    s.Reads (s.serve k b a (.load gs)).2 :=
  .foldl Prod.snd gs ((⟨[], false, false⟩ : Answer), s) fun acc g => acc.2.readSeg_reads k b a g

end

/-! ## A read whose bytes decide whether the bundle traps (R121, R143, R235, R240, R254) -/

section
variable {s : State} {a : Word} {gs : List Seg}

/-- Without an answer, and with nothing that the read is performed after, memory is read now. -/
theorem State.readFirst_now (hnone : s.me.pre.find? (fun e => e.op = .load gs && e.done) = none)
    (hafter : s.after { kind := .load, addr := a } gs = []) : s.readFirst a gs =
      .ok ((s.serve 0 (some s.cur.num) a (.load gs)).1.data, (s.serve 0 (some s.cur.num) a (.load gs)).2) := by
  simp only [State.readFirst, hnone, hafter, List.isEmpty_nil, if_true]
  rfl

theorem State.readFirst_ask (hnone : s.me.pre.find? (fun e => e.op = .load gs && e.done) = none)
    (hafter : s.after { kind := .load, addr := a } gs ≠ []) : s.readFirst a gs =
      .error (.ask .load (.load gs) a (s.after { kind := .load, addr := a } gs)) := by
  simp only [State.readFirst, hnone]
  exact if_neg (by simpa using hafter)

theorem State.readFirst_answer {y : PreAns} (hsome : s.me.pre.find? (fun e => e.op = .load gs && e.done) = some y) :
    s.readFirst a gs = if y.psn then .error (.trap { cause := 0x18, val := a }) else .ok (y.data, s) := by
  simp only [State.readFirst, hsome]
  rfl

end

end Sys2Proof.Machine
end

section
/-! O41: the iterators (R185, R238 to R243). A position is the mixed-radix number whose digits are the four indices and whose
radices are the counts. -/

namespace Sys2Proof.Machine

/-! ## Positions and indices (R239, R241, R242) -/

theorem toList_four {α : Type} (v : Vector α 4) : v.toList = [v[0], v[1], v[2], v[3]] := by
  obtain ⟨⟨l⟩, h⟩ := v
  match l, h with
  | [a, b, c, d], _ => rfl

section
variable (g : Iter)

theorem Iter.total_eq : g.total =
    g.count[0].toNat * g.count[1].toNat * g.count[2].toNat * g.count[3].toNat := by
  rw [Iter.total, toList_four]
  simp only [List.foldl_cons, List.foldl_nil, Nat.one_mul]

theorem Iter.linear_eq : g.linear = g.idx[0].toNat + g.idx[1].toNat * g.count[0].toNat +
    g.idx[2].toNat * (g.count[0].toNat * g.count[1].toNat) +
    g.idx[3].toNat * (g.count[0].toNat * g.count[1].toNat * g.count[2].toNat) := by
  change 0 + g.idx[0].toNat * 1 + g.idx[1].toNat * (1 * g.count[0].toNat) +
    g.idx[2].toNat * (1 * g.count[0].toNat * g.count[1].toNat) +
    g.idx[3].toNat * (1 * g.count[0].toNat * g.count[1].toNat * g.count[2].toNat) = _
  simp only [Nat.zero_add, Nat.mul_one, Nat.one_mul]

/-- The indices of a position are its digits. -/
theorem Iter.decompose_eq (x : Nat) : g.decompose x = #v[BitVec.ofNat 32 (x % g.count[0].toNat),
    BitVec.ofNat 32 (x / g.count[0].toNat % g.count[1].toNat),
    BitVec.ofNat 32 (x / g.count[0].toNat / g.count[1].toNat % g.count[2].toNat),
    BitVec.ofNat 32 (x / g.count[0].toNat / g.count[1].toNat / g.count[2].toNat % g.count[3].toNat)] := rfl

theorem Iter.address_eq : g.address = g.base +
    g.idx[0].setWidth 64 * g.stride[0].signExtend 64 + g.idx[1].setWidth 64 * g.stride[1].signExtend 64 +
    g.idx[2].setWidth 64 * g.stride[2].signExtend 64 + g.idx[3].setWidth 64 * g.stride[3].signExtend 64 := by
  simp only [← BitVec.ofNat_toNat]
  rfl

end

/-- The four digits of a number below the product of the radices give it back. -/
theorem digits_sum {a b c d x : Nat} (hx : x < a * b * c * d) :
    x % a + x / a % b * a + x / a / b % c * (a * b) + x / a / b / c % d * (a * b * c) = x := by
  have hlast : x / a / b / c % d = x / a / b / c := by
    refine Nat.mod_eq_of_lt ?_
    rw [Nat.div_div_eq_div_mul, Nat.div_div_eq_div_mul]
    refine Nat.div_lt_of_lt_mul ?_
    rwa [← Nat.mul_assoc]
  have h0 := Nat.mod_add_div x a
  have h1 := Nat.mod_add_div (x / a) b
  have h2 := Nat.mod_add_div (x / a / b) c
  rw [hlast]
  generalize x / a / b / c = q at *
  generalize x / a / b = r at *
  generalize x / a = t at *
  calc _ = x % a + a * (t % b + b * (r % c + c * q)) := by ring
    _ = x := by rw [h2, h1, h0]

/-- Digits below their radices are the digits of the number they give. -/
theorem digits_unique {a b c d i j k l : Nat} (hi : i < a) (hj : j < b) (hk : k < c) (hl : l < d) :
    let x := i + j * a + k * (a * b) + l * (a * b * c)
    x % a = i ∧ x / a % b = j ∧ x / a / b % c = k ∧ x / a / b / c % d = l := by
  intro x
  have hx : x = i + a * (j + b * (k + c * l)) := by simp only [x]; ring
  have h0 : x % a = i := by rw [hx, Nat.add_mul_mod_self_left, Nat.mod_eq_of_lt hi]
  have q0 : x / a = j + b * (k + c * l) := by
    rw [hx, Nat.add_mul_div_left _ _ (by omega), Nat.div_eq_of_lt hi, Nat.zero_add]
  have q1 : x / a / b = k + c * l := by
    rw [q0, Nat.add_mul_div_left _ _ (by omega), Nat.div_eq_of_lt hj, Nat.zero_add]
  have q2 : x / a / b / c = l := by
    rw [q1, Nat.add_mul_div_left _ _ (by omega), Nat.div_eq_of_lt hk, Nat.zero_add]
  refine ⟨h0, ?_, ?_, ?_⟩
  · rw [q0, Nat.add_mul_mod_self_left, Nat.mod_eq_of_lt hj]
  · rw [q1, Nat.add_mul_mod_self_left, Nat.mod_eq_of_lt hk]
  · rw [q2, Nat.mod_eq_of_lt hl]

/-- A digit of a 32-bit radix fits 32 bits. -/
theorem toNat_digit (x : Nat) {c : BitVec 32} (hc : 0 < c.toNat) : (BitVec.ofNat 32 (x % c.toNat)).toNat = x % c.toNat := by
  rw [BitVec.toNat_ofNat]
  exact Nat.mod_eq_of_lt ((Nat.mod_lt _ hc).trans c.isLt)

section
variable {g : Iter} (hc : ∀ d : Fin 4, 0 < g.count[d].toNat)
include hc

theorem Iter.decompose_lt (x : Nat) (d : Fin 4) : (g.decompose x)[d].toNat < g.count[d].toNat := by
  rw [Iter.decompose_eq]
  match d with
  | 0 => exact (toNat_digit _ (hc 0)).trans_lt (Nat.mod_lt _ (hc 0))
  | 1 => exact (toNat_digit _ (hc 1)).trans_lt (Nat.mod_lt _ (hc 1))
  | 2 => exact (toNat_digit _ (hc 2)).trans_lt (Nat.mod_lt _ (hc 2))
  | 3 => exact (toNat_digit _ (hc 3)).trans_lt (Nat.mod_lt _ (hc 3))

theorem Iter.linear_decompose {x : Nat} (hx : x < g.total) : ({ g with idx := g.decompose x } : Iter).linear = x := by
  rw [Iter.linear_eq]
  simp only [Iter.decompose_eq]
  refine Eq.trans ?_ (digits_sum (Iter.total_eq g ▸ hx))
  congr 1
  · congr 1
    · congr 1
      · exact toNat_digit _ (hc 0)
      · exact congrArg (· * _) (toNat_digit _ (hc 1))
    · exact congrArg (· * _) (toNat_digit _ (hc 2))
  · exact congrArg (· * _) (toNat_digit _ (hc 3))

theorem Iter.total_pos : 0 < g.total := by
  rw [Iter.total_eq]
  exact Nat.mul_pos (Nat.mul_pos (Nat.mul_pos (hc 0) (hc 1)) (hc 2)) (hc 3)

end

/-- Indices below the counts are those of their position. -/
theorem Iter.decompose_linear {g j : Iter} (hj : j.count = g.count) (hlt : ∀ d : Fin 4, j.idx[d].toNat < g.count[d].toNat) :
    g.decompose j.linear = j.idx := by
  obtain ⟨h0, h1, h2, h3⟩ := digits_unique (hlt 0) (hlt 1) (hlt 2) (hlt 3)
  have hlin := Iter.linear_eq j
  rw [hj] at hlin
  have digit {i : BitVec 32} {n : Nat} (h : n = i.toNat) : BitVec.ofNat 32 n = i := by
    rw [h, BitVec.ofNat_toNat, BitVec.setWidth_eq]
  rw [Iter.decompose_eq]
  refine Vector.toList_inj.1 ?_
  rw [toList_four, toList_four, hlin]
  exact congrArg₂ _ (digit h0) (congrArg₂ _ (digit h1) (congrArg₂ _ (digit h2) (congrArg₂ _ (digit h3) rfl)))

/-! ## The fields of an iterator (R241) -/

section
variable {g : Iter} {x : Word} {e : Fin 4}

theorem countOf_eq_zero : x.extractLsb' 0 32 = 0 ↔ x.toNat % 2 ^ 32 = 0 := by
  rw [← BitVec.toNat_inj]
  simp

/-- ITSET.DIM sets one dimension and goes to position zero. -/
theorem Iter.setDim_gives : (g.setDim e x).base = g.base ∧ (g.setDim e x).count[e].toNat = x.toNat % 2 ^ 32 ∧
    (g.setDim e x).stride[e].toNat = x.toNat / 2 ^ 32 ∧ (g.setDim e x).ndim.val = Nat.max g.ndim.val e.val ∧
    (∀ k : Fin 4, (g.setDim e x).idx[k] = 0) ∧
    ∀ k : Fin 4, k ≠ e → (g.setDim e x).count[k] = g.count[k] ∧ (g.setDim e x).stride[k] = g.stride[k] := by
  refine ⟨rfl, ?_, ?_, ?_, fun k => Vector.getElem_replicate _, fun k hk => ?_⟩
  · simp [Iter.setDim]
  · simp [Iter.setDim, Nat.shiftRight_eq_div_pow]
    omega
  · simp only [Iter.setDim]
    split
    · next h => exact (Nat.max_eq_right h.le).symm
    · next h => exact (Nat.max_eq_left (Nat.not_lt.1 h)).symm
  · have hne : e.val ≠ k.val := fun h => hk (Fin.ext h.symm)
    exact ⟨Vector.getElem_set_ne e.isLt k.isLt hne, Vector.getElem_set_ne e.isLt k.isLt hne⟩

end

/-! ## ITLD (R240) -/

section
variable {s : State} {g : GReg} {a : SReg} {x : Word} {gs : List Seg}

/-- The rest of ITLD once its record is known, in the state that the read leaves. -/
def itldRest (g : GReg) (x : Word) (bs : List Byte) (t : State) : Except Stop State :=
  match iterOf bs with
  | none => trapOf 0x1C x
  | some it => pure ((t.newId.2.later.2.modMe fun b => b.mark (.g g) t.nextId).resultAt t.newId.2.later.1 t.nextId [.g g it])

/-- ITLD's syllable. -/
def itldOp (g : GReg) (a : SReg) : Core := fun s => do
  let x ← s.rdS a
  checkAddr s.me.hmode .load x 64 64
  check (pathOf x ≤ 2) (.trap { cause := 0x16, val := x })
  let gs ← s.xlateLoad .load x 64
  let r ← s.readFirst x gs
  itldRest g x r.1 r.2

theorem exec_itld : exec (.itld g a) s = issue (itldOp g a) s := rfl

theorem itldOp_stops (h : s.rdS a = .ok x) : s.NearStops x 64 (exec (.itld g a) s) := by
  refine State.nearStops_of (by decide) (fun e he => ?_) (fun _ hfar hc => ?_) fun hc hp e he => ?_
  all_goals refine exec_itld.trans (issue_stopped ?_)
  · rw [itldOp, h, ok_bind, he]; rfl
  · rw [itldOp, h, ok_bind, hc, ok_bind, check_error (decide_eq_false (Nat.not_le.2 hfar))]; rfl
  · rw [itldOp, h, ok_bind, hc, ok_bind, check_ok (decide_eq_true hp), ok_bind, he]; rfl

/-- Past its checks ITLD reads its record first. -/
theorem itldOp_reads (h : s.rdS a = .ok x) (hc : checkAddr s.me.hmode .load x 64 64 = .ok ()) (hp : pathOf x ≤ 2)
    (hg : s.xlateLoad .load x 64 = .ok gs) :
    itldOp g a s = s.readFirst x gs >>= fun r => itldRest g x r.1 r.2 := by
  rw [itldOp, h, ok_bind, hc, ok_bind, check_ok (decide_eq_true hp), ok_bind, hg, ok_bind]

/-- A record that R240 takes: the iterator waits for it, written a free time later. -/
theorem itldRest_some {t : State} {bs : List Byte} {j : Iter} (hr : s.Reads t) (hclk : t.clk = s.clk)
    (hf : itldOp g a s = itldRest g x bs t) (hj : iterOf bs = some j) :
    ∃ u due id, exec (.itld g a) s = .next u ∧ u.stop = none ∧
      u.me.inflight = s.me.inflight ++ [{ due := due, res := [.g g j], causes := {}, seq := id, req := some id }] ∧
      s.clk < due ∧ u.me.isBusy (.g g) = true ∧ u.me.regs = s.me.regs ∧ u.mem = s.mem := by
  rw [itldRest, hj] at hf
  have hme : ((t.newId.2.later.2.modMe fun b => b.mark (.g g) t.nextId).resultAt t.newId.2.later.1 t.nextId [.g g j]).me =
      { s.me.mark (.g g) t.nextId with inflight := s.me.inflight ++
        [{ due := t.newId.2.later.1, res := [.g g j], causes := {}, seq := t.nextId, req := some t.nextId }] } := by
    refine (State.bank_modBank_self ..).trans ?_
    have hmark : (t.newId.2.later.2.modMe fun b => b.mark (.g g) t.nextId).me = s.me.mark (.g g) t.nextId :=
      (State.bank_modBank_self ..).trans (congrArg (Bank.mark · (.g g) t.nextId) hr.me)
    have hinfl : (s.me.mark (.g g) t.nextId).inflight = s.me.inflight := by unfold Bank.mark; split <;> rfl
    rw [show State.bank _ _ = s.me.mark (.g g) t.nextId from hmark, hinfl]
  refine ⟨_, t.newId.2.later.1, t.nextId, exec_itld.trans (issue_ok hf), rfl, ?_, ?_, ?_, ?_, hr.mem⟩
  · exact congrArg Bank.inflight hme
  · exact hclk ▸ (show t.clk < t.clk + 1 + Config.freeDelay t.free by omega)
  · exact (congrArg (Bank.isBusy · (.g g)) hme).trans (Bank.isBusy_mark_self _ _ nofun nofun)
  · exact (congrArg Bank.regs hme).trans (Bank.mark_regs ..)

theorem itldRest_none {t : State} {bs : List Byte} (hf : itldOp g a s = itldRest g x bs t) (hj : iterOf bs = none) :
    exec (.itld g a) s = .next (s.trapped { cause := 0x1C, val := x }) :=
  exec_itld.trans (issue_trap (hf.trans (by rw [itldRest, hj]; rfl)))

end

/-! ## ITSET, ITADV, ITRD (R241 to R243) -/

section
variable {s : State} {g g' : GReg} {a d : SReg} {p : PReg} {e : Fin 4} {x : Word} {it : Iter}

/-- ITSET writes the iterator that its form makes of the old one. -/
theorem exec_itset_base (hx : s.rdS a = .ok x) (hg : s.rdG g = .ok it) :
    exec (.itset (.base g a)) s = .next (s.wrote 1 [.g g { it with base := x }]) := by
  change execItset (.base g a) s = _
  exact issue_ok (by simp only [hx, hg, ok_bind]; rfl)

theorem exec_itset_lin (hx : s.rdS a = .ok x) (hg : s.rdG g = .ok it) : exec (.itset (.lin g a)) s =
    .next (s.wrote 1 [.g g { it with idx := it.decompose (x.toNat % it.total) }]) := by
  change execItset (.lin g a) s = _
  exact issue_ok (by simp only [hx, hg, ok_bind]; rfl)

theorem exec_itset_dim (hx : s.rdS a = .ok x) (hg : s.rdG g = .ok it) (hne : x.toNat % 2 ^ 32 ≠ 0) :
    exec (.itset (.dim g a e)) s = .next (s.wrote 1 [.g g (it.setDim e x)]) := by
  change execItset (.dim g a e) s = _
  exact issue_ok (by simp only [hx, hg, ok_bind, countOf_eq_zero, if_neg hne]; rfl)

theorem exec_itset_dim_zero (hx : s.rdS a = .ok x) (hg : s.rdG g = .ok it) (h0 : x.toNat % 2 ^ 32 = 0) :
    exec (.itset (.dim g a e)) s = .next (s.trapped { cause := 0x1C, val := 0 }) := by
  change execItset (.dim g a e) s = _
  exact issue_trap (by simp only [hx, hg, ok_bind, countOf_eq_zero, if_pos h0]; rfl)

theorem exec_itset_copy (hg : s.rdG g' = .ok it) : exec (.itset (.copy g g')) s = .next (s.wrote 1 [.g g it]) := by
  change execItset (.copy g g') s = _
  exact issue_ok (by simp only [hg, ok_bind]; rfl)

theorem exec_itadv (hx : s.rdS a = .ok x) (hg : s.rdG g = .ok it) : exec (.itadv g a p) s = .next (s.wrote 1
    [.g g (it.advance x.toNat).1, s.dP p (it.advance x.toNat).2]) := by
  change execItadv g a p s = _
  exact issue_ok (by simp only [hx, hg, ok_bind]; rfl)

theorem exec_itrd (hg : s.rdG g = .ok it) (form : ItrdForm) :
    exec (.itrd d g form) s = .next (s.wrote 1 [s.dS d (it.read form)]) := by
  change execItrd d g form s = _
  exact issue_ok (by simp only [hg, ok_bind]; rfl)

end

/-- Settles O41: the forms one by one, ITLD by how its record is read, and the laws by mixed-radix digits. -/
theorem iterators : Obligations.Iterators := by
  refine ⟨fun s g g' a d e p x it it' hx hg hg' => ?_, fun g n x hc hx => ?_⟩
  · refine ⟨exec_itset_base hx hg, exec_itset_lin hx hg,
      fun hne => ⟨it.setDim e x, exec_itset_dim hx hg hne, Iter.setDim_gives⟩, exec_itset_dim_zero hx hg, exec_itset_copy hg',
      exec_itadv hx hg, ?_, exec_itrd hg .lin, exec_itrd hg (.idx e), exec_itrd hg .base, itldOp_stops hx,
      fun gs hc hp hgs => ?_⟩
    · rw [exec_itrd hg .addr, Iter.read, Iter.address_eq]
    intro r after answer ends
    have hreads := itldOp_reads (g := g) hx hc hp hgs
    have hends {bs : List Byte} {t : State} (hr : s.Reads t) (hclk : t.clk = s.clk) (hf : itldOp g a s = itldRest g x bs t) :
        ends bs := ⟨fun j hj => itldRest_some hr hclk hf hj, itldRest_none hf⟩
    refine ⟨fun hafter hnone => exec_itld.trans (issue_stopped ?_), fun hafter hnone => ?_, fun y hy => ⟨fun hpsn => ?_,
      fun hpsn => ?_⟩⟩
    · rw [hreads, State.readFirst_ask hnone hafter]; rfl
    · rw [State.readFirst_now hnone hafter] at hreads
      exact hends (s.serve_load_reads ..) (State.serve_now ..).1 hreads
    · refine exec_itld.trans (issue_trap ?_)
      rw [hreads, State.readFirst_answer hy, if_pos hpsn]; rfl
    · rw [State.readFirst_answer hy, if_neg (by rw [hpsn]; exact Bool.false_ne_true)] at hreads
      exact hends (.refl s) rfl hreads
  · intro at_
    refine ⟨Iter.linear_decompose hc hx, Iter.decompose_lt hc x, ?_, decide_eq_true_iff, fun j hj hlt hlin => ?_⟩
    · exact Iter.linear_decompose hc (Nat.mod_lt _ (Iter.total_pos hc))
    · exact (hlin ▸ Iter.decompose_linear hj hlt).symm

end Sys2Proof.Machine
end

section
/-! O47: the system registers, the window table and the TLB (R121, R143, R164 to R166, R235, R252 to R255). -/

namespace Sys2Proof.Machine

section
variable {s : State} {d a b : SReg} {e : Fin 64} {o : Bool} {x y : Word} {gs : List Seg}

/-! ## CSRs and the TLB (R164, R252, R253, R255) -/

theorem exec_csrWr {n : BitVec 16} (hx : s.rdS a = .ok x) : exec (.csrWr n a) s = .next (s.wrote 1 [.csr n x]) := by
  change execCsrWr n a s = _
  exact issue_ok (by simp only [hx, ok_bind]; rfl)

theorem exec_tlbProbe (hx : s.rdS a = .ok x) (hy : s.rdS b = .ok y) : exec (.tlbProbe d a b) s = .next (s.wrote 2
    [s.dS d (((s.tlbFind s.cur.cog (x.setWidth 12) (y.toNat % 2 ^ 52)).map TlbEntry.probe).getD 0)]) := by
  change execTlbProbe d a b s = _
  exact issue_ok (by simp only [hx, hy, ok_bind]; rfl)

theorem State.handlerOnly_ok (hh : s.me.hmode = true) : s.handlerOnly = .ok () := check_ok hh

/-- The current cog's TLB without the entries that a predicate names. -/
def State.tlbDrop (s : State) (p : TlbEntry → Bool) : State :=
  (s.modCog s.cur.cog fun c => { c with tlb := c.tlb.filter (! p ·) }).on

/-- The translations that each form of TLB.INV names, its operands read. -/
theorem exec_tlbInv (hh : s.me.hmode = true) (hx : s.rdS a = .ok x) (hy : s.rdS b = .ok y) :
    exec (.tlbInv .all) s = .next (s.tlbDrop fun _ => true) ∧
    exec (.tlbInv (.asid a)) s = .next (s.tlbDrop fun t => t.asid = x.setWidth 12) ∧
    exec (.tlbInv (.va a b)) s = .next (s.tlbDrop fun t => t.covers (x.setWidth 12) (y.toNat % 2 ^ 52)) ∧
    exec (.tlbInv (.vaany b)) s = .next (s.tlbDrop fun t => t.covers t.asid (y.toNat % 2 ^ 52)) := by
  change execTlbInv .all s = _ ∧ execTlbInv (.asid a) s = _ ∧ execTlbInv (.va a b) s = _ ∧ execTlbInv (.vaany b) s = _
  refine ⟨issue_ok ?_, issue_ok ?_, issue_ok ?_, issue_ok ?_⟩
  all_goals simp only [State.handlerOnly_ok hh, hx, hy, ok_bind]; rfl

/-! ## WIN.LD (R254) -/

/-- The rest of WIN.LD once its record is known, in the state that the read leaves. -/
def winLdRest (d : SReg) (e : Fin 64) (o : Bool) (bs : List Byte) (t : State) : State :=
  let w : Win := ⟨loadedWord bs 0, loadedWord bs 8, loadedWord bs 16, loadedWord bs 24⟩
  t.result 2 (t.dS d (BitVec.ofNat 64 (winStatus w)) :: (if winStatus w = 0 then [.win o e w] else []))

/-- WIN.LD's syllable. -/
def winLdOp (d : SReg) (e : Fin 64) (a : SReg) (o : Bool) : Core := fun s => do
  s.handlerOnly
  let x ← s.rdS a
  checkAddr s.me.hmode .load x 32 32
  check (pathOf x ≤ 2) (.trap { cause := 0x16, val := x })
  let gs ← s.xlateLoad .load x 32
  let r ← s.readFirst x gs
  pure (winLdRest d e o r.1 r.2)

theorem exec_winLd : exec (.winLd d e a o) s = issue (winLdOp d e a o) s := rfl

variable (hh : s.me.hmode = true) (hx : s.rdS a = .ok x)
include hh hx

theorem winLdOp_stops : s.NearStops x 32 (exec (.winLd d e a o) s) := by
  refine State.nearStops_of (by decide) (fun e he => ?_) (fun _ hfar hc => ?_) fun hc hp e he => ?_
  all_goals refine exec_winLd.trans (issue_stopped ?_)
  all_goals rw [winLdOp, State.handlerOnly_ok hh, ok_bind, hx, ok_bind]
  · rw [he]; rfl
  · rw [hc, ok_bind, check_error (decide_eq_false (Nat.not_le.2 hfar))]; rfl
  · rw [hc, ok_bind, check_ok (decide_eq_true hp), ok_bind, he]; rfl

/-- Past its checks WIN.LD reads its record first. -/
theorem winLdOp_reads (hc : checkAddr true .load x 32 32 = .ok ()) (hp : pathOf x ≤ 2)
    (hg : s.xlateLoad .load x 32 = .ok gs) :
    winLdOp d e a o s = s.readFirst x gs >>= fun r => pure (winLdRest d e o r.1 r.2) := by
  rw [winLdOp, State.handlerOnly_ok hh, ok_bind, hx, ok_bind, hh, hc, ok_bind, check_ok (decide_eq_true hp), ok_bind, hg,
    ok_bind]

end

/-- Settles O47: each register form by its own equation, WIN.LD by how its record is read. -/
theorem systemRegisters : Obligations.SystemRegisters := by
  intro s d a b n e k o x y hx hy drop
  refine ⟨issue_ok rfl, exec_csrWr hx, issue_ok rfl, ⟨_, exec_tlbProbe hx hy, fun h => by rw [h]; rfl,
    fun t h => by rw [h]; rfl⟩, fun hh => ?_⟩
  obtain ⟨hall, hasid, hva, hany⟩ := exec_tlbInv hh hx hy
  refine ⟨hall, hasid, hva, hany, winLdOp_stops hh hx, fun gs hc hp hg => ?_⟩
  have hreads := winLdOp_reads (d := d) (e := e) (o := o) hh hx hc hp hg
  intro after answer r loads
  refine ⟨fun hafter hnone => exec_winLd.trans (issue_ok ?_), fun hafter hnone => exec_winLd.trans (issue_stopped ?_),
    fun z hz => ⟨fun hpsn => exec_winLd.trans (issue_trap ?_), fun hpsn => exec_winLd.trans (issue_ok ?_)⟩⟩
  · rw [hreads, State.readFirst_now hnone hafter]; rfl
  · rw [hreads, State.readFirst_ask hnone hafter]; rfl
  · rw [hreads, State.readFirst_answer hz, if_pos hpsn]; rfl
  · rw [hreads, State.readFirst_answer hz, if_neg (by rw [hpsn]; exact Bool.false_ne_true)]; rfl

end Sys2Proof.Machine
end

section
/-! O42: the acceptance of a copy and PRM.RD (R109, R245 to R251). -/

namespace Sys2Proof.Machine

/-! ## Acceptance (R246) -/

section
variable {s : State} {d : SReg} {kind : CopyKind} {dst src : Word} {len count : Nat} {tbl : Word}

/-- The free wait before the engine acts. -/
def State.copyWait (s : State) : Nat := Config.freeNat s.free % 3

/-- The copy that the engine captures. -/
def State.newCopy (s : State) (kind : CopyKind) (dst src : Word) (len count : Nat) (tbl : Word) : Copy :=
  let c : Copy :=
    { id := s.nextId, bank := s.cur, iter := s.me.iter, kind := kind, dst := dst, src := src, len := len, count := count,
      tbl := tbl, asid := s.me.asidcur, windows := s.me.windows,
      promise := s.time + BitVec.ofNat 64 (s.copyWait + 8 + Config.freeDelay (s.free + 1)), missed := false,
      after := (s.accesses.filter fun x => x.bank = s.cur && x.owner = .bank && x.kind ≠ .load &&
        pathOf x.addr ≤ 2).map (·.id),
      index := none, todo := [], waiting := [], nextAt := s.clk + 1 + s.copyWait, held := false, failed := false,
      epc := s.epc }
  { c with todo := if c.units = 0 then [] else [(0, c.units)] }

/-- The state in which the promise is on its way to the destination register. -/
def State.promised (s : State) (d : SReg) (promise : Word) : State :=
  (({ s with free := s.free + 2, nextId := s.nextId + 2 } : State).modMe fun b =>
    b.mark (.s (s.me.physS d)) (s.nextId + 1)).resultAt (s.clk + Nat.max 1 s.copyWait) (s.nextId + 1) [s.dS d promise]

/-- The state after the acceptance. -/
def State.withCopy (s : State) (d : SReg) (c : Copy) : State :=
  if c.units = 0 then s.promised d c.promise else { s.promised d c.promise with copies := s.copies ++ [c] }

theorem State.accept_eq (hlt : (s.copies.filter (·.bank = s.cur)).length < 16) :
    s.accept d kind dst src len count tbl = .ok (s.withCopy d (s.newCopy kind dst src len count tbl)) := by
  rw [State.accept, check_ok (decide_eq_true hlt), ok_bind]
  rfl

theorem State.promised_me (promise : Word) : (s.promised d promise).me =
    { s.me.mark (.s (s.me.physS d)) (s.nextId + 1) with inflight := s.me.inflight ++
      [{ due := s.clk + Nat.max 1 s.copyWait, res := [s.dS d promise], causes := {}, seq := s.nextId + 1,
         req := some (s.nextId + 1) }] } := by
  have hmark : (({ s with free := s.free + 2, nextId := s.nextId + 2 } : State).modMe fun b =>
      b.mark (.s (s.me.physS d)) (s.nextId + 1)).me = s.me.mark (.s (s.me.physS d)) (s.nextId + 1) :=
    State.bank_modBank_self ..
  have hinfl : (s.me.mark (.s (s.me.physS d)) (s.nextId + 1)).inflight = s.me.inflight := by
    unfold Bank.mark; split <;> rfl
  refine (State.bank_modBank_self ..).trans ?_
  rw [show State.bank _ _ = s.me.mark (.s (s.me.physS d)) (s.nextId + 1) from hmark, hinfl]

theorem State.promised_bank (promise : Word) {b : BankIx} (hb : b ≠ s.cur) : (s.promised d promise).bank b = s.bank b :=
  (State.bank_modBank_ne _ _ hb.symm).trans
    (State.bank_modBank_ne ({ s with free := s.free + 2, nextId := s.nextId + 2 } : State) _ hb.symm)

theorem State.withCopy_accepted :
    s.Accepted (s.withCopy d (s.newCopy kind dst src len count tbl)).on d kind dst src len count tbl := by
  set c := s.newCopy kind dst src len count tbl with hc
  have hbanks : (s.withCopy d c).on.banks = (s.promised d c.promise).banks := by
    unfold State.withCopy; split <;> rfl
  have hcur : (s.withCopy d c).on.cur = s.cur := by unfold State.withCopy; split <;> rfl
  have hme : (s.withCopy d c).on.me = (s.promised d c.promise).me := by
    rw [State.me, State.me, hcur, State.bank, State.bank, hbanks]; rfl
  have hcopies : (s.withCopy d c).on.copies = if c.units = 0 then s.copies else s.copies ++ [c] := by
    unfold State.withCopy; split <;> rfl
  refine ⟨⟨rfl, hcur, ?_, ?_, ?_, fun b hb => ?_, fun r hr hs _ => ?_⟩,
    c, s.copyWait + 8 + Config.freeDelay (s.free + 1), s.clk + Nat.max 1 s.copyWait, s.nextId + 1, by omega, ?_,
    rfl, rfl, rfl, rfl, rfl, rfl, rfl, rfl, rfl, rfl, rfl, ?_, hcopies, fun hu => if_neg hu⟩
  · unfold State.withCopy; split <;> rfl
  · unfold State.withCopy; split <;> rfl
  · rw [hme, State.promised_me]; exact Bank.mark_regs ..
  · rw [State.bank, hbanks]; exact State.promised_bank _ hb
  · obtain rfl := List.mem_singleton.1 hr
    rw [hme, State.promised_me]
    exact Bank.isBusy_mark_self _ _ hs nofun
  · exact Nat.lt_add_of_pos_right (Nat.lt_of_lt_of_le Nat.one_pos (Nat.le_max_left ..))
  · rw [hme, State.promised_me]

/-- A copy whose syllable is its checks and then the acceptance. -/
theorem State.accepted_of {f : Core} (hlt : (s.copies.filter (·.bank = s.cur)).length < 16)
    (hf : f s = s.accept d kind dst src len count tbl) :
    ∃ u, issue f s = .next u ∧ s.Accepted u d kind dst src len count tbl :=
  ⟨_, issue_ok (hf.trans (State.accept_eq hlt)), State.withCopy_accepted⟩

end

/-! ## The forms (R247 to R249) -/

section
variable {s : State} {d dst src len tbl : SReg} {a b l t : Word} (ha : s.rdS dst = .ok a) (hb : s.rdS src = .ok b)
  (hl : s.rdS len = .ok l)
include ha hb hl

theorem copyOp_plain (hc : copyChecks s.me.hmode [(b, some l.toNat, kindPath .copySrc (pathOf b), copyAlign l.toNat),
    (a, some l.toNat, kindPath .copyDst (pathOf a), copyAlign l.toNat)] none (lenTrap l) = .ok ()) :
    copyOp d dst src len none s = s.accept d .plain a b l.toNat 0 0 := by
  simp only [copyOp, ha, hb, hl, ok_bind]
  exact congrArg (· >>= fun _ => s.accept d .plain a b l.toNat 0 0) hc

theorem copyOp_gs {hr : HReg} {w : BitVec 128} (hw : s.rdH hr = .ok w)
    (hc : copyChecks s.me.hmode [(b, some l.toNat, kindPath .copySrc (pathOf b), copyAlign l.toNat),
      (a, some l.toNat, kindPath .copyGs (pathOf a), copyAlign l.toNat)] none (lenTrap l) = .ok ())
    (hv : (handleOf w).v = true) (hsnap : (handleOf w).snap = false) (hasid : (handleOf w).asid = s.me.asidcur) :
    copyOp d dst src len (some hr) s = s.accept d (.gs (handleOf w)) a b l.toNat 0 0 := by
  have hbad : (if (!Bank.writer (handleOf w) || decide ((handleOf w).asid ≠ s.me.asidcur)) = true then some hr else none) =
      (none : Option HReg) := by simp [Bank.writer, hv, hsnap, hasid]
  simp only [copyOp, ha, hb, hl, hw, ok_bind, hbad]
  exact congrArg (· >>= fun _ => s.accept d (.gs (handleOf w)) a b l.toNat 0 0) hc

variable (ht : s.rdS tbl = .ok t)
include ht

/-- The count of an indexed form is its length operand. -/
theorem indexedOp_accept {k : Nat} (scatter : Bool)
    (hc : copyChecks s.me.hmode (let r := 32 * 2 ^ k
      let ds := (a, (if scatter then none else some (l.toNat * r)), kindPath .copyDst (pathOf a), copyAlign r)
      let ss := (b, (if scatter then some (l.toNat * r) else none), kindPath .copySrc (pathOf b), copyAlign r)
      let ts := (t, some (4 * l.toNat), decide (pathOf t ≤ 2), 64)
      if scatter then [ss, ds, ts] else [ds, ss, ts]) none
      (if 65536 < l.toNat ∨ 16777216 < l.toNat * (32 * 2 ^ k) then some l else none) = .ok ()) :
    indexedOp scatter d dst src tbl len k s = s.accept d (if scatter then .scatter k else .gather k) a b 0 l.toNat t := by
  simp only [indexedOp, ha, hb, hl, ht, ok_bind]
  exact congrArg (· >>= fun _ => s.accept d (if scatter then .scatter k else .gather k) a b 0 l.toNat t) hc

/-- CPYBC's syllable. -/
theorem exec_cpybc {n : BitVec 8} (hlt : (s.copies.filter (·.bank = s.cur)).length < 16)
    (hc : copyChecks s.me.hmode [(b, some l.toNat, kindPath .copySrc (pathOf b), copyAlign l.toNat),
      (a, some l.toNat, decide (pathOf a = 2), copyAlign l.toNat),
      (t, some (2 * (n.toNat + 1)), decide (pathOf t ≤ 2), 64)] none (lenTrap l) = .ok ()) :
    ∃ u, exec (.cpybc d dst src len tbl n) s = .next u ∧ s.Accepted u d (.bcast (n.toNat + 1)) a b l.toNat 0 t := by
  change ∃ u, execCpybc d dst src len tbl n s = .next u ∧ _
  refine State.accepted_of hlt ?_
  simp only [ha, hb, hl, ht, ok_bind]
  exact congrArg (· >>= fun _ => s.accept d (.bcast (n.toNat + 1)) a b l.toNat 0 t) hc

end

/-! ## PRM.RD (R109, R251) -/

/-- The later of two promises. -/
def laterPromise (p : Word) (x : Copy) : Word := if p.ult x.promise then x.promise else p

theorem foldl_laterPromise (l : List Copy) (p : Word) :
    (l.foldl laterPromise p = p ∨ ∃ c ∈ l, c.promise = l.foldl laterPromise p) ∧
    p.toNat ≤ (l.foldl laterPromise p).toNat ∧ ∀ c ∈ l, c.promise.toNat ≤ (l.foldl laterPromise p).toNat := by
  induction l generalizing p with
  | nil => exact ⟨.inl rfl, Nat.le_refl _, nofun⟩
  | cons x xs ih =>
    obtain ⟨hfrom, hge, hall⟩ := ih (laterPromise p x)
    have hstep : (laterPromise p x = p ∨ laterPromise p x = x.promise) ∧ p.toNat ≤ (laterPromise p x).toNat ∧
        x.promise.toNat ≤ (laterPromise p x).toNat := by
      unfold laterPromise
      split
      · next h => exact ⟨.inr rfl, (BitVec.ult_iff_lt.1 h).le, Nat.le_refl _⟩
      · next h => exact ⟨.inl rfl, Nat.le_refl _, Nat.not_lt.1 fun hlt => h (BitVec.ult_iff_lt.2 hlt)⟩
    obtain ⟨hsel, hp, hx⟩ := hstep
    rw [List.foldl_cons]
    refine ⟨?_, hp.trans hge, fun c hc => ?_⟩
    · rcases hfrom with h | ⟨c, hc, h⟩
      · rcases hsel with h' | h'
        · exact .inl (h.trans h')
        · exact .inr ⟨x, List.mem_cons_self .., h'.symm.trans h.symm⟩
      · exact .inr ⟨c, List.mem_cons_of_mem _ hc, h⟩
    · rcases List.mem_cons.1 hc with rfl | hc
      · exact hx.trans hge
      · exact hall c hc

/-- The latest promise is that of an incomplete copy of the bank, and no other is later. -/
theorem State.latestPromise_of_copy {s : State} {b : BankIx} (h : ∃ c ∈ s.copies, c.bank = b) :
    (∃ c ∈ s.copies, c.bank = b ∧ c.promise = s.latestPromise b) ∧
    ∀ c ∈ s.copies, c.bank = b → c.promise.toNat ≤ (s.latestPromise b).toNat := by
  have hmem {c : Copy} : c ∈ s.copies.filter (·.bank = b) ↔ c ∈ s.copies ∧ c.bank = b := by simp
  obtain ⟨c₀, h₀, hb₀⟩ := h
  cases hl : s.copies.filter (·.bank = b) with
  | nil => exact absurd (hl ▸ hmem.2 ⟨h₀, hb₀⟩) List.not_mem_nil
  | cons x xs =>
    have hp : s.latestPromise b = xs.foldl laterPromise x.promise := by
      simp only [State.latestPromise, hl]; rfl
    obtain ⟨hfrom, hge, hall⟩ := foldl_laterPromise xs x.promise
    rw [hl] at hmem
    rw [hp]
    refine ⟨?_, fun c hc hb => ?_⟩
    · rcases hfrom with h | ⟨c, hc, h⟩
      · obtain ⟨hx, hbx⟩ := hmem.1 (List.mem_cons_self ..)
        exact ⟨x, hx, hbx, h.symm⟩
      · obtain ⟨hx, hbx⟩ := hmem.1 (List.mem_cons_of_mem _ hc)
        exact ⟨c, hx, hbx, h⟩
    · rcases List.mem_cons.1 (hmem.2 ⟨hc, hb⟩) with rfl | hc
      · exact hge
      · exact hall c hc

theorem State.latestPromise_of_none {s : State} {b : BankIx} (h : ∀ c ∈ s.copies, c.bank ≠ b) :
    s.latestPromise b = s.time := by
  have hnil : s.copies.filter (·.bank = b) = [] := by simpa using h
  simp only [State.latestPromise, hnil]

/-- Settles O42: each form is its checks and then the acceptance; PRM.RD is the greatest promise of a list. -/
theorem copies : Obligations.Copies := by
  intro s d dst src len tbl hr k n a b l t ha hb hl ht hlt al ss r ra ix big
  refine ⟨fun hc => State.accepted_of hlt (copyOp_plain ha hb hl hc),
    fun w hw hc hv hsnap hasid => State.accepted_of hlt (copyOp_gs ha hb hl hw hc hv hsnap hasid),
    fun hc => State.accepted_of hlt (indexedOp_accept ha hb hl ht false hc),
    fun hc => State.accepted_of hlt (indexedOp_accept ha hb hl ht true hc), exec_cpybc ha hb hl ht hlt, fun trap => ?_⟩
  refine ⟨_, issue_ok rfl, fun htrap hh hcause => ?_, fun hno => ?_⟩
  · simp [htrap, hh, hcause]
  · have hcond : (trap && s.me.hmode && decide (s.me.tcause.toNat % 256 = 3)) = false := by
      rcases hno with h | h | h <;> simp [h]
    rw [if_neg (by rw [hcond]; exact Bool.false_ne_true)]
    exact ⟨State.latestPromise_of_none, State.latestPromise_of_copy⟩

end Sys2Proof.Machine
end

section
/-! O45: vector loads and stores (R84 to R89, R104, R123, R284 to R288). -/

namespace Sys2Proof.Machine

/-! ## Runs of active bytes (R285) -/

/-- One more number enters the runs, the last run first. -/
def runStep (on : Nat → Bool) (acc : List (Nat × Nat)) (i : Nat) : List (Nat × Nat) :=
  if on i then
    match acc with
    | (p, l) :: r => if p + l = i then (p, l + 1) :: r else (i, 1) :: (p, l) :: r
    | [] => [(i, 1)]
  else acc

/-- The runs so far: each begins below i and below the end of the last one. -/
def RunsBelow (i : Nat) (acc : List (Nat × Nat)) : Prop :=
  ∀ y ∈ acc, y.1 < i ∧ ∀ x, acc.head? = some x → y.1 < x.1 + x.2

theorem runStep_below {on : Nat → Bool} {i : Nat} {acc : List (Nat × Nat)} (h : RunsBelow i acc) :
    RunsBelow (i + 1) (runStep on acc i) := by
  unfold runStep
  split
  · split
    · next p l r =>
      split
      · next he =>
        intro y hy
        have hy' : y.1 < i ∧ y.1 < p + l + 1 := by
          rcases List.mem_cons.1 hy with rfl | hy
          · have := (h (p, l) (List.mem_cons_self ..)).1
            exact ⟨this, by dsimp only; omega⟩
          · obtain ⟨h1, h2⟩ := h y (List.mem_cons_of_mem _ hy)
            exact ⟨h1, Nat.lt_succ_of_lt (h2 (p, l) rfl)⟩
        exact ⟨Nat.lt_succ_of_lt hy'.1, fun x hx => Option.some.inj hx ▸ hy'.2⟩
      · intro y hy
        have hlt : y.1 < i + 1 := by
          rcases List.mem_cons.1 hy with rfl | hy
          · exact Nat.lt_succ_self i
          · exact Nat.lt_succ_of_lt (h y hy).1
        exact ⟨hlt, fun x hx => Option.some.inj hx ▸ hlt⟩
    · intro y hy
      obtain rfl := List.mem_singleton.1 hy
      exact ⟨Nat.lt_succ_self i, fun x hx => Option.some.inj hx ▸ Nat.lt_succ_self i⟩
  · exact fun y hy => ⟨Nat.lt_succ_of_lt (h y hy).1, (h y hy).2⟩

theorem runs_below (on : Nat → Bool) (n : Nat) : RunsBelow n ((List.range n).foldl (runStep on) []) := by
  induction n with
  | zero => exact nofun
  | succ n ih =>
    rw [List.range_succ, List.foldl_append]
    exact runStep_below ih

/-- The span from the first to the last active byte is not empty. -/
theorem runsOf_span {n : Nat} {on : Nat → Bool} {lo m l k : Nat} (hh : (runsOf n on).head? = some (lo, m))
    (hl : (runsOf n on).getLast? = some (l, k)) : lo < l + k := by
  have hruns : runsOf n on = ((List.range n).foldl (runStep on) []).reverse := rfl
  rw [hruns, List.head?_reverse] at hh
  rw [hruns, List.getLast?_reverse] at hl
  exact (runs_below on n (lo, m) (List.mem_of_getLast? hh)).2 (l, k) hl

/-! ## The state past an iterator's advance (R284) -/

theorem State.result_me (s : State) (L : Nat) (res : List Res) (cs : Causes) : (s.result L res cs).me =
    { s.me with inflight := s.me.inflight ++ [{ due := s.clk + L, res := res, causes := cs, seq := s.nextId }] } :=
  State.bank_modBank_self ..

/-- The state in which a vector access's operands are read: nothing but a result in flight has been added. -/
structure State.Advances (s v : State) : Prop where
  mode  : v.me.hmode = s.me.hmode
  wins  : v.me.windows = s.me.windows
  cur   : v.cur = s.cur
  clk   : v.clk = s.clk
  rdV   : ∀ d, v.rdV d = s.rdV d
  mask  : ∀ m, v.rdMask m = s.rdMask m
  physV : ∀ d, v.me.physV d = s.me.physV d

theorem State.Advances.refl (s : State) : s.Advances s := ⟨rfl, rfl, rfl, rfl, fun _ => rfl, fun _ => rfl, fun _ => rfl⟩

theorem State.result_advances (s : State) (L : Nat) (res : List Res) : s.Advances (s.result L res) := by
  refine ⟨?_, ?_, rfl, rfl, fun d => ?_, fun m => ?_, fun d => ?_⟩
  · rw [State.result_me]
  · rw [State.result_me]
  · simp only [State.rdV, State.free?, State.result_me]; rfl
  · cases m with
    | none => rfl
    | some q => simp only [State.rdMask, Option.map_some, State.rdQ, State.result_me]
  · rw [State.result_me]; rfl

section
variable {s v : State} {a : Word}

/-- A scalar gives the address. -/
theorem State.vaddr_s {r : SReg} (h : s.vaddr (.s r) = .ok (a, v)) : s.rdS r = .ok a ∧ v = s := by
  cases hr : s.rdS r with
  | error e => rw [State.vaddr, hr] at h; cases h
  | ok x => rw [State.vaddr, hr] at h; cases h; exact ⟨rfl, rfl⟩

/-- An iterator gives its address, and .ADV writes it back one position on. -/
theorem State.vaddr_it {g : GReg} {adv : Bool} (h : s.vaddr (.it g adv) = .ok (a, v)) :
    ∃ it, s.rdG g = .ok it ∧ a = it.address ∧ v = if adv then s.result 1 [.g g (it.advance 1).1] else s := by
  cases hg : s.rdG g with
  | error e => rw [State.vaddr, hg] at h; cases h
  | ok it => rw [State.vaddr, hg] at h; cases h; exact ⟨it, rfl, rfl, rfl⟩

theorem State.vaddr_advances {x : VAddr} (h : s.vaddr x = .ok (a, v)) : s.Advances v := by
  cases x with
  | s r =>
    obtain ⟨-, rfl⟩ := State.vaddr_s h
    exact .refl _
  | it g adv =>
    obtain ⟨it, -, -, rfl⟩ := State.vaddr_it h
    cases adv with
    | false => exact .refl s
    | true => exact s.result_advances ..

end

/-! ## Where the runs stop (R84 to R86, R89, R104, R285) -/

section
variable {s v : State} {k : AKind} {a : Word} {runs : List (Nat × Nat)} {lo m l n : Nat}

/-- The address error of the runs' span. -/
def State.SpanBad (s : State) (a : Word) (lo len : Nat) : Prop :=
  a.toNat / 2 ^ 60 = 7 ∨ (a + BitVec.ofNat 64 lo).toNat / 2 ^ 60 ≠ a.toNat / 2 ^ 60 ∨
    BadAddress s.me.hmode (a.toNat / 2 ^ 60) ((a + BitVec.ofNat 64 lo).toNat % 2 ^ 60) len

theorem State.spanBad_iff (hv : s.Advances v) (hpos : lo < l + n) : (pathOf a ≠ 7 && pathOf (a + BitVec.ofNat 64 lo) = pathOf a &&
    !addrError v.me.hmode (a + BitVec.ofNat 64 lo) (l + n - lo)) = true ↔ ¬ s.SpanBad a lo (l + n - lo) := by
  rw [State.SpanBad, hv.mode]
  change _ ↔ ¬ (pathOf a = 7 ∨ pathOf (a + BitVec.ofNat 64 lo) ≠ pathOf a ∨ BadAddress s.me.hmode (pathOf a) _ _)
  by_cases hp : pathOf (a + BitVec.ofNat 64 lo) = pathOf a
  · have hiff := addrError_iff (handler := s.me.hmode) (a := a + BitVec.ofNat 64 lo) (n := l + n - lo) (by omega)
    rw [hp] at hiff
    rw [← hiff]
    simp [hp]
  · simp [hp]

variable (hh : runs.head? = some (lo, m)) (hl : runs.getLast? = some (l, n))
include hh hl

/-- Near runs whose span no window entry holds, or one without the permission. -/
theorem State.runSegs_stops {more : List (Word × Seg) → Except Stop Unit} {place : Nat → Bool} (hp : pathOf a ≤ 2)
    {x : Stop} (h : v.xlateLocal (v.baseCtx place lo) k (a + BitVec.ofNat 64 lo) (l + n - lo) = .error x) :
    v.runSegs k a runs more place = .error x := by
  simp only [State.runSegs, hh, hl, if_pos hp, h]
  rfl

variable (hv : s.Advances v) (hpos : lo < l + n)
include hv hpos

theorem State.runCheck_bad (h : s.SpanBad a lo (l + n - lo)) :
    v.runCheck k a runs = .error (.trap { cause := 0x14, val := a }) := by
  simp only [State.runCheck, hh, hl]
  rw [check_error (Bool.eq_false_iff.2 fun hx => (State.spanBad_iff hv hpos).1 hx h)]
  rfl

theorem State.runCheck_good (h : ¬ s.SpanBad a lo (l + n - lo)) : v.runCheck k a runs =
    check (a.toNat % 64 = 0) (.trap { cause := 0x15, val := a }) >>= fun _ =>
      check (kindPath k (pathOf a)) (.trap { cause := 0x16, val := a }) := by
  simp only [State.runCheck, hh, hl]
  rw [check_ok ((State.spanBad_iff hv hpos).2 h)]
  rfl

end

/-- A vector access stops where its checks and its near window match stop it, as an access k' of the scalar kinds. -/
theorem State.spanStops_of {s v : State} {k k' : AKind} {a : Word} {runs : List (Nat × Nat)} {far : Nat → Prop}
    {o : Host.Outcome State Fault Refusal} {more : List (Word × Seg) → Except Stop Unit} {place : Nat → Bool}
    (hv : s.Advances v) (hpos : ∀ lo m l n, runs.head? = some (lo, m) → runs.getLast? = some (l, n) → lo < l + n)
    (hperm : ∀ w, winPerm k w = w.lets k') (hfar : ∀ p, far p → kindPath k p = false)
    (hnear : ∀ p ≤ 2, kindPath k p = true)
    (hcheck : ∀ e, v.runCheck k a runs = .error e → o = .next (s.stopped e))
    (hsegs : ∀ e, v.runCheck k a runs = .ok () → v.runSegs k a runs more place = .error e → o = .next (s.stopped e)) :
    s.SpanStops o k' a runs far := by
  intro lo m l n hh hl
  have hspan := hpos lo m l n hh hl
  intro b path bad
  have hgood (hb : ¬ bad) := State.runCheck_good (k := k) hh hl hv hspan hb
  refine ⟨fun hb => hcheck _ (State.runCheck_bad hh hl hv hspan hb), fun hb hal => hcheck _ ?_,
    fun hb hal => ⟨fun hf => hcheck _ ?_, fun hp => ?_⟩⟩
  · rw [hgood hb, check_error (decide_eq_false hal)]; rfl
  · rw [hgood hb, check_ok (decide_eq_true hal), ok_bind]; exact check_error (hfar _ hf)
  · have hok : v.runCheck k a runs = .ok () := by
      rw [hgood hb, check_ok (decide_eq_true hal), ok_bind]; exact check_ok (hnear _ hp)
    have hwins : (v.baseCtx place lo).wins = s.me.windows := hv.wins
    refine ⟨fun hnone => hsegs _ hok (State.runSegs_stops hh hl hp (State.xlateLocal_miss ?_)),
      fun i hhold hfirst hlets => hsegs _ hok (State.runSegs_stops hh hl hp (State.xlateLocal_denied ?_
        ((hperm _).trans hlets)))⟩
    · rw [hwins]; exact winFind_none hnone
    · rw [hwins]; exact winFind_first hhold hfirst

/-! ## VLD (R286, R287) -/

/-- VLD's syllable. -/
def vldOp (t : EType) (cvt : Option (Geo × RMode)) (d : VReg) (addr : VAddr) (m : VMask) : Core := fun s => do
  let r ← s.vaddr addr
  match cvt with
  | none => loadRuns t d m r.1 r.2
  | some (geo, rm) => loadCvt t geo rm d m r.1 r.2

theorem exec_vld {s : State} {t : EType} {cvt : Option (Geo × RMode)} {d : VReg} {addr : VAddr} {m : VMask} :
    exec (.vld t cvt d addr m) s = issue (vldOp t cvt d addr m) s := rfl

section
variable {v : State} {t : EType} {d : VReg} {m : VMask} {a : Word} {q : Option Mask} {n : Fin 64}
  (hq : v.rdMask m = q) (hn : v.me.physV d = n)
include hq

theorem loadRuns_none (h : runsOf 512 (byteOn q t.width) = []) : loadRuns t d m a v = .ok v := by
  simp only [loadRuns, hq, h]; rfl

include hn in
theorem loadRuns_some (h : runsOf 512 (byteOn q t.width) ≠ []) : loadRuns t d m a v =
    v.runCheck .load a (runsOf 512 (byteOn q t.width)) >>= fun _ =>
    v.runSegs .load a (runsOf 512 (byteOn q t.width)) v.checkParts >>= fun gp =>
    v.loadAt { kind := .load, addr := a, dst := .vec n (gp.map Prod.snd) } (gp.map Prod.fst)
      [.v n] fun bs => [placedRes n (gp.map Prod.snd) bs] := by
  subst hq hn
  rw [loadRuns]
  exact if_neg (by simpa using h)

variable {geo : Geo} {rm : RMode}

theorem loadCvt_none (h : runsOf (16 * t.width) (laneByteOn q t.width) = []) : loadCvt t geo rm d m a v = .ok v := by
  simp only [loadCvt, hq, h]; rfl

omit hq

/-- The last step of a converting load: its elements and scales are read together. -/
def cvtRead (t : EType) (geo : Geo) (rm : RMode) (q : Option Mask) (n : Fin 64) (a : Word) (v : State)
    (all : List (Seg × (Nat × Nat))) : Except Stop State :=
  let act := q.getD (BitVec.allOnes 128)
  let place := all.map Prod.snd
  v.loadAt { kind := .load, addr := a, dst := .cvt n t geo rm act place } (all.map Prod.fst)
    [.v n] (fun bs => [.v n (cvtLanes t geo rm act place bs).1 (elemMask 32 (some act))])
    fun bs => (cvtLanes t geo rm act place bs).2

/-- A converting load once its elements' places are known. -/
def cvtRest (t : EType) (geo : Geo) (rm : RMode) (q : Option Mask) (n : Fin 64) (a : Word) (v : State)
    (gp : List (Seg × (Nat × Nat))) : Except Stop State :=
  match scaleAt geo t.width (granOff a gp) with
  | none => memTrap 0x17 a
  | some sc => do
    let sp ← v.scaleSegs (.fmt t geo) geo q a (granOff a gp) sc
    v.checkParts ((gp.map fun x => (a + BitVec.ofNat 64 x.2.1, x.1)) ++ sp.map fun x => (x.1, x.2.1))
    cvtRead t geo rm q n a v (gp ++ sp.map Prod.snd)

include hq hn in
theorem loadCvt_some (h : runsOf (16 * t.width) (laneByteOn q t.width) ≠ []) : loadCvt t geo rm d m a v =
    v.runCheck (.fmt t geo) a (runsOf (16 * t.width) (laneByteOn q t.width)) >>= fun _ =>
    v.runSegs (.fmt t geo) a (runsOf (16 * t.width) (laneByteOn q t.width)) (v.elemChecks geo)
      (fun o => (scaleAt geo t.width o).isSome) >>= cvtRest t geo rm q n a v := by
  subst hq hn
  rw [loadCvt]
  exact if_neg (by simpa using h)

end

/-! ## VST (R286, R288) -/

/-- The converted lanes of a store, each with its causes. -/
def storeLanes (t : EType) (q : Option Mask) (x : Vec) (rm : RMode) : List (Nat × Causes) :=
  (List.range 128).map fun k => if active q 32 k then convert t .fp32 rm (lane 32 x k) else (0, {})

/-- The runs that a store writes. -/
def storeRunsOf (t : EType) (cvt : Option RMode) (q : Option Mask) : List (Nat × Nat) :=
  match cvt with
  | none => runsOf 512 (byteOn q t.width)
  | some _ => runsOf (16 * t.width) (laneByteOn q t.width)

/-- The bytes that a store writes, as a number. -/
def storeNumber (t : EType) (cvt : Option RMode) (q : Option Mask) (x : Vec) : Nat :=
  match cvt with
  | none => x.toNat
  | some rm => (pack t.width ((storeLanes t q x rm).map Prod.fst)).toNat

/-- A store once its operands are known: a converting one raises its lanes' causes. -/
def vstRest (t : EType) (cvt : Option RMode) (m : VMask) (a : Word) (x : Vec) (v : State) : Except Stop State :=
  let q := v.rdMask m
  let runs := storeRunsOf t cvt q
  match cvt with
  | none => if runs.isEmpty then pure v else v.storeRuns a runs (storeNumber t cvt q x)
  | some rm =>
    if runs.isEmpty then pure v
    else do
      let u ← v.storeRuns a runs (storeNumber t cvt q x)
      pure (u.result 1 [] (((storeLanes t q x rm).map Prod.snd).foldl Causes.plus {}))

/-- VST's syllable. -/
def vstOp (t : EType) (cvt : Option RMode) (addr : VAddr) (b : VReg) (m : VMask) : Core := fun s => do
  let r ← s.vaddr addr
  let x ← r.2.rdV b
  vstRest t cvt m r.1 x r.2

theorem exec_vst {s : State} {t : EType} {cvt : Option RMode} {addr : VAddr} {b : VReg} {m : VMask} :
    exec (.vst t cvt addr b m) s = issue (vstOp t cvt addr b m) s := by
  cases cvt <;> rfl

/-- What a store adds to the state in which its bytes are on their way. -/
def storeEvents (t : EType) (cvt : Option RMode) (q : Option Mask) (x : Vec) (u : State) : State :=
  match cvt with
  | none => u
  | some rm => u.result 1 [] (((storeLanes t q x rm).map Prod.snd).foldl Causes.plus {})

section
variable {v : State} {t : EType} {cvt : Option RMode} {m : VMask} {a : Word} {x : Vec} {q : Option Mask}
  (hq : v.rdMask m = q)
include hq

theorem vstRest_none (h : storeRunsOf t cvt q = []) : vstRest t cvt m a x v = .ok v := by
  cases cvt <;> · simp only [vstRest, hq, h]; rfl

theorem vstRest_some (h : storeRunsOf t cvt q ≠ []) : vstRest t cvt m a x v =
    v.runCheck .store a (storeRunsOf t cvt q) >>= fun _ =>
    v.runSegs .store a (storeRunsOf t cvt q) (fun _ => .ok ()) >>= fun gp =>
    v.storeAt { kind := .store, addr := a } (gp.map Prod.fst)
      (runBytes (storeNumber t cvt q x) (storeRunsOf t cvt q)) >>= fun u =>
    .ok (storeEvents t cvt q x u) := by
  subst hq
  have hne : ¬ (storeRunsOf t cvt (v.rdMask m)).isEmpty = true := by simpa using h
  cases cvt with
  | none =>
    simp only [vstRest]
    rw [if_neg hne, State.storeRuns]
    exact bind_congr fun _ => bind_congr fun gp => (bind_pure _).symm
  | some rm =>
    simp only [vstRest]
    rw [if_neg hne, State.storeRuns, bind_assoc]
    refine bind_congr fun _ => ?_
    rw [bind_assoc]
    rfl

end

/-- A result without registers leaves what has been asked for. -/
theorem Asks.with_result {v u : State} {rs : List BusyReg} {kind : AccKind} {ops : List GOp} {after : List Nat} {a : Word}
    {dst : Dst} (h : Asks v u rs kind ops after a dst) (cs : Causes) :
    Asks v (u.result 1 [] cs) rs kind ops after a dst := by
  obtain ⟨⟨hstop, hcur, hmem, hpsn, hregs, hother, hbusy⟩, hacc⟩ := h
  refine ⟨⟨hstop, hcur, hmem, hpsn, ?_, fun b hb => ?_, fun r hr hs hp => ?_⟩, hacc⟩
  · rw [State.result_me]; exact hregs
  · exact (State.bank_modBank_ne _ _ (hcur ▸ hb.symm)).trans (hother b hb)
  · rw [State.result_me]; exact hbusy r hr hs hp

/-- A store's access stands in the list, its events on their way. -/
theorem State.storeEnds_with {s v : State} {f : Core} {k : Ask} {gs : List Seg} {bs : List Byte} {post : State → State}
    (hk : k.kind ≠ .load) (hf : f s = v.storeAt k gs bs >>= fun u => .ok (post u))
    (hpost : ∀ u, (post u).on.accesses = u.accesses ∧ (∀ rs kind ops after a dst,
      Asks v u.on rs kind ops after a dst → Asks v (post u).on rs kind ops after a dst)) :
    v.StoreEnds (issue f s) k gs bs := by
  refine ⟨fun hp => ?_, fun hp => ?_⟩
  · have hsend : v.storeAt k gs bs =
        .ok (v.sendOps k gs [.store gs bs []] (v.after k gs) (v.clk + storeWindow k.addr) []) := if_pos hp
    rw [hsend] at hf
    refine ⟨_, issue_ok hf, (hpost _).2 _ _ _ _ _ _ (v.sendOps_asks k gs _ _ [] (Nat.le_add_right ..)), fun w hw => ?_⟩
    rw [(hpost _).1] at hw
    have hlast := State.sendOps_getLast (v := v) hk gs [.store gs bs []] (v.after k gs) (v.clk + storeWindow k.addr) []
    obtain rfl := Option.some.inj (hlast.symm.trans hw)
    rfl
  · have hsend : v.storeAt k gs bs = v.sendAccess k (.store gs bs []) [] := if_neg (Nat.not_le.2 hp)
    rw [hsend, State.sendAccess_eq (ops := gopSplit (.store gs bs [])) rfl] at hf
    exact ⟨_, issue_ok hf, (hpost _).2 _ _ _ _ _ _ (State.later_asks ..)⟩

/-- A step that has gone through gave a value that the rest took. -/
theorem bind_eq_ok {α β : Type} {x : Except Stop α} {f : α → Except Stop β} {b : β} (h : x >>= f = .ok b) :
    ∃ a, x = .ok a ∧ f a = .ok b := by
  cases x with
  | ok a => exact ⟨a, rfl, h⟩
  | error e => cases h

theorem State.sendOps_none (v : State) (k : Ask) (gs : List Seg) (ops : List GOp) (after : List Nat) (due : Nat)
    (hk : k.kind ≠ .load) : (v.sendOps k gs ops after due []).me = v.me ∧ (v.sendOps k gs ops after due []).clk = v.clk := by
  simp only [State.sendOps, hk, if_false]
  exact ⟨State.bank_modBank_self .., rfl⟩

/-- A store on its way adds no result to those in flight. -/
theorem State.storeAt_me {v u : State} {k : Ask} {gs : List Seg} {bs : List Byte} (hk : k.kind ≠ .load)
    (h : v.storeAt k gs bs = .ok u) : u.me = v.me ∧ u.clk = v.clk := by
  unfold State.storeAt at h
  split at h
  · cases h
    exact v.sendOps_none _ _ _ _ _ hk
  · rw [State.sendAccess_eq (ops := gopSplit (.store gs bs [])) rfl] at h
    cases h
    exact v.later.2.sendOps_none _ _ _ _ _ hk

/-- A converting load needs the permission of a load (R89, R98). -/
theorem winPerm_fmt (t : EType) (geo : Geo) (w : Win) : winPerm (.fmt t geo) w = w.lets .load := by
  simp [winPerm, Win.lets, AKind.reads, AKind.writes, Win.bit]

/-! ## The three statements -/

section
variable {s v : State} {t : EType} {d : VReg} {addr : VAddr} {m : VMask} {a : Word} (hva : s.vaddr addr = .ok (a, v))
include hva

/-- A plain load (R286). -/
theorem vld_plain : let q := s.rdMask m
    let n := s.me.physV d
    let runs := runsOf 512 (byteOn q t.width)
    let i : Instr := .vld t none d addr m
    (runs = [] → exec i s = .next v.on) ∧
    s.SpanStops (exec i s) .load a runs (fun _ => False) ∧
    (∀ e, v.runCheck .load a runs = .ok () → v.runSegs .load a runs v.checkParts = .error e →
      exec i s = .next (s.stopped e)) ∧
    (∀ gp, runs ≠ [] → v.runCheck .load a runs = .ok () → v.runSegs .load a runs v.checkParts = .ok gp →
      let place := gp.map Prod.snd
      s.LoadEnds v (exec i s) { kind := .load, addr := a, dst := .vec n place } (gp.map Prod.fst) [.v n]
        (fun bs => [placedRes n place bs]) fun _ => {}) := by
  intro q n runs i
  have hadv := State.vaddr_advances hva
  have hq : v.rdMask m = q := hadv.mask m
  have hn : v.me.physV d = n := hadv.physV d
  have hop : vldOp t none d addr m s = loadRuns t d m a v := by simp only [vldOp, hva, ok_bind]
  have hnone (h : runs = []) : vldOp t none d addr m s = .ok v := hop.trans (loadRuns_none hq h)
  have hsome (h : runs ≠ []) := hop.trans (loadRuns_some hq hn h)
  have hempty {k : AKind} {more} {e : Stop} (h : runs = []) : v.runSegs k a runs more ≠ .error e := by
    rw [h]; exact nofun
  have hcheck (e : Stop) (he : v.runCheck .load a runs = .error e) : exec i s = .next (s.stopped e) := by
    have hne : runs ≠ [] := fun h => by rw [h] at he; cases he
    exact exec_vld.trans (issue_stopped (by rw [hsome hne, he]; rfl))
  have hsegs (e : Stop) (hc : v.runCheck .load a runs = .ok ()) (he : v.runSegs .load a runs v.checkParts = .error e) :
      exec i s = .next (s.stopped e) :=
    exec_vld.trans (issue_stopped (by rw [hsome fun h => hempty h he, hc, ok_bind, he]; rfl))
  refine ⟨fun h => exec_vld.trans (issue_ok (hnone h)), ?_, hsegs, fun gp hne hc hg => ?_⟩
  · exact State.spanStops_of hadv (fun _ _ _ _ => runsOf_span) (winPerm_eq_lets rfl) (fun _ => False.elim)
      (fun p hp => kindPath_load (by omega)) hcheck hsegs
  · rw [exec_vld]
    exact State.loadEnds_of (by rw [hsome hne, hc, ok_bind, hg, ok_bind])

/-- A converting load (R287). -/
theorem vld_cvt (geo : Geo) (rm : RMode) : let q := s.rdMask m
    let act := q.getD (BitVec.allOnes 128)
    let n := s.me.physV d
    let runs := runsOf (16 * t.width) (laneByteOn q t.width)
    let i : Instr := .vld t (some (geo, rm)) d addr m
    let k := AKind.fmt t geo
    let segs := v.runSegs k a runs (v.elemChecks geo) fun o => (scaleAt geo t.width o).isSome
    (runs = [] → exec i s = .next v.on) ∧
    s.SpanStops (exec i s) .load a runs (· = 6) ∧
    (∀ e, v.runCheck k a runs = .ok () → segs = .error e → exec i s = .next (s.stopped e)) ∧
    (∀ gp sc e, runs ≠ [] → v.runCheck k a runs = .ok () → segs = .ok gp → scaleAt geo t.width (granOff a gp) = some sc →
      v.scaleSegs k geo q a (granOff a gp) sc = .error e → exec i s = .next (s.stopped e)) ∧
    (∀ gp sc sp e, runs ≠ [] → v.runCheck k a runs = .ok () → segs = .ok gp →
      scaleAt geo t.width (granOff a gp) = some sc → v.scaleSegs k geo q a (granOff a gp) sc = .ok sp →
      v.checkParts ((gp.map fun x => (a + BitVec.ofNat 64 x.2.1, x.1)) ++ sp.map fun x => (x.1, x.2.1)) = .error e →
      exec i s = .next (s.stopped e)) ∧
    (∀ gp sc sp, runs ≠ [] → v.runCheck k a runs = .ok () → segs = .ok gp →
      scaleAt geo t.width (granOff a gp) = some sc → v.scaleSegs k geo q a (granOff a gp) sc = .ok sp →
      v.checkParts ((gp.map fun x => (a + BitVec.ofNat 64 x.2.1, x.1)) ++ sp.map fun x => (x.1, x.2.1)) = .ok () →
      let all := gp ++ sp.map Prod.snd
      let place := all.map Prod.snd
      s.LoadEnds v (exec i s) { kind := .load, addr := a, dst := .cvt n t geo rm act place } (all.map Prod.fst)
        [.v n] (fun bs => [.v n (cvtLanes t geo rm act place bs).1 (elemMask 32 (some act))])
        fun bs => (cvtLanes t geo rm act place bs).2) := by
  intro q act n runs i k segs
  have hadv := State.vaddr_advances hva
  have hq : v.rdMask m = q := hadv.mask m
  have hn : v.me.physV d = n := hadv.physV d
  have hop : vldOp t (some (geo, rm)) d addr m s = loadCvt t geo rm d m a v := by simp only [vldOp, hva, ok_bind]
  have hsome (h : runs ≠ []) : vldOp t (some (geo, rm)) d addr m s =
      v.runCheck k a runs >>= fun _ => segs >>= cvtRest t geo rm q n a v := hop.trans (loadCvt_some hq hn h)
  have hempty {e : Stop} (h : runs = []) : segs ≠ .error e := by
    change v.runSegs k a runs _ _ ≠ _
    rw [h]; exact nofun
  have hcheck (e : Stop) (he : v.runCheck k a runs = .error e) : exec i s = .next (s.stopped e) := by
    have hne : runs ≠ [] := fun h => by rw [h] at he; cases he
    exact exec_vld.trans (issue_stopped (by rw [hsome hne, he]; rfl))
  have hsegs (e : Stop) (hc : v.runCheck k a runs = .ok ()) (he : segs = .error e) : exec i s = .next (s.stopped e) :=
    exec_vld.trans (issue_stopped (by rw [hsome fun h => hempty h he, hc, ok_bind, he]; rfl))
  have hrest {gp} (hne : runs ≠ []) (hc : v.runCheck k a runs = .ok ()) (hg : segs = .ok gp) :
      vldOp t (some (geo, rm)) d addr m s = cvtRest t geo rm q n a v gp := by
    rw [hsome hne, hc, ok_bind, hg, ok_bind]
  refine ⟨fun h => exec_vld.trans (issue_ok (hop.trans (loadCvt_none hq h))), ?_, hsegs,
    fun gp sc e hne hc hg hsc he => exec_vld.trans (issue_stopped ?_),
    fun gp sc sp e hne hc hg hsc hsp he => exec_vld.trans (issue_stopped ?_), fun gp sc sp hne hc hg hsc hsp hp => ?_⟩
  · exact State.spanStops_of (more := v.elemChecks geo) hadv (fun _ _ _ _ => runsOf_span) (winPerm_fmt t geo)
      (fun p hp => by rw [hp]; rfl) (fun p hp => decide_eq_true (by omega)) hcheck hsegs
  · rw [hrest hne hc hg]
    simp only [cvtRest, hsc, show v.scaleSegs (.fmt t geo) geo q a (granOff a gp) sc = .error e from he]
    rfl
  · rw [hrest hne hc hg]
    simp only [cvtRest, hsc, show v.scaleSegs (.fmt t geo) geo q a (granOff a gp) sc = .ok sp from hsp, ok_bind, he]
    rfl
  · rw [exec_vld]
    refine State.loadEnds_of ((hrest hne hc hg).trans ?_)
    simp only [cvtRest, hsc, show v.scaleSegs (.fmt t geo) geo q a (granOff a gp) sc = .ok sp from hsp, ok_bind, hp]
    rfl

/-- A store (R286, R288). -/
theorem vst_stores {x : Vec} (hx : s.rdV d = .ok x) (cvt : Option RMode) : let q := s.rdMask m
    let runs := storeRunsOf t cvt q
    let i : Instr := .vst t cvt addr d m
    (runs = [] → exec i s = .next v.on) ∧
    s.SpanStops (exec i s) .store a runs (· = 5) ∧
    (∀ e, v.runCheck .store a runs = .ok () → v.runSegs .store a runs (fun _ => .ok ()) = .error e →
      exec i s = .next (s.stopped e)) ∧
    (∀ gp, runs ≠ [] → v.runCheck .store a runs = .ok () → v.runSegs .store a runs (fun _ => .ok ()) = .ok gp →
      v.StoreEnds (exec i s) { kind := .store, addr := a } (gp.map Prod.fst) (runBytes (storeNumber t cvt q x) runs)) ∧
    (∀ rm u, cvt = some rm → runs ≠ [] → exec i s = .next u → u.stop = none →
      ∃ p, u.me.inflight = v.me.inflight ++ [p] ∧ p.res = [] ∧ p.due = s.clk + 1 ∧
        p.causes = ((storeLanes t q x rm).map Prod.snd).foldl Causes.plus {}) := by
  intro q runs i
  have hadv := State.vaddr_advances hva
  have hq : v.rdMask m = q := hadv.mask m
  have hop : vstOp t cvt addr d m s = vstRest t cvt m a x v := by
    simp only [vstOp, hva, ok_bind, hadv.rdV d, hx]
  have hsome (h : runs ≠ []) := hop.trans (vstRest_some (a := a) hq h)
  have hempty {e : Stop} (h : runs = []) : v.runSegs .store a runs (fun _ => .ok ()) ≠ .error e := by
    rw [h]; exact nofun
  have hspan : ∀ lo m l n, runs.head? = some (lo, m) → runs.getLast? = some (l, n) → lo < l + n := by
    intro lo m l n hh hl
    cases cvt with
    | none => exact runsOf_span hh hl
    | some rm => exact runsOf_span hh hl
  have hcheck (e : Stop) (he : v.runCheck .store a runs = .error e) : exec i s = .next (s.stopped e) := by
    have hne : runs ≠ [] := fun h => by rw [h] at he; cases he
    exact exec_vst.trans (issue_stopped (by rw [hsome hne, he]; rfl))
  have hsegs (e : Stop) (hc : v.runCheck .store a runs = .ok ())
      (he : v.runSegs .store a runs (fun _ => .ok ()) = .error e) : exec i s = .next (s.stopped e) :=
    exec_vst.trans (issue_stopped (by rw [hsome fun h => hempty h he, hc, ok_bind, he]; rfl))
  refine ⟨fun h => exec_vst.trans (issue_ok (hop.trans (vstRest_none hq h))), ?_, hsegs, fun gp hne hc hg => ?_,
    fun rm u hcvt hne hu hstop => ?_⟩
  · exact State.spanStops_of (more := fun _ => .ok ()) (place := fun _ => true) hadv hspan (winPerm_eq_lets rfl)
      (fun p hp => by rw [hp]; rfl) (fun p hp => by simp [kindPath]; omega) hcheck hsegs
  · rw [exec_vst]
    refine State.storeEnds_with nofun (post := storeEvents t cvt q x) ?_ fun u => ⟨?_, fun rs kind ops after b dst h => ?_⟩
    · rw [hsome hne, hc, ok_bind, hg, ok_bind]
    · cases cvt <;> rfl
    · cases cvt with
      | none => exact h
      | some rm => exact h.with_result _
  · subst hcvt
    obtain ⟨w, hw, rfl⟩ := issue_next (exec_vst.symm.trans hu) hstop
    rw [hsome hne] at hw
    obtain ⟨-, -, hw⟩ := bind_eq_ok hw
    obtain ⟨gp, -, hw⟩ := bind_eq_ok hw
    obtain ⟨y, hy, hw⟩ := bind_eq_ok hw
    obtain rfl := Except.ok.inj hw
    obtain ⟨hme, hclk⟩ := State.storeAt_me (by exact nofun) hy
    refine ⟨_, (congrArg Bank.inflight (y.result_me ..)).trans (by rw [hme]), rfl, ?_, rfl⟩
    rw [hclk, hadv.clk]

end

/-- Settles O45: the address first, then a load or store of the runs, by its checks in their order. -/
theorem vectorMemory : Obligations.VectorMemory := by
  intro s v t d addr m a hva q act n
  refine ⟨?_, vld_plain hva, vld_cvt hva, fun x cvt hx => ?_⟩
  · cases addr with
    | s r => exact State.vaddr_s hva
    | it g adv => exact State.vaddr_it hva
  · cases cvt with
    | none => exact vst_stores hva hx none
    | some rm =>
      obtain ⟨hnone, hspan, hsegs, hends, hlanes⟩ := vst_stores (m := m) hva hx (some rm)
      refine ⟨hnone, hspan, hsegs, hends, fun rm' u h => ?_⟩
      obtain rfl := Option.some.inj h
      exact hlanes rm u rfl

end Sys2Proof.Machine
end

section
/-! O52: how a copy ends, fails, or misses its promise (R108 to R110, R246, R250, R330). -/

namespace Sys2Proof.Machine

/-! ## Fault records do not look at the copies (R330, R394) -/

section
variable (s : State) (cs : List Copy)

theorem State.fqDrain_withCopies (l : List (List Byte)) :
    ({ s with copies := cs } : State).fqDrain l = { s.fqDrain l with copies := cs } := by
  induction l generalizing s with
  | nil => rfl
  | cons e es ih =>
    simp only [State.fqDrain]
    split
    · exact ih (s.fqWrite e)
    · rfl

theorem State.record_withCopies (type : Nat) (rec : List Byte) :
    ({ s with copies := cs } : State).record type rec = { s.record type rec with copies := cs } := by
  rw [State.record_eq, State.record_eq, State.fqDrain_withCopies]
  unfold State.fqTrim
  split <;> rfl

theorem State.trapRecord_withCopies (b : BankIx) (epc val : Word) (action sub cause : Nat) :
    ({ s with copies := cs } : State).trapRecord b epc val action sub cause =
      { s.trapRecord b epc val action sub cause with copies := cs } := s.record_withCopies cs ..

end

section
variable {s : State} {id : Nat} {c : Copy}

/-! ## Completion (R250) -/

theorem exec_copyComplete : exec (.copyComplete id) s =
    .next { s with copies := s.copies.filter fun c => !(c.id = id && c.done) } := rfl

/-- With one copy of the id, and it done, what leaves the engine is that copy. -/
theorem filter_done (hone : s.copies.filter (·.id = id) = [c]) (hdone : c.done = true) :
    (s.copies.filter fun x => !(x.id = id && x.done)) = s.copies.filter (·.id ≠ id) := by
  refine List.filter_congr fun x hx => ?_
  by_cases hid : x.id = id
  · have hmem : x ∈ s.copies.filter (·.id = id) := List.mem_filter.2 ⟨hx, decide_eq_true hid⟩
    rw [hone] at hmem
    obtain rfl := List.mem_singleton.1 hmem
    simp [hid, hdone]
  · simp [hid]

/-! ## Failure (R110, R330) -/

/-- The engine without the copies of an id. -/
def State.withoutCopy (s : State) (id : Nat) : State := { s with copies := s.copies.filter (·.id ≠ id) }

variable (hc : s.copies.find? (·.id = id) = some c)
include hc

theorem exec_copyFailure_live (hlive : (s.bank c.bank).live = true) (hiter : (s.bank c.bank).iter = c.iter) :
    exec (.copyFailure id) s = .next ((s.withoutCopy id).modBank c.bank fun x =>
      { x with pend := { x.pend with copyErr := x.pend.copyErr ++ [(c.dst, c.iter)] } }) := by
  change execCopyFailure id s = _
  rw [execCopyFailure, hc]
  exact if_pos (by rw [Bool.and_eq_true]; exact ⟨hlive, decide_eq_true hiter⟩)

theorem exec_copyFailure_ended (h : (s.bank c.bank).live = false ∨ (s.bank c.bank).iter ≠ c.iter) :
    exec (.copyFailure id) s = .next ((s.withoutCopy id).trapRecord c.bank c.epc c.dst 0x04 0 0x02) := by
  change execCopyFailure id s = _
  rw [execCopyFailure, hc]
  refine if_neg ?_
  rw [Bool.and_eq_true, decide_eq_true_eq]
  rintro ⟨hl, hi⟩
  rcases h with h | h
  · exact absurd (h.symm.trans hl) Bool.false_ne_true
  · exact h hi

/-! ## A missed promise (R109) -/

theorem exec_promiseMissed_stays (h : s.time.toNat < c.promise.toNat ∨ c.done = true) :
    exec (.promiseMissed id) s = .next s := by
  change execPromiseMissed id s = _
  rw [execPromiseMissed, hc]
  refine if_pos ?_
  rcases h with h | h
  · rw [BitVec.ult_iff_lt.2 h, Bool.or_true]
  · rw [h]; rfl

/-- The promise that replaces a missed one. -/
def State.nextPromise (s : State) : Word := s.time + 8 + BitVec.ofNat 64 (Config.freeDelay s.free)

/-- The engine with the copies of an id marked and their promise replaced. -/
def State.withMissed (s : State) (id : Nat) : State :=
  s.draw.2.modCopy id fun c => { c with missed := true, promise := s.nextPromise }

theorem exec_promiseMissed (h : c.promise.toNat ≤ s.time.toNat) (hdone : c.done = false) (hfail : c.failed = false) :
    exec (.promiseMissed id) s = .next (if (s.bank c.bank).live && (s.bank c.bank).iter = c.iter then
      (s.withMissed id).modBank c.bank fun x =>
        { x with pend := { x.pend with timing := x.pend.timing ++ [(s.nextPromise, id)] } }
      else s.withMissed id) := by
  have hult : s.time.ult c.promise = false := Bool.eq_false_iff.2 fun hlt => Nat.not_le.2 (BitVec.ult_iff_lt.1 hlt) h
  have hgo : ¬ (c.done || c.failed || s.time.ult c.promise) = true := by simp [hdone, hfail, hult]
  change execPromiseMissed id s = _
  rw [execPromiseMissed, hc]
  exact (if_neg hgo).trans (apply_ite Host.Outcome.next _ _ _).symm

end

theorem State.nextPromise_eq (s : State) :
    s.nextPromise = s.time + BitVec.ofNat 64 (8 + Config.freeDelay s.free) := by
  rw [State.nextPromise, BitVec.ofNat_add, BitVec.add_assoc]
  rfl

/-- Every copy of the id has the new promise. -/
theorem State.withMissed_promise {s : State} {id : Nat} {x : Copy} (hx : x ∈ (s.withMissed id).copies) (hid : x.id = id) :
    x.promise = s.nextPromise := by
  obtain ⟨y, -, rfl⟩ := List.mem_map.1 hx
  by_cases hy : y.id = id
  · rw [if_pos hy]
  · rw [if_neg hy] at hid; exact absurd hid hy

/-- Only the boundary events of a bank change. -/
theorem State.modPend_view (s : State) (b k : BankIx) (f : Bank → Bank) (hf : ∀ x, (f x).view = x.view) :
    ((s.modBank b f).bank k).view = (s.bank k).view := by
  by_cases h : b = k
  · rw [h, State.bank_modBank_self]; exact hf _
  · rw [State.bank_modBank_ne s f h]

/-- Settles O52: each event by the branch that its copy and its bank decide. -/
theorem copyEvents : Obligations.CopyEvents := by
  intro s id c hc
  refine ⟨fun hone hdone => ⟨_, exec_copyComplete, filter_done hone hdone, rfl, rfl⟩, ?_, exec_promiseMissed_stays hc,
    fun hp hdone hfail => ?_⟩
  · by_cases hlive : (s.bank c.bank).live = true ∧ (s.bank c.bank).iter = c.iter
    · refine ⟨_, exec_copyFailure_live hc hlive.1 hlive.2, rfl, rfl, fun k => State.modPend_view _ _ _ _ fun _ => rfl,
        fun _ _ => ?_, fun h => ?_⟩
      · rw [State.bank_modBank_self]; rfl
      · rcases h with h | h
        · exact absurd (h.symm.trans hlive.1) Bool.false_ne_true
        · exact absurd hlive.2 h
    · have hend : (s.bank c.bank).live = false ∨ (s.bank c.bank).iter ≠ c.iter := by
        rwa [not_and_or, Bool.not_eq_true] at hlive
      have hsame := s.trapRecord_sameBanks c.bank c.epc c.dst 0x04 0 0x02
      refine ⟨_, exec_copyFailure_ended hc hend, ?_, ?_, fun k => ?_, fun hl hi => absurd ⟨hl, hi⟩ hlive, fun _ => ⟨?_, ?_⟩⟩
      all_goals rw [State.withoutCopy, State.trapRecord_withCopies]
      · exact hsame.mem
      · exact congrArg Bank.view (hsame.bank k)
      · exact hsame.banks
      · exact ⟨rfl, rfl⟩
  · set u := if (s.bank c.bank).live && (s.bank c.bank).iter = c.iter then
        (s.withMissed id).modBank c.bank fun x =>
          { x with pend := { x.pend with timing := x.pend.timing ++ [(s.nextPromise, id)] } }
        else s.withMissed id with hu
    have hcopies : u.copies = (s.withMissed id).copies := by rw [hu]; split <;> rfl
    refine ⟨u, 8 + Config.freeDelay s.free, exec_promiseMissed hc hp hdone hfail, Nat.le_add_right .., ?_, ?_,
      fun x hx hid => ?_, fun k => ?_, fun hl hi => ?_, fun hl => ?_⟩
    · rw [hu]; split <;> rfl
    · rw [hcopies]; exact List.length_map ..
    · rw [hcopies] at hx
      rw [← State.nextPromise_eq]
      exact State.withMissed_promise hx hid
    · rw [hu]; split
      · exact State.modPend_view _ _ _ _ fun _ => rfl
      · rfl
    · rw [← State.nextPromise_eq, hu, if_pos (by simp [hl, hi]), State.bank_modBank_self]
      rfl
    · rw [hu, if_neg (by simp [hl])]
      rfl

end Sys2Proof.Machine
end

section
/-! What the hub's work on page-table entries changes: the entries, TLBs and the frames in use, and of the hub's own lists
nothing else (R93, R99, R100, R113). -/

namespace Sys2Proof.Machine

/-! ## The entries of page tables (R94) -/

theorem memBytes_append (m : List Host.Cell) (a k n : Nat) :
    memBytes m a (k + n) = memBytes m a k ++ memBytes m (a + k) n := by
  induction k generalizing a with
  | zero => simp [memBytes]
  | succ k ih => rw [Nat.succ_add, memBytes, memBytes, ih, List.cons_append, Nat.add_right_comm a 1 k, Nat.add_assoc a k 1]

theorem memBytes_congr {m m' : List Host.Cell} (a n : Nat)
    (h : ∀ k, a ≤ k → k < a + n → memByte m' k = memByte m k) : memBytes m' a n = memBytes m a n := by
  induction n generalizing a with
  | zero => rfl
  | succ n ih => rw [memBytes, memBytes, h a (by omega) (by omega), ih (a + 1) fun k h1 h2 => h k (by omega) (by omega)]

section
variable {s t : State} {a : Nat} {w0 w1 : Word}

theorem State.entry_congr (h : t.mem = s.mem) (a : Nat) : t.entry a = s.entry a := by
  simp only [State.entry, State.load, h]

theorem State.setEntry_wf (h : s.Inv) : (s.setEntry a w0 w1).Inv := s.store_wf a _ false h

/-- An entry that is written reads as what was written. -/
theorem State.entry_setEntry_same (h : s.Inv) : (s.setEntry a w0 w1).entry a = (w0, w1) := by
  have hlen : (bytesOf 8 w0.toNat).length = 8 := length_bytesOf 8 _
  have hload := s.load_store a (bytesOf 8 w0.toNat ++ bytesOf 8 w1.toNat) false h
  rw [List.length_append, hlen, length_bytesOf, State.load, memBytes_append] at hload
  obtain ⟨h0, h1⟩ := List.append_inj hload ((length_memBytes ..).trans hlen.symm)
  have back (w : Word) : BitVec.ofNat 64 (natOf (bytesOf 8 w.toNat)) = w := by
    rw [natOf_bytesOf, Nat.mod_eq_of_lt w.isLt, BitVec.ofNat_toNat, BitVec.setWidth_eq]
  exact Prod.ext ((congrArg (fun l => BitVec.ofNat 64 (natOf l)) h0).trans (back w0))
    ((congrArg (fun l => BitVec.ofNat 64 (natOf l)) h1).trans (back w1))

/-- Every entry beside one that is written reads as before. -/
theorem State.entry_setEntry_other (h : s.Inv) {x : Nat} (hx : x + 16 ≤ a ∨ a + 16 ≤ x) :
    (s.setEntry a w0 w1).entry x = s.entry x := by
  have other (k : Nat) (hk : k < a ∨ a + 16 ≤ k) : memByte (s.setEntry a w0 w1).mem k = memByte s.mem k :=
    memByte_memSets_other a k _ h (by rwa [List.length_append, length_bytesOf, length_bytesOf])
  simp only [State.entry, State.load]
  rw [memBytes_congr x 8 fun k _ _ => other k (by omega), memBytes_congr (x + 8) 8 fun k _ _ => other k (by omega)]

end

/-- Clear bits of word 1 of the entry with a number in a run of entries. -/
def State.clearBits (first : Nat) (m : Word) (s : State) (k : Nat) : State :=
  s.setEntry (first + 16 * k) (s.entry (first + 16 * k)).1 ((s.entry (first + 16 * k)).2 &&& ~~~ m)

/-- Two entries agree in all but certain bits of word 1. -/
def agreeBut (m : Word) (x y : Word × Word) : Prop := x.1 = y.1 ∧ x.2 &&& ~~~ m = y.2 &&& ~~~ m

theorem agreeBut.trans {m : Word} {x y z : Word × Word} (h : agreeBut m x y) (h' : agreeBut m y z) : agreeBut m x z :=
  ⟨h.1.trans h'.1, h.2.trans h'.2⟩

theorem State.clearBits_wf {s : State} (h : s.Inv) (first : Nat) (m : Word) (k : Nat) : (s.clearBits first m k).Inv := by
  rw [State.clearBits]
  exact State.setEntry_wf h

theorem State.clearBits_entry {s : State} (h : s.Inv) (first : Nat) (m : Word) (j k : Nat) :
    agreeBut m ((s.clearBits first m k).entry (first + 16 * j)) (s.entry (first + 16 * j)) := by
  by_cases hk : k = j
  · rw [hk, State.clearBits, State.entry_setEntry_same h]
    exact ⟨rfl, by rw [BitVec.and_assoc, BitVec.and_self]⟩
  · rw [State.clearBits, State.entry_setEntry_other h (by omega)]
    exact ⟨rfl, rfl⟩

/-- Clearing bits of a run's entries leaves every entry of the run as it was but for these bits. -/
theorem State.foldl_clearBits_entry (first j : Nat) (m : Word) (l : List Nat) {s : State} (h : s.Inv) :
    (l.foldl (State.clearBits first m) s).Inv ∧
      agreeBut m ((l.foldl (State.clearBits first m) s).entry (first + 16 * j)) (s.entry (first + 16 * j)) := by
  induction l generalizing s with
  | nil => exact ⟨h, rfl, rfl⟩
  | cons k ks ih =>
    rw [List.foldl_cons]
    obtain ⟨hwf, hrest⟩ := ih (State.clearBits_wf h first m k)
    exact ⟨hwf, hrest.trans (State.clearBits_entry h first m j k)⟩

/-- The attributes that a new target keeps do not tell CONT. -/
theorem newTarget_congr {x y : Word} (tgt : Word) (h : x &&& ~~~ w1bit 19 = y &&& ~~~ w1bit 19) :
    newTarget x tgt = newTarget y tgt := by
  have split (z : Word) : z &&& ~~~ (w1bit 3 ||| w1bit 14 ||| w1bit 19) =
      (z &&& ~~~ w1bit 19) &&& ~~~ (w1bit 3 ||| w1bit 14) := by
    rw [BitVec.not_or, BitVec.and_assoc, BitVec.and_comm (~~~ w1bit 19)]
  simp only [newTarget, split, h]

/-- A granule that keeps its target loses DUP and CONT and becomes valid. -/
theorem newTarget_self (w : Word) : newTarget w w = (w &&& ~~~ 0x84000#64) ||| 1 := by
  have hbits (i : Nat) (hi : i < 64) : (w1bit 3).getLsbD i = decide (i = 3) ∧
      (w1bit 3 ||| w1bit 14 ||| w1bit 19).getLsbD i = (decide (i = 3) || (0x84000#64).getLsbD i) := by
    revert i
    decide
  refine BitVec.eq_of_getLsbD_eq fun i hi => ?_
  obtain ⟨h3, hm⟩ := hbits i hi
  have h8 : (0x84000#64).getLsbD 3 = false := rfl
  simp only [newTarget, BitVec.getLsbD_or, BitVec.getLsbD_and, BitVec.getLsbD_not, hi, decide_true, Bool.true_and, hm, h3]
  rw [BitVec.getLsbD_or, BitVec.getLsbD_or] at hm
  by_cases h : i = 3
  · subst h
    rw [h8]
    cases w.getLsbD 3 <;> simp [w1bit]
  · simp [h, w1bit]

/-- The tables that name an entry. -/
theorem State.leafPlace_three {s : State} {asid : BitVec 12} {off a : Nat} (h : s.leafPlace asid off = some (3, a)) :
    ∃ t, a = entryAddr t (walkIndex asid off 3) := by
  unfold State.leafPlace at h
  split at h
  · cases h
  · simp only [Option.bind_eq_bind, Option.bind_eq_some_iff] at h
    obtain ⟨t1, -, t2, -, h⟩ := h
    split at h
    · next t3 _ =>
      cases h
      exact ⟨t3, rfl⟩
    · cases h

end Sys2Proof.Machine
end

section
/-! What the hub's reads of its tables leave of the package, and what a change of a granule's entry does (R93, R99, R111). -/

namespace Sys2Proof.Machine

/-! ## What a record and a codeword that is read change (R111, R115, R394) -/

section
variable (s : State)

/-- Entries that move to the fault queue leave for the host. -/
theorem State.fqDrain_changes (l : List (List Byte)) : ∃ id out tail own, (∀ o ∈ s.outbox, o ∈ out) ∧ s.fqDrain l =
    { s with nextId := id, outbox := out, hub := { s.hub with fqtail := tail, fqown := own } } := by
  induction l generalizing s with
  | nil => exact ⟨_, _, _, _, fun _ h => h, rfl⟩
  | cons e es ih =>
    rw [State.fqDrain]
    split
    · obtain ⟨id, out, tail, own, hout, h⟩ := ih (s.fqWrite e)
      exact ⟨id, out, tail, own, fun o ho => hout o (List.mem_append_left _ (List.mem_append_left _ ho)), h⟩
    · exact ⟨_, _, _, _, fun _ h => h, rfl⟩

/-- A record changes the fault queue and the hub's own buffer, and the package writes to its host. -/
theorem State.record_changes (type : Nat) (rec : List Byte) : ∃ id out tail own lost, (∀ o ∈ s.outbox, o ∈ out) ∧
    s.record type rec = { s with
      nextId := id, outbox := out, hub := { s.hub with fqtail := tail, fqown := own, fqlost := lost } } := by
  obtain ⟨id, out, tail, own, hout, h⟩ := s.fqDrain_changes (s.hub.fqown ++ [faultEntry s.hub.pkg type rec])
  rw [State.record_eq, h, State.fqTrim]
  split <;> exact ⟨_, _, _, _, _, hout, rfl⟩

/-- A codeword that is read changes errors, poison and counters, and may write a record. -/
theorem State.eccWord_changes (src : Nat) (bank : Option Nat) (addr : Word) (e : EccError) :
    ∃ cogs p l n id out tail own lost, (∀ o ∈ s.outbox, o ∈ out) ∧ s.eccWord src bank addr e = { s with
      cogs := cogs, poison := p, ecc := l, free := n, nextId := id, outbox := out
      hub := { s.hub with fqtail := tail, fqown := own, fqlost := lost } } := by
  unfold State.eccWord
  dsimp only
  split
  · exact ⟨_, _, _, _, _, _, _, _, _, fun _ h => h, rfl⟩
  · next c _ =>
    split
    · split
      · exact ⟨_, _, _, _, _, _, _, _, _, fun _ h => h, rfl⟩
      · obtain ⟨id, out, tail, own, lost, hout, h⟩ := State.record_changes { s.draw.2.modCog c (fun x =>
          { x with memue := satAdd x.memue 1 }) with
          ecc := s.ecc.filter (· ≠ e), poison := lineInsert (e.addr / 64) s.poison } 0x01 _
        exact ⟨_, _, _, _, _, _, _, _, _, hout, h⟩
    · split <;> exact ⟨_, _, _, _, _, _, _, _, _, fun _ h => h, rfl⟩

end

/-! ## The hub's own lists (R99, R341) -/

/-- From s to t the time, PTROOT, the packages of the image and the hub's lists of work stay. -/
structure State.SameWork (s t : State) : Prop where
  clk        : t.clk = s.clk
  ptroot     : t.ptroot = s.ptroot
  image      : t.image = s.image
  pkg        : t.hub.pkg = s.hub.pkg
  failedPkgs : t.hub.failedPkgs = s.hub.failedPkgs
  collapses  : t.hub.collapses = s.hub.collapses
  held       : t.hub.held = s.hub.held
  closed     : t.hub.closed = s.hub.closed

/-- From s to t, besides, no byte of memory and no frame in use has changed. -/
structure State.WorkRead (s t : State) : Prop extends s.SameWork t where
  mem    : t.mem = s.mem
  frames : t.hub.frames = s.hub.frames

namespace State.SameWork
variable {s t u : State}

theorem refl (s : State) : s.SameWork s := ⟨rfl, rfl, rfl, rfl, rfl, rfl, rfl, rfl⟩

theorem trans (h : s.SameWork t) (h' : t.SameWork u) : s.SameWork u :=
  ⟨h'.clk.trans h.clk, h'.ptroot.trans h.ptroot, h'.image.trans h.image, h'.pkg.trans h.pkg,
    h'.failedPkgs.trans h.failedPkgs, h'.collapses.trans h.collapses, h'.held.trans h.held, h'.closed.trans h.closed⟩

theorem foldl {α : Type} {f : State → α → State} (l : List α) (s : State) (h : ∀ (s : State) x, s.SameWork (f s x)) :
    s.SameWork (l.foldl f s) := by
  induction l generalizing s with
  | nil => exact refl s
  | cons x xs ih => exact (h s x).trans (ih (f s x))

theorem otherPkgs (h : s.SameWork t) : t.otherPkgs = s.otherPkgs := by
  simp only [State.otherPkgs, State.livePkgs, h.image, h.pkg, h.failedPkgs]

end State.SameWork

namespace State.WorkRead
variable {s t u : State}

theorem refl (s : State) : s.WorkRead s := ⟨.refl s, rfl, rfl⟩

theorem trans (h : s.WorkRead t) (h' : t.WorkRead u) : s.WorkRead u :=
  ⟨h.toSameWork.trans h'.toSameWork, h'.mem.trans h.mem, h'.frames.trans h.frames⟩

theorem foldl {α : Type} {f : State → α → State} (l : List α) (s : State) (h : ∀ (s : State) x, s.WorkRead (f s x)) :
    s.WorkRead (l.foldl f s) := by
  induction l generalizing s with
  | nil => exact refl s
  | cons x xs ih => exact (h s x).trans (ih (f s x))

theorem leafPlace (h : s.WorkRead t) (asid : BitVec 12) (off : Nat) : t.leafPlace asid off = s.leafPlace asid off := by
  simp only [State.leafPlace, State.tableAt, h.ptroot, State.entry_congr h.mem]

end State.WorkRead

section
variable (s : State)

theorem State.modCog_work (c : CogIx) (f : Cog → Cog) : s.WorkRead (s.modCog c f) :=
  ⟨⟨rfl, rfl, rfl, rfl, rfl, rfl, rfl, rfl⟩, rfl, rfl⟩

theorem State.record_work (type : Nat) (rec : List Byte) : s.WorkRead (s.record type rec) := by
  obtain ⟨_, _, _, _, _, -, h⟩ := s.record_changes type rec
  rw [h]
  exact ⟨⟨rfl, rfl, rfl, rfl, rfl, rfl, rfl, rfl⟩, rfl, rfl⟩

theorem State.eccWord_work (src : Nat) (bank : Option Nat) (addr : Word) (e : EccError) :
    s.WorkRead (s.eccWord src bank addr e) := by
  obtain ⟨_, _, _, _, _, _, _, _, _, -, h⟩ := s.eccWord_changes src bank addr e
  rw [h]
  exact ⟨⟨rfl, rfl, rfl, rfl, rfl, rfl, rfl, rfl⟩, rfl, rfl⟩

theorem State.eccRead_work (src : Nat) (bank : Option Nat) (addr : Word) (a n : Nat) :
    s.WorkRead (s.eccRead src bank addr a n) := .foldl _ s fun t _ => t.eccWord_work ..

theorem State.eccWalk_work (bank : Option Nat) (addr : Word) (asid : BitVec 12) (off : Nat) :
    s.WorkRead (s.eccWalk bank addr asid off) := by
  unfold State.eccWalk
  split
  · exact .refl s
  · exact .foldl _ s fun t _ => t.eccRead_work ..

theorem State.store_work (a : Nat) (bs : List Byte) (psn : Bool) : s.SameWork (s.store a bs psn) :=
  ⟨rfl, rfl, rfl, rfl, rfl, rfl, rfl, rfl⟩

theorem State.setEntry_work (a : Nat) (w0 w1 : Word) : s.SameWork (s.setEntry a w0 w1) := by
  rw [State.setEntry]
  exact s.store_work ..

theorem State.clearBits_work (first : Nat) (m : Word) (k : Nat) : s.SameWork (s.clearBits first m k) := by
  rw [State.clearBits]
  exact s.setEntry_work ..

end

/-! ## A frame to break a large page into (R113) -/

/-- A free starting point reaches every place in turn. -/
theorem exists_rotated (p : Nat → Bool) (n : Nat) {N i : Nat} (hi : i < N) (hp : p i = true) :
    ∃ k < N, p ((n + k) % N) = true := by
  have hn : n % N < N := Nat.mod_lt _ (Nat.zero_lt_of_lt hi)
  have hsum : n + (i + (N - n % N)) = i + N * (n / N + 1) := by
    have hdiv := Nat.div_add_mod n N
    rw [Nat.mul_succ]
    omega
  refine ⟨(i + (N - n % N)) % N, Nat.mod_lt _ (Nat.zero_lt_of_lt hi), ?_⟩
  rwa [Nat.add_mod_mod, hsum, Nat.add_mul_mod_self_left, Nat.mod_eq_of_lt hi]

/-- The granule of stacked SRAM with a number. -/
def stackedGranule (i : Nat) : Nat := physAddr (i / 288) true (i % 288 * 65536)

/-- A place is found just where one fits. -/
theorem State.findPlace_none (s : State) (fits : Nat → Bool) :
    (s.findPlace fits).1 = none ↔ ∀ i < 92160, fits (stackedGranule i) = false := by
  have hnone : (s.findPlace fits).1 = none ↔
      ∀ k < 92160, fits (stackedGranule ((Config.freeNat s.free + k) % 92160)) = false := by
    unfold State.findPlace
    simp only [State.draw, Option.map_eq_none_iff]
    split
    · next k hk =>
      have hmem := List.mem_range.1 (List.mem_of_find?_eq_some hk)
      have hfit := List.find?_some hk
      simp only [Bool.and_eq_true] at hfit
      simp only [reduceCtorEq, false_iff]
      exact fun h => Bool.false_ne_true ((h k hmem).symm.trans hfit.1)
    · simp only [List.find?_eq_none, List.mem_range, Bool.not_eq_true]
      rfl
  rw [hnone]
  constructor
  · intro h i hi
    by_contra hfit
    obtain ⟨k, hk, hk'⟩ := exists_rotated (fun i => fits (stackedGranule i)) (Config.freeNat s.free) hi
      ((Bool.not_eq_false _).mp hfit)
    exact Bool.false_ne_true ((h k hk).symm.trans hk')
  · exact fun h k _ => h _ (Nat.mod_lt _ (by decide))

/-- Whether a frame is free depends on the frames in use alone. -/
theorem State.takeFrame_none_congr {s t : State} (h : t.hub.frames = s.hub.frames) :
    t.takeFrame = none ↔ s.takeFrame = none := by
  have none_iff (u : State) : u.takeFrame = none ↔ (u.findPlace fun a => !u.hub.frames.contains a).1 = none := by
    unfold State.takeFrame
    rcases u.findPlace fun a => !u.hub.frames.contains a with ⟨_ | a, v⟩
    · exact ⟨fun _ => rfl, fun _ => rfl⟩
    · exact ⟨nofun, nofun⟩
  rw [none_iff, none_iff, State.findPlace_none, State.findPlace_none, h]

theorem State.takeFrame_work {s t : State} {f : Nat} (h : s.takeFrame = some (f, t)) : s.SameWork t := by
  unfold State.takeFrame at h
  split at h
  · cases h
  · next a u hu =>
    have hu' : s.draw.2 = u := (s.findPlace_snd _).symm.trans (congrArg Prod.snd hu)
    have hs : s.SameWork u := hu' ▸ ⟨rfl, rfl, rfl, rfl, rfl, rfl, rfl, rfl⟩
    cases h
    exact hs.trans ⟨rfl, rfl, rfl, rfl, rfl, rfl, rfl, rfl⟩

/-! ## Breaking a page (R93, R94) -/

section
variable {s t : State} {asid : BitVec 12} {off a : Nat}

theorem State.splitPage_of_none (h : s.leafPlace asid off = none) : s.splitPage asid off = none := by
  simp only [State.splitPage, h]

/-- Break the 256 MiB page whose entry stands at an address into the granules of a table in a frame. -/
def State.breakBig (s : State) (asid : BitVec 12) (off a : Nat) (f : Nat) (u : State) : Nat × State :=
  let v := ((splitBig (s.entry a).1 (s.entry a).2).zipIdx).foldl (fun s e => s.setEntry (entryAddr f e.2) e.1.1 e.1.2) u
  (entryAddr f (walkIndex asid off 3),
    v.setEntry a (tableEntry v.hub.pkg.toNat f).1 (tableEntry v.hub.pkg.toNat f).2)

theorem State.splitPage_of_two (h : s.leafPlace asid off = some (2, a)) :
    s.splitPage asid off = s.takeFrame.map fun x => s.breakBig asid off a x.1 x.2 := by
  simp only [State.splitPage, h]
  rcases s.takeFrame with _ | ⟨f, u⟩
  · rfl
  · simp only [Option.map_some, State.breakBig]

/-- The first of the 32 entries of a 2 MiB page. -/
def contFirst (asid : BitVec 12) (off a : Nat) : Nat := a - 16 * (walkIndex asid off 3 % 32)

theorem State.splitPage_of_three (h : s.leafPlace asid off = some (3, a)) :
    s.splitPage asid off = some (a, if abit (s.entry a).2 19 then
      (List.range 32).foldl (State.clearBits (contFirst asid off a) (w1bit 19))
        (s.eccRead 0 none (BitVec.ofNat 64 off) (contFirst asid off a) 512) else s) := by
  simp only [State.splitPage, h]
  split
  · simp only [contFirst]
    rfl
  · rfl

/-- A granule's own entry is there already, or its page is broken as long as a frame is free. -/
theorem State.leafPlace_level {lv : Nat} (h : s.leafPlace asid off = some (lv, a)) : lv = 2 ∨ lv = 3 := by
  unfold State.leafPlace at h
  split at h
  · cases h
  · simp only [Option.bind_eq_bind, Option.bind_eq_some_iff] at h
    obtain ⟨t1, -, t2, -, h⟩ := h
    split at h <;> cases h
    · exact .inr rfl
    · exact .inl rfl

/-- Reading memory does not decide whether a page can be broken. -/
theorem State.WorkRead.splitPage_none (h : s.WorkRead t) : t.splitPage asid off = none ↔ s.splitPage asid off = none := by
  have hleaf := h.leafPlace asid off
  rcases hs : s.leafPlace asid off with _ | ⟨lv, a⟩
  · rw [State.splitPage_of_none hs, State.splitPage_of_none (hleaf.trans hs)]
  · rcases State.leafPlace_level hs with rfl | rfl
    · rw [State.splitPage_of_two hs, State.splitPage_of_two (hleaf.trans hs), Option.map_eq_none_iff,
        Option.map_eq_none_iff, State.takeFrame_none_congr h.frames]
    · rw [State.splitPage_of_three hs, State.splitPage_of_three (hleaf.trans hs)]
      simp only [reduceCtorEq]

theorem State.splitPage_work (h : s.splitPage asid off = some (a, t)) : s.SameWork t := by
  rcases hs : s.leafPlace asid off with _ | ⟨lv, x⟩
  · rw [State.splitPage_of_none hs] at h
    cases h
  · rcases State.leafPlace_level hs with rfl | rfl
    · rw [State.splitPage_of_two hs, Option.map_eq_some_iff] at h
      obtain ⟨⟨f, u⟩, hf, h⟩ := h
      rw [State.breakBig, Prod.mk.injEq] at h
      rw [← h.2]
      exact (State.takeFrame_work hf).trans ((State.SameWork.foldl _ u fun v e => v.setEntry_work ..).trans
        (State.setEntry_work ..))
    · rw [State.splitPage_of_three hs, Option.some.injEq, Prod.mk.injEq] at h
      rw [← h.2]
      split
      · exact (s.eccRead_work ..).toSameWork.trans (State.SameWork.foldl _ _ fun v k => v.clearBits_work ..)
      · exact .refl s

/-- The granule's own entry stands where it stood, and but for CONT it is as it was. -/
theorem State.splitPage_entry (hs : s.leafPlace asid off = some (3, a)) (hwf : s.Inv) :
    ∃ u, s.splitPage asid off = some (a, u) ∧ u.Inv ∧ agreeBut (w1bit 19) (u.entry a) (s.entry a) := by
  rw [State.splitPage_of_three hs]
  refine ⟨_, rfl, ?_⟩
  split
  · obtain ⟨x, hx⟩ := State.leafPlace_three hs
    have hread := s.eccRead_work 0 none (BitVec.ofNat 64 off) (contFirst asid off a) 512
    have hplace : a = contFirst asid off a + 16 * (walkIndex asid off 3 % 32) := by
      have hmod := Nat.mod_le (walkIndex asid off 3) 32
      rw [contFirst, hx, entryAddr]
      omega
    obtain ⟨hinv, hentry⟩ := State.foldl_clearBits_entry (contFirst asid off a) (walkIndex asid off 3 % 32) (w1bit 19)
      (List.range 32) (s := s.eccRead 0 none (BitVec.ofNat 64 off) (contFirst asid off a) 512)
      (by rw [State.Inv, hread.mem]; exact hwf)
    rw [← hplace, State.entry_congr hread.mem] at hentry
    exact ⟨hinv, hentry⟩
  · exact ⟨hwf, rfl, rfl⟩

end

/-! ## A change of a granule's entry (R99) -/

section
variable (s : State) (asid : BitVec 12) (off : Nat)

theorem State.shootdown_work : s.SameWork (s.shootdown asid off) := ⟨rfl, rfl, rfl, rfl, rfl, rfl, rfl, rfl⟩

theorem State.shootdown_mem : (s.shootdown asid off).mem = s.mem := rfl

/-- No TLB translates the granule. -/
theorem State.shootdown_tlb (k : CogIx) : ∀ e ∈ ((s.shootdown asid off).cog k).tlb, e.covers asid off = false := by
  intro e he
  have htlb : ((s.shootdown asid off).cog k).tlb = (s.cog k).tlb.filter fun e => !e.covers asid off := by
    simp [State.shootdown, State.cog, vmap]
  rw [htlb, List.mem_filter] at he
  exact (Bool.not_eq_true' _).mp he.2

theorem State.changeLeaf_eq (f : Word × Word → Word × Word) : s.changeLeaf asid off f =
    match (s.eccWalk none (BitVec.ofNat 64 off) asid off).splitPage asid off with
    | none => s.eccWalk none (BitVec.ofNat 64 off) asid off
    | some (a, u) => (u.setEntry a (f (u.entry a)).1 (f (u.entry a)).2).shootdown asid off := rfl

theorem State.changeLeaf_work (f : Word × Word → Word × Word) : s.SameWork (s.changeLeaf asid off f) := by
  have hread := (s.eccWalk_work none (BitVec.ofNat 64 off) asid off).toSameWork
  rw [State.changeLeaf_eq]
  split
  · exact hread
  · next a u hu =>
    exact (hread.trans (State.splitPage_work hu)).trans ((u.setEntry_work ..).trans (State.shootdown_work ..))

/-- Where the granule has an entry of its own, no TLB translates it any more. -/
theorem State.changeLeaf_tlb (f : Word × Word → Word × Word) (h : s.splitPage asid off ≠ none) (k : CogIx) :
    ∀ e ∈ ((s.changeLeaf asid off f).cog k).tlb, e.covers asid off = false := by
  have hread := s.eccWalk_work none (BitVec.ofNat 64 off) asid off
  rw [State.changeLeaf_eq]
  split
  · next hu => exact absurd (hread.splitPage_none.1 hu) h
  · next a u hu =>
    exact State.shootdown_tlb _ asid off k

/-- The granule's entry of level 3 becomes what the change makes of it, CONT clear. -/
theorem State.changeLeaf_entry {a : Nat} (f : Word × Word → Word × Word) (hs : s.leafPlace asid off = some (3, a))
    (hwf : s.Inv) (hf : ∀ x, agreeBut (w1bit 19) x (s.entry a) → f x = f (s.entry a)) :
    (s.changeLeaf asid off f).entry a = f (s.entry a) := by
  have hread := s.eccWalk_work none (BitVec.ofNat 64 off) asid off
  obtain ⟨u, hu, hinv, hentry⟩ := State.splitPage_entry ((hread.leafPlace asid off).trans hs)
    (by rw [State.Inv, hread.mem]; exact hwf)
  rw [State.entry_congr hread.mem] at hentry
  rw [State.changeLeaf_eq, hu]
  have hset := State.entry_setEntry_same (a := a) (w0 := (f (u.entry a)).1) (w1 := (f (u.entry a)).2) hinv
  exact (State.entry_congr (State.shootdown_mem ..) a).trans (hset.trans (hf _ hentry))

end

end Sys2Proof.Machine
end

section
/-! A collapse of a page that packages read in duplicate, run by OWNER's hub (R99, R100). -/

namespace Sys2Proof.Machine

/-! ## Messages to the other hubs, and the answers of held faults (R99, R103) -/

section
variable (s : State)

theorem State.tellAll_eq (m : HubMsg) :
    s.tellAll m = { s with outbox := s.outbox ++ s.otherPkgs.map fun p => .hub p m } := s.foldl_emit ..

@[simp] theorem State.tellAll_clk (m : HubMsg) : (s.tellAll m).clk = s.clk := by rw [State.tellAll_eq]
@[simp] theorem State.tellAll_mem (m : HubMsg) : (s.tellAll m).mem = s.mem := by rw [State.tellAll_eq]
@[simp] theorem State.tellAll_hub (m : HubMsg) : (s.tellAll m).hub = s.hub := by rw [State.tellAll_eq]
@[simp] theorem State.tellAll_cogs (m : HubMsg) : (s.tellAll m).cogs = s.cogs := by rw [State.tellAll_eq]
@[simp] theorem State.tellAll_otherPkgs (m : HubMsg) : (s.tellAll m).otherPkgs = s.otherPkgs := by
  rw [State.tellAll_eq]
  rfl

theorem State.mem_tellAll (m : HubMsg) {p : Nat} (hp : p ∈ s.otherPkgs) : Out.hub p m ∈ (s.tellAll m).outbox := by
  rw [State.tellAll_eq]
  exact List.mem_append_right _ (List.mem_map_of_mem hp)

theorem State.later_schedule (ev : Instr) : s.Later (s.later.2.schedule s.later.1 ev) ev :=
  ⟨s.later.1, by rw [State.later]; omega, List.mem_append_right _ (List.mem_singleton_self _)⟩

/-- Faults are answered one after another, a free time later each; nothing else happens now. -/
theorem State.foldl_faultAnswer (l : List (FaultParty × BitVec 12 × BitVec 52 × Nat)) :
    ∃ n ag, l.foldl (fun s h => s.later.2.schedule s.later.1 (.faultAnswer h.1 false)) s =
        { s with free := n, agenda := s.agenda ++ ag } ∧
      ∀ h ∈ l, ∃ d, s.clk < d ∧ (d, Instr.faultAnswer h.1 false) ∈ ag := by
  induction l generalizing s with
  | nil => exact ⟨s.free, [], by rw [List.append_nil, List.foldl_nil], nofun⟩
  | cons x xs ih =>
    obtain ⟨n, ag, heq, hag⟩ := ih (s.later.2.schedule s.later.1 (.faultAnswer x.1 false))
    refine ⟨n, (s.later.1, .faultAnswer x.1 false) :: ag, ?_, fun h hh => ?_⟩
    · rw [List.foldl_cons, heq, ← List.singleton_append, ← List.append_assoc]
      rfl
    · rcases List.mem_cons.1 hh with rfl | hh
      · exact ⟨s.later.1, by rw [State.later]; omega, List.mem_cons_self⟩
      · obtain ⟨d, hd, hmem⟩ := hag h hh
        exact ⟨d, hd, List.mem_cons_of_mem _ hmem⟩

theorem State.answerHeld_eq (p : FaultParty × BitVec 12 × BitVec 52 × Nat → Bool) :
    ∃ n ag, s.answerHeld p = { s with free := n, agenda := s.agenda ++ ag } ∧
      ∀ h ∈ s.hub.held, p h = true → ∃ d, s.clk < d ∧ (d, Instr.faultAnswer h.1 false) ∈ ag := by
  obtain ⟨n, ag, heq, hag⟩ := s.foldl_faultAnswer (s.hub.held.filter p)
  exact ⟨n, ag, heq, fun h hh hp => hag h (List.mem_filter.2 ⟨hh, hp⟩)⟩

end

/-! ## The end of a collapse (R99) -/

section
variable (s : State) (r : CollapseReq)

/-- The collapse leaves the hub's list; the fault that asked for it and those held here for the granule are answered. -/
theorem State.collapseOver_ends : let t := s.collapseOver r
    t.hub = { s.hub with collapses := s.hub.collapses.filter fun c => c.req ≠ r } ∧ t.mem = s.mem ∧
    (∀ o ∈ s.outbox, o ∈ t.outbox) ∧
    (∀ h ∈ s.hub.held, heldIn r.asid (r.goff.toNat / 65536) h = true → h.1 ≠ r.party → s.Later t (.faultAnswer h.1 false)) ∧
    (r.src = s.hub.pkg.toNat → s.Later t (.faultAnswer r.party false)) ∧
    (r.src ≠ s.hub.pkg.toNat → Out.hub r.src (.collapseAnswer r.party false) ∈ t.outbox) := by
  let u : State := { s with hub := { s.hub with collapses := s.hub.collapses.filter fun c => c.req ≠ r } }
  obtain ⟨n, ag, heq, hag⟩ := u.answerHeld_eq fun h => heldIn r.asid (r.goff.toNat / 65536) h && h.1 ≠ r.party
  let v : State := { u with free := n, agenda := u.agenda ++ ag }
  have hover : s.collapseOver r = if r.src = s.hub.pkg.toNat then v.later.2.schedule v.later.1 (.faultAnswer r.party false)
      else v.emit (.hub r.src (.collapseAnswer r.party false)) := by
    unfold State.collapseOver
    simp only
    rw [heq]
  have hheld (h) (hh : h ∈ s.hub.held) (hin : heldIn r.asid (r.goff.toNat / 65536) h = true) (hne : h.1 ≠ r.party) :
      ∃ d, s.clk < d ∧ (d, Instr.faultAnswer h.1 false) ∈ v.agenda := by
    obtain ⟨d, hd, hmem⟩ := hag h hh (by rw [hin, Bool.true_and, decide_eq_true hne])
    exact ⟨d, hd, List.mem_append_right _ hmem⟩
  dsimp only
  rw [hover]
  split
  · next hsrc =>
    refine ⟨rfl, rfl, fun _ h => h, fun h hh hin hne => ?_, fun _ => v.later_schedule _, fun h => absurd hsrc h⟩
    obtain ⟨d, hd, hmem⟩ := hheld h hh hin hne
    exact ⟨d, hd, List.mem_append_left _ hmem⟩
  · next hsrc =>
    exact ⟨rfl, rfl, fun _ h => List.mem_append_left _ h, hheld, fun h => absurd h hsrc,
      fun _ => List.mem_append_right _ (List.mem_singleton_self _)⟩

end

/-! ## Work that waits for a region (R113) -/

section
variable (s : State)

theorem State.retStart_frame (c : CogIx) : ∃ cogs n ag, s.retStart c = { s with cogs := cogs, free := n, agenda := ag } := by
  unfold State.retStart
  split <;> exact ⟨_, _, _, rfl⟩

/-- Asking a region to leave retention concerns the cog that it is in, and the time of the transition. -/
theorem State.askExit_frame (x : Nat) : ∃ cogs n ag, s.askExit x = { s with cogs := cogs, free := n, agenda := ag } := by
  unfold State.askExit
  split
  · next c _ _ =>
    obtain ⟨cogs, n, ag, h⟩ := (s.modCog c fun x => { x with retreq := (s.cog c).retreq &&&
      ~~~ (1#9 <<< (regionOf (physOff ‹Nat›)).val) }).retStart_frame c
    exact ⟨cogs, n, ag, h⟩
  · exact ⟨_, _, _, rfl⟩

/-- Work that waits is made again later, and the hub and memory are as before. -/
theorem State.hubWork_shut (rs : List (Nat × Nat)) (again : Instr) (go : State → State) (h : s.shut rs ≠ none) :
    s.Later (s.hubWork rs again go) again ∧ (s.hubWork rs again go).mem = s.mem ∧
      (s.hubWork rs again go).hub = s.hub := by
  rcases s.hubWork_cases rs again go with ⟨hnone, -⟩ | ⟨x, -, heq⟩
  · exact absurd hnone h
  · obtain ⟨cogs, n, ag, hask⟩ := s.askExit_frame x
    rw [heq, hask]
    exact ⟨State.later_schedule { s with cogs := cogs, free := n, agenda := ag } again, rfl, rfl⟩

end

/-! ## COLLAPSE (R99, R100) -/

section
variable {s : State} {r : CollapseReq} {c : Collapse} {cs : List Collapse} {lv a : Nat}

/-- The first collapse of the hub waits as long as a table that it goes through is not in active memory. -/
theorem collapse_waits (hcs : s.hub.collapses = c :: cs) (hc : c.req = r)
    (hshut : s.shut (s.walkRuns r.asid r.goff.toNat) ≠ none) :
    ∃ t, exec (.collapse r) s = .next t ∧ s.Later t (.collapse r) ∧ t.mem = s.mem ∧ t.hub = s.hub := by
  obtain ⟨go, hgo⟩ : ∃ go, exec (.collapse r) s =
      .next (s.hubWork (s.walkRuns r.asid r.goff.toNat) (.collapse r) go) := by
    show ∃ go, execCollapse r s = _
    unfold execCollapse
    simp only [hcs, hc, ne_eq, not_true_eq_false, if_false]
    exact ⟨_, rfl⟩
  exact ⟨_, hgo, s.hubWork_shut _ _ go hshut⟩

/-- An entry that becomes invalid changes, of the hub's lists of work, the one of closed granules. -/
theorem State.closeLeaf_hub (s : State) (asid : BitVec 12) (off : Nat) : let t := s.closeLeaf asid off
    t.clk = s.clk ∧ t.hub.collapses = s.hub.collapses ∧ t.otherPkgs = s.otherPkgs ∧ (asid, off / 65536) ∈ t.hub.closed := by
  have h := s.changeLeaf_work asid off fun w => (w.1, w.2 &&& ~~~ w1bit 0)
  exact ⟨h.clk, h.collapses, h.otherPkgs, List.mem_eraseDups.2 (List.mem_append_right _ (List.mem_singleton_self _))⟩

/-- The collapse waits for the reads of the other mappers. -/
def State.awaitMappers (s : State) (r : CollapseReq) : State :=
  { s with hub := { s.hub with collapses := s.hub.collapses.map fun c =>
    if c.req = r then { c with opened := true, awaiting := s.otherPkgs } else c } }

/-- Waiting for the mappers concerns the collapse alone, which is made again later. -/
theorem State.awaitMappers_again (s : State) (r : CollapseReq) (ev : Instr) :
    let v := s.awaitMappers r
    let t := v.later.2.schedule v.later.1 ev
    s.Later t ev ∧ t.cogs = s.cogs ∧ t.outbox = s.outbox ∧ t.hub.closed = s.hub.closed ∧
      ∀ c ∈ s.hub.collapses, c.req = r → { c with opened := true, awaiting := s.otherPkgs } ∈ t.hub.collapses :=
  ⟨(s.awaitMappers r).later_schedule ev, rfl, rfl, rfl, fun c hc hr => List.mem_map.2 ⟨c, hc, if_pos hr⟩⟩

theorem State.closeLeaf_tlb (s : State) (asid : BitVec 12) (off : Nat) (h : s.splitPage asid off ≠ none) (k : CogIx) :
    ∀ e ∈ ((s.closeLeaf asid off).cog k).tlb, e.covers asid off = false := by
  have hcogs : (s.closeLeaf asid off).cogs = (s.changeLeaf asid off fun w => (w.1, w.2 &&& ~~~ w1bit 0)).cogs := by
    rw [State.closeLeaf]
  rw [State.cog, hcogs]
  exact s.changeLeaf_tlb asid off _ h k

/-- The collapse begins: the granule's entry becomes invalid at every mapper, and their reads are waited for. -/
theorem collapse_opens (hcs : s.hub.collapses = c :: cs) (hc : c.req = r)
    (hleaf : s.leafPlace r.asid r.goff.toNat = some (lv, a)) (hshut : s.shut (s.walkRuns r.asid r.goff.toNat) = none)
    (hopen : c.opened = false) (hdup : (s.entry a).2.getLsbD 14 = true) (hsplit : s.splitPage r.asid r.goff.toNat ≠ none) :
    ∃ t, exec (.collapse r) s = .next t ∧ s.Later t (.collapse r) ∧
      (∀ k, ∀ e ∈ (t.cog k).tlb, e.covers r.asid r.goff.toNat = false) ∧
      (∀ p ∈ s.otherPkgs, Out.hub p (.entryUpdate r.asid r.goff 0 0) ∈ t.outbox) ∧
      (r.asid, r.goff.toNat / 65536) ∈ t.hub.closed ∧
      ∃ x ∈ t.hub.collapses, x.req = r ∧ x.opened = true ∧ x.awaiting = s.otherPkgs := by
  obtain ⟨hclk, hcoll, hothers, hclosed⟩ := s.closeLeaf_hub r.asid r.goff.toNat
  let u := s.closeLeaf r.asid r.goff.toNat
  let m : HubMsg := .entryUpdate r.asid r.goff 0 0
  let v := (u.tellAll m).awaitMappers r
  have hexec : exec (.collapse r) s = .next (v.later.2.schedule v.later.1 (.collapse r)) := by
    show execCollapse r s = _
    have hbit : abit (s.entry a).2 14 = true := hdup
    unfold execCollapse State.hubWork
    simp only [hcs, hc, hshut, hleaf, hopen, hbit, ne_eq, not_true_eq_false, if_false, Bool.not_false, Bool.not_true, if_true,
      Bool.false_eq_true]
    rfl
  obtain ⟨hlater, hcogs, hout, hkeep, hwaits⟩ := (u.tellAll m).awaitMappers_again r (.collapse r)
  rw [State.Later, State.tellAll_clk, hclk] at hlater
  rw [State.tellAll_cogs] at hcogs
  rw [State.tellAll_hub] at hkeep
  rw [State.tellAll_hub, hcoll, hcs, State.tellAll_otherPkgs, hothers] at hwaits
  refine ⟨_, hexec, hlater, fun k => ?_, fun p hp => ?_, ?_, _, hwaits c List.mem_cons_self hc, hc, rfl, rfl⟩
  · rw [State.cog, hcogs]
    exact s.closeLeaf_tlb r.asid r.goff.toNat hsplit k
  · rw [hout]
    exact u.mem_tellAll m (hothers.symm ▸ hp)
  · rw [hkeep]
    exact hclosed

/-- An entry that names a new target opens the granule, and leaves the rest of the hub's lists. -/
theorem State.openLeaf_hub (s : State) (asid : BitVec 12) (off : Nat) (w0 w1 : Word) : let t := s.openLeaf asid off w0 w1
    t.clk = s.clk ∧ t.hub.pkg = s.hub.pkg ∧ t.hub.collapses = s.hub.collapses ∧ t.hub.held = s.hub.held ∧
      t.otherPkgs = s.otherPkgs ∧ (asid, off / 65536) ∉ t.hub.closed := by
  have h := s.changeLeaf_work asid off fun w => (w0, newTarget w.2 w1)
  refine ⟨h.clk, h.pkg, h.collapses, h.held, h.otherPkgs, fun hmem => ?_⟩
  exact of_decide_eq_true (List.mem_filter.1 hmem).2 rfl

/-- The entry of the granule names its target, without DUP and CONT. -/
theorem State.openLeaf_entry (s : State) {asid : BitVec 12} {off a : Nat} (w0 w1 : Word) (hwf : s.Inv)
    (hleaf : s.leafPlace asid off = some (3, a)) :
    (s.openLeaf asid off w0 w1).entry a = (w0, newTarget (s.entry a).2 w1) :=
  s.changeLeaf_entry asid off (fun w => (w0, newTarget w.2 w1)) hleaf hwf fun _ hx =>
    congrArg (Prod.mk w0) (newTarget_congr w1 hx.2)

/-- Two targets with the same TGT bit are the same for word 1. -/
theorem newTarget_newTarget (w : Word) : newTarget w (newTarget w w) = newTarget w w := by
  have hbit : newTarget w w &&& w1bit 3 = w &&& w1bit 3 := by
    rw [newTarget_self]
    refine BitVec.eq_of_getLsbD_eq fun i hi => ?_
    have h3 : (w1bit 3).getLsbD i = decide (i = 3) := by
      revert i
      decide
    rw [BitVec.getLsbD_and, BitVec.getLsbD_and, h3]
    by_cases h : i = 3
    · subst h
      have hmask : (0x84000#64).getLsbD 3 = false := rfl
      have hone : BitVec.getLsbD (1 : Word) 3 = false := rfl
      rw [BitVec.getLsbD_or, BitVec.getLsbD_and, BitVec.getLsbD_not, hmask, hone, decide_eq_true hi]
      simp only [Bool.not_false, Bool.and_true, Bool.or_false]
    · simp [h]
  rw [newTarget, hbit]
  rfl

/-- The collapse ends once nothing reads the granule: every entry names OWNER's frame without DUP. -/
theorem collapse_ends (hcs : s.hub.collapses = c :: cs) (hc : c.req = r)
    (hleaf : s.leafPlace r.asid r.goff.toNat = some (lv, a)) (hshut : s.shut (s.walkRuns r.asid r.goff.toNat) = none)
    (hopen : c.opened = true) (hawait : c.awaiting = []) (hbusy : s.granuleBusy r.asid r.goff.toNat = false) :
    let w1 := ((s.entry a).2 &&& ~~~ 0x84000#64) ||| 1
    ∃ t, exec (.collapse r) s = .next t ∧
      (∀ p ∈ s.otherPkgs, Out.hub p (.entryUpdate r.asid r.goff (s.entry a).1 w1) ∈ t.outbox) ∧
      (lv = 3 → s.Inv → t.entry a = ((s.entry a).1, w1)) ∧ (∀ x ∈ t.hub.collapses, x.req ≠ r) ∧
      (r.asid, r.goff.toNat / 65536) ∉ t.hub.closed ∧
      (∀ h ∈ s.hub.held, h.2.1 = r.asid → h.2.2.1.toNat / 65536 = r.goff.toNat / 65536 → h.2.2.2 ≠ 0x33 →
        h.1 ≠ r.party → s.Later t (.faultAnswer h.1 false)) ∧
      (r.src = s.hub.pkg.toNat → s.Later t (.faultAnswer r.party false)) ∧
      (r.src ≠ s.hub.pkg.toNat → Out.hub r.src (.collapseAnswer r.party false) ∈ t.outbox) := by
  rw [← newTarget_self]
  intro w1
  let m : HubMsg := .entryUpdate r.asid r.goff (s.entry a).1 w1
  let u := s.openLeaf r.asid r.goff.toNat (s.entry a).1 w1
  let v := u.tellAll m
  obtain ⟨hclk, hpkg, -, hheld, hothers, hclosed⟩ := s.openLeaf_hub r.asid r.goff.toNat (s.entry a).1 w1
  have hexec : exec (.collapse r) s = .next (v.collapseOver r) := by
    show execCollapse r s = _
    unfold execCollapse State.hubWork
    simp only [hcs, hc, hshut, hleaf, hopen, hawait, hbusy, ne_eq, not_true_eq_false, if_false, Bool.not_true,
      Bool.false_eq_true, List.isEmpty_nil, Bool.or_false]
    rfl
  have hvhub : v.hub = u.hub := u.tellAll_hub m
  have hvclk : v.clk = s.clk := (u.tellAll_clk m).trans hclk
  obtain ⟨hhub, hmem, hout, hans, hhere, hthere⟩ := v.collapseOver_ends r
  rw [hvhub] at hhub hhere hthere hans
  have hlater (ev : Instr) (h : v.Later (v.collapseOver r) ev) : s.Later (v.collapseOver r) ev := by
    rwa [State.Later, hvclk] at h
  refine ⟨_, hexec, fun p hp => hout _ (u.mem_tellAll m (hothers.symm ▸ hp)), fun h3 hwf => ?_, fun x hx => ?_, ?_,
    fun h hh hasid hgran hkind hne => hlater _ (hans h (hheld.symm ▸ hh) ?_ hne), fun h => hlater _ (hhere (hpkg ▸ h)),
    fun h => hthere (hpkg ▸ h)⟩
  · rw [State.entry_congr (hmem.trans (u.tellAll_mem m)), s.openLeaf_entry _ _ hwf (h3 ▸ hleaf), newTarget_newTarget]
  · rw [hhub] at hx
    exact of_decide_eq_true (List.mem_filter.1 hx).2
  · rw [hhub]
    exact hclosed
  · rw [heldIn, hasid, hgran, decide_eq_true rfl, decide_eq_true rfl, decide_eq_true hkind]
    rfl

end

end Sys2Proof.Machine
end

section
/-! Retention and scrub of stacked SRAM (R111, R113). -/

namespace Sys2Proof.Machine

/-! ## The next transition (R113) -/

/-- The first index of a test. -/
theorem find?_finRange {n : Nat} {p : Fin n → Bool} {k : Fin n} :
    (List.finRange n).find? p = some k ↔ p k = true ∧ ∀ j < k, ¬ p j = true :=
  List.find?_ofFn_eq_some_of_injective (f := fun i : Fin n => i) fun _ _ h => h

/-- RETREQ asks for another state of a region than its own. -/
def Cog.asks (y : Cog) (k : Fin 9) : Bool :=
  if y.retreq.getLsbD k.val then y.regions[k] = .active else y.regions[k] = .retained

theorem Cog.asks_eq (y : Cog) (k : Fin 9) : y.asks k =
    ((y.retreq.getLsbD k.val && y.regions[k] = .active) || (!y.retreq.getLsbD k.val && y.regions[k] = .retained)) := by
  rw [Cog.asks]
  cases y.retreq.getLsbD k.val <;> simp

section
variable {y : Cog}

theorem Cog.any_transition : (y.regions.toList.any fun r => r = .entering || r = .exiting) = true ↔
    ∃ k : Fin 9, y.regions[k] = .entering ∨ y.regions[k] = .exiting := by
  simp only [List.any_eq_true, Vector.mem_toList_iff, Bool.or_eq_true, decide_eq_true_eq]
  constructor
  · rintro ⟨r, hr, h⟩
    obtain ⟨i, hi, rfl⟩ := Vector.mem_iff_getElem.1 hr
    exact ⟨⟨i, hi⟩, h⟩
  · rintro ⟨k, h⟩
    exact ⟨_, Vector.getElem_mem k.isLt, h⟩

theorem Cog.nextRegion_none
    (h : (∃ k : Fin 9, y.regions[k] = .entering ∨ y.regions[k] = .exiting) ∨ ∀ k, y.asks k = false) : y.nextRegion = none := by
  unfold Cog.nextRegion
  split
  · rfl
  · next hno =>
    rw [Cog.any_transition] at hno
    have hasks := h.resolve_left hno
    exact List.find?_eq_none.2 fun k _ => by rw [← Cog.asks_eq, hasks k]; exact Bool.false_ne_true

theorem Cog.nextRegion_some {k : Fin 9} (hno : ∀ j : Fin 9, y.regions[j] ≠ .entering ∧ y.regions[j] ≠ .exiting)
    (hk : y.asks k = true) (hlow : ∀ j < k, y.asks j = false) : y.nextRegion = some k := by
  unfold Cog.nextRegion
  rw [if_neg fun h => ?_, find?_finRange]
  · exact ⟨by rw [← Cog.asks_eq]; exact hk, fun j hj => by rw [← Cog.asks_eq, hlow j hj]; exact Bool.false_ne_true⟩
  · obtain ⟨j, hj⟩ := Cog.any_transition.1 h
    exact hj.elim (hno j).1 (hno j).2

/-- The next region is one that RETREQ asks for. -/
theorem Cog.asks_of_nextRegion {k : Fin 9} (h : y.nextRegion = some k) : y.asks k = true := by
  unfold Cog.nextRegion at h
  split at h
  · cases h
  · rw [Cog.asks_eq]
    exact (find?_finRange.1 h).1

end

/-- The region of the cog begins its transition, which ends at a cycle. -/
def Cog.begins (y : Cog) (k : Fin 9) (due : Nat) : Cog :=
  { y with retEnd := due, regions := y.regions.set k (if y.regions[k] = .active then .entering else .exiting) }

section
variable (s : State) (c : CogIx)

/-- A transition that begins: of the package, the region and the time of its end. -/
theorem State.retStart_some {k : Fin 9} (h : (s.cog c).nextRegion = some k) :
    let t := s.retStart c
    t.cog c = (s.cog c).begins k (s.clk + 1 + Config.freeDelay s.free % 240000) ∧
    t.poison = s.poison ∧ (∀ x ∈ s.agenda, x ∈ t.agenda) ∧ s.Later t (.retentionTransitionDone c) := by
  let due := s.clk + 1 + Config.freeDelay s.free % 240000
  have heq : s.retStart c = (s.draw.2.modCog c (·.begins k due)).schedule due (.retentionTransitionDone c) := by
    simp only [State.retStart, h]
    rfl
  dsimp only
  rw [heq]
  exact ⟨State.cog_modCog_self s.draw.2 c (·.begins k due), rfl, fun _ hx => List.mem_append_left _ hx,
    due, by omega, List.mem_append_right _ (List.mem_singleton_self _)⟩

theorem State.retStart_none (h : (s.cog c).nextRegion = none) : s.retStart c = s := by
  simp only [State.retStart, h]

/-- What does not concern transitions stays. -/
theorem State.retStart_keeps : ∃ n rs, let t := s.retStart c
    t.cog c = { s.cog c with retEnd := n, regions := rs } ∧ t.poison = s.poison ∧ (∀ x ∈ s.agenda, x ∈ t.agenda) ∧
      ∀ k, (s.cog c).asks k = false → rs[k] = (s.cog c).regions[k] := by
  rcases h : (s.cog c).nextRegion with _ | j
  · rw [s.retStart_none c h]
    exact ⟨_, _, rfl, rfl, fun _ hx => hx, fun _ _ => rfl⟩
  · obtain ⟨hcog, hpoison, hag, -⟩ := s.retStart_some c h
    refine ⟨_, _, hcog, hpoison, hag, fun k hk => Vector.getElem_set_ne _ _ fun hjk => ?_⟩
    rw [← Fin.ext hjk, Cog.asks_of_nextRegion h] at hk
    cases hk

end

/-- RETREQ begins the lowest transition that it asks for, one at a time. -/
theorem retreqWrite_begins (s : State) (c : CogIx) (req : BitVec 9) :
    let x := s.cog c
    let asks (k : Fin 9) : Bool := if req.getLsbD k.val then x.regions[k] = .active else x.regions[k] = .retained
    ∃ t, exec (.retreqWrite c req) s = .next t ∧ (t.cog c).retreq = req ∧ t.mem = s.mem ∧ t.banks = s.banks ∧
      ((∃ k : Fin 9, x.regions[k] = .entering ∨ x.regions[k] = .exiting) ∨ (∀ k, asks k = false) →
        (t.cog c).regions = x.regions) ∧
      ∀ k : Fin 9, (∀ j : Fin 9, x.regions[j] ≠ .entering ∧ x.regions[j] ≠ .exiting) → asks k = true →
        (∀ j < k, asks j = false) →
        (t.cog c).regions = x.regions.set k (if x.regions[k] = .active then .entering else .exiting) ∧
        s.Later t (.retentionTransitionDone c) := by
  intro x asks
  let u := s.modCog c fun x => { x with retreq := req }
  have hu : u.cog c = { x with retreq := req } := State.cog_modCog_self ..
  have hasks (k : Fin 9) : (u.cog c).asks k = asks k := by rw [hu]; rfl
  refine ⟨u.retStart c, rfl, ?_, s.setRetreq_mem c req, s.setRetreq_banks c req, fun h => ?_, fun k hno hk hlow => ?_⟩
  · obtain ⟨n, rs, hcog, -⟩ := u.retStart_keeps c
    rw [hcog, hu]
  · have hnone : (u.cog c).nextRegion = none := by
      refine Cog.nextRegion_none ?_
      rw [hu]
      exact h
    rw [u.retStart_none c hnone, hu]
  · have hsome : (u.cog c).nextRegion = some k := by
      rw [hu]
      exact Cog.nextRegion_some hno hk hlow
    obtain ⟨hcog, -, -, hlater⟩ := u.retStart_some c hsome
    rw [hcog, hu]
    exact ⟨rfl, hlater⟩

end Sys2Proof.Machine
end

section
/-! The ends of transitions, and the scrub: what reading and correcting a line changes (R111, R113, R115). -/

namespace Sys2Proof.Machine

/-! ## Corrections leave the regions (R113) -/

/-- From s to t the hub's work and the regions of the cogs stay. -/
structure State.Corrects (s t : State) : Prop extends s.SameWork t where
  regions : ∀ c, (t.cog c).regions = (s.cog c).regions
  retreq  : ∀ c, (t.cog c).retreq = (s.cog c).retreq

namespace State.Corrects
variable {s t u : State}

theorem of_cogs (h : s.SameWork t) (hc : t.cogs = s.cogs) : s.Corrects t :=
  ⟨h, fun c => by simp only [State.cog, hc], fun c => by simp only [State.cog, hc]⟩

theorem trans (h : s.Corrects t) (h' : t.Corrects u) : s.Corrects u :=
  ⟨h.toSameWork.trans h'.toSameWork, fun c => (h'.regions c).trans (h.regions c),
    fun c => (h'.retreq c).trans (h.retreq c)⟩

theorem foldl {α : Type} {f : State → α → State} (l : List α) (s : State) (h : ∀ (s : State) x, s.Corrects (f s x)) :
    s.Corrects (l.foldl f s) := by
  induction l generalizing s with
  | nil => exact .of_cogs (.refl s) rfl
  | cons x xs ih => exact (h s x).trans (ih (f s x))

/-- A counter of a cog changes. -/
theorem modCog (s : State) (c : CogIx) {f : Cog → Cog} (hreg : ∀ x, (f x).regions = x.regions)
    (hret : ∀ x, (f x).retreq = x.retreq) : s.Corrects (s.modCog c f) := by
  refine ⟨(s.modCog_work c f).toSameWork, fun d => ?_, fun d => ?_⟩ <;> rw [State.cog_modCog] <;> split
  · next h => rw [hreg, h]
  · rfl
  · next h => rw [hret, h]
  · rfl

end State.Corrects

section
variable (s : State)

theorem State.record_cogs (type : Nat) (rec : List Byte) : (s.record type rec).cogs = s.cogs := by
  obtain ⟨_, _, _, h⟩ := s.record_frame type rec
  rw [h]

theorem State.record_poison (type : Nat) (rec : List Byte) : (s.record type rec).poison = s.poison := by
  obtain ⟨_, _, _, h⟩ := s.record_frame type rec
  rw [h]

theorem State.record_ecc (type : Nat) (rec : List Byte) : (s.record type rec).ecc = s.ecc := by
  obtain ⟨_, _, _, h⟩ := s.record_frame type rec
  rw [h]

theorem State.record_corrects (type : Nat) (rec : List Byte) : s.Corrects (s.record type rec) :=
  .of_cogs (s.record_work type rec).toSameWork (s.record_cogs type rec)

/-- A line is poisoned, which a counter of its cog and a record tell (R112, R115). -/
def State.poisons (s : State) (c : CogIx) (l k src : Nat) (b : Option Nat) (loc a : Word) (n : Nat) : State :=
  State.memRecord { s.modCog c fun x => { x with memue := satAdd x.memue 1 } with poison := lineInsert l s.poison }
    k src b loc a n

theorem State.poisons_corrects (c : CogIx) (l k src : Nat) (b : Option Nat) (loc a : Word) (n : Nat) :
    s.Corrects (s.poisons c l k src b loc a n) := by
  refine .trans ?_ (State.record_corrects _ 0x01 _)
  refine (State.Corrects.modCog s c (f := fun x => { x with memue := satAdd x.memue 1 }) (fun _ => rfl) fun _ => rfl).trans ?_
  exact .of_cogs ⟨rfl, rfl, rfl, rfl, rfl, rfl, rfl, rfl⟩ rfl

/-- What a line that is found uncorrectable leaves: its poison, and the counter of its cog one higher. -/
theorem State.poisons_eq (c : CogIx) (l k src : Nat) (b : Option Nat) (loc a : Word) (n : Nat) :
    let t := s.poisons c l k src b loc a n
    t.poison = lineInsert l s.poison ∧ t.ecc = s.ecc ∧ t.mem = s.mem ∧
      (t.cog c) = { s.cog c with memue := satAdd (s.cog c).memue 1 } := by
  refine ⟨State.record_poison .., State.record_ecc .., (State.record_work ..).mem, ?_⟩
  rw [State.cog, State.poisons, State.memRecord, State.record_cogs]
  exact s.cog_modCog_self c fun x => { x with memue := satAdd x.memue 1 }

theorem State.eccWord_corrects (src : Nat) (b : Option Nat) (a : Word) (e : EccError) :
    s.Corrects (s.eccWord src b a e) := by
  have hecc : s.Corrects { s with ecc := s.ecc.filter (· ≠ e) } := .of_cogs ⟨rfl, rfl, rfl, rfl, rfl, rfl, rfl, rfl⟩ rfl
  unfold State.eccWord
  dsimp only
  split
  · exact hecc
  · next c _ =>
    split
    · split
      · exact hecc
      · exact State.Corrects.trans (t := { s with ecc := s.ecc.filter (· ≠ e), free := s.free + 1 })
          (.of_cogs ⟨rfl, rfl, rfl, rfl, rfl, rfl, rfl, rfl⟩ rfl) (State.poisons_corrects _ c ..)
    · split
      · exact hecc.trans (.modCog _ c (fun _ => rfl) fun _ => rfl)
      · exact hecc.trans (.modCog _ c (fun _ => rfl) fun _ => rfl)

theorem State.eccRead_corrects (src : Nat) (b : Option Nat) (a : Word) (x n : Nat) :
    s.Corrects (s.eccRead src b a x n) := .foldl _ s fun t _ => t.eccWord_corrects ..

end

/-! ## A line that leaves retention (R113) -/

section
variable (s : State) (c : CogIx) (l : Nat)

/-- The errors of a line have been read. -/
def State.clearLine (s : State) (l : Nat) : State := { s with ecc := s.ecc.filter fun e => e.addr / 64 ≠ l }

theorem State.clearLine_corrects : s.Corrects (s.clearLine l) := .of_cogs ⟨rfl, rfl, rfl, rfl, rfl, rfl, rfl, rfl⟩ rfl

/-- What the hub does with a line of a retained region: it corrects it, or finds it wrong, or takes it as it is. -/
theorem State.bchLine_eq : s.bchLine c l =
    if s.bchBits l ≤ 4 then (s.clearLine l).modCog c fun x => { x with memceStk := satAdd x.memceStk (s.bchBits l) }
    else if (s.bchBits l = 5 || Config.freeBool s.free) = true then
      if s.poison.contains l = true then (s.clearLine l).draw.2
      else (s.clearLine l).draw.2.poisons c l 3 3 none (deviceForm s.hub.pkg.toNat (l * 64)) 0
        (Config.freeNat s.free % 2 ^ 32)
    else { (s.clearLine l).draw.2 with mem := memSets s.mem (l * 64) ((List.range 64).map (Config.freeByte s.free)) } := by
  unfold State.bchLine
  dsimp only [State.draw]
  by_cases h4 : s.bchBits l ≤ 4
  · rw [if_pos h4, if_pos h4]
    rfl
  · rw [if_neg h4, if_neg h4]
    by_cases hfound : (s.bchBits l = 5 || Config.freeBool s.free) = true
    · rw [if_pos hfound, if_pos hfound, hfound, Bool.true_and]
      rfl
    · rw [if_neg hfound, if_neg hfound, (Bool.not_eq_true _).mp hfound, Bool.false_and, if_neg Bool.false_ne_true]
      rfl

theorem State.bchLine_corrects : s.Corrects (s.bchLine c l) := by
  have hdraw : s.Corrects (s.clearLine l).draw.2 := .of_cogs ⟨rfl, rfl, rfl, rfl, rfl, rfl, rfl, rfl⟩ rfl
  rw [State.bchLine_eq]
  split
  · exact (s.clearLine_corrects l).trans (.modCog _ c (fun _ => rfl) fun _ => rfl)
  · split
    · split
      · exact hdraw
      · exact hdraw.trans (State.poisons_corrects ..)
    · exact hdraw.trans (.of_cogs ⟨rfl, rfl, rfl, rfl, rfl, rfl, rfl, rfl⟩ rfl)

/-- A line of at most 5 wrong bits keeps its bytes, and no other line gains errors. -/
theorem State.bchLine_mem (h : s.bchBits l ≤ 5) : (s.bchLine c l).mem = s.mem := by
  rw [State.bchLine_eq]
  split
  · rfl
  · next h4 =>
    rw [if_pos (by rw [decide_eq_true (by omega : s.bchBits l = 5), Bool.true_or])]
    split
    · rfl
    · exact (State.poisons_eq ..).2.2.1

theorem State.bchLine_ecc : (s.bchLine c l).ecc = s.ecc.filter fun e => e.addr / 64 ≠ l := by
  rw [State.bchLine_eq]
  split
  · rfl
  · split
    · split
      · rfl
      · exact (State.poisons_eq ..).2.1
    · rfl

/-- No other line gains errors. -/
theorem State.bchBits_bchLine (m : Nat) : (s.bchLine c l).bchBits m ≤ s.bchBits m := by
  simp only [State.bchBits, State.bchLine_ecc, List.filter_filter]
  refine List.Sublist.sum_le_sum (List.Sublist.map _ (List.monotone_filter_right _ fun e he => ?_)) fun _ _ => Nat.zero_le _
  exact ((Bool.and_eq_true ..).mp he).1

theorem State.foldl_bchLine_mem (ls : List Nat) (h : ∀ l, s.bchBits l ≤ 5) :
    (ls.foldl (fun s l => s.bchLine c l) s).mem = s.mem := by
  induction ls generalizing s with
  | nil => rfl
  | cons l ls ih => exact (ih _ fun m => (s.bchBits_bchLine c l m).trans (h m)).trans (s.bchLine_mem c l (h l))

/-- The counters of a cog and the poison after a line with some wrong bits has left retention. -/
theorem State.bchLine_counts : let t := s.bchLine c l
    (s.bchBits l ≤ 4 → t.poison = s.poison ∧ (t.cog c).memceStk = satAdd (s.cog c).memceStk (s.bchBits l)) ∧
    (s.bchBits l = 5 → s.poison.contains l = true → t.poison = s.poison ∧ (t.cog c).memue = (s.cog c).memue) ∧
    (s.bchBits l = 5 → s.poison.contains l = false →
      t.poison = lineInsert l s.poison ∧ (t.cog c).memue = satAdd (s.cog c).memue 1) := by
  have found (h : s.bchBits l = 5) : (s.bchBits l = 5 || Config.freeBool s.free) = true := by
    rw [decide_eq_true h, Bool.true_or]
  dsimp only
  rw [State.bchLine_eq]
  refine ⟨fun h => ?_, fun h hp => ?_, fun h hp => ?_⟩
  · rw [if_pos h, State.cog_modCog_self]
    exact ⟨rfl, rfl⟩
  · rw [if_neg (by omega), if_pos (found h), if_pos hp]
    exact ⟨rfl, rfl⟩
  · rw [if_neg (by omega), if_pos (found h), if_neg (by rw [hp]; exact Bool.false_ne_true)]
    obtain ⟨hpoison, -, -, hcog⟩ := (s.clearLine l).draw.2.poisons_eq c l 3 3 none (deviceForm s.hub.pkg.toNat (l * 64)) 0
      (Config.freeNat s.free % 2 ^ 32)
    rw [hpoison, hcog]
    exact ⟨rfl, rfl⟩

end

/-! ## RETENTION_TRANSITION_DONE (R113) -/

/-- A line lies in one region. -/
theorem inRegion_of_line {c : CogIx} {k : Fin 9} {a b : Nat} (h : a / 64 = b / 64) : inRegion c k a = inRegion c k b := by
  have hcog : physCog a = physCog b := by unfold physCog; omega
  have hstk : physStk a = physStk b := by unfold physStk; congr 2; omega
  have hregion : regionOf (physOff a) = regionOf (physOff b) := by
    refine Fin.ext ?_
    show a % 2 ^ 25 / 2 ^ 21 % 9 = b % 2 ^ 25 / 2 ^ 21 % 9
    congr 1
    omega
  simp only [inRegion, hcog, hstk, hregion]

/-- The lines of a region that hold errors. -/
def State.regionLines (s : State) (c : CogIx) (k : Fin 9) : List Nat :=
  ((s.ecc.filter fun e => inRegion c k e.addr).map fun e => e.addr / 64).eraseDups

section
variable {s : State} {c : CogIx} {k : Fin 9}

/-- A region's one error is the whole of its line's. -/
theorem State.bchBits_of_one {e : EccError} (h : (s.ecc.filter fun y => inRegion c k y.addr) = [e]) :
    s.regionLines c k = [e.addr / 64] ∧ s.bchBits (e.addr / 64) = e.bits := by
  have hin : inRegion c k e.addr = true :=
    (List.mem_filter.1 (h ▸ List.mem_singleton_self e : e ∈ s.ecc.filter fun y => inRegion c k y.addr)).2
  have hline : (s.ecc.filter fun y => y.addr / 64 = e.addr / 64) = [e] := by
    have hboth : (s.ecc.filter fun y => inRegion c k y.addr).filter (fun y => y.addr / 64 = e.addr / 64) = [e] := by
      rw [h]
      simp
    rw [List.filter_filter] at hboth
    rw [← hboth]
    refine List.filter_congr fun y _ => ?_
    by_cases hy : y.addr / 64 = e.addr / 64
    · simp [hy, inRegion_of_line hy, hin]
    · simp [hy]
  refine ⟨?_, ?_⟩
  · rw [State.regionLines, h]
    rfl
  · rw [State.bchBits, hline]
    simp

/-- The region in transition whose time is over is retained, or active again once its lines have been corrected and the
faults held for it are to be answered; the next transition begins. -/
theorem retentionDone_eq (hother : ∀ j : Fin 9, j ≠ k → (s.cog c).regions[j] ≠ .entering ∧ (s.cog c).regions[j] ≠ .exiting)
    (hdue : (s.cog c).retEnd ≤ s.clk) :
    ((s.cog c).regions[k] = .entering → exec (.retentionTransitionDone c) s =
      .next ((((s.regionLines c k).foldl (fun s l => s.eccRead 3 none 0 (l * 64) 64) s).modCog c fun x =>
        { x with regions := x.regions.set k .retained }).retStart c)) ∧
    ((s.cog c).regions[k] = .exiting → exec (.retentionTransitionDone c) s =
      .next (((((s.regionLines c k).foldl (fun s l => s.bchLine c l) s).modCog c fun x =>
        { x with regions := x.regions.set k .active }).answerHeld fun h =>
          h.2.2.2 = 0x33 && inRegion c k h.2.2.1.toNat).retStart c)) := by
  have hfind (h : (s.cog c).regions[k] = .entering ∨ (s.cog c).regions[k] = .exiting) : ((List.finRange 9).find? fun k =>
      (s.cog c).regions[k] = .entering || (s.cog c).regions[k] = .exiting) = some k := by
    refine find?_finRange.2 ⟨by simpa using h, fun j hj => ?_⟩
    obtain ⟨hent, hexit⟩ := hother j (ne_of_lt hj)
    simp only [hent, hexit, decide_false, Bool.or_false, Bool.false_eq_true, not_false_eq_true]
  have hclk : ¬ s.clk < (s.cog c).retEnd := Nat.not_lt.2 hdue
  constructor <;> intro h
  · show execRetentionTransitionDone c s = _
    simp only [execRetentionTransitionDone, hfind (.inl h), hclk, h, if_true, if_false]
    rfl
  · show execRetentionTransitionDone c s = _
    simp only [execRetentionTransitionDone, hfind (.inr h), hclk, h, if_false, reduceCtorEq]
    rfl

end

end Sys2Proof.Machine
end

section
/-! O51: the hub's part in memory (R99, R102, R103, R111 to R115, R390). -/

namespace Sys2Proof.Machine

/-! ## Ends of transitions (R113) -/

section
variable {s : State} {c : CogIx} {k : Fin 9}

/-- A region enters retention with its bytes as they are. -/
theorem retentionDone_enters
    (hother : ∀ j : Fin 9, j ≠ k → (s.cog c).regions[j] ≠ .entering ∧ (s.cog c).regions[j] ≠ .exiting)
    (hdue : (s.cog c).retEnd ≤ s.clk) (hk : (s.cog c).regions[k] = .entering) (hreq : (s.cog c).retreq.getLsbD k.val = true) :
    ∃ t, exec (.retentionTransitionDone c) s = .next t ∧ (t.cog c).regions[k] = .retained ∧ t.mem = s.mem := by
  let v := (s.regionLines c k).foldl (fun s l => s.eccRead 3 none 0 (l * 64) 64) s
  let u := v.modCog c fun x => { x with regions := x.regions.set k .retained }
  have hv : s.Corrects v := .foldl _ s fun t l => t.eccRead_corrects ..
  have hmem : v.mem = s.mem := (State.WorkRead.foldl _ s fun t l => t.eccRead_work ..).mem
  have hu : u.cog c = { v.cog c with regions := (v.cog c).regions.set k .retained } := State.cog_modCog_self ..
  have hnow : (u.cog c).regions[k] = .retained := by rw [hu]; exact Vector.getElem_set_self ..
  have hasks : (u.cog c).asks k = false := by
    have hret : (u.cog c).retreq = (s.cog c).retreq := by rw [hu]; exact hv.retreq c
    rw [Cog.asks, hret, hreq, if_pos rfl, hnow]
    rfl
  obtain ⟨n, rs, hcog, -, -, hrs⟩ := u.retStart_keeps c
  refine ⟨u.retStart c, (retentionDone_eq hother hdue).1 hk, ?_, (State.retStart_mem u c).trans hmem⟩
  rw [hcog]
  exact (hrs k hasks).trans hnow

/-- A region leaves retention: its lines are corrected or found wrong, and the faults held for it are answered. -/
theorem retentionDone_exits
    (hother : ∀ j : Fin 9, j ≠ k → (s.cog c).regions[j] ≠ .entering ∧ (s.cog c).regions[j] ≠ .exiting)
    (hdue : (s.cog c).retEnd ≤ s.clk) (hk : (s.cog c).regions[k] = .exiting) (hreq : (s.cog c).retreq.getLsbD k.val = false) :
    ∃ t, exec (.retentionTransitionDone c) s = .next t ∧ (t.cog c).regions[k] = .active ∧
      ((∀ l, s.bchBits l ≤ 5) → t.mem = s.mem) ∧
      (∀ h ∈ s.hub.held, h.2.2.2 = 0x33 → inRegion c k h.2.2.1.toNat = true → s.Later t (.faultAnswer h.1 false)) ∧
      ∀ e, (s.ecc.filter fun y => inRegion c k y.addr) = [e] →
        (e.bits ≤ 4 → t.poison = s.poison ∧ (t.cog c).memceStk = satAdd (s.cog c).memceStk e.bits) ∧
        (e.bits = 5 → s.poison.contains (e.addr / 64) = true → t.poison = s.poison ∧ (t.cog c).memue = (s.cog c).memue) ∧
        (e.bits = 5 → s.poison.contains (e.addr / 64) = false →
          t.poison = lineInsert (e.addr / 64) s.poison ∧ (t.cog c).memue = satAdd (s.cog c).memue 1) := by
  let v := (s.regionLines c k).foldl (fun s l => s.bchLine c l) s
  let u := v.modCog c fun x => { x with regions := x.regions.set k .active }
  have hv : s.Corrects v := .foldl _ s fun t l => t.bchLine_corrects c l
  have hu : u.cog c = { v.cog c with regions := (v.cog c).regions.set k .active } := State.cog_modCog_self ..
  obtain ⟨n, ag, hheld, hans⟩ := u.answerHeld_eq fun h => h.2.2.2 = 0x33 && inRegion c k h.2.2.1.toNat
  let w : State := { u with free := n, agenda := u.agenda ++ ag }
  have hw : w.cog c = u.cog c := rfl
  have hnow : (w.cog c).regions[k] = .active := by rw [hw, hu]; exact Vector.getElem_set_self ..
  have hasks : (w.cog c).asks k = false := by
    have hret : (w.cog c).retreq = (s.cog c).retreq := by rw [hw, hu]; exact hv.retreq c
    rw [Cog.asks, hret, hreq, if_neg Bool.false_ne_true, hnow]
    rfl
  obtain ⟨m, rs, hcog, hpoison, hag, hrs⟩ := w.retStart_keeps c
  refine ⟨w.retStart c, ?_, ?_, fun hbits => ?_, fun h hh hkind hin => ?_, fun e he => ?_⟩
  · rw [(retentionDone_eq hother hdue).2 hk, hheld]
  · rw [hcog]
    exact (hrs k hasks).trans hnow
  · exact (State.retStart_mem w c).trans (s.foldl_bchLine_mem c _ hbits)
  · obtain ⟨d, hd, hmem⟩ := hans h (by rw [show u.hub.held = s.hub.held from hv.held]; exact hh)
      (by rw [hkind, hin]; rfl)
    refine ⟨d, ?_, hag _ (List.mem_append_right _ hmem)⟩
    rwa [show u.clk = s.clk from hv.clk] at hd
  · obtain ⟨hlines, hbits⟩ := State.bchBits_of_one he
    have hone : v = s.bchLine c (e.addr / 64) := by
      show (s.regionLines c k).foldl _ s = _
      rw [hlines]
      rfl
    have hcounts := s.bchLine_counts c (e.addr / 64)
    rw [← hone, hbits] at hcounts
    rw [hpoison, hcog, hw, hu]
    exact hcounts

end

/-! ## Scrub (R111) -/

section
variable {s : State} {c : CogIx}

/-- A scrubbed place is in stacked SRAM of the cog. -/
theorem scrubbed_place {a : Nat} (h : s.scrubbed c a = true) : cog? (physCog a) = some c ∧ physStk a = true := by
  simp only [State.scrubbed, Bool.and_eq_true, decide_eq_true_eq] at h
  obtain ⟨⟨hcog, hstk⟩, -⟩ := h
  exact ⟨by rw [hcog]; exact dif_pos c.isLt, hstk⟩

/-- One wrong codeword in stacked SRAM that is read: a wrong bit is corrected and counted; more poison its line, unless it is
poisoned already. -/
theorem State.eccWord_counts {e : EccError} (src : Nat) (b : Option Nat) (a : Word) (h : s.scrubbed c e.addr = true) :
    let t := s.eccWord src b a e
    t.ecc = s.ecc.filter (· ≠ e) ∧
    (e.bits ≤ 1 → t.poison = s.poison ∧ (t.cog c).memceStk = satAdd (s.cog c).memceStk 1) ∧
    (2 ≤ e.bits → s.poison.contains (e.addr / 64) = true → t.poison = s.poison ∧ (t.cog c).memue = (s.cog c).memue) ∧
    (2 ≤ e.bits → s.poison.contains (e.addr / 64) = false →
      t.poison = lineInsert (e.addr / 64) s.poison ∧ (t.cog c).memue = satAdd (s.cog c).memue 1) := by
  obtain ⟨hcog, hstk⟩ := scrubbed_place h
  let u : State := { s with ecc := s.ecc.filter (· ≠ e) }
  have heq : s.eccWord src b a e =
      if 2 ≤ e.bits then
        if s.poison.contains (e.addr / 64) = true then u
        else u.draw.2.poisons c (e.addr / 64) 2 src b (deviceForm s.hub.pkg.toNat e.addr) a (Config.freeNat s.free % 2 ^ 32)
      else u.modCog c fun x => { x with memceStk := satAdd x.memceStk 1 } := by
    unfold State.eccWord
    simp only [hcog, hstk, if_true]
    rfl
  dsimp only
  rw [heq]
  obtain ⟨hpoison, hecc, -, hafter⟩ := u.draw.2.poisons_eq c (e.addr / 64) 2 src b (deviceForm s.hub.pkg.toNat e.addr) a
    (Config.freeNat s.free % 2 ^ 32)
  refine ⟨?_, fun h1 => ?_, fun h2 hp => ?_, fun h2 hp => ?_⟩
  · split
    · split
      · rfl
      · exact hecc
    · rfl
  · rw [if_neg (by omega), State.cog_modCog_self]
    exact ⟨rfl, rfl⟩
  · rw [if_pos h2, if_pos hp]
    exact ⟨rfl, rfl⟩
  · rw [if_pos h2, if_neg (by rw [hp]; exact Bool.false_ne_true), hpoison, hafter]
    exact ⟨rfl, rfl⟩

/-- A line is read and corrected, and when no line of the cog's active stacked SRAM has an error left, the next pass is due
within 2^27 cycles. -/
theorem scrub_reads (s : State) (c : CogIx) (l : Nat) : ∃ t, exec (.scrub c l) s = .next t ∧ t.mem = s.mem ∧
    t.banks = s.banks ∧
    ((∀ e ∈ t.ecc, t.scrubbed c e.addr = false) →
      s.clk < (t.cog c).scrubDue ∧ (t.cog c).scrubDue ≤ s.clk + 2 ^ 27) ∧
    (s.scrubbed c (l * 64) = false → t.ecc = s.ecc ∧ t.poison = s.poison) ∧
    (∀ e, s.scrubbed c (l * 64) = true → s.scrubbed c e.addr = true → s.ecc.filter (·.meets (l * 64) 64) = [e] →
      t.ecc = s.ecc.filter (· ≠ e) ∧
      (e.bits ≤ 1 → t.poison = s.poison ∧ (t.cog c).memceStk = satAdd (s.cog c).memceStk 1) ∧
      (2 ≤ e.bits → s.poison.contains (e.addr / 64) = true → t.poison = s.poison ∧ (t.cog c).memue = (s.cog c).memue) ∧
      (2 ≤ e.bits → s.poison.contains (e.addr / 64) = false →
        t.poison = lineInsert (e.addr / 64) s.poison ∧ (t.cog c).memue = satAdd (s.cog c).memue 1)) := by
  let v := if s.scrubbed c (l * 64) then s.eccRead 2 none 0 (l * 64) 64 else s
  have hread : s.WorkRead v := by
    show s.WorkRead (if _ then _ else _)
    split
    · exact s.eccRead_work ..
    · exact .refl s
  have hbanks : v.banks = s.banks := by
    show (if _ then _ else _ : State).banks = _
    split
    · exact (s.eccRead_loads ..).banks
    · rfl
  have hout (h : s.scrubbed c (l * 64) = false) : v = s := if_neg (by rw [h]; exact Bool.false_ne_true)
  have hone (e : EccError) (h : s.scrubbed c (l * 64) = true) (he : s.ecc.filter (·.meets (l * 64) 64) = [e]) :
      v = s.eccWord 2 none 0 e := by
    show (if _ then _ else _) = _
    rw [if_pos h, State.eccRead, he]
    rfl
  by_cases hmore : (v.scrubLine c).isSome = true
  · refine ⟨v, if_pos hmore, hread.mem, hbanks, fun hno => ?_, fun h => by rw [hout h]; exact ⟨rfl, rfl⟩,
      fun e h hs he => ?_⟩
    · rw [State.scrubLine, Option.isSome_map, List.find?_isSome] at hmore
      obtain ⟨e, he, hs⟩ := hmore
      exact absurd (hno e he) (by rw [hs]; exact Bool.noConfusion)
    · rw [hone e h he]
      exact State.eccWord_counts 2 none 0 hs
  · let u := v.draw.2.modCog c fun x => { x with scrubDue := v.clk + 1 + Config.freeDelay v.free % 2 ^ 27 }
    have hcog : u.cog c = { v.cog c with scrubDue := v.clk + 1 + Config.freeDelay v.free % 2 ^ 27 } :=
      State.cog_modCog_self v.draw.2 c fun x => { x with scrubDue := v.clk + 1 + Config.freeDelay v.free % 2 ^ 27 }
    have hsame : u.ecc = v.ecc ∧ u.poison = v.poison := ⟨rfl, rfl⟩
    refine ⟨u, if_neg hmore, hread.mem, hbanks, fun _ => ?_, fun h => ?_, fun e h hs he => ?_⟩
    · rw [hcog, ← hread.clk]
      dsimp only
      omega
    · rw [hsame.1, hsame.2, hout h]
      exact ⟨rfl, rfl⟩
    · rw [hsame.1, hsame.2, hcog, hone e h he]
      exact State.eccWord_counts 2 none 0 hs

end

/-! ## Answered faults (R103, R110) -/

/-- A bank whose fault is answered goes on at its bundle, or takes the global access error there. -/
theorem faultAnswer_bank {s : State} {b : BankIx} {cause slot : Nat} {val : Word}
    (hmode : (s.bank b).mode = .waitHub cause val slot)
    (hholds : s.holds b = false) (hdead : s.dead b = false) :
    (∃ t, exec (.faultAnswer (.bank b) false) s = .next t ∧ (t.bank b).mode = .ready ∧
      (t.bank b).regs = (s.bank b).regs ∧
      (t.bank b).pc = (s.bank b).pc ∧ t.mem = s.mem ∧ ∀ h ∈ t.hub.held, h.1 ≠ .bank b) ∧
    exec (.faultAnswer (.bank b) true) s =
      .next ((s.release (.bank b)).enterTrap b { cause := 0x1A, sub := cause, slot := slot, val := val } (s.bank b).pc) := by
  have hexec (refused : Bool) : exec (.faultAnswer (.bank b) refused) s = .next (if refused = true then
      (s.release (.bank b)).enterTrap b { cause := 0x1A, sub := cause, slot := slot, val := val } (s.bank b).pc
      else (s.release (.bank b)).modBank b fun x => { x with mode := .ready }) := by
    show execFaultAnswer (.bank b) refused s = _
    simp only [execFaultAnswer, hdead, hmode, hholds, Bool.false_eq_true, if_false]
    cases refused <;> rfl
  have hbank := State.bank_modBank_self (s.release (.bank b)) b fun x => { x with mode := .ready }
  refine ⟨⟨_, hexec false, ?_, ?_, ?_, rfl, fun h hh => of_decide_eq_true (List.mem_filter.1 hh).2⟩, hexec true⟩
  · exact congrArg Bank.mode hbank
  · exact (congrArg Bank.regs hbank).trans rfl
  · exact (congrArg Bank.pc hbank).trans rfl

/-- A copy whose fault is answered goes on, or fails, or ends with its aborted epoch. -/
theorem faultAnswer_copy (s : State) (id : Nat) (refused : Bool) : ∃ t, exec (.faultAnswer (.copy id) refused) s = .next t ∧
    t.copies = s.copies.map (fun c => if c.id = id ∧ s.dead c.bank = false then
      (if refused = false then { c with held := false }
       else if s.copyAborted c = true then { c with held := false, todo := [] }
       else { c with held := false, failed := true }) else c) ∧
    t.banks = s.banks ∧ t.mem = s.mem := by
  refine ⟨_, rfl, List.map_congr_left fun c _ => ?_, rfl, rfl⟩
  by_cases hid : c.id = id
  · cases hdead : s.dead c.bank
    · cases refused <;> simp [hid, hdead, State.copyRefused]
    · simp [hid, hdead]
  · simp [hid]

/-! ## Accesses of the host (R102, R390) -/

/-- What a host access does: the hub walks, and then it is performed, refused, or made again. -/
theorem hostAccess_ways (s : State) (k : AKind) (asid : BitVec 12) (goff : BitVec 52) (n : Nat) (again : Instr)
    (refuse : State → State) (go : State → List Seg → State) :
    let v := s.eccWalk none (goff.setWidth 64) asid goff.toNat
    let out := s.hostAccess k asid goff n again refuse go
    (∀ gs, v.hostSegs k asid goff n = .go gs → out = .next (go v gs)) ∧
    (v.hostSegs k asid goff n = .refused none → out = .next (refuse v)) ∧
    (∀ loc, v.hostSegs k asid goff n = .refused (some loc) →
      out = .next (refuse (v.memRecord 4 4 none loc (goff.setWidth 64) 0))) ∧
    (v.hostSegs k asid goff n = .wait ∨ (∃ a, v.hostSegs k asid goff n = .retained a) →
      ∃ t, out = .next t ∧ v.Later t again ∧ t.mem = v.mem ∧ t.banks = v.banks ∧ t.outbox = v.outbox) := by
  intro v out
  have way {w : HostWay} (h : v.hostSegs k asid goff n = w) :
      (s.eccWalk none (goff.setWidth 64) asid goff.toNat).hostSegs k asid goff n = w := h
  refine ⟨fun gs h => ?_, fun h => ?_, fun loc h => ?_, ?_⟩
  · simp only [out, v, State.hostAccess, way h]
  · simp only [out, v, State.hostAccess, way h]
  · simp only [out, v, State.hostAccess, way h]
  · rintro (h | ⟨a, h⟩)
    · refine ⟨v.later.2.schedule v.later.1 again, ?_, v.later_schedule again, rfl, rfl, rfl⟩
      simp only [out, v, State.hostAccess, way h]
    · obtain ⟨cogs, m, ag, hask⟩ := v.askExit_frame a
      refine ⟨(v.askExit a).later.2.schedule (v.askExit a).later.1 again, ?_, ?_⟩
      · simp only [out, v, State.hostAccess, way h]
      · rw [hask]
        exact ⟨State.later_schedule { v with cogs := cogs, free := m, agenda := ag } again, rfl, rfl, rfl⟩

/-- Settles O51, clause by clause: the answers (R103), the collapse (R99), the transitions of regions (R113), the scrub
(R111), and the accesses of the host (R102, R390). -/
theorem hubAtMemory : Obligations.HubAtMemory := by
  unfold Obligations.HubAtMemory
  refine ⟨fun s b cause slot val hmode hholds hdead => faultAnswer_bank hmode hholds hdead, faultAnswer_copy,
    fun s r c cs lv a hcs hc hleaf => ⟨collapse_waits hcs hc, collapse_opens hcs hc hleaf, collapse_ends hcs hc hleaf⟩,
    retreqWrite_begins,
    fun s c k hother hdue => ⟨retentionDone_enters hother hdue, retentionDone_exits hother hdue⟩, scrub_reads, ?_⟩
  intro s id asid goff n data posted at_ v rd wr waits told
  obtain ⟨rgo, rno, rpsn, rwait⟩ := hostAccess_ways s .load asid goff n (.hostMemoryRead id asid goff n)
    (fun s => s.emit (.completion id false [])) fun s gs =>
      (s.serve 4 none at_ (.load gs)).2.emit (.completion id (!(s.serve 4 none at_ (.load gs)).1.psn &&
        !(s.serve 4 none at_ (.load gs)).1.lost) (s.serve 4 none at_ (.load gs)).1.data)
  obtain ⟨wgo, wno, wpsn, wwait⟩ := hostAccess_ways s .store asid goff data.length (.hostMemoryWrite posted asid goff data)
    (fun s => s.emit (if posted then .aerAbort else .completion 0 false [])) fun s gs =>
      if posted then (s.serve 4 none at_ (.store gs data [])).2
      else (s.serve 4 none at_ (.store gs data [])).2.emit (.completion 0 true [])
  refine ⟨fun hecc => if_pos (by rw [hecc]; rfl), fun p hp => ?_, rgo, rwait, fun p hp => ?_, wgo, wwait⟩
  · rcases p with _ | loc
    · exact rno hp
    · exact rpsn loc hp
  · rcases p with _ | loc
    · exact wno hp
    · exact wpsn loc hp

end Sys2Proof.Machine
end

section
/-! What the failure of a package leaves of the hub's knowledge, and what it changes of the homes (R148, R341, R343). -/

namespace Sys2Proof.Machine

/-- From s to t the image, the package ID, the time and the steps stay; packages that have failed stay so, no poll and no
pair of packages has been added, and every message that has left has left. -/
structure State.Hears (s t : State) : Prop where
  image    : t.image = s.image
  pkg      : t.hub.pkg = s.hub.pkg
  clk      : t.clk = s.clk
  nextStep : t.fd.nextStep = s.fd.nextStep
  failed   : ∀ p ∈ s.hub.failedPkgs, p ∈ t.hub.failedPkgs
  polls    : ∀ e ∈ t.hub.polls, e ∈ s.hub.polls
  topo     : ∀ e ∈ t.topo, e ∈ s.topo
  outbox   : ∀ o ∈ s.outbox, o ∈ t.outbox

/-- From s to t, besides, no byte of memory has changed. -/
structure State.HearsOnly (s t : State) : Prop extends s.Hears t where
  mem : t.mem = s.mem

/-- From s to t, besides, no record of a groupset's home has changed. -/
structure State.Sends (s t : State) : Prop extends s.HearsOnly t where
  homes : t.homes = s.homes

namespace State.Hears
variable {s t u : State}

theorem refl (s : State) : s.Hears s := ⟨rfl, rfl, rfl, rfl, fun _ h => h, fun _ h => h, fun _ h => h, fun _ h => h⟩

theorem trans (h : s.Hears t) (h' : t.Hears u) : s.Hears u :=
  ⟨h'.image.trans h.image, h'.pkg.trans h.pkg, h'.clk.trans h.clk, h'.nextStep.trans h.nextStep,
    fun p hp => h'.failed p (h.failed p hp), fun e he => h.polls e (h'.polls e he), fun e he => h.topo e (h'.topo e he),
    fun o ho => h'.outbox o (h.outbox o ho)⟩

theorem foldl {α : Type} {f : State → α → State} (l : List α) (s : State) (h : ∀ (s : State) x, s.Hears (f s x)) :
    s.Hears (l.foldl f s) := by
  induction l generalizing s with
  | nil => exact refl s
  | cons x xs ih => exact (h s x).trans (ih (f s x))

end State.Hears

namespace State.HearsOnly
variable {s t u : State}

theorem refl (s : State) : s.HearsOnly s := ⟨.refl s, rfl⟩

theorem trans (h : s.HearsOnly t) (h' : t.HearsOnly u) : s.HearsOnly u :=
  ⟨h.toHears.trans h'.toHears, h'.mem.trans h.mem⟩

theorem foldl {α : Type} {f : State → α → State} (l : List α) (s : State) (h : ∀ (s : State) x, s.HearsOnly (f s x)) :
    s.HearsOnly (l.foldl f s) := by
  induction l generalizing s with
  | nil => exact refl s
  | cons x xs ih => exact (h s x).trans (ih (f s x))

end State.HearsOnly

namespace State.Sends
variable {s t u : State}

theorem refl (s : State) : s.Sends s := ⟨.refl s, rfl⟩

theorem trans (h : s.Sends t) (h' : t.Sends u) : s.Sends u :=
  ⟨h.toHearsOnly.trans h'.toHearsOnly, h'.homes.trans h.homes⟩

theorem foldl {α : Type} {f : State → α → State} (l : List α) (s : State) (h : ∀ (s : State) x, s.Sends (f s x)) :
    s.Sends (l.foldl f s) := by
  induction l generalizing s with
  | nil => exact refl s
  | cons x xs ih => exact (h s x).trans (ih (f s x))

end State.Sends

/-! ## Messages and records (R343, R394) -/

section
variable (s : State)

theorem State.emit_sends (o : Out) : s.Sends (s.emit o) :=
  ⟨⟨⟨rfl, rfl, rfl, rfl, fun _ h => h, fun _ h => h, fun _ h => h, fun _ h => List.mem_append_left _ h⟩, rfl⟩, rfl⟩

theorem State.again_sends (ev : Instr) : s.Sends (s.later.2.schedule s.later.1 ev) :=
  ⟨⟨⟨rfl, rfl, rfl, rfl, fun _ h => h, fun _ h => h, fun _ h => h, fun _ h => h⟩, rfl⟩, rfl⟩

theorem State.newId_sends : s.Sends s.newId.2 :=
  ⟨⟨⟨rfl, rfl, rfl, rfl, fun _ h => h, fun _ h => h, fun _ h => h, fun _ h => h⟩, rfl⟩, rfl⟩

theorem State.tell_sends (pkg : Nat) (m : HubMsg) : s.Sends (s.tell pkg m) := by
  unfold State.tell
  split
  · exact s.again_sends _
  · exact s.emit_sends _

theorem State.tellAll_sends (m : HubMsg) : s.Sends (s.tellAll m) := .foldl _ s fun t _ => t.emit_sends _

theorem State.sendAns_sends (who : Party) (a : GsAns) : s.Sends (s.sendAns who a) := by
  unfold State.sendAns
  split
  · exact s.again_sends _
  · exact s.emit_sends _

theorem State.answerMirrored_sends (r : SealRec) (who : Party) (a : GsAns) : s.Sends (s.answerMirrored r who a) := by
  unfold State.answerMirrored
  split
  · exact s.sendAns_sends who a
  · exact ⟨⟨⟨rfl, rfl, rfl, rfl, fun _ h => h, fun _ h => h, fun _ h => h, fun _ h => List.mem_append_left _ h⟩, rfl⟩,
      rfl⟩

theorem State.askHome_sends (r : GsReq) : s.Sends (s.askHome r) := by
  unfold State.askHome
  dsimp only
  split
  · exact s.again_sends _
  · exact s.emit_sends _

theorem State.askAgain_sends (r : GsReq) : s.Sends (s.askAgain r) := by
  have same {t : State} (f : GsReq → GsReq) (l : List Step)
      (h : t = { s with gsreqs := s.gsreqs.map f, fd := { s.fd with steps := l } }) : s.Sends t := by
    rw [h]
    exact ⟨⟨⟨rfl, rfl, rfl, rfl, fun _ h => h, fun _ h => h, fun _ h => h, fun _ h => h⟩, rfl⟩, rfl⟩
  unfold State.askAgain
  dsimp only
  split
  · exact .refl s
  · exact (same _ _ rfl).trans (State.askHome_sends ..)
  · exact (same _ s.fd.steps rfl).trans (State.askHome_sends ..)
  · exact (same _ s.fd.steps rfl).trans (State.askHome_sends ..)

theorem State.record_sends (type : Nat) (rec : List Byte) : s.Sends (s.record type rec) := by
  obtain ⟨_, _, _, _, _, hout, h⟩ := s.record_changes type rec
  rw [h]
  exact ⟨⟨⟨rfl, rfl, rfl, rfl, fun _ h => h, fun _ h => h, fun _ h => h, hout⟩, rfl⟩, rfl⟩

/-- A read of codewords tells no hub. -/
theorem State.eccWord_sends (src : Nat) (b : Option Nat) (a : Word) (e : EccError) : s.Sends (s.eccWord src b a e) := by
  obtain ⟨_, _, _, _, _, _, _, _, _, hout, h⟩ := s.eccWord_changes src b a e
  rw [h]
  exact ⟨⟨⟨rfl, rfl, rfl, rfl, fun _ h => h, fun _ h => h, fun _ h => h, hout⟩, rfl⟩, rfl⟩

/-! ## Records of homes (R148, R343) -/

theorem State.setSealRec_hears (r : SealRec) : s.HearsOnly (s.setSealRec r) :=
  ⟨⟨rfl, rfl, rfl, rfl, fun _ h => h, fun _ h => h, fun _ h => h, fun _ h => h⟩, rfl⟩

/-- The record of an epoch that is to be aborted. -/
def abortingRec (r : SealRec) (ps : List Nat) (asker : Option GsMsg) : SealRec :=
  { r with aborting := true, awaiting := ps, asker := asker }

/-- An abort that starts changes the epoch's record and tells every package. -/
theorem State.startAbort_sends (r : SealRec) (e : Nat) (asker : Option GsMsg) :
    (s.setSealRec (abortingRec r s.livePkgs asker)).Sends (s.startAbort r e asker) := by
  unfold State.startAbort
  refine .foldl _ _ fun t p => ?_
  dsimp only
  split
  · exact t.again_sends _
  · exact t.emit_sends _

theorem State.startAbort_hears (r : SealRec) (e : Nat) (asker : Option GsMsg) : s.HearsOnly (s.startAbort r e asker) :=
  (s.setSealRec_hears _).trans (s.startAbort_sends r e asker).toHearsOnly

theorem State.revertDone_hears (src : Nat) (asid : BitVec 12) (name : BitVec 16) (e : Nat) :
    s.HearsOnly (s.revertDone src asid name e) := by
  unfold State.revertDone
  dsimp only
  split
  · split
    · split
      · exact (s.setSealRec_hears _).trans (State.answerMirrored_sends ..).toHearsOnly
      · exact (s.setSealRec_hears _).trans
          ((State.newId_sends _).trans (State.answerMirrored_sends ..)).toHearsOnly
    · exact s.setSealRec_hears _
  · exact .refl s

theorem State.abortEpochs_hears (p : SealRec → Bool) : s.HearsOnly (s.abortEpochs p) :=
  .foldl _ s fun t _ => t.startAbort_hears ..

end

/-- Every open epoch of some records aborts. -/
theorem State.abortEpochs_homes (s : State) (p : SealRec → Bool) :
    ∀ r ∈ (s.abortEpochs p).homes, r.open_ ≠ none → r.aborting = true ∨ p r = false := by
  have fold (l : List SealRec) (s : State)
      (h : ∀ r ∈ s.homes, r.open_ ≠ none → r.aborting = true ∨ p r = false ∨ r ∈ l) :
      ∀ r ∈ (l.foldl (fun s r => s.startAbort r (r.open_.getD 0) none) s).homes, r.open_ ≠ none →
        r.aborting = true ∨ p r = false := by
    induction l generalizing s with
    | nil => simpa using h
    | cons x xs ih =>
      refine ih _ fun r hr hopen => ?_
      rw [(s.startAbort_sends x _ none).homes] at hr
      rcases List.mem_append.1 hr with hr | hr
      · obtain ⟨hmem, hkey⟩ := List.mem_filter.1 hr
        rcases h r hmem hopen with hab | hp | hin
        · exact .inl hab
        · exact .inr (.inl hp)
        · rcases List.mem_cons.1 hin with rfl | hin
          · simp [abortingRec] at hkey
          · exact .inr (.inr hin)
      · rw [List.mem_singleton.1 hr]
        exact .inl rfl
  refine fold _ s fun r hr hopen => ?_
  by_cases hab : r.aborting = true
  · exact .inl hab
  · by_cases hp : p r = true
    · refine .inr (.inr (List.mem_filter.2 ⟨hr, ?_⟩))
      rw [Option.isSome_iff_ne_none.2 hopen, (Bool.not_eq_true _).mp hab, hp]
      rfl
    · exact .inr (.inl ((Bool.not_eq_true _).mp hp))

end Sys2Proof.Machine
end

section
/-! The failure of a unit, and what it brings about (R148, R341, R343, R367). -/

namespace Sys2Proof.Machine

/-! ## Sequences that end with the package (R357, R367) -/

section
variable (s : State)

theorem State.askExit_hears (x : Nat) : s.Hears (s.askExit x) := by
  obtain ⟨cogs, n, ag, h⟩ := s.askExit_frame x
  rw [h]
  exact ⟨rfl, rfl, rfl, rfl, fun _ h => h, fun _ h => h, fun _ h => h, fun _ h => h⟩

theorem State.askExit_homes (x : Nat) : (s.askExit x).homes = s.homes := by
  obtain ⟨cogs, n, ag, h⟩ := s.askExit_frame x
  rw [h]

theorem State.eccWalk_sends (b : Option Nat) (a : Word) (asid : BitVec 12) (off : Nat) :
    s.Sends (s.eccWalk b a asid off) := by
  unfold State.eccWalk
  split
  · exact .refl s
  · exact .foldl _ s fun t _ => .foldl _ t fun u _ => u.eccWord_sends ..

/-- What the hub's work on page tables may change: memory, the TLBs and the frames in use. -/
def State.KeepsHomes (s t : State) : Prop := s.Hears t ∧ t.homes = s.homes

theorem State.Sends.keepsHomes {s t : State} (h : s.Sends t) : s.KeepsHomes t := ⟨h.toHears, h.homes⟩

namespace State.KeepsHomes
variable {s t u : State}

theorem trans (h : s.KeepsHomes t) (h' : t.KeepsHomes u) : s.KeepsHomes u := ⟨h.1.trans h'.1, h'.2.trans h.2⟩

theorem foldl {α : Type} {f : State → α → State} (l : List α) (s : State) (h : ∀ (s : State) x, s.KeepsHomes (f s x)) :
    s.KeepsHomes (l.foldl f s) := by
  induction l generalizing s with
  | nil => exact (State.Sends.refl s).keepsHomes
  | cons x xs ih => exact (h s x).trans (ih (f s x))

end State.KeepsHomes

theorem State.setEntry_keepsHomes (a : Nat) (w0 w1 : Word) : s.KeepsHomes (s.setEntry a w0 w1) := by
  rw [State.setEntry, State.store]
  exact ⟨⟨rfl, rfl, rfl, rfl, fun _ h => h, fun _ h => h, fun _ h => h, fun _ h => h⟩, rfl⟩

/-- A translation is dropped, and its frames are free. -/
theorem State.shootdown_keepsHomes (asid : BitVec 12) (off : Nat) (l : List Nat) :
    let u := s.shootdown asid off
    s.KeepsHomes { u with hub := { u.hub with frames := l } } :=
  ⟨⟨rfl, rfl, rfl, rfl, fun _ h => h, fun _ h => h, fun _ h => h, fun _ h => h⟩, rfl⟩

theorem State.unmapArena_keepsHomes (asid : BitVec 12) (goff size : Nat) (attr : Word) :
    s.KeepsHomes (s.unmapArena asid goff size attr) := by
  unfold State.unmapArena
  refine .foldl _ s fun t k => ?_
  have hwalk := (t.eccWalk_sends none (BitVec.ofNat 64 (goff + k * 65536)) asid (goff + k * 65536)).keepsHomes
  dsimp only
  split
  · exact hwalk
  · split
    · exact hwalk
    · exact hwalk.trans ((State.setEntry_keepsHomes ..).trans (State.shootdown_keepsHomes ..))

theorem State.retireHere_keepsHomes (asid : Nat) : s.KeepsHomes (s.retireHere asid) :=
  (State.KeepsHomes.foldl _ s fun t _ => t.unmapArena_keepsHomes ..).trans
    ⟨⟨rfl, rfl, rfl, rfl, fun _ h => h, fun _ h => h, fun _ h => h, fun _ h => h⟩, rfl⟩

theorem State.retireAsid_keepsHomes (asid : Nat) : s.KeepsHomes (s.retireAsid asid) := by
  refine .trans ?_ (State.tellAll_sends _ _).keepsHomes
  rw [State.leaveAsid]
  rcases s.hubWork_cases (s.arenaRuns asid) (.hubMessage s.hub.pkg.toNat (.retire asid)) (·.retireHere asid) with
    ⟨-, h⟩ | ⟨a, -, h⟩ <;> rw [h]
  · exact s.retireHere_keepsHomes asid
  · exact State.KeepsHomes.trans ⟨s.askExit_hears a, s.askExit_homes a⟩ (State.again_sends _ _).keepsHomes

theorem State.retireDone_keepsHomes : s.KeepsHomes s.retireDone :=
  State.KeepsHomes.trans
    (t := { s with fd := { s.fd with seqs := s.fd.seqs.filter fun q => !(q.done && !s.fd.inStep q.asid) } })
    ⟨⟨rfl, rfl, rfl, rfl, fun _ h => h, fun _ h => h, fun _ h => h, fun _ h => h⟩, rfl⟩
    (.foldl _ _ fun t _ => t.retireAsid_keepsHomes _)

theorem State.detok_keepsHomes (asid : Nat) (f : Detok → Detok) : s.KeepsHomes (s.detok asid f) := by
  unfold State.detok
  split
  · exact (State.Sends.refl s).keepsHomes
  · dsimp only
    rw [State.foldl_emit fun r => Out.reply _ r]
    exact ⟨⟨rfl, rfl, rfl, rfl, fun _ h => h, fun _ h => h, fun _ h => h, fun _ h => List.mem_append_left _ h⟩, rfl⟩

theorem State.endLive_keepsHomes : s.KeepsHomes s.endLive := .foldl _ s fun t _ => t.detok_keepsHomes ..

end

/-! ## A failed package (R341, R343) -/

section
variable (s : State) (pkg : Nat)

/-- The hub forgets what it had of a failed package. -/
def State.forget (s : State) (pkg : Nat) : State :=
  { s.dropEdges (fun e => e.1 = pkg || e.2 = pkg) with
    fd := { s.fd with holders := s.fd.holders.filter (· ≠ pkg) }
    accesses := s.accesses.map fun x => match x.sealReq with
      | some (_, _, name) => if s.homeOf name = some pkg then { x with sealReq := none } else x
      | none => x
    hub := { s.hub with failedPkgs := s.hub.failedPkgs ++ [pkg], polls := s.hub.polls.filter (·.1 ≠ pkg),
                        mirrors := s.hub.mirrors.filter (·.1 ≠ pkg) } }

theorem State.forget_hears : s.HearsOnly (s.forget pkg) :=
  ⟨⟨rfl, rfl, rfl, rfl, fun _ h => List.mem_append_left _ h, fun _ h => (List.mem_filter.1 h).1,
    fun _ h => (List.mem_filter.1 h).1, fun _ h => h⟩, rfl⟩

/-- The homes that this hub mirrored go over to it, what was asked there is asked again, and no abort waits for the failed
package. -/
def State.takeOver (s v : State) (pkg : Nat) : State :=
  let mine := (s.hub.mirrors.filter (·.1 = pkg)).map (·.2)
  let asked := s.gsreqs.filter fun r => r.sent && s.liveHome r.h.home.toNat = pkg
  let v := mine.foldl State.setSealRec v
  let v := (asked.filter fun r => v.liveHome r.h.home.toNat ≠ pkg).foldl State.askAgain v
  (v.homes.filter (·.aborting)).foldl (fun s r => s.revertDone pkg r.asid r.name (r.open_.getD 0)) v

theorem State.takeOver_hears (v : State) : v.HearsOnly (s.takeOver v pkg) :=
  (State.HearsOnly.foldl _ v fun t r => t.setSealRec_hears r).trans
    ((State.HearsOnly.foldl _ _ fun t r => (t.askAgain_sends r).toHearsOnly).trans
      (State.HearsOnly.foldl _ _ fun t _ => t.revertDone_hears ..))

/-- Answers that waited for a mirror leave when there is none any more. -/
def State.releaseMirror (s : State) : State :=
  if s.mirrorPkg.isSome then s
  else s.hub.mirrorWait.foldl (fun s e => s.sendAns e.2.2.1 e.2.2.2) { s with hub := { s.hub with mirrorWait := [] } }

theorem State.releaseMirror_sends : s.Sends s.releaseMirror := by
  unfold State.releaseMirror
  split
  · exact .refl s
  · exact State.Sends.trans (t := { s with hub := { s.hub with mirrorWait := [] } })
      ⟨⟨⟨rfl, rfl, rfl, rfl, fun _ h => h, fun _ h => h, fun _ h => h, fun _ h => h⟩, rfl⟩, rfl⟩
      (.foldl _ _ fun t _ => t.sendAns_sends ..)

/-- The open epochs that include a participant on a package. -/
def joinedOn (pkg : Nat) (r : SealRec) : Bool := r.joined.any fun p => partyPkg p = pkg

theorem State.packageFailed_eq (h : pkg ∉ s.hub.failedPkgs) :
    let v := ((s.takeOver (s.forget pkg) pkg).abortEpochs (joinedOn pkg)).releaseMirror
    s.packageFailed pkg = if (pkg = v.hub.pkg.toNat && v.serves) = true then
      ({ v with fd := { v.fd with stopError := true } } : State).endLive.retireDone else v := by
  unfold State.packageFailed
  rw [if_neg (by simpa using h)]
  rfl

/-- The end of the sequences changes no record of a home. -/
theorem State.endSequences_keepsHomes :
    s.KeepsHomes ({ s with fd := { s.fd with stopError := true } } : State).endLive.retireDone :=
  State.KeepsHomes.trans (t := { s with fd := { s.fd with stopError := true } })
    ⟨⟨rfl, rfl, rfl, rfl, fun _ h => h, fun _ h => h, fun _ h => h, fun _ h => h⟩, rfl⟩
    ((State.endLive_keepsHomes _).trans (State.retireDone_keepsHomes _))

/-- Until the epochs abort, and after. -/
theorem State.packageFailed_parts (h : pkg ∉ s.hub.failedPkgs) :
    (s.forget pkg).HearsOnly (s.takeOver (s.forget pkg) pkg) ∧
      ((s.takeOver (s.forget pkg) pkg).abortEpochs (joinedOn pkg)).KeepsHomes (s.packageFailed pkg) := by
  refine ⟨s.takeOver_hears pkg _, ?_⟩
  rw [s.packageFailed_eq pkg h]
  split
  · exact (State.releaseMirror_sends _).keepsHomes.trans (State.endSequences_keepsHomes _)
  · exact (State.releaseMirror_sends _).keepsHomes

/-- A package that is found to have failed is noted, and its pairs are no longer joined. -/
theorem State.packageFailed_hears : s.Hears (s.packageFailed pkg) := by
  by_cases h : pkg ∈ s.hub.failedPkgs
  · rw [State.packageFailed, if_pos (by simpa using h)]
    exact .refl s
  · obtain ⟨hover, hend⟩ := s.packageFailed_parts pkg h
    exact (s.forget_hears pkg).toHears.trans (hover.toHears.trans ((State.abortEpochs_hears _ _).toHears.trans hend.1))

theorem State.packageFailed_forgets (h : pkg ∉ s.hub.failedPkgs) : (s.forget pkg).Hears (s.packageFailed pkg) := by
  obtain ⟨hover, hend⟩ := s.packageFailed_parts pkg h
  exact hover.toHears.trans ((State.abortEpochs_hears _ _).toHears.trans hend.1)

theorem State.packageFailed_noted : pkg ∈ (s.packageFailed pkg).hub.failedPkgs := by
  by_cases h : pkg ∈ s.hub.failedPkgs
  · exact s.packageFailed_hears pkg |>.failed _ h
  · exact (s.packageFailed_forgets pkg h).failed _ (List.mem_append_right _ (List.mem_singleton_self _))

theorem State.packageFailed_topo (h : pkg ∉ s.hub.failedPkgs) :
    ∀ e ∈ (s.packageFailed pkg).topo, e.1 ≠ pkg ∧ e.2 ≠ pkg := by
  intro e he
  have hmem := (List.mem_filter.1 ((s.packageFailed_forgets pkg h).topo e he)).2
  simpa [not_or] using hmem

theorem State.packageFailed_polls (h : pkg ∉ s.hub.failedPkgs) : ∀ e ∈ (s.packageFailed pkg).hub.polls, e.1 ≠ pkg :=
  fun e he => of_decide_eq_true (List.mem_filter.1 ((s.packageFailed_forgets pkg h).polls e he)).2

theorem State.packageFailed_homes (h : pkg ∉ s.hub.failedPkgs) :
    ∀ r ∈ (s.packageFailed pkg).homes, r.open_ ≠ none → (∃ q ∈ r.joined, partyPkg q = pkg) → r.aborting = true := by
  intro r hr hopen ⟨q, hq, hpkg⟩
  rw [(s.packageFailed_parts pkg h).2.2] at hr
  refine ((State.abortEpochs_homes _ _ r hr hopen).resolve_right fun hno => ?_)
  exact Bool.false_ne_true (hno.symm.trans (List.any_eq_true.2 ⟨q, hq, decide_eq_true hpkg⟩))

/-- The failure of another package changes no byte here. -/
theorem State.packageFailed_mem (h : pkg ≠ s.hub.pkg.toNat) : (s.packageFailed pkg).mem = s.mem := by
  by_cases hin : pkg ∈ s.hub.failedPkgs
  · rw [State.packageFailed, if_pos (by simpa using hin)]
  · have hv := (s.forget_hears pkg).trans ((s.takeOver_hears pkg _).trans ((State.abortEpochs_hears _ (joinedOn pkg)).trans
      (State.releaseMirror_sends _).toHearsOnly))
    rw [s.packageFailed_eq pkg hin, if_neg]
    · exact hv.mem
    · rw [hv.pkg, decide_eq_false h, Bool.false_and]
      exact Bool.false_ne_true

end

end Sys2Proof.Machine
end

section
/-! Failures that are declared and reported (R331, R341, R344). -/

namespace Sys2Proof.Machine

/-! ## A unit that is declared failed (R341) -/

section
variable (s : State)

theorem State.markFailed_hears (x : FailedUnit) : s.Hears (s.markFailed x) := by
  unfold State.markFailed
  split
  · exact s.packageFailed_hears _
  · split
    · split
      · exact ⟨rfl, rfl, rfl, rfl, fun _ h => h, fun _ h => h, fun _ h => h, fun _ h => h⟩
      · exact .refl s
    · exact .refl s

theorem State.markFailed_mem {x : FailedUnit} (h : x.pkg ≠ s.hub.pkg.toNat) : (s.markFailed x).mem = s.mem := by
  unfold State.markFailed
  split
  · exact s.packageFailed_mem _ h
  · split
    · rw [if_neg h]
    · rfl

/-- Every hub hears of the failed package. -/
def State.announce (s : State) (x : FailedUnit) : State :=
  if x.cog.isNone then (s.tellAll (.failed x.pkg)).record 0x06 (bytesOf 8 s.time.toNat ++ bytesOf 2 x.pkg) else s

theorem State.announce_sends (x : FailedUnit) : s.Sends (s.announce x) := by
  unfold State.announce
  split
  · exact (s.tellAll_sends _).trans (State.record_sends ..)
  · exact .refl s

theorem State.announce_failedPkgs (x : FailedUnit) : (s.announce x).hub.failedPkgs = s.hub.failedPkgs := by
  unfold State.announce
  split
  · rw [(State.record_work ..).failedPkgs, State.tellAll_hub]
  · rfl

/-- The recovery of a unit begins where the image allows it. -/
def State.offerRecovery (s : State) (x : FailedUnit) : State :=
  match s.image with
  | none => s
  | some im => if im.recoverable x then (s.tellAll (.recover x)).tell s.hub.pkg.toNat (.recover x) else s

theorem State.offerRecovery_sends (x : FailedUnit) : s.Sends (s.offerRecovery x) := by
  unfold State.offerRecovery
  split
  · exact .refl s
  · split
    · exact (s.tellAll_sends _).trans (State.tell_sends ..)
    · exact .refl s

theorem State.declareOne_eq {x : FailedUnit} (h : ¬ (x.cog.isNone && s.hub.failedPkgs.contains x.pkg) = true) :
    s.declareOne x = ((s.announce x).markFailed x).offerRecovery x := by
  unfold State.declareOne
  rw [if_neg h]
  rfl

theorem State.declareOne_hears (x : FailedUnit) : s.Hears (s.declareOne x) := by
  by_cases h : (x.cog.isNone && s.hub.failedPkgs.contains x.pkg) = true
  · rw [State.declareOne, if_pos h]
    exact .refl s
  · rw [s.declareOne_eq h]
    exact (s.announce_sends x).toHears.trans ((State.markFailed_hears _ x).trans (State.offerRecovery_sends _ x).toHears)

theorem State.declareOne_mem {x : FailedUnit} (hx : x.pkg ≠ s.hub.pkg.toNat) : (s.declareOne x).mem = s.mem := by
  by_cases h : (x.cog.isNone && s.hub.failedPkgs.contains x.pkg) = true
  · rw [State.declareOne, if_pos h]
  · have hannounce := s.announce_sends x
    rw [s.declareOne_eq h, (State.offerRecovery_sends _ x).mem, State.markFailed_mem _ (by rwa [hannounce.pkg]),
      hannounce.mem]

theorem State.cutOff_hears (ys : List Nat) (n : Nat) : s.Hears (s.cutOff ys n) := by
  induction n generalizing s ys with
  | zero => exact .refl s
  | succ n ih =>
    rw [State.cutOff]
    split
    · exact .refl s
    · exact (s.declareOne_hears _).trans (ih _ _)

/-- This package is never among those that are cut off. -/
theorem State.cutOff_mem (ys : List Nat) (n : Nat) : (s.cutOff ys n).mem = s.mem := by
  induction n generalizing s ys with
  | zero => rfl
  | succ n ih =>
    rw [State.cutOff]
    split
    · rfl
    · next y hy =>
      have hne := List.find?_some hy
      simp only [Bool.and_eq_true, decide_eq_true_eq] at hne
      rw [ih, s.declareOne_mem hne.1.1]

/-- A package that is declared failed is noted, told of, and forgotten. -/
theorem State.declareFailed_package {pkg : Nat} (h : pkg ∉ s.hub.failedPkgs) : let t := s.declareFailed ⟨pkg, none⟩
    pkg ∈ t.hub.failedPkgs ∧ (∀ e ∈ t.hub.polls, e.1 ≠ pkg) ∧ (∀ e ∈ t.topo, e.1 ≠ pkg ∧ e.2 ≠ pkg) ∧
      (∀ p ∈ s.otherPkgs, Out.hub p (.failed pkg) ∈ t.outbox) ∧ (pkg ≠ s.hub.pkg.toNat → t.mem = s.mem) := by
  let x : FailedUnit := ⟨pkg, none⟩
  let v := s.announce x
  have hone : s.declareOne x = (v.packageFailed pkg).offerRecovery x := s.declareOne_eq (by simpa [x] using h)
  have hend : (v.packageFailed pkg).Hears (s.declareFailed x) := by
    have hcut := (s.declareOne x).cutOff_hears (nbrs s.topo pkg) s.livePkgs.length
    rw [hone] at hcut
    exact (State.offerRecovery_sends _ x).toHears.trans (hone ▸ hcut)
  have hv : pkg ∉ v.hub.failedPkgs := by rwa [s.announce_failedPkgs x]
  refine ⟨hend.failed _ (v.packageFailed_noted pkg), fun e he => v.packageFailed_polls pkg hv e (hend.polls e he),
    fun e he => v.packageFailed_topo pkg hv e (hend.topo e he), fun p hp => ?_, fun hne => ?_⟩
  · exact hend.outbox _ ((v.packageFailed_hears pkg).outbox _ ((State.record_sends ..).outbox _ (s.mem_tellAll _ hp)))
  · rw [State.declareFailed, State.cutOff_mem, s.declareOne_mem hne]

end

/-- A hub whose answer to a poll is late is declared failed. -/
theorem hubSilent_declares (s : State) (pkg : Nat) : (s.hubLate pkg = false → exec (.hubSilent pkg) s = .next s) ∧
    (s.hubLate pkg = true → pkg ∉ s.hub.failedPkgs → ∃ t, exec (.hubSilent pkg) s = .next t ∧ pkg ∈ t.hub.failedPkgs ∧
      (∀ e ∈ t.hub.polls, e.1 ≠ pkg) ∧ (∀ e ∈ t.topo, e.1 ≠ pkg ∧ e.2 ≠ pkg) ∧
      (∀ p ∈ s.otherPkgs, Out.hub p (.failed pkg) ∈ t.outbox) ∧ (pkg ≠ s.hub.pkg.toNat → t.mem = s.mem)) := by
  refine ⟨fun h => if_neg (by rw [h]; exact Bool.false_ne_true), fun h hno => ⟨_, if_pos h, ?_⟩⟩
  exact State.declareFailed_package { s with hub := { s.hub with polls := s.hub.polls.filter (·.1 ≠ pkg) } } hno

/-! ## Reports (R331, R341, R378) -/

section
variable (s : State)

theorem State.tell_tells (pkg : Nat) (m : HubMsg) : s.Tells (s.tell pkg m) pkg m := by
  unfold State.Tells State.tell
  split
  · exact s.later_schedule _
  · exact List.mem_append_right _ (List.mem_singleton_self _)

theorem State.tell_frame (pkg : Nat) (m : HubMsg) : ∃ n ag out,
    s.tell pkg m = { s with free := n, agenda := ag, outbox := out } := by
  unfold State.tell
  split <;> exact ⟨_, _, _, rfl⟩

/-- Who is told depends on the image and on the packages that have failed. -/
theorem State.supervisor_congr {t : State} (hi : t.image = s.image) (hp : t.hub.pkg = s.hub.pkg)
    (hf : t.hub.failedPkgs = s.hub.failedPkgs) : t.supervisor = s.supervisor := by
  simp only [State.supervisor, hi, hp, hf]

theorem State.superFor_congr {t : State} (hi : t.image = s.image) (hp : t.hub.pkg = s.hub.pkg)
    (hf : t.hub.failedPkgs = s.hub.failedPkgs) (n : Nat) : t.superFor n = s.superFor n := by
  simp only [State.superFor, hi, s.supervisor_congr hi hp hf]

/-- To tell a hub something after what changes neither this package's ID nor the time. -/
theorem State.Tells.after {t u : State} {pkg : Nat} {m : HubMsg} (h : t.Tells u pkg m) (hp : t.hub.pkg = s.hub.pkg)
    (hc : t.clk = s.clk) : s.Tells u pkg m := by
  simpa only [State.Tells, State.Later, hp, hc] using h

end

/-- The record of a failed cog. -/
def State.noteCog (s : State) (c : CogIx) : State :=
  if 4 ≤ (s.cog c).mchecks.length then s
  else s.record 0x03 (bytesOf 8 s.time.toNat ++ bytesOf 8 (s.hub.pkg.toNat * 1024 + c.val * 2) ++ bytesOf 8 2)

theorem State.noteCog_frame (s : State) (c : CogIx) : s.WorkRead (s.noteCog c) ∧ (s.noteCog c).cogs = s.cogs ∧
    (s.noteCog c).banks = s.banks := by
  unfold State.noteCog
  split
  · exact ⟨.refl s, rfl, rfl⟩
  · exact ⟨s.record_work .., s.record_cogs .., (s.record_loads ..).banks⟩

/-- A cog stops, and its hub reports it to the supervisor. -/
theorem cogFailure_reports (s : State) (c : CogIx) : let me := s.hub.pkg.toNat
    ((s.cog c).failed = true → exec (.cogFailure c) s = .next s) ∧
    ((s.cog c).failed = false → ∃ t, exec (.cogFailure c) s = .next t ∧ (t.cog c).failed = true ∧
      (t.cog c).holder = none ∧ (∀ k, k ≠ c → t.cog k = s.cog k) ∧ t.banks = s.banks ∧ t.mem = s.mem ∧
      s.Tells t s.supervisor (.report me ⟨me, some c.val⟩)) := by
  refine ⟨fun h => if_pos h, fun h => ?_⟩
  obtain ⟨hwork, hcogs, hbanks⟩ := s.noteCog_frame c
  let u := (s.noteCog c).modCog c fun x => { x with failed := true, holder := none, mchecks := [] }
  let m : HubMsg := .report u.hub.pkg.toNat ⟨u.hub.pkg.toNat, some c.val⟩
  have hself : u.cog c = _ := State.cog_modCog_self (s.noteCog c) c _
  have hpkg : u.hub.pkg = s.hub.pkg := hwork.pkg
  have hsuper : u.supervisor = s.supervisor := s.supervisor_congr hwork.image hwork.pkg hwork.failedPkgs
  obtain ⟨n, ag, out, hframe⟩ := u.tell_frame u.supervisor m
  have hexec : exec (.cogFailure c) s = .next (u.tell u.supervisor m) := if_neg (by rw [h]; exact Bool.false_ne_true)
  have htells := (u.tell_tells u.supervisor m).after s hpkg hwork.clk
  refine ⟨_, hexec, ?_, ?_, fun k hk => ?_, ?_, ?_, ?_⟩
  · rw [hframe]
    exact congrArg Cog.failed hself
  · rw [hframe]
    exact congrArg Cog.holder hself
  · rw [hframe]
    show u.cog k = _
    rw [State.cog_modCog, if_neg (Ne.symm hk), State.cog, hcogs]
    rfl
  · rw [hframe]
    exact hbanks
  · rw [hframe]
    exact hwork.mem
  · simpa only [m, hsuper, hpkg] using htells

end Sys2Proof.Machine
end

section
/-! Dead ports, and the messages between hubs that failures bring about (R341, R343, R344, R374). -/

namespace Sys2Proof.Machine

/-! ## PORT_DEAD (R341) -/

/-- The live ports to a neighbour. -/
def State.portsTo (s : State) (n : Nat) : List ChainPort :=
  (List.finRange 32).filter fun o => (s.ports[o]).live && decide ((s.ports[o]).neighbour = some n)

/-- The state after a port has died: without a port left between two packages they are joined no longer. -/
def State.afterPort (s : State) (me n left : Nat) : State :=
  if left = 0 then s.dropEdges fun e => e = (me, n) || e = (n, me) else s

theorem State.afterPort_frame (s : State) (me n left : Nat) :
    ∃ t o, s.afterPort me n left = { s with topo := t, oldTopo := o } ∧ (0 < left → t = s.topo) ∧
      (left = 0 → (me, n) ∉ t ∧ (n, me) ∉ t) := by
  unfold State.afterPort
  split
  · next h => exact ⟨_, _, rfl, fun hlt => absurd h (Nat.ne_of_gt hlt), fun _ => by simp⟩
  · next h => exact ⟨_, _, rfl, fun _ => rfl, fun h0 => absurd h0 h⟩

/-- A port that dies, but for the packets that then take their ports anew. -/
theorem State.portChange_dead (s : State) (p : ChainPort) : ∃ ports rp old,
    s.portChange p (fun q => { q with dead := true }) = { s with ports := ports, repin := rp, oldTopo := old } ∧
    (∃ w, ports[p] = { s.ports[p] with dead := true, waiting := w }) ∧
    ∀ o : ChainPort, o ≠ p → ∃ w, ports[o] = { s.ports[o] with waiting := w } := by
  obtain ⟨ports, rp, old, hu, hports⟩ := s.portChange_rewaits p fun q => { q with dead := true }
  refine ⟨ports, rp, old, hu, ?_, fun o ho => ?_⟩
  · obtain ⟨w, hw⟩ := hports p
    rw [s.modPort_port_self p] at hw
    exact ⟨w, hw⟩
  · obtain ⟨w, hw⟩ := hports o
    rw [s.modPort_port_ne p _ ho] at hw
    exact ⟨w, hw⟩

/-- The supervisor hears of a dead port, and of how many ports to the neighbour are left. -/
theorem portDead_reports (s : State) (p : ChainPort) (n : Nat) : (s.portSilent p = false → exec (.portDead p) s = .next s) ∧
    (s.portSilent p = true → (s.ports[p]).neighbour = some n → ∃ t, exec (.portDead p) s = .next t ∧
      (t.ports[p]).dead = true ∧ t.banks = s.banks ∧ t.mem = s.mem ∧
      (∀ o : ChainPort, o ≠ p → (t.ports[o]).dead = (s.ports[o]).dead ∧ (t.ports[o]).links = (s.ports[o]).links) ∧
      let left := ((List.finRange 32).filter fun o => decide (o ≠ p) && (s.ports[o]).live &&
        decide ((s.ports[o]).neighbour = some n)).length
      s.Tells t (s.superFor n) (.portDead s.hub.pkg.toNat n left) ∧ (0 < left → t.topo = s.topo) ∧
      (left = 0 → (s.hub.pkg.toNat, n) ∉ t.topo ∧ (n, s.hub.pkg.toNat) ∉ t.topo)) := by
  refine ⟨fun h => if_pos (by rw [h]; rfl), fun h hn => ?_⟩
  obtain ⟨ports, rp, old, hu, ⟨wp, hself⟩, hother⟩ := s.portChange_dead p
  let u : State := { s with ports := ports, repin := rp, oldTopo := old }
  have hleft : u.portsTo n = (List.finRange 32).filter fun o => decide (o ≠ p) && (s.ports[o]).live &&
      decide ((s.ports[o]).neighbour = some n) := by
    refine List.filter_congr fun o _ => ?_
    show (ports[o].live && decide (ports[o].neighbour = some n)) = _
    by_cases ho : o = p
    · rw [ho, hself, decide_eq_false (not_not_intro rfl), Bool.false_and, Bool.false_and]
      exact Bool.and_eq_false_imp.2 fun hlive => absurd hlive Bool.false_ne_true
    · obtain ⟨w, hw⟩ := hother o ho
      rw [hw, decide_eq_true ho, Bool.true_and]
      rfl
  obtain ⟨topo, o, hafter, hmore, hnone⟩ := u.afterPort_frame s.hub.pkg.toNat n (u.portsTo n).length
  let w : State := { u with topo := topo, oldTopo := o }
  let m : HubMsg := .portDead s.hub.pkg.toNat n (u.portsTo n).length
  have hexec : exec (.portDead p) s = .next (w.tell (w.superFor n) m) := by
    have hneigh : (u.ports[p]).neighbour = some n := by
      show ports[p].neighbour = _
      rw [hself]
      exact hn
    show execPortDead p s = _
    unfold execPortDead
    rw [if_neg (by rw [h]; exact Bool.false_ne_true), hu]
    simp only [show (({ s with ports := ports, repin := rp, oldTopo := old } : State).ports[p]).neighbour = some n from hneigh]
    exact congrArg (fun x : State => Host.Outcome.next (x.tell (x.superFor n) m)) hafter
  obtain ⟨k, ag, out, hframe⟩ := w.tell_frame (w.superFor n) m
  have htells := (w.tell_tells (w.superFor n) m).after s rfl rfl
  have hsuper : w.superFor n = s.superFor n := s.superFor_congr rfl rfl rfl n
  refine ⟨_, hexec, ?_⟩
  rw [hframe] at htells ⊢
  refine ⟨congrArg CPort.dead hself, rfl, rfl, fun o ho => ?_, ?_⟩
  · obtain ⟨ws, hw⟩ := hother o ho
    exact ⟨(congrArg CPort.dead hw).trans rfl, (congrArg CPort.links hw).trans rfl⟩
  · intro left
    have hlen : (u.portsTo n).length = left := congrArg List.length hleft
    rw [← hlen]
    exact ⟨hsuper ▸ htells, hmore, hnone⟩

/-! ## The messages between hubs (R341, R343, R344, R374) -/

section
variable (s : State) (src p : Nat)

/-- A hub that learns B aborts the open epochs but those that are kept, and its recovery begins. -/
theorem hubMessage_recoverFrom (x : FailedUnit) (n : Nat) (keep : List (BitVec 12 × BitVec 16)) :
    ∃ t, exec (.hubMessage src (.recoverFrom x n keep)) s = .next t ∧ (x, n, false) ∈ t.hub.recov ∧
      (s.clk + 1, Instr.recovery x) ∈ t.agenda ∧ t.fd.recovB = n ∧
      ∀ r ∈ t.homes, r.open_ ≠ none → r.aborting = true ∨ (r.asid, r.name) ∈ keep := by
  let v := (s.markFailed x).abortEpochs fun r => !keep.contains (r.asid, r.name)
  have hclk : v.clk = s.clk := ((s.markFailed_hears x).trans (State.abortEpochs_hears _ _).toHears).clk
  refine ⟨s.recoverFrom x n keep, rfl, List.mem_append_right _ (List.mem_singleton_self _), ?_, rfl,
    fun r hr hopen => ?_⟩
  · rw [← hclk]
    exact List.mem_append_right _ (List.mem_singleton_self _)
  · rcases State.abortEpochs_homes (s.markFailed x) (fun r => !keep.contains (r.asid, r.name)) r hr hopen with h | h
    · exact .inl h
    · exact .inr (by simpa using h)

/-- A hub that hears of a failed package aborts the open epochs that it takes part in. -/
theorem hubMessage_failed (h : p ∉ s.hub.failedPkgs) : ∃ t, exec (.hubMessage src (.failed p)) s = .next t ∧
    p ∈ t.hub.failedPkgs ∧ (∀ e ∈ t.topo, e.1 ≠ p ∧ e.2 ≠ p) ∧
    ∀ r ∈ t.homes, r.open_ ≠ none → (∃ q ∈ r.joined, partyPkg q = p) → r.aborting = true := by
  have harena (v : State) : v.Sends (v.arenaFailed p) := by
    unfold State.arenaFailed
    split
    · exact .refl v
    · exact v.again_sends _
  have hend := harena (s.packageFailed p)
  refine ⟨(s.packageFailed p).arenaFailed p, rfl, hend.failed _ (s.packageFailed_noted p),
    fun e he => s.packageFailed_topo p h e (hend.topo e he), ?_⟩
  rw [hend.homes]
  exact s.packageFailed_homes p h

/-- Messages to hubs concern no step. -/
theorem State.foldl_tell_fd (f : State → Nat → HubMsg) (l : List Nat) (v : State) :
    (l.foldl (fun s p => s.tell p (f s p)) v).fd = v.fd := by
  induction l generalizing v with
  | nil => rfl
  | cons y ys ih =>
    obtain ⟨n, ag, out, hframe⟩ := v.tell_frame y (f v y)
    rw [List.foldl_cons, ih, hframe]

/-- The sequencer stops for a recovery, at the step that it would inject next. -/
theorem hubMessage_recover (x : FailedUnit) (h : s.serves = true) : ∃ t, exec (.hubMessage src (.recover x)) s = .next t ∧
    t.fd.stopRecovery = true ∧ t.fd.recovB = s.fd.nextStep := by
  have hmark := s.markFailed_hears x
  have hserves : (s.markFailed x).serves = true := by
    rw [State.serves, hmark.image, hmark.pkg]
    exact h
  refine ⟨s.recoverUnit x, rfl, ?_⟩
  unfold State.recoverUnit
  rw [if_neg (by rw [hserves]; exact Bool.false_ne_true)]
  dsimp only
  rw [State.foldl_tell_fd fun s _ => .recoverFrom x s.fd.nextStep _]
  exact ⟨rfl, hmark.nextStep⟩

/-- What the other messages do that failures bring about. -/
theorem hubMessage_holdInjection (hold : Bool) : ∃ t, exec (.hubMessage src (.holdInjection p hold)) s = .next t ∧
    (p ∈ t.fd.holders ↔ hold = true) := by
  refine ⟨_, rfl, ?_⟩
  cases hold <;> simp

theorem hubMessage_timeRoot (root : Bool) : ∃ t, exec (.hubMessage src (.timeRoot p root)) s = .next t ∧
    (p ∈ t.td.roots ↔ root = true) := by
  refine ⟨_, rfl, ?_⟩
  cases root <;> simp

theorem hubMessage_epochClosed (asid : BitVec 12) (name : BitVec 16) (e : Nat) :
    ∃ t, exec (.hubMessage src (.epochClosed asid name e)) s = .next t ∧ t.mem = s.mem ∧
      t.banks = s.banks ∧ ∀ w ∈ t.wlists, w.asid = asid → w.name = name → w.epoch ≤ e → w.aborting = true := by
  refine ⟨_, rfl, rfl, rfl, fun w hw hasid hname he => ?_⟩
  have hkeep := (List.mem_filter.1 hw).2
  simpa [hasid, hname, Nat.lt_succ_of_le he] using hkeep

end

end Sys2Proof.Machine
end

section
/-! Freewheel: what saving the banks changes, and how its time limit ends it (R337 to R339). -/

namespace Sys2Proof.Machine

/-! ## The context images (R339) -/

/-- From s to t the packages stay, no bank has been activated or has left freewheel, and no image has been dropped. -/
structure State.Saves (s t : State) : Prop where
  image      : t.image = s.image
  pkg        : t.hub.pkg = s.hub.pkg
  failedPkgs : t.hub.failedPkgs = s.hub.failedPkgs
  active     : ∀ b, (t.bank b).active = (s.bank b).active
  freewheel  : ∀ b, (s.bank b).freewheel = true → (t.bank b).freewheel = true
  ctx        : ∀ c ∈ s.hub.ctx, c ∈ t.hub.ctx

namespace State.Saves
variable {s t u : State}

theorem refl (s : State) : s.Saves s := ⟨rfl, rfl, rfl, fun _ => rfl, fun _ h => h, fun _ h => h⟩

theorem trans (h : s.Saves t) (h' : t.Saves u) : s.Saves u :=
  ⟨h'.image.trans h.image, h'.pkg.trans h.pkg, h'.failedPkgs.trans h.failedPkgs, fun b => (h'.active b).trans (h.active b),
    fun b hb => h'.freewheel b (h.freewheel b hb), fun c hc => h'.ctx c (h.ctx c hc)⟩

theorem foldl {α : Type} {f : State → α → State} (l : List α) (s : State) (h : ∀ (s : State) x, s.Saves (f s x)) :
    s.Saves (l.foldl f s) := by
  induction l generalizing s with
  | nil => exact refl s
  | cons x xs ih => exact (h s x).trans (ih (f s x))

/-- A bank changes, but not whether it is active. -/
theorem modBank (s : State) (b : BankIx) {f : Bank → Bank} (ha : ∀ x, (f x).active = x.active)
    (hf : ∀ x, x.freewheel = true → (f x).freewheel = true) : s.Saves (s.modBank b f) := by
  refine ⟨rfl, rfl, rfl, fun c => ?_, fun c hc => ?_, fun _ h => h⟩ <;> rw [State.bank_modBank] <;> split
  · next h => rw [ha, h]
  · rfl
  · next h => exact hf _ (h ▸ hc)
  · exact hc

theorem supervisor (h : s.Saves t) : t.supervisor = s.supervisor := s.supervisor_congr h.image h.pkg h.failedPkgs

end State.Saves

section
variable (s : State) (b : BankIx)

theorem State.eccWord_saves (src : Nat) (k : Option Nat) (a : Word) (e : EccError) : s.Saves (s.eccWord src k a e) := by
  obtain ⟨_, _, _, _, _, _, _, _, _, -, h⟩ := s.eccWord_changes src k a e
  rw [h]
  exact ⟨rfl, rfl, rfl, fun _ => rfl, fun _ h => h, fun _ h => h⟩

theorem State.eccRead_saves (src : Nat) (k : Option Nat) (a : Word) (x n : Nat) : s.Saves (s.eccRead src k a x n) :=
  .foldl _ s fun t _ => t.eccWord_saves ..

theorem State.hubAbort_saves (h : Handle) : s.Saves (s.hubAbort h) := by
  unfold State.hubAbort State.sendReq State.askHome
  dsimp only
  split <;> exact ⟨rfl, rfl, rfl, fun _ => rfl, fun _ h => h, fun _ h => h⟩

theorem State.abortHandles_saves : s.Saves (s.abortHandles b) := by
  refine .foldl _ s fun t k => ?_
  dsimp only
  split
  · exact .refl t
  · exact (t.hubAbort_saves _).trans (.modBank _ b (fun _ => rfl) fun _ h => h)

/-- The reads of a bank's rings. -/
def State.readRings (s : State) (b : BankIx) : State :=
  (s.bank b).inputs.foldl (fun s i => (s.ringSlots b i).foldl (fun s e => s.eccRead 4 none 0 e.2.1 e.2.2) s) s

theorem State.readRings_saves : s.Saves (s.readRings b) :=
  .foldl _ s fun t _ => .foldl _ t fun u _ => u.eccRead_saves ..

/-- The state in which a bank is in freewheel, its handles aborted. -/
def State.enterFreewheel (s : State) (b : BankIx) : State := (s.abortHandles b).modBank b fun x => { x with freewheel := true }

theorem State.enterFreewheel_saves : s.Saves (s.enterFreewheel b) :=
  (s.abortHandles_saves b).trans (.modBank _ b (fun _ => rfl) fun _ _ => rfl)

/-- The image of a bank is kept. -/
def State.addImage (s : State) (b : BankIx) : State :=
  { s with hub := { s.hub with ctx := s.hub.ctx ++ [⟨b, s.contextImage b⟩] } }

theorem State.addImage_saves : s.Saves (s.addImage b) :=
  ⟨rfl, rfl, rfl, fun _ => rfl, fun _ h => h, fun _ h => List.mem_append_left _ h⟩

theorem State.addImage_ctx : ∃ c ∈ (s.addImage b).hub.ctx, c.bank = b :=
  ⟨_, List.mem_append_right _ (List.mem_singleton_self _), rfl⟩

theorem State.saveBank_active (h : (s.bank b).active = true) :
    s.saveBank b = ((s.enterFreewheel b).readRings b).addImage b := by
  unfold State.saveBank
  rw [if_neg (by rw [h]; exact Bool.false_ne_true)]
  rfl

theorem State.saveBank_saves : s.Saves (s.saveBank b) := by
  by_cases h : (s.bank b).active = true
  · rw [s.saveBank_active b h]
    exact ((s.enterFreewheel_saves b).trans (State.readRings_saves _ b)).trans (State.addImage_saves _ b)
  · rw [State.saveBank, if_pos (by rw [(Bool.not_eq_true _).mp h]; rfl)]
    exact .refl s

/-- An active bank is in freewheel once it is saved, with an image of it. -/
theorem State.saveBank_saved (h : (s.bank b).active = true) :
    ((s.saveBank b).bank b).freewheel = true ∧ ∃ c ∈ (s.saveBank b).hub.ctx, c.bank = b := by
  rw [s.saveBank_active b h]
  refine ⟨(State.addImage_saves _ b).freewheel b ((State.readRings_saves _ b).freewheel b ?_), State.addImage_ctx _ b⟩
  rw [State.enterFreewheel, State.bank_modBank_self]

/-- Every active bank of a list is saved. -/
theorem State.foldl_saveBank (l : List BankIx) : s.Saves (l.foldl State.saveBank s) ∧
    ∀ b ∈ l, (s.bank b).active = true →
      ((l.foldl State.saveBank s).bank b).freewheel = true ∧ ∃ c ∈ (l.foldl State.saveBank s).hub.ctx, c.bank = b := by
  induction l generalizing s with
  | nil => exact ⟨.refl s, nofun⟩
  | cons x xs ih =>
    obtain ⟨hsaves, hall⟩ := ih (s.saveBank x)
    have hx := s.saveBank_saves x
    refine ⟨hx.trans hsaves, fun b hb hactive => ?_⟩
    rcases List.mem_cons.1 hb with rfl | hb
    · obtain ⟨hfw, c, hc, hcb⟩ := s.saveBank_saved b hactive
      exact ⟨hsaves.freewheel b hfw, c, hsaves.ctx c hc, hcb⟩
    · exact hall b hb ((hx.active b).trans hactive)

end

/-! ## FREEWHEEL_QUIET (R338) -/

/-- A package that is not the supervisor reports to it. -/
theorem State.fwReport_tells (s : State) (h : s.isSuper = false) : s.fwReport =
    ({ s with hub := { s.hub with fwReady := s.hub.fwReady ++ [s.hub.pkg.toNat] } } : State).emit
      (.hub s.supervisor (.freewheelReady s.hub.pkg.toNat)) := by
  have hne : s.supervisor ≠ s.hub.pkg.toNat := of_decide_eq_false h
  unfold State.fwReport
  rw [if_neg (by rw [h]; exact Bool.false_ne_true)]
  exact if_neg hne

theorem mem_allBanks (b : BankIx) : b ∈ allBanks := by
  rw [allBanks]
  exact List.mem_finRange b

section
variable {s : State} {l : Nat}

/-- What FREEWHEEL_QUIET does when it is due: the package reports, and the second time its banks have been saved. -/
theorem execFreewheelQuiet_first (hq : s.quietDue = true) (hfw : s.hub.fw = .quieting l false) :
    execFreewheelQuiet s = .next s.fwReport := by
  rw [execFreewheelQuiet, if_neg (by rw [hq]; exact Bool.false_ne_true)]
  simp only [hfw]

theorem execFreewheelQuiet_second (hq : s.quietDue = true) (hfw : s.hub.fw = .quieting l true) :
    execFreewheelQuiet s = .next (if (allBanks.foldl State.saveBank s).isSuper = true
      then (allBanks.foldl State.saveBank s).fwReport else (allBanks.foldl State.saveBank s).fwReport.setFw .saved) := by
  rw [execFreewheelQuiet, if_neg (by rw [hq]; exact Bool.false_ne_true)]
  simp only [hfw]

end

/-- Every active bank of the package is in freewheel and has an image. -/
def State.AllSaved (s t : State) : Prop :=
  ∀ b, (s.bank b).active = true → (t.bank b).freewheel = true ∧ ∃ c ∈ t.hub.ctx, c.bank = b

theorem State.allBanks_saved (s : State) :
    s.Saves (allBanks.foldl State.saveBank s) ∧ s.AllSaved (allBanks.foldl State.saveBank s) := by
  obtain ⟨hsaves, hall⟩ := s.foldl_saveBank allBanks
  exact ⟨hsaves, fun b => hall b (mem_allBanks b)⟩

/-- A package whose banks are saved reports to the supervisor. -/
theorem State.Saves.reports {s u : State} (h : s.isSuper = false) (hsaves : s.Saves u) (hall : s.AllSaved u) :
    u.isSuper = false ∧ (u.fwReport.setFw .saved).hub.fw = .saved ∧
      Out.hub s.supervisor (.freewheelReady s.hub.pkg.toNat) ∈ (u.fwReport.setFw .saved).outbox ∧
      s.AllSaved (u.fwReport.setFw .saved) := by
  have hsuper : u.supervisor = s.supervisor := hsaves.supervisor
  have hpkg : u.hub.pkg = s.hub.pkg := hsaves.pkg
  have hu : u.isSuper = false := by
    rw [State.isSuper, hsuper, hpkg]
    exact h
  refine ⟨hu, rfl, ?_, ?_⟩
  · rw [u.fwReport_tells hu, hsuper, hpkg]
    exact List.mem_append_right _ (List.mem_singleton_self _)
  · rw [u.fwReport_tells hu]
    exact hall

/-- A package reports its freewheel to the supervisor, once it is quiet, and once its banks are saved. -/
theorem freewheelQuiet_reports (s : State) (h : s.isSuper = false) :
    (s.quietDue = false → exec .freewheelQuiet s = .next s) ∧
    (∀ l, s.quietDue = true → s.hub.fw = .quieting l false → ∃ t, exec .freewheelQuiet s = .next t ∧
      Out.hub s.supervisor (.freewheelReady s.hub.pkg.toNat) ∈ t.outbox ∧ t.banks = s.banks) ∧
    (∀ l, s.quietDue = true → s.hub.fw = .quieting l true → ∃ t, exec .freewheelQuiet s = .next t ∧ t.hub.fw = .saved ∧
      Out.hub s.supervisor (.freewheelReady s.hub.pkg.toNat) ∈ t.outbox ∧
      ∀ b, (s.bank b).active = true → (t.bank b).freewheel = true ∧ ∃ c ∈ t.hub.ctx, c.bank = b) := by
  have hexec : exec .freewheelQuiet s = execFreewheelQuiet s := rfl
  rw [hexec]
  refine ⟨fun hq => ?_, fun l hq hfw => ⟨s.fwReport, execFreewheelQuiet_first hq hfw, ?_⟩, fun l hq hfw => ?_⟩
  · rw [execFreewheelQuiet, if_pos (by rw [hq]; rfl)]
  · rw [s.fwReport_tells h]
    exact ⟨List.mem_append_right _ (List.mem_singleton_self _), rfl⟩
  · have hquiet := execFreewheelQuiet_second hq hfw
    obtain ⟨hsaves, hall⟩ := s.allBanks_saved
    obtain ⟨hu, hrest⟩ := hsaves.reports h hall
    rw [if_neg (by rw [hu]; exact Bool.false_ne_true)] at hquiet
    exact ⟨_, hquiet, hrest⟩

/-! ## FREEWHEEL_TIME_LIMIT (R337) -/

/-- From s to t a command may have completed: banks, sequencer, freewheel and its images are as before. -/
structure State.Finishes (s t : State) : Prop where
  banks  : t.banks = s.banks
  fd     : t.fd = s.fd
  fw     : t.hub.fw = s.hub.fw
  ctx    : t.hub.ctx = s.hub.ctx
  outbox : ∀ o ∈ s.outbox, o ∈ t.outbox

namespace State.Finishes
variable {s t u : State}

theorem refl (s : State) : s.Finishes s := ⟨rfl, rfl, rfl, rfl, fun _ h => h⟩

theorem trans (h : s.Finishes t) (h' : t.Finishes u) : s.Finishes u :=
  ⟨h'.banks.trans h.banks, h'.fd.trans h.fd, h'.fw.trans h.fw, h'.ctx.trans h.ctx, fun o ho => h'.outbox o (h.outbox o ho)⟩

end State.Finishes

section
variable (s : State)

theorem State.completeCommand_finishes (status result : Nat) (resp : List Byte) :
    s.Finishes (s.completeCommand status result resp) := by
  unfold State.completeCommand
  split
  · exact .refl s
  · split
    · exact ⟨rfl, rfl, rfl, rfl, fun _ h => List.mem_append_left _ h⟩
    · split
      · exact ⟨rfl, rfl, rfl, rfl, fun _ h => h⟩
      · exact ⟨rfl, rfl, rfl, rfl, fun _ h => List.mem_append_left _ h⟩

theorem State.skipUnknown_finishes (n : Nat) : s.Finishes (s.skipUnknown n) := by
  induction n generalizing s with
  | zero => exact .refl s
  | succ n ih =>
    rw [State.skipUnknown]
    split
    · split
      · exact (s.completeCommand_finishes 1 0 []).trans (ih _)
      · exact .refl s
    · exact .refl s

theorem State.finish_finishes (status result : Nat) (resp : List Byte) : s.Finishes (s.finish status result resp) :=
  (s.completeCommand_finishes ..).trans (State.skipUnknown_finishes ..)

end

/-- A freewheel that its time limit ends has saved nothing, and every hub hears of it. -/
theorem freewheelTimeLimit_fails (s : State) : (s.limitPassed = false → exec .freewheelTimeLimit s = .next s) ∧
    (s.limitPassed = true → ∃ t, exec .freewheelTimeLimit s = .next t ∧ t.hub.fw = .failed ∧ t.hub.ctx = [] ∧
      t.fd.stopFreewheel = false ∧ (∀ b, (t.bank b).freewheel = false) ∧
      ∀ p ∈ s.otherPkgs, Out.hub p .freewheelFail ∈ t.outbox) := by
  refine ⟨fun h => if_neg (by rw [h]; exact Bool.false_ne_true), fun h => ⟨_, if_pos h, ?_⟩⟩
  let u := s.failFreewheel.tellAll .freewheelFail
  have hdone : u.Finishes (u.finish 5 0 []) := u.finish_finishes 5 0 []
  have hhub : u.hub = s.failFreewheel.hub := State.tellAll_hub ..
  have hsends : s.failFreewheel.Sends u := State.tellAll_sends ..
  have hbanks : u.banks = s.failFreewheel.banks := by
    show (s.failFreewheel.tellAll .freewheelFail).banks = _
    rw [State.tellAll_eq]
  have hfd : u.fd = s.failFreewheel.fd := by
    show (s.failFreewheel.tellAll .freewheelFail).fd = _
    rw [State.tellAll_eq]
  refine ⟨?_, ?_, ?_, fun b => ?_, fun p hp => hdone.outbox _ (s.failFreewheel.mem_tellAll .freewheelFail hp)⟩
  · rw [hdone.fw, hhub]
    rfl
  · rw [hdone.ctx, hhub]
    rfl
  · rw [hdone.fd, hfd]
    rfl
  · rw [State.bank, hdone.banks, hbanks, State.failFreewheel]
    exact congrArg Bank.freewheel (vmap_getElem ..)

end Sys2Proof.Machine
end

section
/-! O57: failures of cogs, ports and hubs, recovery, freewheel and the messages between hubs (R99, R142, R148, R331, R337 to
R344, R364, R383, R401). -/

namespace Sys2Proof.Machine

/-! ## The image that a recovery leaves (R344) -/

/-- Steps that keep the image keep it one after another. -/
theorem State.foldl_image {α : Type} {f : State → α → State} (l : List α) (s : State)
    (h : ∀ (s : State) x, (f s x).image = s.image) : (l.foldl f s).image = s.image := by
  induction l generalizing s with
  | nil => rfl
  | cons x xs ih => exact (ih (f s x)).trans (h s x)

section
variable (s : State)

theorem State.tell_image (pkg : Nat) (m : HubMsg) : (s.tell pkg m).image = s.image := (s.tell_sends pkg m).image

theorem State.sendPacket_image (k : Packet) : (s.sendPacket k).image = s.image := by
  obtain ⟨_, _, _, h, -⟩ := s.sendPacket_rewaits k
  rw [h]

theorem State.eccRead_image (src : Nat) (b : Option Nat) (a : Word) (x n : Nat) :
    (s.eccRead src b a x n).image = s.image := (s.eccRead_work ..).image

theorem State.dropBanks_image (im : Image) (x : FailedUnit) : (s.dropBanks im x).image = s.image :=
  State.foldl_image _ s fun _ _ => rfl

theorem State.activateStage_image (im : Image) (st src : Stage) : (s.activateStage im st src).image = s.image := by
  unfold State.activateStage
  split
  · rfl
  · refine (State.foldl_image _ _ fun t p => ?_).trans rfl
    split <;> rfl

theorem State.movedPorts_image (im : Image) (x : FailedUnit) (n : Nat) (t : Stage) :
    (s.movedPorts im x n t).image = s.image := by
  unfold State.movedPorts
  split <;> rfl

theorem State.moveStage_image (im new : Image) (x : FailedUnit) (n : Nat) (t : Stage) :
    (s.moveStage im new x n t).image = s.image := by
  unfold State.moveStage
  dsimp only
  split
  · rfl
  · exact (State.movedPorts_image ..).trans (s.activateStage_image ..)

theorem State.liveEnds_image (im : Image) (l : List Stage) (x : FailedUnit) : (s.liveEnds im l x).image = s.image := by
  unfold State.liveEnds
  dsimp only
  refine (State.foldl_image _ _ fun t e => ?_).trans (State.foldl_image _ s fun t b => State.foldl_image _ t fun u i => ?_)
  · split
    · rfl
    · split
      · rfl
      · exact State.tell_image ..
  · split
    · rfl
    · split
      · rfl
      · exact State.tell_image ..

theorem State.takeEdge_image (im : Image) (b : BankIx) (i : Fin 16) (cum freed : BitVec 16) (slot : Nat) :
    (s.takeEdge im b i cum freed slot).image = s.image := State.tell_image ..

theorem State.replayPacket_image (b : BankIx) (i : Fin 16) (n : BitVec 16) (back : Nat) :
    (s.replayPacket b i n back).2.image = s.image := by
  unfold State.replayPacket
  dsimp only
  split
  · rfl
  · next g _ =>
    have hread (a : Nat) : (s.sentPacket a).2.image = s.image :=
      (State.eccRead_image ..).trans (State.eccRead_image ..)
    split <;> exact hread _

theorem State.sendStream_image (pkg : Nat) (k : Packet) : (s.sendStream pkg k).image = s.image := by
  unfold State.sendStream
  split
  · rfl
  · exact s.sendPacket_image k

theorem State.replay_image (b : BankIx) (i : Fin 16) : (s.replay b i).image = s.image := by
  unfold State.replay
  dsimp only
  refine (State.foldl_image _ s fun t j => ?_ : (State.image (List.foldl _ s _)) = s.image)
  exact (State.sendStream_image ..).trans (State.replayPacket_image ..)

theorem State.startSend_image (e : SeqEdge) (w : Word × Word) (l : List Byte) : (s.startSend e w l).image = s.image := by
  unfold State.startSend
  split
  · rfl
  · exact s.sendPacket_image _

theorem State.replayStart_image (e : SeqEdge) : (s.replayStart e).image = s.image :=
  State.foldl_image _ s fun t _ => t.startSend_image ..

theorem State.edgeMsg_image (id : BitVec 32) (port : Fin 16) (cum freed : BitVec 16) (slot : Nat) :
    (s.edgeMsg id port cum freed slot).image = s.image := by
  unfold State.edgeMsg
  split
  · split
    · exact s.takeEdge_image ..
    · exact s.replay_image ..
    · split
      · exact s.replayStart_image _
      · rfl
  · split
    · exact s.replayStart_image _
    · rfl
  · rfl

theorem State.checkRecovered_image : s.checkRecovered.image = s.image := by
  unfold State.checkRecovered
  split
  · rfl
  · exact State.tell_image ..

theorem State.hubWork_open (rs : List (Nat × Nat)) (again : Instr) (go : State → State) (h : s.shut rs = none) :
    s.hubWork rs again go = go s := by
  simp only [State.hubWork, h]

/-- With every region active no work of the hub waits. -/
theorem State.shut_active (h : ∀ (c : CogIx) (k : Fin 9), (s.cog c).regions[k] = .active) (rs : List (Nat × Nat)) :
    s.shut rs = none := by
  have hret (a : Nat) : s.retState a = .active := by
    unfold State.retState
    split
    · rfl
    · split
      · rfl
      · exact h _ _
  exact List.findSome?_eq_none_iff.2 fun r _ => by
    rw [if_neg (not_not_intro (hret _)), if_neg (not_not_intro (hret _))]

end

section
variable {s : State} {im : Image} {x : FailedUnit}

theorem State.foldl_edgeMsg_image (s : State) (l : List (BitVec 32 × Fin 16 × BitVec 16 × BitVec 16 × Nat)) :
    (l.foldl (fun s m => s.edgeMsg m.1 m.2.1 m.2.2.1 m.2.2.2.1 m.2.2.2.2) s).image = s.image :=
  State.foldl_image l s fun t m => t.edgeMsg_image m.1 m.2.1 m.2.2.1 m.2.2.2.1 m.2.2.2.2

theorem State.foldl_moveStage_image (s : State) (im new : Image) (x : FailedUnit) (n : Nat) (l : List Stage) :
    (l.foldl (fun s t => s.moveStage im new x n t) s).image = s.image :=
  State.foldl_image l s fun t y => t.moveStage_image im new x n y

/-- Once everything that the package needs has come, the image has its stages where the unit's have moved. -/
theorem State.moveUnit_image (n : Nat) (hi : s.image = some im) (hheld : s.resentHeld im x = true)
    (hactive : ∀ (c : CogIx) (k : Fin 9), (s.cog c).regions[k] = .active) :
    ∃ j, (s.moveUnit x n).image = some j ∧ j.stages = im.stages.map (im.moved x) := by
  unfold State.moveUnit
  simp only [hi, hheld, Bool.not_true, Bool.false_eq_true, if_false]
  simp only [State.hubWork_open _ _ _ _ (s.shut_active hactive _), State.checkRecovered_image, State.foldl_edgeMsg_image,
    State.liveEnds_image, State.foldl_moveStage_image, State.dropBanks_image, Option.some.injEq, exists_eq_left']

/-- What the image source sends again changes only what waits at its ports. -/
theorem State.resendUnit_rewaits (s : State) (im : Image) (x : FailedUnit) : s.Rewaits (s.resendUnit im x) := by
  unfold State.resendUnit
  dsimp only
  split
  · exact .refl s
  · exact .foldl _ s fun t _ => .foldl _ t fun u _ => u.sendPacket_rewaits _

/-- A recovery moves the unit's stages. -/
theorem recovery_moves (n : Nat) (hfind : s.hub.recov.find? (fun e => e.1 = x && !e.2.2) = some (x, n, false))
    (hi : s.image = some im) : ∃ t, exec (.recovery x) s = .next t ∧
      (s.resentHeld im x = true → (∀ (c : CogIx) (k : Fin 9), (s.cog c).regions[k] = .active) →
        ∃ j, t.image = some j ∧ j.stages = im.stages.map (im.moved x)) := by
  refine ⟨(s.resendUnit im x).moveUnit x n, ?_, fun hheld hactive => ?_⟩
  · show execRecovery x s = _
    unfold execRecovery
    simp only [hfind, hi]
  · obtain ⟨ports, rp, old, hu, -⟩ := s.resendUnit_rewaits im x
    rw [hu]
    exact State.moveUnit_image n hi hheld hactive

end

/-- Settles O57, clause by clause: the failures that are reported and declared (R331, R341), the recovery's stages (R344), the
freewheel (R337 to R339), and the messages between hubs (R374). -/
theorem recovery : Obligations.Recovery := by
  unfold Obligations.Recovery
  refine ⟨cogFailure_reports, portDead_reports, hubSilent_declares, fun s x n im => recovery_moves n, freewheelQuiet_reports,
    freewheelTimeLimit_fails, fun s src p => ?_⟩
  refine ⟨fun m => ?_, fun hp => congrArg Host.Outcome.next (if_neg hp), ⟨_, rfl, rfl⟩, fun r => ?_, fun party refused => ?_,
    fun asid name e => ?_, fun r => ?_, hubMessage_holdInjection s src p, hubMessage_timeRoot s src p,
    hubMessage_recoverFrom s src, hubMessage_failed s src p, hubMessage_epochClosed s src, hubMessage_recover s src⟩
  · cases m <;> exact ⟨_, rfl⟩
  · exact ⟨_, ⟨r, false, []⟩, rfl, s.later_schedule _, rfl, rfl, rfl⟩
  · exact ⟨_, rfl, s.later_schedule _⟩
  · exact ⟨_, rfl, s.later_schedule _⟩
  · exact ⟨_, rfl, List.mem_append_right _ (List.mem_singleton_self _), List.mem_append_right _ (List.mem_singleton_self _)⟩

end Sys2Proof.Machine
end
